-- ==== Sys2Proof/Word.lean ====
section
/-! DEFINITION. The word types of the device and their plainest arithmetic. Multi-byte values are little-endian
(R9), bit 0 is the least significant bit (R8), signed values are two's complement (R10). -/

namespace Sys2Proof

/-- One byte. -/
abbrev Byte := BitVec 8

/-- One 32-bit register word (R514). -/
abbrev Reg32 := BitVec 32

/-- One 64-bit record, queue word or context word. -/
abbrev W64 := BitVec 64

/-- A 128-bit accumulator (R211). -/
abbrev Acc := BitVec 128

/-- One 48-bit engine instruction word (R214, R225). -/
abbrev IWord := BitVec 48

end Sys2Proof
end

