-- ==== Sys2Proof/Syntax.lean ====
section
/-! DEFINITION. The commands of the block: one constructor for each row of spec/opcode_table.json, with the row's
operands. Tiles, channels, engines, queues, lanes and mailbox channels are named by number; instants inside the
present 8 ns slot are given in fine units (R11). -/

namespace Sys2Proof

/-- Who writes a register: the host, the supervisor in or out of its secure mode, or a tile's command list (R510, R473). -/
inductive Src where
  | host
  | supervisor (secure : Bool)
  | tileList
  deriving DecidableEq, Repr

/-- The two destinations of a hit record: the latency buffer and the engine input queue (R22, R157). -/
inductive Dest where
  | lb
  | eq
  deriving DecidableEq, Repr

/-- Operand B of an engine instruction: a register when I is 0, the signed 24-bit immediate when I is 1 (R226). -/
inductive OpB where
  | reg (r : BitVec 5)
  | imm (v : BitVec 24)
  deriving DecidableEq, Repr

/-- One copy of a voted replay in Bracket mode: the even member, the odd member, or engine 8 (R438). -/
inductive LockCopy where
  | even
  | odd
  | spare
  deriving DecidableEq, Repr

/-- The mask register that a mask write names: one of the four chip words or a tile's word (R485). -/
inductive MaskReg where
  | chip (i : Nat)
  | tile (t : Nat)
  deriving DecidableEq, Repr

/-- The comparator decisions of a check: for a tie check each step's configuration (true: swapped), code and number of 1
decisions out of 256 (R124); for a swap check, in the normal and in the swapped configuration, the codes looked at with the
number of 1 decisions at each (R125). -/
inductive CheckOutcome where
  | tie (steps : List (Bool × Nat × Nat))
  | swap (normal swapped : List (Nat × Nat))
  deriving DecidableEq, Repr

/-- A comparator and its signal around an instant: the output before it (R114), and the voltage of the comparator's input
and V(VREFT) with the errors of R115 after it, in nV. A crossing comes of a moving signal or of a moving threshold (R116). -/
structure Swing where
  was : Bool
  signal : Int
  vref : Int
  deriving DecidableEq, Repr

/-- An edge that the handover matcher sees in the interval: its stamp after H - 1 ns in fine units, and its polarity
after the INV setting (R386), and whether the two decodes of Bracket mode disagree (R165). -/
structure HoEdge where
  off : Nat
  rise : Bool
  mismatch : Bool := false
  deriving DecidableEq, Repr

/-- What a collection pass of a proof run measured: crossings per fine bin, the harmonic ratio of R380 in units of
2^-16, whether the ring's untrimmed stage sum lies within 1 % (R380 test 4), and the tile temperature read in the
pass, in 1/16 degree Celsius (R381). -/
structure PassData where
  hist : List Nat
  harm : Nat
  ringOk : Bool
  temp : Int
  deriving DecidableEq, Repr

/-- The HEAD slot of a control frame (R320), with the operation code. -/
structure CtlHead where
  op : BitVec 4
  tag : BitVec 8
  len : BitVec 10
  deriving DecidableEq, Repr

/-- A control frame as its slots arrived, HEAD to END (R320, R321): the fields of HEAD, the DATA words received in order
(the eight tag words last when SEC is 1), the CRC word of END, how many DATA slots of the frame were discarded under R317,
and whether its framing broke (a HEAD before the END, or an unknown KIND, R324). -/
structure CtlFrame where
  tag : BitVec 8
  len : BitVec 10
  sec : Bool
  rsv : BitVec 5
  addr : BitVec 24
  data : List Reg32
  crc : Reg32
  discarded : Nat
  broken : Bool
  deriving DecidableEq, Repr

/-- A command of the block. -/
inductive Instr where
  /-- `POR_ASSERT` (R494). A supply leaves its operating range, so POR is asserted, the outputs are held in their reset condition and all accepted work is lost. -/
  | porAssert
  /-- `POR_END` (R495). All supplies are in range and POR ends, so BOOTSEL is latched, time and epoch start at 0 and the boot sequence starts. -/
  | porEnd (bootsel : BitVec 2) (flash : List Byte)
  /-- `RESET_N_LOW` (R497). RESET_N is held low long enough to reset the whole device, and the snapshot freeze latch clears. -/
  | resetNLow
  /-- `RESET_N_RELEASE` (R495). RESET_N is released, so BOOTSEL is latched and the boot sequence starts. -/
  | resetNRelease (bootsel : BitVec 2) (flash : List Byte)
  /-- `BOOT_COMPLETE` (R495). Boot reaches Safelight state and raises the image-loaded and power-state events. -/
  | bootComplete
  /-- `SECOND_BOUNDARY` (R48). At each second boundary of device time, every capture destination of every enabled channel receives a seconds marker. -/
  | secondBoundary
  /-- `EPOCH_OPEN` (R45). A new epoch opens at the slot boundary after its first recognised cause: device time takes the value of the cause with precedence, running profiles end and markers are committed. -/
  | epochOpen
  /-- `REPLICA_CHECK` (R75). At each 1.024 µs boundary the master broadcasts time and every tile compares its replica counter with it. -/
  | replicaCheck
  /-- `REPLICA_RELOAD` (R76). A tile whose replica differs from the broadcast loads the broadcast value at the next slot boundary, flags CS and raises the replica-mismatch event. -/
  | replicaReload (t : Nat)
  /-- `REPLICA_PAIR_MISMATCH` (R77). In Bracket mode the two replica counters of a tile disagree, so hits are flagged CS and both counters reload at the next 1.024 µs boundary. -/
  | replicaPairMismatch (t : Nat)
  /-- `LOCK_COMPLETE` (R55). COUNT consecutive reference edges fall in the lock window, so the timebase enters LOCKED and starts any pending automatic profile. -/
  | lockComplete
  /-- `UNLOCK_DECLARED` (R60). The fourth consecutive reference edge outside the window declares unlock, so the timebase enters HOLDOVER and CS applies from 32 ns earlier. -/
  | unlockDeclared
  /-- `LOSC_MISSING` (R62). With LOSC_EN 1 and no clock on LOSC_IN, LOSC_OK reads 0 and the LOSC-missing event is raised. -/
  | loscMissing
  /-- `REFERENCE_PRESENT` (R63). 256 consistent reference edges in HOLDOVER give RETURN with error e, and RELOCK or WAIT_REALIGN follows. -/
  | referencePresent (err : Int)
  /-- `REFERENCE_REMEASURED` (R67). In WAIT_REALIGN a new consistent error is measured, so the timebase either enters RELOCK or restarts the 1 ms wait. -/
  | referenceRemeasured (err : Int)
  /-- `REALIGN` (R65). 1 ms after the phase-jump event, at the next second boundary, the ramp offset is zeroed, device time is set and an epoch opens with cause bit 2. -/
  | realign
  /-- `RAMP_PROFILE_START` (R69). A host or automatic profile starts at its 1.024 µs boundary with segment 0, and ST is set. -/
  | rampProfileStart
  /-- `RAMP_SEGMENT_END` (R69). A segment's duration expires, so the next segment starts or the profile ends, leaving the offset reached. -/
  | rampSegmentEnd
  /-- `RAMP_PHASE_STEP` (R68). The ramp accumulator passes a whole fine unit and the timing-clock phase moves by one fine unit. -/
  | rampPhaseStep
  /-- `RAMP_AUTO_REPLACE` (R72). An automatic profile replaces a running profile at the next 1.024 µs boundary, with its offset recomputed. -/
  | rampAutoReplace
  /-- `RAMP_START` (R72). TB_RAMP_CTRL.START requests a host profile, which is checked against STEER_MAX and any running profile. -/
  | rampStart (last : BitVec 4)
  /-- `RAMP_ABORT` (R83). TB_RAMP_CTRL.ABORT ends a running host profile at the next 1.024 µs boundary. -/
  | rampAbort
  /-- `TB_LATCH` (R79). TB_CTRL.LATCH latches device time, epoch, CS and ST at the next slot boundary. -/
  | tbLatch
  /-- `TB_SET` (R79). TB_CTRL.SET loads TB_SET_S and TB_SET_NS at the next slot boundary and opens an epoch with cause bit 4. -/
  | tbSet
  /-- `TT_SYNC` (R86). A SYNC time-transfer slot stamps t2, opens an exchange and is answered by a reply frame. -/
  | ttSync (bits : BitVec 52) (sub : BitVec 13) (bad : Bool)
  /-- `FOLLOW_UP_S` (R86). A FOLLOW_UP_S slot supplies the seconds of t1 for an open exchange. -/
  | followUpS (bits : BitVec 52) (bad : Bool)
  /-- `FOLLOW_UP_NF` (R86). A FOLLOW_UP_NF slot supplies the nanoseconds and fine of t1, or discards the exchange with reason 7. -/
  | followUpNf (bits : BitVec 52) (bad : Bool)
  /-- `DELAY_RESP_S` (R86). A DELAY_RESP_S slot supplies the seconds of t4 for an open exchange. -/
  | delayRespS (bits : BitVec 52) (bad : Bool)
  /-- `DELAY_RESP_NF` (R86). A DELAY_RESP_NF slot supplies t4 or NONE, which completes or discards the exchange. -/
  | delayRespNf (bits : BitVec 52) (bad : Bool)
  /-- `TT_UNKNOWN_SLOT` (R92). A time-transfer slot with an unknown message type is counted and otherwise ignored. -/
  | ttUnknownSlot (msg : BitVec 4) (bits : BitVec 52) (bad : Bool)
  /-- `TT_REPLY_SEND` (R94). The reply frame with t2, t3 and the last offset and round trip is sent on the time-transfer stream. -/
  | ttReplySend (sub : BitVec 13)
  /-- `EXCHANGE_TIMEOUT` (R89). An exchange is not complete within two exchange periods of t2 and is discarded with reason 1. -/
  | exchangeTimeout (id : BitVec 8)
  /-- `TIME_STEP` (R99). A confirmed step subtracts S from device time at the next slot boundary, opens an epoch and requests a residual profile. -/
  | timeStep
  /-- `QUALITY_STALE` (R107). No exchange completes in 16 exchange periods, so the time quality becomes STALE. -/
  | qualityStale
  /-- `TT_ASYM_WRITE` (R105). A write of TT_ASYM sets the asymmetry and ends a path hold with a new block and a new reference round trip. -/
  | ttAsymWrite (w : BitVec 32)
  /-- `ACCEPT_SYM` (R105). TT_CTRL.ACCEPT_SYM ends a path hold and keeps TT_ASYM. -/
  | acceptSym
  /-- `EDGE` (R22). A comparator crossing at an enabled channel takes a capture-FIFO entry, is interpolated and stamped, and feeds the prompt logic. -/
  | edge (t c : Nat) (v : Swing) (sub : BitVec 13) (mismatch : Bool)
  /-- `HIT_COMMIT` (R154). After the 32 ns hold, a hit record is committed to a destination queue, or refused there when the queue is full, disabled or pinned. -/
  | hitCommit (t c : Nat) (d : Dest)
  /-- `COMMIT_LATE_REFUSE` (R155). A record still not committed at stamp plus 112 ns is refused at that destination and counted in LATE. -/
  | commitLateRefuse (t c : Nat) (d : Dest)
  /-- `CH_CFG_WRITE` (R119). A write of CH_CFG changes EN, INV or TIE, each taking effect at the next slot boundary, subject to the refusals of R122. -/
  | chCfgWrite (t c : Nat) (w : BitVec 32)
  /-- `CH_THR_WRITE` (R116). A write of CH_THR takes effect at the next slot boundary, or at the end of a running check. -/
  | chThrWrite (t c : Nat) (w : BitVec 32)
  /-- `CHECK_START` (R123). CH_CHECK.START starts a tie or swap check on a disabled channel, or refuses it with a reason code. -/
  | checkStart (t c : Nat) (kind : Bool) (margin : BitVec 8)
  /-- `CHECK_COMPLETE` (R124). A tie or swap check completes: the result is stored, and on failure the check-failed event is raised. -/
  | checkComplete (t c : Nat) (o : CheckOutcome)
  /-- `TC_XBAR_WRITE` (R130). A write of TC_XBAR.SEL opens or closes the spare's tap at the next slot boundary, unless it is refused. -/
  | tcXbarWrite (t : Nat) (w : BitVec 32)
  /-- `CAPTURE_CLR` (R167). CH_CAPSTAT.CLR sets CH_REFUSE to zero. -/
  | captureClr (t c : Nat)
  /-- `LM_SAMPLE` (R135). At the end of a dwell the level monitor samples its source and may change the reported state, the latch, the record and the wake request. -/
  | lmSample (t : Nat) (nv errLo errHi : Int)
  /-- `TILE_WAKE` (R492). A gated tile in Dark state is powered: kept level records are committed, mailbox messages are taken and the tile-wake event is raised. -/
  | tileWake (t : Nat)
  /-- `NOP` (R227). The engine does nothing for one cycle. -/
  | nop (t e : Nat)
  /-- `ADD` (R227). rd := ra + B. -/
  | add (t e : Nat) (rd ra : BitVec 5) (b : OpB)
  /-- `SUB` (R227). rd := ra − B. -/
  | sub (t e : Nat) (rd ra : BitVec 5) (b : OpB)
  /-- `AND` (R227). rd := ra and B. -/
  | and (t e : Nat) (rd ra : BitVec 5) (b : OpB)
  /-- `OR` (R227). rd := ra or B. -/
  | or (t e : Nat) (rd ra : BitVec 5) (b : OpB)
  /-- `XOR` (R227). rd := ra xor B. -/
  | xor (t e : Nat) (rd ra : BitVec 5) (b : OpB)
  /-- `SHL` (R227). Logical left shift. -/
  | shl (t e : Nat) (rd ra : BitVec 5) (b : OpB)
  /-- `SHR` (R227). Logical right shift with zero fill. -/
  | shr (t e : Nat) (rd ra : BitVec 5) (b : OpB)
  /-- `SAR` (R227). Arithmetic right shift with sign fill. -/
  | sar (t e : Nat) (rd ra : BitVec 5) (b : OpB)
  /-- `MIN` (R227). Signed minimum of ra and B. -/
  | min (t e : Nat) (rd ra : BitVec 5) (b : OpB)
  /-- `MAX` (R227). Signed maximum of ra and B. -/
  | max (t e : Nat) (rd ra : BitVec 5) (b : OpB)
  /-- `MUL` (R227). Low 64 bits of the product. -/
  | mul (t e : Nat) (rd ra : BitVec 5) (b : OpB)
  /-- `EXT` (R227). Extracts a bit field. -/
  | ext (t e : Nat) (rd ra : BitVec 5) (imm : BitVec 24)
  /-- `INS` (R227). Inserts a 24-bit immediate field. -/
  | ins (t e : Nat) (rd ra k : BitVec 5) (imm : BitVec 24)
  /-- `DIVU` (R229). Unsigned division with the defined result for division by zero. -/
  | divu (t e : Nat) (rd ra : BitVec 5) (b : OpB)
  /-- `DIVS` (R229). Signed division toward zero with the defined results for division by zero and overflow. -/
  | divs (t e : Nat) (rd ra : BitVec 5) (b : OpB)
  /-- `REMU` (R229). Unsigned remainder. -/
  | remu (t e : Nat) (rd ra : BitVec 5) (b : OpB)
  /-- `MACS` (R227). Signed multiply-accumulate into a 128-bit accumulator. -/
  | macs (t e : Nat) (ad : BitVec 2) (ra : BitVec 5) (b : OpB)
  /-- `MACU` (R227). Unsigned multiply-accumulate. -/
  | macu (t e : Nat) (ad : BitVec 2) (ra : BitVec 5) (b : OpB)
  /-- `ACLR` (R227). Clears an accumulator. -/
  | aclr (t e : Nat) (ad : BitVec 2)
  /-- `AADD` (R227). Adds a sign-extended register to an accumulator. -/
  | aadd (t e : Nat) (ad : BitVec 2) (ra : BitVec 5)
  /-- `AADDA` (R227). Adds one accumulator to another. -/
  | aadda (t e : Nat) (ad aa : BitVec 2)
  /-- `ASUBA` (R227). Subtracts one accumulator from another. -/
  | asuba (t e : Nat) (ad aa : BitVec 2)
  /-- `ASHL` (R227). Left-shifts an accumulator. -/
  | ashl (t e : Nat) (ad aa : BitVec 2) (b : OpB)
  /-- `ASAR` (R227). Arithmetic right shift of an accumulator. -/
  | asar (t e : Nat) (ad aa : BitVec 2) (b : OpB)
  /-- `AGETL` (R227). Reads the low half of an accumulator. -/
  | agetl (t e : Nat) (rd : BitVec 5) (aa : BitVec 2)
  /-- `AGETH` (R227). Reads the high half of an accumulator. -/
  | ageth (t e : Nat) (rd : BitVec 5) (aa : BitVec 2)
  /-- `ASET` (R227). Sets an accumulator from two registers. -/
  | aset (t e : Nat) (ad : BitVec 2) (ra : BitVec 5) (b : OpB)
  /-- `ADIV` (R227). Floor division of an accumulator by B. -/
  | adiv (t e : Nat) (rd : BitVec 5) (aa : BitVec 2) (b : OpB)
  /-- `ADIVR` (R227). Rounded division of an accumulator by B. -/
  | adivr (t e : Nat) (rd : BitVec 5) (aa : BitVec 2) (b : OpB)
  /-- `ASQRT` (R227). Floor square root of an accumulator. -/
  | asqrt (t e : Nat) (rd : BitVec 5) (aa : BitVec 2)
  /-- `SEQ` (R227). Sets rd to 1 on equality. -/
  | seq (t e : Nat) (rd ra : BitVec 5) (b : OpB)
  /-- `SLT` (R227). Signed less-than test. -/
  | slt (t e : Nat) (rd ra : BitVec 5) (b : OpB)
  /-- `SLTU` (R227). Unsigned less-than test. -/
  | sltu (t e : Nat) (rd ra : BitVec 5) (b : OpB)
  /-- `BEQ` (R227). Branches if ra equals rb. -/
  | beq (t e : Nat) (ra rb : BitVec 5) (imm : BitVec 24)
  /-- `BNE` (R227). Branches if ra differs from rb. -/
  | bne (t e : Nat) (ra rb : BitVec 5) (imm : BitVec 24)
  /-- `BLT` (R227). Branches if ra is signed-less than rb. -/
  | blt (t e : Nat) (ra rb : BitVec 5) (imm : BitVec 24)
  /-- `BGE` (R227). Branches if ra is signed-greater-or-equal to rb. -/
  | bge (t e : Nat) (ra rb : BitVec 5) (imm : BitVec 24)
  /-- `BLTU` (R227). Branches if ra is unsigned-less than rb. -/
  | bltu (t e : Nat) (ra rb : BitVec 5) (imm : BitVec 24)
  /-- `BGEU` (R227). Branches if ra is unsigned-greater-or-equal to rb. -/
  | bgeu (t e : Nat) (ra rb : BitVec 5) (imm : BitVec 24)
  /-- `BEQI` (R227). Branches if ra equals the constant RB. -/
  | beqi (t e : Nat) (ra k : BitVec 5) (imm : BitVec 24)
  /-- `BNEI` (R227). Branches if ra differs from the constant RB. -/
  | bnei (t e : Nat) (ra k : BitVec 5) (imm : BitVec 24)
  /-- `BBS` (R227). Branches if bit RB of ra is set. -/
  | bbs (t e : Nat) (ra k : BitVec 5) (imm : BitVec 24)
  /-- `BBC` (R227). Branches if bit RB of ra is clear. -/
  | bbc (t e : Nat) (ra k : BitVec 5) (imm : BitVec 24)
  /-- `JMP` (R227). Relative jump. -/
  | jmp (t e : Nat) (imm : BitVec 24)
  /-- `JAL` (R227). Jump and link. -/
  | jal (t e : Nat) (rd : BitVec 5) (imm : BitVec 24)
  /-- `JR` (R227). Jump to a register address. -/
  | jr (t e : Nat) (ra : BitVec 5)
  /-- `LD` (R216). Loads a context-store word of the engine's live contexts. -/
  | ld (t e : Nat) (rd ra : BitVec 5) (imm : BitVec 24)
  /-- `ST` (R216). Stores a context-store word; a store to a descriptor or outside the engine's live contexts is a program fault. -/
  | st (t e : Nat) (ra rb : BitVec 5) (imm : BitVec 24)
  /-- `LDA` (R227). Loads an accumulator from two context words. -/
  | lda (t e : Nat) (ad : BitVec 2) (ra : BitVec 5) (imm : BitVec 24)
  /-- `STA` (R227). Stores an accumulator into two context words. -/
  | sta (t e : Nat) (ra : BitVec 5) (ab : BitVec 2) (imm : BitVec 24)
  /-- `GNEXT` (R227). Reads and increments the context's next GSEQ. -/
  | gnext (t e : Nat) (rd : BitVec 5)
  /-- `GSTAT` (R228). Reads and clears the ST and CS conditions seen since the last GSTAT. -/
  | gstat (t e : Nat) (rd : BitVec 5)
  /-- `WAIT` (R227). Takes the context's next item, branching on a hit and possibly ending the slice. -/
  | wait (t e : Nat) (imm : BitVec 24)
  /-- `CHECKPOINT` (R227). Ends the slice and takes a checkpoint there. -/
  | checkpoint (t e : Nat)
  /-- `EMIT` (R230). Appends a word to the open packet of an OUT_Q, opening the packet if needed. -/
  | emit (t e : Nat) (ra : BitVec 5) (b : OpB)
  /-- `EMITH` (R230). Appends a result header with the engine field replaced by the assigned engine. -/
  | emith (t e : Nat) (ra : BitVec 5) (b : OpB)
  /-- `COMMIT` (R254). Commits the open packet, subject to de-duplication and doom. -/
  | commit (t e : Nat) (b : OpB)
  /-- `REWIND` (R254). Rewinds the open packet to the rewind mark. -/
  | rewind (t e : Nat) (b : OpB)
  /-- `TMSET` (R227). Arms the context's timer. -/
  | tmset (t e : Nat) (ra : BitVec 5) (b : OpB)
  /-- `TMCLR` (R227). Disarms the context's timer. -/
  | tmclr (t e : Nat)
  /-- `SLICE_CYCLE_LIMIT` (R231). 65,536 cycles pass in one slice without WAIT or CHECKPOINT, which is a program fault with cause 6. -/
  | sliceCycleLimit (t e : Nat)
  /-- `ITEM_RELEASE` (R219). The commit frontier passes an item's instant, so the dispatcher releases it for its context. -/
  | itemRelease (t e : Nat)
  /-- `SLICE_SWITCH` (R220). A slice ends and the engine switches to the context with the least next key. -/
  | sliceSwitch (t e : Nat)
  /-- `TIME_GATE_BOUNDARY` (R181). A time-gate grid boundary is reached and a kind 1 item is delivered to each time-gate context. -/
  | timeGateBoundary (t e : Nat)
  /-- `CONTEXT_TIMER` (R217). A context's armed timer instant is reached and a timer item is queued. -/
  | contextTimer (t c : Nat)
  /-- `TRIGGER_SLICE_COPY` (R222). After TACC the tile read-out unit copies a trigger slice into INQ, shrunk or held as R223 requires. -/
  | triggerSliceCopy (t c : Nat)
  /-- `ENGINE_EPOCH_MARKERS` (R224). Once every context has taken kind 3 and waited, the engine commits epoch-change and seconds markers to its OUT_Qs. -/
  | engineEpochMarkers (t e : Nat)
  /-- `CHECKPOINT_TAKE` (R234). At an eligible slice boundary after the interval, half-full INQ, CHECKPOINT or CKPT_NOW, live blocks and dispatcher state are copied to shadows. -/
  | checkpointTake (t e : Nat)
  /-- `RESTART` (R238). ENG_CTRL.RESTART restores the engine from its checkpoint and replays. -/
  | restart (t e : Nat)
  /-- `CKPT_NOW` (R243). ENG_CTRL.CKPT_NOW requests a checkpoint at the next eligible slice boundary. -/
  | ckptNow (t e : Nat)
  /-- `PEAK_CLR` (R243). ENG_CTRL.PEAK_CLR sets PEAK to LOAD. -/
  | peakClr (t e : Nat)
  /-- `REPLAY_END` (R236). The dispatcher passes the last item delivered before the restore, so replay ends and the engine returns to running. -/
  | replayEnd (t e : Nat)
  /-- `ENGINE_FAULT_DETECT` (R434). A concurrent check fails on a Burst-mode engine, which stops, rewinds and is restarted or failed over. -/
  | engineFaultDetect (t e : Nat)
  /-- `ENGINE_STALL_WATCHDOG` (R434). An engine retires no instruction for 16 µs with an item released, and is declared faulty. -/
  | engineStallWatchdog (t e : Nat)
  /-- `FAILOVER` (R435). A failed engine's configuration and contexts move to engine 8, which restores and replays, or the contexts stop when the spare is busy. -/
  | failover (t e : Nat)
  /-- `LOCKSTEP_MISMATCH` (R438). A Bracket pair disagrees, so both members restore with engine 8 as a third voting copy when it is free. -/
  | lockstepMismatch (t p : Nat) (who : LockCopy)
  /-- `DEP_ENG_RET` (R440). The host asks to return a failed engine to service, which starts its 200 µs self-test. -/
  | depEngRet (t e : Nat)
  /-- `ENGINE_SELF_TEST_DONE` (R440). The self-test ends: a passing engine takes over at engine 8's next checkpoint, a failing one stays failed. -/
  | engineSelfTestDone (t e : Nat) (pass : Bool)
  /-- `FLUSH` (R268). TQ_STAT.FLUSH empties the committed packets of a queue and dooms its open packet, or is refused with FLREF. -/
  | flush (t q : Nat)
  /-- `QUEUE_CLR` (R274). TQ_STAT.CLR sets the queue's counters to zero. -/
  | queueClr (t q : Nat)
  /-- `LB_EXPIRY` (R261). The record at RP of the latency buffer exceeds 8,192 slots of age and expires, unless a read mark pins it. -/
  | lbExpiry (t : Nat)
  /-- `FCO_DEASSERT` (R272). At the later of the 64 ns minimum assertion and the deassertion latency, a flow-control output pin falls. -/
  | fcoDeassert (k : Nat)
  /-- `STREAM_READ_PACKET` (R259). The spine stream reader claims one whole committed packet from a DRAIN queue into a result frame, adding a poison record when needed. -/
  | streamReadPacket (t : Nat) (packed : Bool)
  /-- `TRIGGER` (R286). A trigger command arrives: the window is resolved, read marks are placed and arrival checks may refuse it with TREF. -/
  | trigger (bits : BitVec 56) (bad : Bool)
  /-- `TRIGGER_DECIDE` (R289). At a trigger's scheduled decision the event builder reserves event memory and answers TACC, or refuses with TREF. -/
  | triggerDecide
  /-- `FRAGMENT_COPY` (R294). A topology tile copies its fragment into event memory and releases its read mark. -/
  | fragmentCopy (t : Nat) (words : Nat)
  /-- `FRAGMENT_DEADLINE` (R295). 8 µs after TACC an unfinished fragment is reported not complete, filled with filler records and its mark released. -/
  | fragmentDeadline (t : Nat)
  /-- `EVENT_SEND` (R298). The event builder sends an accepted event in link frames on the event stream in TACC order. -/
  | eventSend
  /-- `PROMPT_WORD` (R306). Each slot, every prompt pair sends its 16-bit word of voted tile and chip terms. -/
  | promptWord
  /-- `PR_CTRL_WRITE` (R308). A write of PR_CTRL changes PAIR_EN and TRAIN at the next slot boundary. -/
  | prCtrlWrite (w : BitVec 32)
  /-- `DN_CLOCK_RECOVERED` (R314). The downlink receiver recovers clock and leaves NO_SIGNAL for CDR. -/
  | dnClockRecovered
  /-- `DN_COMMA_LOCK` (R314). Four K28.5 at one alignment take the receiver to CHAR. -/
  | dnCommaLock
  /-- `DN_SLOT_LOCK` (R314). 16 good slots take the receiver to SLOT. -/
  | dnSlotLock
  /-- `DN_SLOT_LOST` (R314). Missing slot K-characters or too many code errors return the receiver to CHAR and raise downlink-slot-lost. -/
  | dnSlotLost
  /-- `DN_SIGNAL_LOST` (R314). No transition for 100 ns returns the receiver to NO_SIGNAL. -/
  | dnSignalLost
  /-- `IDLE_SLOT` (R316). An idle and alignment slot is received, checked for code errors and otherwise ignored. -/
  | idleSlot (bits : BitVec 56) (bad : Bool)
  /-- `SNAPSHOT` (R445). The SNAPSHOT fast command requests a freeze. -/
  | snapshot (bits : BitVec 52) (bad : Bool)
  /-- `BLOCK_CLOSE` (R340). Every open result frame closes, and every result stream with a DRAIN queue receives a block-close frame. -/
  | blockClose (bits : BitVec 52) (bad : Bool)
  /-- `SYNC` (R319). The SYNC fast command places a sync record on the control-response stream after earlier responses. -/
  | sync (bits : BitVec 52) (bad : Bool)
  /-- `ACK` (R345). LINK ACK acknowledges a lane's frames up to LSEQ and frees replay memory. -/
  | ack (bits : BitVec 48) (bad : Bool)
  /-- `NAK` (R346). LINK NAK makes the lane resend its unacknowledged frames from LSEQ. -/
  | nak (bits : BitVec 48) (bad : Bool)
  /-- `LANE_UP` (R329). LINK LANE_UP makes a training lane send IDLE, then resends and frames. -/
  | laneUp (bits : BitVec 48) (bad : Bool)
  /-- `PAUSE` (R350). LINK PAUSE pauses an event or result stream for DUR microseconds. -/
  | pause (bits : BitVec 48) (bad : Bool)
  /-- `RESUME` (R350). LINK RESUME ends a stream pause. -/
  | resume (bits : BitVec 48) (bad : Bool)
  /-- `RETRAIN` (R329). LINK RETRAIN sends a lane or lane pair back to TRAIN. -/
  | retrain (bits : BitVec 48) (bad : Bool)
  /-- `UNKNOWN_LINK_OPERATION` (R318). A LINK fast command whose OP the table does not list is refused and counted in LK_DN_ERR.REFUSED, with no other effect. -/
  | unknownLinkOperation (op : BitVec 4) (bits : BitVec 48) (bad : Bool)
  /-- `WRITE` (R322). A WRITE control frame writes LEN registers in order and is answered with a response. -/
  | write (f : CtlFrame)
  /-- `READ` (R322). A READ control frame reads LEN registers, sampled under R519, and returns them in its response. -/
  | read (f : CtlFrame)
  /-- `IMAGE` (R410). An IMAGE control frame writes bit-stream words into the destination that CFG_CTRL.DEST names. -/
  | image (f : CtlFrame)
  /-- `UNKNOWN_OP_CONTROL_FRAME` (R322). A control frame whose OP is not WRITE, READ or IMAGE is taken whole and answered with status 4 (or status 0 for LEN 0), applying nothing. -/
  | unknownOpControlFrame (op : BitVec 4) (f : CtlFrame)
  /-- `CONTROL_FRAME_TIMEOUT` (R324). A control frame with no END within 64 µs of its HEAD is answered with status 2. -/
  | controlFrameTimeout (h : CtlHead)
  /-- `ORPHAN_CONTROL_SLOT` (R325). A DATA, END or unknown-KIND control slot without an open frame is discarded and counted. -/
  | orphanControlSlot (bits : BitVec 56) (bad : Bool)
  /-- `FRAME_TRANSMIT` (R335). A ready link frame starts transmission on a free UP lane, or on a pair, following the tier order of R334. -/
  | frameTransmit (l : Nat)
  /-- `RESULT_FRAME_CLOSE` (R338). An open result frame closes when it is full, when FCLOSE expires or when its stream pauses. -/
  | resultFrameClose (idx : Nat)
  /-- `LINK_PLL_LOCK` (R329). The link PLL locks and every enabled lane sends TRAIN. -/
  | linkPllLock
  /-- `LINK_PLL_LOSS` (R354). The link PLL loses lock, so every lane stops, LINKDOWN is set and queues absorb data. -/
  | linkPllLoss
  /-- `LANE_DEGRADED` (R336). One lane of a Bracket pair leaves UP, so the pair runs solo and the lane-degraded event is raised. -/
  | laneDegraded (l : Nat)
  /-- `LRESET` (R355). LK_CTRL.LRESET resets the downlink receiver and every lane, keeping replay memory and sequence numbers. -/
  | lreset (h : Option CtlHead)
  /-- `LK_RETRAIN` (R359). LK_CTRL.RETRAIN sends every used lane to TRAIN. -/
  | lkRetrain
  /-- `FCI_CHANGE` (R349). A flow-control input changes level and pauses or releases its mapped streams. -/
  | fciChange (k : Nat) (level : Bool)
  /-- `FCI_HOLD_EXPIRY` (R351). A mapping FCI pin stays high past HOLD, which is a host stall. -/
  | fciHoldExpiry (k : Nat)
  /-- `PAUSE_EXPIRY` (R350). DUR of a PAUSE expires, so the stream stays paused and a stall is in force. -/
  | pauseExpiry (cls idx : Nat)
  /-- `ACK_TIMEOUT` (R351). A transmitted frame stays unacknowledged for 50 µs, so a stall starts and triggers are refused. -/
  | ackTimeout (l : Nat)
  /-- `STALL_END` (R351). No stall condition holds any longer, so STALL clears. -/
  | stallEnd
  /-- `TRACK_TICK` (R374). Every tracking period the supervisor reads tile temperatures and computes a new DAC target for every trim. -/
  | trackTick (temps : List (Option Int))
  /-- `DAC_STEP` (R375). Every 1 µs each live trim DAC steps one code toward its target. -/
  | dacStep
  /-- `CAL_START` (R377). CAL_CTRL.START starts a proof run on a channel, or refuses it with a reason code. -/
  | calStart (w : BitVec 18)
  /-- `CAL_ABORT` (R382). CAL_CTRL.ABORT stops the proof run with reason 8 and runs its handback. -/
  | calAbort
  /-- `PROOF_PASS_END` (R378). A collection pass ends, so the trims are adjusted toward equal bins or evaluation starts. -/
  | proofPassEnd (d : PassData)
  /-- `PROOF_PASS_TIMEOUT` (R379). CAL_TIMEOUT expires on a live pass, which ends with the crossings it has. -/
  | proofPassTimeout (d : PassData)
  /-- `PROOF_STORE_DONE` (R370). The ageing copy write completes, the new codes come into force and the handback starts. -/
  | proofStoreDone (ok : Bool)
  /-- `HO_START` (R384). TC_HO_CTRL.START requests a handover of an input to or from the spare, or refuses it. -/
  | hoStart (t : Nat) (input : BitVec 4) (dir : Bool) (ovl : BitVec 16)
  /-- `HO_ABORT` (R390). TC_HO_CTRL.ABORT aborts a handover before H. -/
  | hoAbort (t : Nat)
  /-- `HANDOVER_OPEN` (R385). At slot boundary P the tap closes or the incoming channel is opened to the matcher, and the overlap window starts. -/
  | handoverOpen (t : Nat)
  /-- `HANDOVER_INSTANT` (R386). At H the matcher pairs edges in H ± 1 ns, emits one edge per crossing and commits the handover marker. -/
  | handoverInstant (t : Nat) (out inc : List HoEdge) (diff : Int)
  /-- `TAP_RELEASE` (R389). For DIR 1 the tap opens and SEL returns to 31 at the first slot boundary after H + 1 ns. -/
  | tapRelease (t : Nat)
  /-- `CONTACT_SHEET_REFRESH` (R483). Every CS_CFG.PERIOD the supervisor refreshes the contact sheet and sets or clears DEAD and NOISY. -/
  | contactSheetRefresh
  /-- `DMM_INTERVAL` (R441). A fixed 1.024 ms decode-mismatch interval ends and the count restarts at 0. -/
  | dmmInterval
  /-- `SLOT_CLOSE` (R411). CFG_CTRL.SLOT_CLOSE checks the written slot image and completes or abandons the slot write. -/
  | slotClose
  /-- `SLOT_EMPTY` (R412). CFG_CTRL.SLOT_EMPTY writes the target slot as a valid empty slot. -/
  | slotEmpty
  /-- `RELOAD` (R413). CFG_CTRL.RELOAD replaces the configuration from the slots or the boot buffer when R414 allows it. -/
  | reload
  /-- `RELOAD_DONE` (R415). The reload completes in Safelight state and raises image-loaded, or keeps the old configuration. -/
  | reloadDone
  /-- `PREPARE` (R417). CFG_CTRL.PREPARE checks the staged latent update and sends its records to the target tiles. -/
  | prepare
  /-- `PREPARE_DONE` (R417). Preparation ends with LU_STATE prepared or failed. -/
  | prepareDone
  /-- `FIX` (R418). CFG_CTRL.FIX arms a prepared update for instant F, or refuses with reason 11. -/
  | fix
  /-- `CANCEL` (R424). CFG_CTRL.CANCEL drops an undecided update with reason 17. -/
  | cancel
  /-- `FIX_DECIDE` (R419). At F − 8 µs the controller fixes the update or refuses it with reason 12. -/
  | fixDecide
  /-- `FIX_TAKE_EFFECT` (R420). At F the fixed update takes effect in the spine and the target tiles, and contexts retire or start. -/
  | fixTakeEffect
  /-- `SCRUB` (R425). Every 10 µs tiles recompute configuration checks and rewrite mismatching words from the fixed image. -/
  | scrub
  /-- `SNAP_N_FALL` (R445). SNAP_N falls with SNAP_PIN 1 and requests a freeze. -/
  | snapNFall
  /-- `SNAP_N_RISE` (R448). SNAP_N rises and clears the freeze latch. -/
  | snapNRise
  /-- `SNAP_FREEZE` (R445). The JTAG instruction SNAP_FREEZE requests a freeze. -/
  | snapFreeze
  /-- `SNAP_RELEASE` (R448). The JTAG instruction SNAP_RELEASE clears the freeze latch. -/
  | snapRelease
  /-- `SNAP_SEL` (R447). The JTAG instruction SNAP_SEL selects the chain segments to read. -/
  | snapSel (v : BitVec 8)
  /-- `SNAP_READ` (R447). The JTAG instruction SNAP_READ shifts out the selected snapshot chain. -/
  | snapRead
  /-- `SNAP_MEM` (R447). The JTAG instruction SNAP_MEM shifts out words of a named memory. -/
  | snapMem (v : BitVec 56)
  /-- `FREEZE` (R446). At Q the counters are gated, the prompt outputs drive 0 and every island stops. -/
  | freeze
  /-- `SNAPSHOT_RELEASE` (R448). At R the device resumes: device time is Q + 8D, an epoch opens and gap markers are issued. -/
  | snapshotRelease
  /-- `DEP_TILE_RST` (R444). DEP_TILE_RST requests a tile reset. -/
  | depTileRst (t : Nat)
  /-- `TMR_PERSISTENT_FAULT` (R433). A TMR disagreement in tile control persists 20 µs after a rewrite and starts a tile reset. -/
  | tmrPersistentFault (t : Nat)
  /-- `TILE_RESET_DONE` (R444). A tile reset completes, engines restart from checkpoints and the tile-reset event is raised. -/
  | tileResetDone (t : Nat)
  /-- `CNT_CLR` (R452). DEP_CTRL.CNT_CLR sets DEP_FAILCNT and DEP_MEM to zero. -/
  | cntClr
  /-- `SUPERVISOR_RESTART` (R443). A core mismatch or 1 ms without watchdog service restarts the supervisor and raises SUP_GEN. -/
  | supervisorRestart
  /-- `SUPERVISOR_RESTART_DONE` (R443). The supervisor restart completes, and held notices and pending doorbells are served. -/
  | supervisorRestartDone
  /-- `RING` (R456). MB_CTRL.RING posts the slot, records GEN and raises the receiver's doorbell. -/
  | ring (src : Src) (ch : Nat)
  /-- `TAKE` (R456). MB_CTRL.TAKE empties the slot and sends the sender an empty notice. -/
  | take (src : Src) (ch : Nat)
  /-- `BUMP` (R463). MB_HOSTCTL.BUMP raises HOST_GEN. -/
  | bump
  /-- `SEC_CLOSE` (R473). SEC_CTRL.CLOSE draws a new SEC_CHAL and sets SEC_CNT to zero. -/
  | secClose
  /-- `SUP_TAKE_REQUEST` (R461). The supervisor takes a posted request, copies its body and starts its service. -/
  | supTakeRequest (ch : Nat)
  /-- `SUP_REPLY_POST` (R467). The supervisor posts a waiting reply on channel c + 8 when that slot empties. -/
  | supReplyPost (ch : Nat)
  /-- `INFO` (R470). The INFO service returns the firmware version, the boot count and the generations. -/
  | info
  /-- `PROOF_RUN` (R470). The PROOF_RUN service writes CAL_CTRL with START and replies when the run ends. -/
  | proofRun
  /-- `AGEING_READ` (R470). The AGEING_READ service returns a channel's ageing entry. -/
  | ageingRead
  /-- `AGEING_CLEAR` (R470). The AGEING_CLEAR service writes a channel's entry with PRESENT 0. -/
  | ageingClear
  /-- `SLOT_WRITE` (R470). The SLOT_WRITE service writes image words through DEST 0 and may close the slot. -/
  | slotWrite
  /-- `SVC_SLOT_EMPTY` (R470). The SLOT_EMPTY service performs SLOT_EMPTY of R412. -/
  | svcSlotEmpty
  /-- `TRACK_HOLD` (R470). The TRACK_HOLD service holds the DAC targets. -/
  | trackHold
  /-- `TRACK_RESUME` (R470). The TRACK_RESUME service resumes temperature tracking. -/
  | trackResume
  /-- `TEMP_READ` (R470). The TEMP_READ service returns the 64 tile temperatures. -/
  | tempRead
  /-- `CONTACT_REFRESH` (R470). The CONTACT_REFRESH service runs one contact-sheet refresh at once. -/
  | contactRefresh
  /-- `LOG_READ` (R470). The LOG_READ service returns valid log entries in SEQ order. -/
  | logRead
  /-- `TILE_CMD_LIST` (R462). A powered tile takes a command list on its channel and applies its entries as register writes. -/
  | tileCmdList (t : Nat)
  /-- `LOG_SECOND` (R471). At the start of each second, settings beyond the log rate limit are logged as a KIND 3 entry. -/
  | logSecond
  /-- `EVENT_MBOX_POST` (R479). A queued event post is placed on channel MBCH when its slot empties. -/
  | eventMboxPost
  /-- `EV_MASK_WRITE` (R475). A mask write that unmasks a set source makes its routes act as if it had just set. -/
  | evMaskWrite (r : MaskReg) (w : BitVec 32)
  /-- `EV_FORCE` (R485). EV_FORCE GO sets the named event source. -/
  | evForce (src : BitVec 11)
  /-- `REQ_RUN` (R487). PW_CTRL.REQ Run requests entry to Run from Safelight, or is refused. -/
  | reqRun
  /-- `REQ_SAFELIGHT` (R487). PW_CTRL.REQ Safelight requests entry to Safelight from Run, or exit from Dark at X. -/
  | reqSafelight
  /-- `REQ_DARK` (R487). PW_CTRL.REQ Dark requests entry to Dark from Safelight at X, pending until the decision. -/
  | reqDark
  /-- `PW_CANCEL` (R488). PW_CTRL.CANCEL withdraws a pending Dark request. -/
  | pwCancel
  /-- `SOFT_RST` (R498). PW_CTRL.SOFT_RST performs a device soft reset: link reset, tile resets, supervisor restart and spine rewrite. -/
  | softRst (h : Option CtlHead)
  /-- `SOFT_RESET_DONE` (R498). The device soft reset completes and a held Run state returns at the next slot boundary. -/
  | softResetDone
  /-- `ENTER_RUN` (R487). At the slot boundary after the request the device enters Run, and grids and gap markers start. -/
  | enterRun
  /-- `ENTER_SAFELIGHT` (R205). At the slot boundary after the request the device enters Safelight: gates close and triggers are refused. -/
  | enterSafelight
  /-- `DARK_DECIDE` (R490). At X − 8 µs the Dark entry conditions are checked, and entry is decided or refused. -/
  | darkDecide
  /-- `DARK_ENTRY` (R491). At X the buffers are emptied, tiles are gated, the links switch to Dark rates and the supervisor sleeps. -/
  | darkEntry
  /-- `DARK_EXIT` (R493). At X tiles power up, the supervisor wakes and the links switch to full rates. -/
  | darkExit
  /-- `DARK_EXIT_COMPLETE` (R493). With tiles powered and trims loaded the device reaches Safelight and raises the power-state event. -/
  | darkExitComplete
  /-- `PW_REGATE` (R492). PW_REGATE gates a woken tile again at the next slot boundary and flushes its queues. -/
  | pwRegate (mask : BitVec 64)
  /-- `SUPERVISOR_WAKE` (R460). A doorbell or SUP route wakes the sleeping supervisor, which loads the woken tile's trims. -/
  | supervisorWake
  /-- `REGISTER_WRITE` (R515). A register write to a register without a row of its own is applied whole or refused whole, and a refusal is recorded. -/
  | registerWrite (src : Src) (addr : BitVec 24) (w : BitVec 32)
  /-- `LOSC_CLOCK_PRESENT` (R62). A clock returns on LOSC_IN, so TB_STATUS.LOSC_OK reads 1 again and holdover can again be disciplined by it. -/
  | loscClockPresent
  /-- `STORE_WRITE_DONE` (R370). A non-volatile store write of a slot or an ageing copy finishes, so the copy becomes valid, the copy in force is chosen anew and CFG_STATUS.BUSY clears. -/
  | storeWriteDone (ok : Bool)
  deriving DecidableEq, Repr

end Sys2Proof
end

