-- ==== Sys2Proof/WellFormed.lean ====
section
/-! DEFINITION. Which terms of Instr are commands: their tiles, channels, engines, queues, lanes and the other numbered
units exist on some part, and their operands are those of their row. -/

namespace Sys2Proof

/-- A tile of the T1024 (R1, R4). -/
def tileOk (t : Nat) : Bool := decide (t < 64)

/-- A channel of a tile, the spare among them (R16). -/
def chanOk (c : Nat) : Bool := decide (c < 17)

/-- An engine of a tile, the spare among them (R208). -/
def engOk (e : Nat) : Bool := decide (e < 9)

/-- A queue of a tile (R244). -/
def queueOk (q : Nat) : Bool := decide (q < 256)

/-- A mailbox channel (R455). -/
def boxOk (ch : Nat) : Bool := decide (ch < 96)

/-- An uplink lane (R313). -/
def laneOk (l : Nat) : Bool := decide (l < 8)

/-- Edges of a handover interval lie in its 2 ns (R386). -/
def edgesOk (es : List HoEdge) : Bool := es.all (fun e => decide (e.off < 2048))

/-- A check counts 256 decisions in each of a tie check's four steps and at each code of a swap check (R124, R125). -/
def CheckOutcome.wf : CheckOutcome → Bool
  | .tie steps => decide (steps.length = 4) && steps.all (fun p => decide (p.2.2 ≤ 256))
  | .swap normal swapped => (normal ++ swapped).all (fun p => decide (p.1 < 1024) && decide (p.2 ≤ 256))

/-- A mask register that exists (R485). -/
def MaskReg.wf : MaskReg → Bool
  | .chip i => decide (i < 4)
  | .tile t => tileOk t

/-- The operands of a command are ones that its row can carry. -/
def Instr.wf (x : Instr) : Bool :=
  match x with
  | .porAssert => true
  | .porEnd _ _ => true
  | .resetNLow => true
  | .resetNRelease _ _ => true
  | .bootComplete => true
  | .secondBoundary => true
  | .epochOpen => true
  | .replicaCheck => true
  | .replicaReload t => tileOk t
  | .replicaPairMismatch t => tileOk t
  | .lockComplete => true
  | .unlockDeclared => true
  | .loscMissing => true
  | .referencePresent _ => true
  | .referenceRemeasured _ => true
  | .realign => true
  | .rampProfileStart => true
  | .rampSegmentEnd => true
  | .rampPhaseStep => true
  | .rampAutoReplace => true
  | .rampStart _ => true
  | .rampAbort => true
  | .tbLatch => true
  | .tbSet => true
  | .ttSync _ _ _ => true
  | .followUpS _ _ => true
  | .followUpNf _ _ => true
  | .delayRespS _ _ => true
  | .delayRespNf _ _ => true
  | .ttUnknownSlot _ _ _ => true
  | .ttReplySend _ => true
  | .exchangeTimeout _ => true
  | .timeStep => true
  | .qualityStale => true
  | .ttAsymWrite _ => true
  | .acceptSym => true
  | .edge t c _ _ _ => tileOk t && chanOk c
  | .hitCommit t c _ => tileOk t && chanOk c
  | .commitLateRefuse t c _ => tileOk t && chanOk c
  | .chCfgWrite t c _ => tileOk t && chanOk c
  | .chThrWrite t c _ => tileOk t && chanOk c
  | .checkStart t c _ _ => tileOk t && chanOk c
  | .checkComplete t c o => tileOk t && chanOk c && o.wf
  | .tcXbarWrite t _ => tileOk t
  | .captureClr t c => tileOk t && chanOk c
  | .lmSample t _ _ _ => tileOk t
  | .tileWake t => tileOk t
  | .nop t e => tileOk t && engOk e
  | .add t e _ _ _ => tileOk t && engOk e
  | .sub t e _ _ _ => tileOk t && engOk e
  | .and t e _ _ _ => tileOk t && engOk e
  | .or t e _ _ _ => tileOk t && engOk e
  | .xor t e _ _ _ => tileOk t && engOk e
  | .shl t e _ _ _ => tileOk t && engOk e
  | .shr t e _ _ _ => tileOk t && engOk e
  | .sar t e _ _ _ => tileOk t && engOk e
  | .min t e _ _ _ => tileOk t && engOk e
  | .max t e _ _ _ => tileOk t && engOk e
  | .mul t e _ _ _ => tileOk t && engOk e
  | .ext t e _ _ _ => tileOk t && engOk e
  | .ins t e _ _ _ _ => tileOk t && engOk e
  | .divu t e _ _ _ => tileOk t && engOk e
  | .divs t e _ _ _ => tileOk t && engOk e
  | .remu t e _ _ _ => tileOk t && engOk e
  | .macs t e _ _ _ => tileOk t && engOk e
  | .macu t e _ _ _ => tileOk t && engOk e
  | .aclr t e _ => tileOk t && engOk e
  | .aadd t e _ _ => tileOk t && engOk e
  | .aadda t e _ _ => tileOk t && engOk e
  | .asuba t e _ _ => tileOk t && engOk e
  | .ashl t e _ _ _ => tileOk t && engOk e
  | .asar t e _ _ _ => tileOk t && engOk e
  | .agetl t e _ _ => tileOk t && engOk e
  | .ageth t e _ _ => tileOk t && engOk e
  | .aset t e _ _ _ => tileOk t && engOk e
  | .adiv t e _ _ _ => tileOk t && engOk e
  | .adivr t e _ _ _ => tileOk t && engOk e
  | .asqrt t e _ _ => tileOk t && engOk e
  | .seq t e _ _ _ => tileOk t && engOk e
  | .slt t e _ _ _ => tileOk t && engOk e
  | .sltu t e _ _ _ => tileOk t && engOk e
  | .beq t e _ _ _ => tileOk t && engOk e
  | .bne t e _ _ _ => tileOk t && engOk e
  | .blt t e _ _ _ => tileOk t && engOk e
  | .bge t e _ _ _ => tileOk t && engOk e
  | .bltu t e _ _ _ => tileOk t && engOk e
  | .bgeu t e _ _ _ => tileOk t && engOk e
  | .beqi t e _ _ _ => tileOk t && engOk e
  | .bnei t e _ _ _ => tileOk t && engOk e
  | .bbs t e _ _ _ => tileOk t && engOk e
  | .bbc t e _ _ _ => tileOk t && engOk e
  | .jmp t e _ => tileOk t && engOk e
  | .jal t e _ _ => tileOk t && engOk e
  | .jr t e _ => tileOk t && engOk e
  | .ld t e _ _ _ => tileOk t && engOk e
  | .st t e _ _ _ => tileOk t && engOk e
  | .lda t e _ _ _ => tileOk t && engOk e
  | .sta t e _ _ _ => tileOk t && engOk e
  | .gnext t e _ => tileOk t && engOk e
  | .gstat t e _ => tileOk t && engOk e
  | .wait t e _ => tileOk t && engOk e
  | .checkpoint t e => tileOk t && engOk e
  | .emit t e _ _ => tileOk t && engOk e
  | .emith t e _ _ => tileOk t && engOk e
  | .commit t e _ => tileOk t && engOk e
  | .rewind t e _ => tileOk t && engOk e
  | .tmset t e _ _ => tileOk t && engOk e
  | .tmclr t e => tileOk t && engOk e
  | .sliceCycleLimit t e => tileOk t && engOk e
  | .itemRelease t e => tileOk t && engOk e
  | .sliceSwitch t e => tileOk t && engOk e
  | .timeGateBoundary t e => tileOk t && engOk e
  | .contextTimer t c => tileOk t && decide (c < 64)
  | .triggerSliceCopy t c => tileOk t && decide (c < 64)
  | .engineEpochMarkers t e => tileOk t && engOk e
  | .checkpointTake t e => tileOk t && engOk e
  | .restart t e => tileOk t && engOk e
  | .ckptNow t e => tileOk t && engOk e
  | .peakClr t e => tileOk t && engOk e
  | .replayEnd t e => tileOk t && engOk e
  | .engineFaultDetect t e => tileOk t && engOk e
  | .engineStallWatchdog t e => tileOk t && engOk e
  | .failover t e => tileOk t && engOk e
  | .lockstepMismatch t p _ => tileOk t && decide (p < 4)
  | .depEngRet t e => tileOk t && engOk e
  | .engineSelfTestDone t e _ => tileOk t && engOk e
  | .flush t q => tileOk t && queueOk q
  | .queueClr t q => tileOk t && queueOk q
  | .lbExpiry t => tileOk t
  | .fcoDeassert k => decide (k < 8)
  | .streamReadPacket t _ => tileOk t
  | .trigger bits _ => decide (bits.toNat / 2 ^ 52 < 12)
  | .triggerDecide => true
  | .fragmentCopy t _ => tileOk t
  | .fragmentDeadline t => tileOk t
  | .eventSend => true
  | .promptWord => true
  | .prCtrlWrite _ => true
  | .dnClockRecovered => true
  | .dnCommaLock => true
  | .dnSlotLock => true
  | .dnSlotLost => true
  | .dnSignalLost => true
  | .idleSlot _ _ => true
  | .snapshot _ _ => true
  | .blockClose _ _ => true
  | .sync _ _ => true
  | .ack _ _ => true
  | .nak _ _ => true
  | .laneUp _ _ => true
  | .pause _ _ => true
  | .resume _ _ => true
  | .retrain _ _ => true
  | .write _ => true
  | .read _ => true
  | .image _ => true
  | .controlFrameTimeout _ => true
  | .orphanControlSlot _ _ => true
  | .frameTransmit l => laneOk l
  | .resultFrameClose idx => decide (idx < 128)
  | .linkPllLock => true
  | .linkPllLoss => true
  | .laneDegraded l => laneOk l
  | .lreset _ => true
  | .lkRetrain => true
  | .fciChange k _ => decide (k < 4)
  | .fciHoldExpiry k => decide (k < 4)
  | .pauseExpiry cls idx => decide (cls < 4) && decide (idx < 256)
  | .ackTimeout l => laneOk l
  | .stallEnd => true
  | .trackTick _ => true
  | .dacStep => true
  | .calStart _ => true
  | .calAbort => true
  | .proofPassEnd d => decide (d.hist.length = 1024)
  | .proofPassTimeout d => decide (d.hist.length = 1024)
  | .proofStoreDone _ => true
  | .hoStart t _ _ _ => tileOk t
  | .hoAbort t => tileOk t
  | .handoverOpen t => tileOk t
  | .handoverInstant t out inc _ => tileOk t && edgesOk out && edgesOk inc
  | .tapRelease t => tileOk t
  | .contactSheetRefresh => true
  | .dmmInterval => true
  | .slotClose => true
  | .slotEmpty => true
  | .reload => true
  | .reloadDone => true
  | .prepare => true
  | .prepareDone => true
  | .fix => true
  | .cancel => true
  | .fixDecide => true
  | .fixTakeEffect => true
  | .scrub => true
  | .snapNFall => true
  | .snapNRise => true
  | .snapFreeze => true
  | .snapRelease => true
  | .snapSel _ => true
  | .snapRead => true
  | .snapMem _ => true
  | .freeze => true
  | .snapshotRelease => true
  | .depTileRst t => tileOk t
  | .tmrPersistentFault t => tileOk t
  | .tileResetDone t => tileOk t
  | .cntClr => true
  | .supervisorRestart => true
  | .supervisorRestartDone => true
  | .ring _ ch => boxOk ch
  | .take _ ch => boxOk ch
  | .bump => true
  | .secClose => true
  | .supTakeRequest ch => boxOk ch
  | .supReplyPost ch => boxOk ch
  | .info => true
  | .proofRun => true
  | .ageingRead => true
  | .ageingClear => true
  | .slotWrite => true
  | .svcSlotEmpty => true
  | .trackHold => true
  | .trackResume => true
  | .tempRead => true
  | .contactRefresh => true
  | .logRead => true
  | .tileCmdList t => tileOk t
  | .logSecond => true
  | .eventMboxPost => true
  | .evMaskWrite r _ => r.wf
  | .evForce _ => true
  | .reqRun => true
  | .reqSafelight => true
  | .reqDark => true
  | .pwCancel => true
  | .softRst _ => true
  | .softResetDone => true
  | .enterRun => true
  | .enterSafelight => true
  | .darkDecide => true
  | .darkEntry => true
  | .darkExit => true
  | .darkExitComplete => true
  | .pwRegate _ => true
  | .supervisorWake => true
  | .registerWrite _ _ _ => true
  | .loscClockPresent => true
  | .unknownOpControlFrame op _ => !(op = 1 || op = 2 || op = 4)
  | .unknownLinkOperation op _ _ => decide (6 ≤ op.toNat)
  | .storeWriteDone _ => true

end Sys2Proof
end

