-- ==== Sys2Proof/Decode.lean ====
section
/-! DEFINITION. The words of spec/opcode_table.json: its rows give a command no bits, so no table word spells one. What the
downlink's 56-bit slots spell is decoded here (R92, R277, R316, R318, R320, R321); the engines' program words are decoded in
Machine/EngineCode.lean (R225 to R227). -/

namespace Sys2Proof

/-- The command that a word spells by the table's bits: none, since no row of the table gives bits. -/
def decodeTableWord (_nbits _w : Nat) : Option Instr := none

/-! ### Slots of the downlink -/

/-- The K-character that starts a slot: K28.5, K28.1, K28.2, K28.6 (R314). -/
inductive SlotKey where
  | idle
  | fast
  | control
  | time
  deriving DecidableEq, Repr

/-- A LINK operation by its OP (R318). -/
def linkCommand (op : BitVec 4) (b : BitVec 48) (bad : Bool) : Instr :=
  match op.toNat with
  | 0x0 => .ack b bad
  | 0x1 => .nak b bad
  | 0x2 => .laneUp b bad
  | 0x3 => .pause b bad
  | 0x4 => .resume b bad
  | 0x5 => .retrain b bad
  | _ => .unknownLinkOperation op b bad

/-- A fast-command slot by its code in bits [55:52]: 0x0 to 0xB are trigger codes (R277, R318). -/
def fastCommand (w : BitVec 56) (bad : Bool) : Instr :=
  let rest := w.extractLsb' 0 52
  match (w.extractLsb' 52 4).toNat with
  | 0xC => .snapshot rest bad
  | 0xD => .blockClose rest bad
  | 0xE => .sync rest bad
  | 0xF => linkCommand (w.extractLsb' 48 4) (w.extractLsb' 0 48) bad
  | _ => .trigger w bad

/-- A time-transfer slot by MSG in bits [55:52] (R92). -/
def timeCommand (w : BitVec 56) (sub : BitVec 13) (bad : Bool) : Instr :=
  let rest := w.extractLsb' 0 52
  match (w.extractLsb' 52 4).toNat with
  | 0x1 => .ttSync rest sub bad
  | 0x2 => .followUpS rest bad
  | 0x3 => .followUpNf rest bad
  | 0x4 => .delayRespS rest bad
  | 0x5 => .delayRespNf rest bad
  | _ => .ttUnknownSlot (w.extractLsb' 52 4) rest bad

/-! ### Control frames, slot by slot -/

/-- A control frame whose HEAD has arrived and whose END has not: its OP and what has come so far. -/
structure OpenCtl where
  op : BitVec 4
  frame : CtlFrame
  deriving DecidableEq, Repr

/-- HEAD opens a frame (R320). -/
def headSlot (w : BitVec 56) : OpenCtl :=
  { op := w.extractLsb' 48 4
    frame :=
      { tag := w.extractLsb' 40 8
        len := w.extractLsb' 30 10
        sec := w.getLsbD 29
        rsv := w.extractLsb' 24 5
        addr := w.extractLsb' 0 24
        data := []
        crc := 0
        discarded := 0
        broken := false } }

/-- The command of a frame that has ended, by its OP (R322). -/
def OpenCtl.command (o : OpenCtl) : Instr :=
  match o.op.toNat with
  | 0x1 => .write o.frame
  | 0x2 => .read o.frame
  | 0x4 => .image o.frame
  | _ => .unknownOpControlFrame o.op o.frame

/-- The frame ends with broken framing: a HEAD before its END, or a slot of unknown KIND (R320, R324). -/
def OpenCtl.fail (o : OpenCtl) : Instr := ({ o with frame := { o.frame with broken := true } } : OpenCtl).command

/-- A control-data slot after the slots of the frame that is open: the command it completes, and the frame that is open after
it (R317, R320, R321, R324, R325). -/
def controlSlot (o : Option OpenCtl) (w : BitVec 56) (bad : Bool) : Option Instr × Option OpenCtl :=
  match o with
  | none =>
    if !bad && decide ((w.extractLsb' 52 4).toNat = 1) then (none, some (headSlot w)) else (some (.orphanControlSlot w bad), none)
  | some o =>
    if bad then (none, some { o with frame := { o.frame with discarded := o.frame.discarded + 1 } })
    else match (w.extractLsb' 52 4).toNat with
      | 0x1 => (some o.fail, some (headSlot w))
      | 0x2 => (none, some { o with frame := { o.frame with data := o.frame.data ++ [w.extractLsb' 0 32] } })
      | 0x3 => (some ({ o with frame := { o.frame with crc := w.extractLsb' 0 32 } } : OpenCtl).command, none)
      | _ => (some o.fail, none)

/-- Intact control-data slots in their order: the commands that they give, and the frame that is open after them. -/
def controlSlots (o : Option OpenCtl) : List (BitVec 56) → List Instr × Option OpenCtl
  | [] => ([], o)
  | w :: ws =>
    let r := controlSlot o w false
    let rest := controlSlots r.2 ws
    (r.1.toList ++ rest.1, rest.2)

/-- One slot of the downlink that arrives in state SLOT: the command that it gives, and the control frame that is open after
it (R314, R316, R318, R320, R92). -/
def slotCommand (k : SlotKey) (o : Option OpenCtl) (w : BitVec 56) (sub : BitVec 13) (bad : Bool) :
    Option Instr × Option OpenCtl :=
  match k with
  | .idle => (some (.idleSlot w bad), o)
  | .fast => (some (fastCommand w bad), o)
  | .time => (some (timeCommand w sub bad), o)
  | .control => controlSlot o w bad

end Sys2Proof
end

