-- ==== Sys2Proof/Config.lean ====
section
/-! DEFINITION. What one part or one firmware fixes and the spec leaves open: opaque constants, so that no proof can
see a value of them (log entry 4). Bounds the spec sets are put on them where they are used. -/

namespace Sys2Proof.Config

/-- DESIGN CHOICE (log entry 4): the per-device key of R400, provisioned at the factory and never readable. -/
opaque deviceKey : List Byte

/-- DESIGN CHOICE (log entry 4): the n-th draw of the on-die random source that gives SEC_CHAL (R473). -/
opaque random : Nat → BitVec 64

/-- DESIGN CHOICE (log entry 4): the firmware version that SV_FW and the INFO service give (R470, R484). -/
opaque fwVersion : BitVec 32

/-- DESIGN CHOICE (log entry 6): the memory that SNAP_MEM selects by its 8-bit code: the spec gives no codes (R447). -/
opaque snapMemory : BitVec 8 → Nat

/-- DESIGN CHOICE (log entry 6): bit i of segment g of the snapshot chain, as a function of a draw: the spec does not
give the order of an island's flip-flops (R447). -/
opaque snapBit : Nat → Nat → Nat → Bool

/-- DESIGN CHOICE (log entry 7): the word a trigger slice puts into INQ for its kind 6 or kind 7 item: the spec gives
no layout for it (R222). -/
opaque sliceWord : Nat → BitVec 64

/-- DESIGN CHOICE (log entry 8): the trim code that the calibration logic sets after a pass, for the draw and the
trim: the spec names SENS_S and SENS_V and gives no formula (R378). -/
opaque trimAdjust : Nat → Nat → Int

/-- DESIGN CHOICE (log entry 8): the offset trim code that sets the measured offset to zero, for a draw (R381). -/
opaque trimOffset : Nat → Int

/-- DESIGN CHOICE (log entry 8): the code that a trim DAC of a gated tile comes up with, for a draw and the trim: the
spec says that the codes are lost (R491). -/
opaque trimLost : Nat → Nat → Int

/-- DESIGN CHOICE (log entry 117): by how many nanoseconds a replica counter of a tile differs from the master once the
tile's two counters disagree, for a draw and the counter: the spec does not say which of the two is wrong (R77). -/
opaque replicaDrift : Nat → Bool → Int

/-- DESIGN CHOICE (log entry 118): records that a commit buffer hands to the queue memory in a number of slots, beyond
the least that R156 states. -/
opaque commitDrain : Nat → Nat

/-- DESIGN CHOICE (log entry 119): whether a level of 120 ps to 250 ps yields both of its edges, for a draw (R151). -/
opaque narrowKept : Nat → Bool

/-- DESIGN CHOICE (log entry 119): the error of the stamp of the first or the second edge of such a level, in fine units,
for a draw; within ±10 ps where it is used (R151). -/
opaque narrowError : Nat → Bool → Int

/-- DESIGN CHOICE (log entry 120): whether the interpolated transition of a swap check is rounded up, for the counts on
its two sides: the rounding to 1/16 code is not stated (R125). -/
opaque swapRoundUp : Nat → Nat → Bool

/-- DESIGN CHOICE (log entry 4): engine cycles that pass in a number of slots: the spec gives the island clock a
nominal value and a minimum, not a value (R20, R21, R240). -/
opaque engineCycles : Nat → Nat

/-- DESIGN CHOICE (log entry 134): slots from a change of the combined state of flow-control output `k` at slot age `a` to its
pin; 2 to 5 where it is used (R272). -/
opaque fcoDelay (k a : Nat) : Nat

end Sys2Proof.Config
end

