-- ==== Sys2Proof/Machine/State.lean ====
section
/-! DEFINITION. The state of the block as plain data, the reasons it can stop, and the state right after reset. Every
structure's field defaults are its reset values (R522, R502); INVENTORY.md lists each field with its rule. -/

namespace Sys2Proof.Machine

open Sys2Proof

/-- A sparse table: key and value pairs in strictly rising key order, no pair equal to its default. -/
abbrev Map (α : Type) := List (Nat × α)

/-- A byte memory in the same canonical form; an unlisted byte reads as `Memory.unlisted` (log entry 5). -/
abbrev Memory := List Host.Cell

/-- Which of the two parts the die is (R1 to R3). -/
inductive Part where
  | t1024
  | t256
  deriving DecidableEq, Repr

/-- Where the device stands in start-up: POR held, RESET_N held, booting, running, or factory test (R406, R494, R495). -/
inductive Phase where
  | porHeld
  | rstHeld
  | booting
  | running
  | factory
  deriving DecidableEq, Repr

/-- A time value (R38): seconds modulo 2^32, nanoseconds below 10^9, fine below 1,024. -/
structure Time where
  s : Nat := 0
  ns : Nat := 0
  fine : Nat := 0
  deriving DecidableEq, Repr

/-! ### Timebase (R53 to R83) -/

/-- Timebase states (R57). -/
inductive TbState where
  | acquire
  | locked
  | holdover
  | ret
  | relock
  | waitRealign
  deriving DecidableEq, Repr

/-- A ramp segment: rate in units of 10^-12 and duration in 1.024 µs intervals (R69). -/
structure Seg where
  rate : Int
  dur : Nat
  deriving DecidableEq, Repr

/-- The running ramp profile: the segments still to run, the present one first, and the slot age at which the present
one began (R69, R71). -/
structure Profile where
  auto : Bool
  segs : List Seg
  start : Nat
  deriving DecidableEq, Repr

/-- An automatic profile that waits for its boundary: the offset to remove in 10^-21 s, the rate in 10^-12, and the
phase already moved when the offset was measured (R71, R72). -/
structure AutoReq where
  off : Int
  rate : Nat
  moved : Int
  deriving DecidableEq, Repr

/-- The timebase island (R53 to R83, R262). `hostReq` holds the segments of a host profile that waits, as checked at its
START, `opens` counts the epochs opened, `checkAge` is the slot age of the last broadcast of R75. -/
structure Timebase where
  st : TbState := .acquire
  time : Time := {}
  age : Nat := 0
  epoch : Nat := 0
  openTime : Time := {}
  openAge : Nat := 0
  causes : BitVec 8 := 0
  setVal : Option Time := none
  realignVal : Option Time := none
  stepVal : Option Int := none
  openDue : Nat := 0
  opens : Nat := 0
  checkAge : Nat := 0
  refOk : Bool := false
  refAct : Bool := false
  loscOk : Bool := false
  loopFrozen : Bool := false
  capS : Reg32 := 0
  capNs : Reg32 := 0
  capFe : Reg32 := 0
  phaseErr : Int := 0
  heldErr : Option Int := none
  heldMoved : Int := 0
  heldSteer : Bool := false
  jumpAge : Option Nat := none
  acc : Int := 0
  moved : Int := 0
  prof : Option Profile := none
  hostReq : Option (List Seg) := none
  autoReq : Option AutoReq := none
  replCnt : Nat := 0
  replTile : Nat := 0
  secAge : Nat := 0
  conds : List (Nat × Bool × Bool) := []
  closed : List (Nat × Time × Time) := []
  frozenAt : Option Time := none
  deriving DecidableEq, Repr

/-! ### Time transfer (R84 to R111) -/

/-- An open exchange (R86, R89): its id, t2 with the epoch, the count of epochs opened and the ramp offset there, t3 with its epoch once sent, and
the parts of t1 and t4 received. -/
structure Exch where
  id : BitVec 8
  t2 : Time
  t2Age : Nat
  t2Epoch : Nat
  t2Opens : Nat := 0
  t2Moved : Int
  quality : Nat
  t3 : Option Time := none
  t1s : Option Nat := none
  t1nf : Option (Nat × Nat) := none
  t4s : Option Nat := none
  t4nf : Option (Nat × Nat) := none
  deriving DecidableEq, Repr

/-- A completed exchange as the averages use it: θ, the ramp offset at its t2, its round trip, the slot age of its t2,
and whether it was an outlier (R95 to R97). -/
structure Meas where
  theta : Int
  o : Int
  rtt : Int
  t2 : Nat := 0
  out : Bool := false
  deriving DecidableEq, Repr

/-- The last completed exchange, as a reply frame reports it (R94). -/
structure LastEx where
  id : BitVec 8
  theta : Int
  rtt : Int
  outlier : Bool
  path : Bool
  deriving DecidableEq, Repr

/-- The time-transfer block (R84 to R111). `pathRun` holds the exchanges of a path change not yet confirmed; under the
hold policy they stay out of the averages meanwhile (R105). -/
structure TimeTransfer where
  opened : List Exch := []
  block : List Meas := []
  run : List Meas := []
  confirmed : Bool := false
  pathRun : List Meas := []
  thetaBar : Int := 0
  rttRef : Option Int := none
  newRef : Bool := false
  hold : Bool := false
  stepAsk : Option Int := none
  done : Nat := 0
  disc : Nat := 0
  lastReason : Nat := 0
  unknown : Nat := 0
  last : Option LastEx := none
  lastId : BitVec 8 := 0
  lastDone : Option Nat := none
  stale : Bool := true
  quality : Nat := 0
  deriving DecidableEq, Repr

/-! ### Links (R313 to R360) -/

/-- Downlink receiver states (R314). -/
inductive DnState where
  | noSignal
  | cdr
  | char
  | slot
  deriving DecidableEq, Repr

/-- Lane states (R329). -/
inductive LaneState where
  | down
  | train
  | up
  | idleElec
  deriving DecidableEq, Repr

/-- A link frame without its check words (R330): class, index, stream sequence number, payload; `ev` is the ordinal of
the event it carries a part of, for class 0x01. -/
structure Frame where
  cls : Nat
  idx : Nat
  seq : Nat
  words : List W64
  ev : Nat := 0
  deriving DecidableEq, Repr

/-- A transmitted frame that awaits its acknowledgement (R344): its LSEQ, the slot age of its latest transmission, and
whether it waits to be resent, and whether that wait counts for no stall because its lane was not UP (R351). -/
structure Unacked where
  lseq : Nat
  frame : Frame
  sent : Nat
  waiting : Bool := false
  exempt : Bool := false
  deriving DecidableEq, Repr

/-- An uplink lane (R329, R331, R345); `idle`: it owes one IDLE block before its next frame (R329, R346). In Bracket mode the
even lane holds the frames of its pair (R336). -/
structure Lane where
  st : LaneState := .down
  next : Nat := 0
  ack : Nat := 0xFFFFFF
  unack : List Unacked := []
  idle : Bool := false
  deriving DecidableEq, Repr

/-- A payload that waits to be sent: a frame of its own, or records ready at a slot age, which share a frame with the
records of their stream ready at the same age (R334). -/
structure Wait where
  words : List W64
  ready : Option Nat := none
  ev : Nat := 0
  deriving DecidableEq, Repr

/-- An open result frame (R337, R338, R341): its words, for a packed frame its code bytes with the last item's header
and value, and the slot age of its opening. -/
structure OpenFrame where
  words : List W64
  bytes : List Byte := []
  ref : Option (W64 × W64) := none
  since : Nat
  deriving DecidableEq, Repr

/-- A stream (R25, R333): next SEQ, payloads waiting in order, the open result frame, and the queue number at which the
reader's round resumes (R337). -/
structure Stream where
  seq : Nat := 0
  wait : List Wait := []
  opened : Option OpenFrame := none
  round : Nat := 0
  deriving DecidableEq, Repr

/-- The link cores (R313 to R360). Streams are keyed by class × 256 + index. `fci` holds the slot age at which a high
input rose, `paused` the slot age at which a pause expires, `restartOwed` and `lateRestart` the cause of the POR or
RESET_N whose restart markers are still to come (R500). -/
structure Links where
  dn : DnState := .noSignal
  dnDisc : Nat := 0
  dnRefused : Nat := 0
  cfCnt : Nat := 0
  cfStatus : Nat := 0
  cfTag : Nat := 0
  pllLock : Bool := false
  darkRate : Bool := false
  linkDown : Bool := false
  fci : Map (Option Nat) := []
  paused : Map (Option Nat) := []
  stallAge : Option Nat := none
  stalls : Nat := 0
  longest : Nat := 0
  longCnt : Nat := 0
  longTile : Nat := 0
  nakCnt : Nat := 0
  ignCnt : Nat := 0
  lanes : Map Lane := []
  streams : Map Stream := []
  turn : Nat := 0
  evSent : Nat := 0
  allSent : Nat := 0
  tier1 : List (Nat × Nat) := []
  restartOwed : Option Nat := some 1
  lateRestart : Option Nat := some 1
  hostReset : Bool := false
  deriving DecidableEq, Repr

/-! ### Events, mailboxes, supervisor (R454 to R485) -/

/-- The event controller (R474 to R485): sticky bits of the chip sources, posts that wait, posts lost. -/
structure EventCtl where
  chip : BitVec 128 := 0
  posts : List Nat := []
  lost : Nat := 0
  deriving DecidableEq, Repr

/-- A mailbox slot (R456, R484). -/
structure Slot where
  ptr : BitVec 24 := 0
  tag : BitVec 16 := 0
  gen : BitVec 8 := 0
  full : Bool := false
  held : Bool := false
  deriving DecidableEq, Repr

/-- A request the supervisor has taken and not yet served (R461, R469). -/
structure SupReq where
  ch : Nat
  tag : BitVec 16
  code : Nat
  body : List W64
  started : Bool := false
  deriving DecidableEq, Repr

/-- A reply that waits for its slot (R467). -/
structure Reply where
  tag : BitVec 16
  code : Nat
  status : Nat
  body : List W64
  deriving DecidableEq, Repr

/-- The supervisor and the mailbox block (R454 to R473). -/
structure Supervisor where
  slots : Map Slot := []
  hostGen : BitVec 8 := 1
  supGen : BitVec 8 := 1
  asleep : Bool := false
  restarting : Bool := false
  restarts : Nat := 0
  reqs : List SupReq := []
  replies : Map (List Reply) := []
  trackHold : Bool := false
  sheetAge : Nat := 0
  trackAge : Nat := 0
  wakeAsk : Bool := false
  logSeq : Nat := 0
  logNow : Nat := 0
  logLost : Nat := 0
  chal : BitVec 64 := 0
  secCnt : Nat := 0
  secFail : Nat := 0
  deriving DecidableEq, Repr

/-! ### Triggered read-out and prompt outputs (R277 to R312) -/

/-- A pending trigger (R277 to R287): its ordinal of arrival, command fields, window in device time, A and the window on the slot age scale in
nanoseconds, D on that scale, and the settings of the code in force at A (R421). -/
structure Trig where
  ord : Nat
  id : Nat
  code : Nat
  flags : Nat
  start : Time
  epoch : Nat
  arrAge : Nat
  w0 : Int
  w1 : Int
  d : Int
  offset : BitVec 16
  width : Nat
  cap : Nat
  topo : BitVec 64
  doom : Option Nat := none
  deriving DecidableEq, Repr

/-- One tile's fragment of an accepted event (R294 to R301): hits counted, hit words reserved, buffer position of the
next record to copy and the last position plus one, words copied, poisoned words met, its state, and whether words came after the deadline. -/
structure Frag where
  tile : Nat
  count : Nat
  resv : Nat
  pos : Nat
  last : Nat
  words : List W64 := []
  poison : Nat := 0
  done : Bool := false
  status : Nat := 0
  late : Bool := false
  deriving DecidableEq, Repr

/-- An accepted event (R289 to R300): its trigger, size, fragments, slot age of its TACC, whether its frames were
handed to the stream, and frames not yet acknowledged. -/
structure Event where
  trig : Trig
  size : Nat
  frags : List Frag
  tacc : Nat
  sent : Bool := false
  unacked : Nat := 0
  deriving DecidableEq, Repr

/-- The event builder (R286 to R311). -/
structure EventBuilder where
  pending : List Trig := []
  events : List Event := []
  nextOrd : Nat := 1
  clock : Int := 0
  backlog : Nat := 0
  tacc : Nat := 0
  tref : Nat := 0
  lastReason : Nat := 0
  lastId : Nat := 0
  absent : Nat := 0
  absentTile : Nat := 0
  late : Nat := 0
  deriving DecidableEq, Repr

/-- The prompt outputs (R303 to R311): word of each pair, vote counters, and the words of copies B and C of the
configuration that differ from the voted word, by register address (R309). -/
structure Prompt where
  words : Map (BitVec 16) := []
  votes : Nat := 0
  lastPair : Nat := 0
  copyB : Map (Option Reg32) := []
  copyC : Map (Option Reg32) := []
  deriving DecidableEq, Repr

/-! ### Configuration (R393 to R429) -/

/-- One record of an image (R397): payload words as 32-bit words for block 0, 64-bit words for blocks 1 and 2. -/
structure Rec where
  mode : Nat
  block : Nat
  off : Nat
  tiles : BitVec 64
  pay : List W64
  deriving DecidableEq, Repr

/-- A parsed image (R395). -/
structure Image where
  kind : Nat
  profile : Nat
  seq : Nat
  recs : List Rec
  deriving DecidableEq, Repr

/-- What a store write in progress is for (R370). -/
inductive StoreJob where
  | slotA
  | slotB
  | ageingA
  | ageingB
  deriving DecidableEq, Repr

/-- The configuration controller (R393 to R429). `recs` are the records of the fixed image, `staged` and `boot` the
staging memory and the boot buffer, `upd` the prepared update, `noShadow` the tiles that lost its shadow, `late` the
records that tiles in reset at F have still to take, `slotTo` the slot that DEST 0 writes, `job` a store write in
progress, `load` the DEST of a reload in progress, `flash` the external flash of R408. -/
structure CfgCtl where
  recs : List Rec := []
  imgSeq : Nat := 0
  bracket : Bool := false
  noImage : Bool := true
  source : Nat := 0
  luState : Nat := 0
  luSeq : Nat := 0
  luCnt : Nat := 0
  staged : Memory := []
  stagedTop : Nat := 0
  upd : Option Image := none
  noShadow : List Nat := []
  late : Map (List Rec) := []
  fixAge : Nat := 0
  fixOpen : Nat := 0
  decided : Bool := false
  boot : Memory := []
  bootTop : Nat := 0
  flash : List Byte := []
  slotTo : Option Bool := none
  job : Option StoreJob := none
  load : Option Nat := none
  reason : Nat := 0
  resTile : Nat := 0
  resRecord : Nat := 0
  scrubCnt : Nat := 0
  scrubTile : Nat := 0
  reloadExp : Nat := 0
  deriving DecidableEq, Repr

/-! ### Calibration (R361 to R392) -/

/-- A proof run in progress (R378): its settings, the phase, the pass, whether a handover was made for it, the swap
check's result, temperatures met, the live codes from before it, the ageing entry it found, and the reason it failed. -/
structure ProofRun where
  tile : Nat
  chan : Nat
  internal : Bool
  hits : Nat
  passes : Nat
  phase : Nat
  pass : Nat := 0
  handed : Bool := false
  ovl : Nat := 0
  passAge : Nat := 0
  swapOk : Bool := false
  temps : List Int := []
  codes : Map Int := []
  entry : List Byte := []
  failed : Option Nat := none
  newDnl : Nat := 0
  newInl : Nat := 0
  deriving DecidableEq, Repr

/-- The calibration registers' state and the run in progress (R377 to R392). -/
structure Calib where
  run : Option ProofRun := none
  reason : Nat := 0
  resTile : Nat := 0
  resChan : Nat := 0
  hits : Nat := 0
  uniMin : Nat := 0
  uniHarm : Nat := 0
  deriving DecidableEq, Repr

/-! ### Power, reset, dependability, snapshot (R430 to R453, R486 to R504) -/

/-- Power states (R486); Off is the unpowered device. -/
inductive PwState where
  | run
  | safelight
  | dark
  deriving DecidableEq, Repr

/-- A pending Dark entry or exit (R488): direction, X, slot age at which X falls, and whether it is decided. -/
structure DarkReq where
  entry : Bool
  x : Time
  age : Nat
  decided : Bool := false
  deriving DecidableEq, Repr

/-- The power and reset controller (R486 to R504). `toRun` and `toSafe` are requests that wait, with the slot age of
their boundary; `exiting` is a Dark exit whose tiles are powering up (R493); `counted`: the boot count has been computed and
logged since POR or RESET_N (R496). -/
structure Power where
  st : PwState := .safelight
  dark : Option DarkReq := none
  soft : Bool := false
  heldRun : Bool := false
  toRun : Option Nat := none
  toSafe : Option Nat := none
  exiting : Bool := false
  reason : Nat := 0
  bootCnt : Nat := 0
  counted : Bool := false
  cause : Nat := 1
  causeTile : Nat := 0
  causeEng : Nat := 0
  wentDark : Option Nat := none
  darkCauses : BitVec 8 := 0
  deriving DecidableEq, Repr

/-- Which protected memory a word lies in (R442). -/
inductive MemId where
  | event
  | replay
  | message
  | program (t : Nat)
  | context (t : Nat)
  deriving DecidableEq, Repr

/-- What the last snapshot instruction shifted out (R447): the number of bits, the draw that the bits of a frozen chain
stand for (none: zeros), and for SNAP_MEM the words. -/
structure Shift where
  bits : Nat := 0
  chain : Option Nat := none
  words : List W64 := []
  deriving DecidableEq, Repr

/-- Dependability and snapshot state (R430 to R453). `request` is a freeze request with the slot age of its Q, `rel` the
freeze duration at which the device may release, `chain` the draw that stands for the frozen flip-flops. -/
structure Depend where
  restarts : Nat := 0
  failovers : Nat := 0
  corr : Nat := 0
  uncorr : Nat := 0
  ecc2 : List (MemId × Nat) := []
  latch : Bool := false
  request : Option Nat := none
  frozen : Bool := false
  rel : Nat := 0
  chain : Nat := 0
  src : Bool := false
  q : Time := {}
  qEpoch : Nat := 0
  dur : Nat := 0
  count : Nat := 0
  snapN : Bool := true
  heldSoft : Bool := false
  sel : BitVec 8 := 0xFF
  tdo : Shift := {}
  deriving DecidableEq, Repr

/-! ### Tiles -/

/-- Outcome of a hit at one destination (R157). -/
inductive DestState where
  | off
  | waiting
  | done
  deriving DecidableEq, Repr

/-- What a channel owes one destination: LG and IU on its next record there (R160, R161). -/
structure Owed where
  lg : Bool := false
  iu : Bool := false
  deriving DecidableEq, Repr

/-- A capture-FIFO entry (R153, R163): stamp, the slot age it fell in and the fine units into that slot, epoch, polarity
after INV, flags as captured, spare and input, its outcome at both destinations, and LG and IU that fall to it there. -/
structure Hit where
  stamp : Time
  age : Nat
  sub : Nat
  epoch : Nat
  rise : Bool
  cs : Bool
  st : Bool
  spare : Bool
  input : Nat
  lb : DestState
  eq : DestState
  flb : Owed := {}
  feq : Owed := {}
  deriving DecidableEq, Repr

/-- A marker that a capture destination has still to receive (R47, R48, R388): the word, the slot age of the instant it
states, the instant before which hits go ahead of it, in fine units on the slot age scale (0: none), and whether its
refusal was counted (R254). -/
structure HeldMark where
  w : W64
  age : Nat
  barrier : Nat := 0
  counted : Bool := false
  deriving DecidableEq, Repr

/-- Tie and swap check state (R123 to R128), with the margin that a tie check started with. -/
structure Check where
  busy : Bool := false
  swap : Bool := false
  result : Nat := 0
  kind : Bool := false
  reason : Nat := 0
  cn : BitVec 14 := 0
  cs : BitVec 14 := 0
  thr : Option Reg32 := none
  margin : Nat := 0
  deriving DecidableEq, Repr

/-- Calibration status of a channel (R391, R392). -/
structure ChCal where
  proof : Nat := 0
  reason : Nat := 0
  dnl : Nat := 0
  inl : Nat := 0
  deriving DecidableEq, Repr

/-- Contact-sheet bits the supervisor holds and the counters of its refresh (R482, R483). -/
structure Sheet where
  deadF : Bool := false
  dead : Bool := false
  noisy : Bool := false
  ovr : Bool := false
  outF : Bool := false
  outT : Bool := false
  psn : Bool := false
  lastEdges : Nat := 0
  lastFull : Nat := 0
  deadRun : Nat := 0
  noisyRun : Nat := 0
  quietRun : Nat := 0
  deriving DecidableEq, Repr

/-- The last crossing that the channel captured or refused, in fine units on the slot age scale, with what the channel
held before it: a level too short for the channel takes both of its edges back (R151). -/
structure Crossing where
  key : Nat
  took : Bool
  edges : Nat
  full : Nat
  peak : Nat
  ovr : Bool
  sheetOvr : Bool
  nlb : Owed
  neq : Owed
  tapIu : Bool
  deriving DecidableEq, Repr

/-- A capture channel (R145 to R168, R361). `lb` and `eq` are LG and IU owed to the next record committed there, `nlb`
and `neq` those owed to the next edge captured for it; `live` holds the trim DAC codes, `lost` the draw that stands for
codes lost in power gating (R491), `tapIu` the IU of R131, `cross` the last crossing captured (R151). -/
structure Chan where
  fifo : List Hit := []
  edges : Nat := 0
  full : Nat := 0
  late : Nat := 0
  peak : Nat := 0
  ovr : Bool := false
  lb : Owed := {}
  eq : Owed := {}
  nlb : Owed := {}
  neq : Owed := {}
  recent : List (Nat × Bool) := []
  tapIu : Bool := false
  cross : Option Crossing := none
  dmm : Nat := 0
  faulty : Bool := false
  unserved : Bool := false
  check : Check := {}
  live : Map Int := []
  lost : Option Nat := none
  trimHeld : Bool := false
  cal : ChCal := {}
  sheet : Sheet := {}
  deriving DecidableEq, Repr

/-- Handover states (R392). -/
inductive HoState where
  | idle
  | toSpare
  | serving
  | back
  deriving DecidableEq, Repr

/-- The spare and the handover machinery of a tile (R384 to R392). `req` is a request that waits for its slot boundary P,
of age `reqAge`; `hAge` is the slot age of H. -/
structure Handover where
  st : HoState := .idle
  req : Option (Nat × Bool × Nat) := none
  reqAge : Nat := 0
  served : Nat := 0
  dir : Bool := false
  ovl : Nat := 0
  hAge : Nat := 0
  result : Nat := 0
  matched : Nat := 0
  unmOut : Nat := 0
  unmIn : Nat := 0
  hS : Nat := 0
  hNs : Nat := 0
  diff : Int := 0
  release : Bool := false
  tapped : Bool := false
  deriving DecidableEq, Repr

/-- A kept level change of a gated tile (R141). -/
structure Kept where
  time : Time
  epoch : Nat
  cs : Bool
  st : Bool
  deriving DecidableEq, Repr

/-- The window level monitor of a tile (R133 to R144). States: 0 INSIDE, 1 BELOW, 2 ABOVE, 3 UNKNOWN. `mask` and `wins`
are those of the present round, `pos` the source visited, `since` the slot age at which its visit began, `wake` a wake
request that waits. -/
structure LevelMon where
  pos : Nat := 0
  since : Nat := 0
  wake : Bool := false
  mask : BitVec 21 := 0
  wins : Map Reg32 := []
  rep : Map Nat := []
  runSt : Map Nat := []
  runN : Map Nat := []
  inside : Map Nat := []
  latch : BitVec 21 := 0
  refused : Nat := 0
  dark : Nat := 0
  kept : Map (Option Kept) := []
  recorded : Map Nat := []
  moved : BitVec 21 := 0
  deriving DecidableEq, Repr

/-- An item as a context receives it: G28 and G29 (R212, R213), with the slot age of its instant. -/
structure Item where
  t : W64
  info : W64
  age : Nat
  deriving DecidableEq, Repr

/-- What a word of a trigger slice stands for: the context, and the item that the dispatcher makes of it (R222). -/
structure SliceTag where
  ctx : Nat
  item : Item
  deriving DecidableEq, Repr

/-- One word of the queue memory (R244, R259, R262, R266): value and parity bit, the mirror copy, the packet-end bit,
the slot age of a latency-buffer record, and the item of a trigger slice that the word stands for. -/
structure QWord where
  w : W64 := 0
  par : Bool := false
  mw : W64 := 0
  mpar : Bool := false
  fin : Bool := false
  age : Nat := 0
  slice : Option SliceTag := none
  deriving DecidableEq, Repr

/-- A queue's pointers, state and counters (R252 to R276). -/
structure Queue where
  wp : Nat := 0
  rp : Nat := 0
  rmark : Nat := 0
  opened : Bool := false
  doomed : Bool := false
  flushed : Bool := false
  owner : Nat := 0
  head : Option W64 := none
  hi : Bool := false
  ovr : Bool := false
  xup : Bool := false
  xdn : Bool := false
  psn : Bool := false
  flref : Bool := false
  cOvr : Nat := 0
  cDrop : Nat := 0
  cFlush : Nat := 0
  cPoison : Nat := 0
  cMfix : Nat := 0
  cExp : Nat := 0
  cCommit : Nat := 0
  deriving DecidableEq, Repr

/-- A count-ring entry (R283): the slot it stands for, hit records stamped in it, first and last buffer position. -/
structure Ring where
  slot : Nat
  n : Nat
  first : Nat
  last : Nat
  deriving DecidableEq, Repr

/-- A read mark (R263): the trigger's ordinal of arrival, its buffer position, and whether the fragment and the trigger
slices still need it. -/
structure Mark where
  owner : Nat
  pos : Nat
  frag : Bool
  slices : Nat := 0
  deriving DecidableEq, Repr

/-- An item in the dispatcher's buffer with its key: segment between epoch barriers, engine time, class, local input
(R218); the slot age of its instant, the one context it is for (none: by its roles), its kind, and its words: the hit
record, or the markers that the engine commits with it (R224). Kind 8 stands for a poisoned word. -/
structure DItem where
  seg : Nat
  t : W64
  cls : Nat
  input : Nat
  age : Nat
  ctx : Option Nat
  kind : Nat
  word : W64
  word2 : W64
  deriving DecidableEq, Repr

/-- A trigger gate that waits for its slice: the trigger's ordinal, id and code, window as engine times and on the slot
age scale in ns, epoch, whether four gates stood open at its TACC, and the first and last-plus-one buffer positions
(R222, R223). -/
structure Gate where
  owner : Nat
  id : Nat
  code : Nat
  t0 : W64
  t1 : W64
  w0 : Int
  w1 : Int
  epoch : Nat
  ovf : Bool := false
  first : Nat
  last : Nat
  secs : Nat := 0
  held : Bool := false
  deriving DecidableEq, Repr

/-- The dispatcher's and the tile's state for one context (R217 to R224, R234, R237, R422): items released, items of
trigger slices, a slice still being read, trigger gates with those opened and delivered, timer, next grid boundary, GSTAT
bits, the current item, carried breaks, the barrier item (0 none, 1 to take, 2 taken, 3 taken and waited),
its retirement as segment, instant and slot age, the slot age at which it started, whether it still waits for its grid
start, the block it starts with, and the committed high-water GSEQ. Contexts are kept at their numbers; at 64 + c stands
one that starts in block c once the retired one has ended (R422). -/
structure Ctx where
  items : List Item := []
  trig : List Item := []
  part : List Item := []
  gates : List Gate := []
  opens : Nat := 0
  dels : Nat := 0
  timer : Option W64 := none
  grid : Option W64 := none
  gst : Bool := false
  gcs : Bool := false
  cur : Option Item := none
  brk : BitVec 16 := 0
  bar : Nat := 0
  retire : Option (Nat × W64 × Nat) := none
  born : Nat := 0
  idle : Bool := false
  anew : Option (List W64) := none
  hw : Option Nat := none
  deriving DecidableEq, Repr

/-- A checkpoint (R234): the dispatcher's state of the engine, and of each of its contexts. -/
structure Ckpt where
  keys : List Nat := []
  buf : List DItem := []
  seg : Nat := 0
  rseg : Nat := 0
  secs : Nat := 0
  epoch : Nat := 0
  safe : Bool := true
  marks : List W64 := []
  top : Option (W64 × Nat) := none
  ctxs : Map Ctx := []
  deriving DecidableEq, Repr

/-- A measurement engine with its dispatcher state (R208 to R243, R434 to R440). `snaps` holds snapshot-gap markers read
from its input queue, with the segment that each closes (R448). STATE 4 is STATE 1 outside Run. -/
structure Engine where
  st : Nat := 0
  pc : Nat := 0
  ctx : Nat := 0
  loaded : Bool := false
  g : Map W64 := []
  a : Map Acc := []
  sliceN : Nat := 0
  sliceT : W64 := 0
  sliceEnd : Bool := true
  inTrig : Bool := false
  cycles : Nat := 0
  busy : Nat := 0
  load : Nat := 0
  peak : Nat := 0
  ckpts : Nat := 0
  dup : Nat := 0
  cp : Nat := 0
  fCtx : Nat := 0
  fPc : Nat := 0
  fCause : Nat := 0
  fCount : Nat := 0
  serving : Nat := 0
  ctxs : List Nat := []
  dpos : Nat := 0
  buf : List DItem := []
  seg : Nat := 0
  rseg : Nat := 0
  secs : Nat := 0
  epoch : Nat := 0
  safe : Bool := true
  marks : List W64 := []
  top : Option (W64 × Nat) := none
  snaps : List (Nat × W64) := []
  marksDone : Nat := 0
  marksSkip : Nat := 0
  hist : List DItem := []
  ckpt : Ckpt := {}
  ckptAge : Nat := 0
  ckptReq : Bool := false
  delivered : Nat := 0
  replay : Nat := 0
  lastRun : Nat := 0
  faultAge : Option Nat := none
  mismatched : Bool := false
  voting : Bool := false
  test : Bool := false
  passed : Bool := false
  deriving DecidableEq, Repr

/-- One of the two commit buffers of a tile: its level, and the slot age at which it stood there (R155, R156). -/
structure CommitBuf where
  level : Nat := 0
  age : Nat := 0
  deriving DecidableEq, Repr

/-- A tile (R16). `rep` and `repB` say by how many nanoseconds its replica counters differ from the master, `repLoad`
that a reload waits, since slot age `repFrom`, `pairLoad` that R77 asks for it, `reps` the intervals of past reloads,
`cbLb` and `cbEq` the commit buffers. -/
structure Tile where
  powered : Bool := true
  awake : Bool := false
  inReset : Bool := false
  te : BitVec 16 := 0
  rep : Int := 0
  repB : Int := 0
  repLoad : Bool := false
  pairLoad : Bool := false
  repFrom : Nat := 0
  reps : List (Nat × Nat) := []
  cbLb : CommitBuf := {}
  cbEq : CommitBuf := {}
  qmem : Map QWord := []
  qs : Map Queue := []
  qLast : Nat := 0
  marks : List Mark := []
  ring : Map (Option Ring) := []
  expSlot : Option Nat := none
  roCnt : Nat := 0
  pm : Map IWord := []
  pmNew : List (Nat × IWord) := []
  cx : Map W64 := []
  ctxs : Map Ctx := []
  engs : Map Engine := []
  chans : Map Chan := []
  ho : Handover := {}
  lm : LevelMon := {}
  held : Map (List HeldMark) := []
  temp : Option Int := none
  trackT : Option Int := none
  deriving DecidableEq, Repr

/-- A flow-control output (R272): asserted, the slot age at which its pin rises, and the one at which the return of its
combined state reaches the pin. -/
structure Fco where
  level : Bool := false
  since : Nat := 0
  back : Nat := 0
  deriving DecidableEq, Repr

/-- The whole block. `pending` is the queue of waiting commands, the front one first. -/
structure State where
  part : Part := .t1024
  key : List Byte := Config.deviceKey
  phase : Phase := .booting
  bootsel : BitVec 2 := 0
  regs : Map Reg32 := []
  refAddr : BitVec 24 := 0
  refReason : Nat := 0
  refSrc : Nat := 0
  refCnt : Nat := 0
  fresh : Nat := 0
  tb : Timebase := {}
  tt : TimeTransfer := {}
  lk : Links := {}
  ev : EventCtl := {}
  sup : Supervisor := {}
  eb : EventBuilder := {}
  pr : Prompt := {}
  cfg : CfgCtl := {}
  cal : Calib := {}
  pw : Power := {}
  dep : Depend := {}
  fco : Map Fco := []
  tiles : Map Tile := []
  nv : Memory := []
  msg : Memory := []
  pending : List Instr := []
  deriving DecidableEq, Repr

/-- Why the machine stops: the operand of a command names a thing the part does not have (safe: no such command can
reach the device). -/
inductive Fault where
  /-- A command names a tile above 63 (R16). Raised by every command with a tile operand. Safe. -/
  | noSuchTile
  /-- A command names a channel above 16 (R16). Raised by the channel commands. Safe. -/
  | noSuchChannel
  /-- A command names a queue above 255 (R244). Raised by FLUSH and QUEUE_CLR. Safe. -/
  | noSuchQueue
  /-- A command names an engine above 8 or a pair above 3 (R208). Raised by the engine commands. Safe. -/
  | noSuchEngine
  /-- A command names a context above 63 (R210). Raised by CONTEXT_TIMER and TRIGGER_SLICE_COPY. Safe. -/
  | noSuchContext
  /-- A command names a lane, a pin, a stream or a mask word outside its range (R313, R272, R349, R333, R485). Safe. -/
  | noSuchUnit
  /-- A command names a mailbox channel above 95 (R455). Raised by RING, TAKE and the supervisor's mailbox steps. Safe. -/
  | noSuchMailbox
  deriving DecidableEq, Repr

/-- Why the model declines a command. -/
inductive Refusal where
  /-- No meaning yet for the named row. Raised by Dispatch only. Safe. -/
  | notModelled (mnemonic : String)
  deriving DecidableEq, Repr

/-- The first value of SEC_CHAL comes from the random source (R473, R484). -/
def State.resetFor (p : Part) : State :=
  { part := p, fresh := 1, sup := { chal := Config.random 0 } }

/-- The device right after reset: POR has ended, the boot sequence runs, every field is at its reset value (R43, R495,
R522). The part is the NHD-T1024 (DESIGN CHOICE, log entry 3). -/
def State.reset : State := State.resetFor .t1024

end Sys2Proof.Machine
end

