-- ==== Sys2Proof/Machine/Map.lean ====
section
/-! DEFINITION. Sparse tables and byte memory: the one read and the one write of each. A table's default is a function
of the key, so a register table defaults to each register's reset value. -/

namespace Sys2Proof.Machine

open Sys2Proof

/-- The value at key `k`; an unlisted key reads as its default. -/
def mapGet {α : Type} (d : Nat → α) : Map α → Nat → α
  | [], k => d k
  | (j, v) :: m, k => if j = k then v else mapGet d m k

/-- The table without key `k`. -/
def mapErase {α : Type} : Map α → Nat → Map α
  | [], _ => []
  | (j, v) :: m, k => if j = k then mapErase m k else (j, v) :: mapErase m k

/-- Put a pair before the first larger key. -/
def mapInsert {α : Type} : Map α → Nat → α → Map α
  | [], k, v => [(k, v)]
  | (j, w) :: m, k, v => if k < j then (k, v) :: (j, w) :: m else (j, w) :: mapInsert m k v

/-- Write `v` at key `k`, keeping the canonical form: a default value removes the entry. -/
def mapSet {α : Type} [DecidableEq α] (d : Nat → α) (m : Map α) (k : Nat) (v : α) : Map α :=
  if v = d k then mapErase m k else mapInsert (mapErase m k) k v

/-- The canonical form of a table: keys strictly rising, no pair equal to its default. -/
def mapWf {α : Type} [DecidableEq α] (d : Nat → α) : Map α → Bool
  | [] => true
  | (j, v) :: m => decide (v ≠ d j) && m.all (fun p => decide (j < p.1)) && mapWf d m

/-- What an unlisted byte of the message memory, the staging memory, the boot buffer and the non-volatile store reads
as (DESIGN CHOICE, log entry 5). -/
def Memory.unlisted : Byte := 0

/-- The canonical form of a byte memory. -/
def Memory.wf (m : Memory) : Bool := mapWf (fun _ => Memory.unlisted) m

/-- Read one byte. -/
def readByte (m : Memory) (a : Nat) : Byte := mapGet (fun _ => Memory.unlisted) m a

/-- Write one byte. -/
def writeByte (m : Memory) (a : Nat) (b : Byte) : Memory := mapSet (fun _ => Memory.unlisted) m a b

/-- Write a run of bytes from address `a`. -/
def writeBytes : Memory → Nat → List Byte → Memory
  | m, _, [] => m
  | m, a, b :: bs => writeBytes (writeByte m a b) (a + 1) bs

/-- The `n` bytes from address `a`. -/
def readBytes (m : Memory) (a : Nat) : Nat → List Byte
  | 0 => []
  | n + 1 => readByte m a :: readBytes m (a + 1) n

/-- A number from little-endian bytes (R9). -/
def leNat : List Byte → Nat
  | [] => 0
  | b :: bs => b.toNat + 256 * leNat bs

/-- The `n` little-endian bytes of a number (R9). -/
def leBytes : Nat → Nat → List Byte
  | 0, _ => []
  | n + 1, v => BitVec.ofNat 8 v :: leBytes n (v / 256)

/-- The 32-bit word at byte address `a`. -/
def readW32 (m : Memory) (a : Nat) : Reg32 := BitVec.ofNat 32 (leNat (readBytes m a 4))

/-- Write a 32-bit word at byte address `a`. -/
def writeW32 (m : Memory) (a : Nat) (w : Reg32) : Memory := writeBytes m a (leBytes 4 w.toNat)

/-- The 64-bit word at byte address `a`. -/
def readW64 (m : Memory) (a : Nat) : W64 := BitVec.ofNat 64 (leNat (readBytes m a 8))

/-- Write a 64-bit word at byte address `a`. -/
def writeW64 (m : Memory) (a : Nat) (w : W64) : Memory := writeBytes m a (leBytes 8 w.toNat)

/-- Write 64-bit words in order from byte address `a`. -/
def writeW64s : Memory → Nat → List W64 → Memory
  | m, _, [] => m
  | m, a, w :: ws => writeW64s (writeW64 m a w) (a + 8) ws

/-- Saturating addition at `top`. -/
def satAdd (top n k : Nat) : Nat := min top (n + k)

/-- Keep a number within a signed range. -/
def clampInt (lo hi v : Int) : Int := max lo (min hi v)

/-- Replace element `i` of a list. -/
def updateNth {α : Type} (f : α → α) : List α → Nat → List α
  | [], _ => []
  | x :: xs, 0 => f x :: xs
  | x :: xs, i + 1 => x :: updateNth f xs i

end Sys2Proof.Machine
end

