-- ==== Sys2Proof/Machine/RegTable.lean ====
section
/-! DEFINITION. The register map (R505, R511): every register the spec names, its place, and which of its bits are
RW, RWF, W1C and WO (R516, R517), with its reset value (R522). -/

namespace Sys2Proof.Machine

open Sys2Proof

/-- The registers, by the spec's names. -/
inductive Reg where
  | idPart
  | idSerialLo
  | idSerialHi
  | idVersion
  | idTilesLo
  | idTilesHi
  | glStatus
  | glRefuse
  | glRefcnt
  | tbCtrl
  | tbStatus
  | tbLock
  | tbPolicy
  | tbCapS
  | tbCapNs
  | tbCapFe
  | tbSetS
  | tbSetNs
  | tbPhase
  | tbOffset
  | tbRampCtrl
  | tbRepl
  | tbRampRate
  | tbRampDur
  | ttCtrl
  | ttStatus
  | ttPolicy
  | ttSlew
  | ttPeriod
  | ttAsym
  | ttOffsetLo
  | ttOffsetHi
  | ttRttLo
  | ttRttHi
  | ttDone
  | ttDisc
  | lkCtrl
  | lkStatus
  | lkCfg
  | lkPll
  | lkSwS
  | lkSwNs
  | lkDnErr
  | lkCfStat
  | lkReplay
  | lkNak
  | lkStall
  | lkLong
  | lkFciCfg
  | lkFciTlo
  | lkFciThi
  | lkLane
  | lkLack
  | evCfg
  | evSum
  | evTileLo
  | evTileHi
  | evMblost
  | evStat
  | evMask
  | evRoute
  | evForce
  | mbPtr
  | mbTag
  | mbCtrl
  | mbStat
  | mbGen
  | mbHostctl
  | svFw
  | svStatus
  | secChalLo
  | secChalHi
  | secCnt
  | secFail
  | secCtrl
  | ebCfg
  | ebStatus
  | ebFree
  | ebBacklog
  | ebTacc
  | ebTref
  | ebReflast
  | ebAbsent
  | trgWin
  | trgCap
  | trgTopoLo
  | trgTopoHi
  | prCtrl
  | prStatus
  | prMap
  | prChipMask
  | prChipK
  | cfgCtrl
  | cfgStatus
  | cfgResult
  | cfgImgSeq
  | cfgLuSeq
  | cfgLuCnt
  | cfgFixS
  | cfgFixNs
  | cfgSlotA
  | cfgSlotB
  | cfgStaged
  | cfgScrub
  | cfgReloadExp
  | calCtrl
  | calStatus
  | calResult
  | calHits
  | calUni
  | calTimeout
  | calTrack
  | calNv
  | calBankSeq
  | calAgeSeq
  | csCfg
  | csByte
  | pwCtrl
  | pwStatus
  | pwBootcnt
  | pwRstcause
  | pwRegateLo
  | pwRegateHi
  | pwAwakeLo
  | pwAwakeHi
  | depCtrl
  | depStatus
  | depPolicy
  | depEngRet
  | depFailcnt
  | depMem
  | depTileRst
  | depSnapQS
  | depSnapQNs
  | depSnapDur
  | depSnapCnt
  | tcId
  | tcXbar
  | tcCapLbq
  | tcCapStat
  | tcLbRm
  | tcQsum
  | tcPt
  | tcRoStat
  | tcRoCnt
  | tcPack
  | tcHoCtrl
  | tcHoStat
  | tcHoHS
  | tcHoHNs
  | tcTemp
  | tcHoDiff
  | tqCsel
  | tqCntOvr
  | tqCntDrop
  | tqCntFlush
  | tqCntPoison
  | tqCntMfix
  | tqCntExp
  | tqCntCommit
  | chCfg
  | chThr
  | chCheck
  | chChkres
  | chChkval
  | chDest
  | chEdges
  | chRefuse
  | chCapstat
  | chTrimSel
  | chTrimVal
  | chCalStat
  | chCalInl
  | lmCtrl
  | lmMask
  | lmStateLo
  | lmStateHi
  | lmLatch
  | lmWake
  | lmStat
  | lmWin
  | tqDesc
  | tqWm
  | tqPtr
  | tqStat
  | engCfg
  | engCtxLo
  | engCtxHi
  | engStatus
  | engLoad
  | engCkpt
  | engDedup
  | engFault
  | engCtrl
  | dspCfg
  | pmAddr
  | pmDataLo
  | pmDataHi
  | cxAddr
  | cxDataLo
  | cxDataHi
  | teStat
  | teMask
  | teRoute
  deriving DecidableEq, Repr

/-- One row of the map: the register, the offset of its first copy, the number of copies and their distance, and the
masks of its RW, RWF, W1C and WO bits. -/
structure RegRow where
  reg : Reg
  base : Nat
  n : Nat
  step : Nat
  rw : Nat
  rwf : Nat
  w1c : Nat
  wo : Nat
  deriving DecidableEq, Repr

/-- Identity and global registers (R507). -/
def chipRows0 : List RegRow :=
  [⟨.idPart, 0, 1, 4, 0, 0, 0, 0⟩,
   ⟨.idSerialLo, 4, 1, 4, 0, 0, 0, 0⟩,
   ⟨.idSerialHi, 8, 1, 4, 0, 0, 0, 0⟩,
   ⟨.idVersion, 0xc, 1, 4, 0, 0, 0, 0⟩,
   ⟨.idTilesLo, 0x10, 1, 4, 0, 0, 0, 0⟩,
   ⟨.idTilesHi, 0x14, 1, 4, 0, 0, 0, 0⟩,
   ⟨.glStatus, 0x18, 1, 4, 0, 0, 0, 0⟩,
   ⟨.glRefuse, 0x1c, 1, 4, 0, 0, 0, 0⟩,
   ⟨.glRefcnt, 0x20, 1, 4, 0, 0, 0, 0⟩]

/-- Timebase and time-transfer registers (R78, R108). -/
def chipRows1 : List RegRow :=
  [⟨.tbCtrl, 0x1000, 1, 4, 7, 0, 0, 0x18⟩,
   ⟨.tbStatus, 0x1004, 1, 4, 0, 0, 0, 0⟩,
   ⟨.tbLock, 0x1008, 1, 4, 0, 0xffff007f, 0, 0⟩,
   ⟨.tbPolicy, 0x100c, 1, 4, 0, 0x3ff0fff1, 0, 0⟩,
   ⟨.tbCapS, 0x1010, 1, 4, 0, 0, 0, 0⟩,
   ⟨.tbCapNs, 0x1014, 1, 4, 0, 0, 0, 0⟩,
   ⟨.tbCapFe, 0x1018, 1, 4, 0, 0, 0, 0⟩,
   ⟨.tbSetS, 0x1020, 1, 4, 0xffffffff, 0, 0, 0⟩,
   ⟨.tbSetNs, 0x1024, 1, 4, 0x3fffffff, 0, 0, 0⟩,
   ⟨.tbPhase, 0x1030, 1, 4, 0, 0, 0, 0⟩,
   ⟨.tbOffset, 0x1034, 1, 4, 0, 0, 0, 0⟩,
   ⟨.tbRampCtrl, 0x1040, 1, 4, 0xf0, 0, 0, 3⟩,
   ⟨.tbRepl, 0x1050, 1, 4, 0, 0, 0, 0⟩,
   ⟨.tbRampRate, 0x1100, 16, 8, 0xffffffff, 0, 0, 0⟩,
   ⟨.tbRampDur, 0x1104, 16, 8, 0xffffffff, 0, 0, 0⟩,
   ⟨.ttCtrl, 0x2000, 1, 4, 3, 0, 0, 4⟩,
   ⟨.ttStatus, 0x2004, 1, 4, 0, 0, 0, 0⟩,
   ⟨.ttPolicy, 0x2008, 1, 4, 0, 0xfffffff1, 0, 0⟩,
   ⟨.ttSlew, 0x200c, 1, 4, 0, 0xffffff, 0, 0⟩,
   ⟨.ttPeriod, 0x2010, 1, 4, 0, 0xffff, 0, 0⟩,
   ⟨.ttAsym, 0x2014, 1, 4, 0xffffffff, 0, 0, 0⟩,
   ⟨.ttOffsetLo, 0x2018, 1, 4, 0, 0, 0, 0⟩,
   ⟨.ttOffsetHi, 0x201c, 1, 4, 0, 0, 0, 0⟩,
   ⟨.ttRttLo, 0x2020, 1, 4, 0, 0, 0, 0⟩,
   ⟨.ttRttHi, 0x2024, 1, 4, 0, 0, 0, 0⟩,
   ⟨.ttDone, 0x2030, 1, 4, 0, 0, 0, 0⟩,
   ⟨.ttDisc, 0x2034, 1, 4, 0, 0, 0, 0⟩]

/-- Link and event registers (R358, R485). -/
def chipRows2 : List RegRow :=
  [⟨.lkCtrl, 0x3000, 1, 4, 0, 0, 0, 3⟩,
   ⟨.lkStatus, 0x3004, 1, 4, 0, 0, 0, 0⟩,
   ⟨.lkCfg, 0x3008, 1, 4, 0, 0x1f, 0, 0⟩,
   ⟨.lkPll, 0x300c, 1, 4, 0, 0x3ffff, 0, 0⟩,
   ⟨.lkSwS, 0x3010, 1, 4, 0xffffffff, 0, 0, 0⟩,
   ⟨.lkSwNs, 0x3014, 1, 4, 0x3fffffff, 0, 0, 0⟩,
   ⟨.lkDnErr, 0x3018, 1, 4, 0, 0, 0, 0⟩,
   ⟨.lkCfStat, 0x301c, 1, 4, 0, 0, 0, 0⟩,
   ⟨.lkReplay, 0x3020, 1, 4, 0, 0, 0, 0⟩,
   ⟨.lkNak, 0x3024, 1, 4, 0, 0, 0, 0⟩,
   ⟨.lkStall, 0x3028, 1, 4, 0, 0, 0, 0⟩,
   ⟨.lkLong, 0x302c, 1, 4, 0, 0, 0, 0⟩,
   ⟨.lkFciCfg, 0x3040, 4, 16, 0, 0xffff0001, 0, 0⟩,
   ⟨.lkFciTlo, 0x3044, 4, 16, 0, 0xffffffff, 0, 0⟩,
   ⟨.lkFciThi, 0x3048, 4, 16, 0, 0xffffffff, 0, 0⟩,
   ⟨.lkLane, 0x3100, 8, 16, 0, 0, 0, 0⟩,
   ⟨.lkLack, 0x3104, 8, 16, 0, 0, 0, 0⟩,
   ⟨.evCfg, 0x4000, 1, 4, 0x7f, 0, 0, 0⟩,
   ⟨.evSum, 0x4004, 1, 4, 0, 0, 0, 0⟩,
   ⟨.evTileLo, 0x4008, 1, 4, 0, 0, 0, 0⟩,
   ⟨.evTileHi, 0x400c, 1, 4, 0, 0, 0, 0⟩,
   ⟨.evMblost, 0x4010, 1, 4, 0, 0, 0, 0⟩,
   ⟨.evStat, 0x4020, 4, 4, 0, 0, 0xffffffff, 0⟩,
   ⟨.evMask, 0x4030, 4, 4, 0xffffffff, 0, 0, 0⟩,
   ⟨.evRoute, 0x4040, 32, 4, 0x1f1f1f1f, 0, 0, 0⟩,
   ⟨.evForce, 0x4100, 1, 4, 0, 0, 0, 0xfff⟩]

/-- Mailbox, supervisor, trigger and prompt registers (R484, R310). -/
def chipRows3 : List RegRow :=
  [⟨.mbPtr, 0x5000, 96, 16, 0xffffffff, 0, 0, 0⟩,
   ⟨.mbTag, 0x5004, 96, 16, 0xffff, 0, 0, 0⟩,
   ⟨.mbCtrl, 0x5008, 96, 16, 0, 0, 0, 3⟩,
   ⟨.mbStat, 0x500c, 96, 16, 0, 0, 0, 0⟩,
   ⟨.mbGen, 0x5800, 1, 4, 0, 0, 0, 0⟩,
   ⟨.mbHostctl, 0x5804, 1, 4, 0, 0, 0, 1⟩,
   ⟨.svFw, 0x5808, 1, 4, 0, 0, 0, 0⟩,
   ⟨.svStatus, 0x580c, 1, 4, 0, 0, 0, 0⟩,
   ⟨.secChalLo, 0x5820, 1, 4, 0, 0, 0, 0⟩,
   ⟨.secChalHi, 0x5824, 1, 4, 0, 0, 0, 0⟩,
   ⟨.secCnt, 0x5828, 1, 4, 0, 0, 0, 0⟩,
   ⟨.secFail, 0x582c, 1, 4, 0, 0, 0, 0⟩,
   ⟨.secCtrl, 0x5830, 1, 4, 0, 0, 0, 1⟩,
   ⟨.ebCfg, 0x6000, 1, 4, 0, 0xf, 0, 0⟩,
   ⟨.ebStatus, 0x6004, 1, 4, 0, 0, 0, 0⟩,
   ⟨.ebFree, 0x6008, 1, 4, 0, 0, 0, 0⟩,
   ⟨.ebBacklog, 0x600c, 1, 4, 0, 0, 0, 0⟩,
   ⟨.ebTacc, 0x6010, 1, 4, 0, 0, 0, 0⟩,
   ⟨.ebTref, 0x6014, 1, 4, 0, 0, 0, 0⟩,
   ⟨.ebReflast, 0x6018, 1, 4, 0, 0, 0, 0⟩,
   ⟨.ebAbsent, 0x601c, 1, 4, 0, 0, 0, 0⟩,
   ⟨.trgWin, 0x6100, 12, 16, 0, 0xfffffff, 0, 0⟩,
   ⟨.trgCap, 0x6104, 12, 16, 0, 0x103ff, 0, 0⟩,
   ⟨.trgTopoLo, 0x6108, 12, 16, 0, 0xffffffff, 0, 0⟩,
   ⟨.trgTopoHi, 0x610c, 12, 16, 0, 0xffffffff, 0, 0⟩,
   ⟨.prCtrl, 0x6400, 1, 4, 0x1ffff, 0, 0, 0⟩,
   ⟨.prStatus, 0x6404, 1, 4, 0, 0, 0, 0⟩,
   ⟨.prMap, 0x6500, 128, 4, 0, 0x1ff01ff, 0, 0⟩,
   ⟨.prChipMask, 0x6700, 64, 4, 0, 0xffffffff, 0, 0⟩,
   ⟨.prChipK, 0x6800, 8, 4, 0, 0xff, 0, 0⟩]

/-- Configuration, calibration and contact-sheet registers (R428, R391, R506). -/
def chipRows4 : List RegRow :=
  [⟨.cfgCtrl, 0x7000, 1, 4, 3, 0, 0, 0x3f0⟩,
   ⟨.cfgStatus, 0x7004, 1, 4, 0, 0, 0, 0⟩,
   ⟨.cfgResult, 0x7008, 1, 4, 0, 0, 0, 0⟩,
   ⟨.cfgImgSeq, 0x700c, 1, 4, 0, 0, 0, 0⟩,
   ⟨.cfgLuSeq, 0x7010, 1, 4, 0, 0, 0, 0⟩,
   ⟨.cfgLuCnt, 0x7014, 1, 4, 0, 0, 0, 0⟩,
   ⟨.cfgFixS, 0x7018, 1, 4, 0xffffffff, 0, 0, 0⟩,
   ⟨.cfgFixNs, 0x701c, 1, 4, 0x3fffffff, 0, 0, 0⟩,
   ⟨.cfgSlotA, 0x7020, 1, 4, 0, 0, 0, 0⟩,
   ⟨.cfgSlotB, 0x7024, 1, 4, 0, 0, 0, 0⟩,
   ⟨.cfgStaged, 0x7028, 1, 4, 0, 0, 0, 0⟩,
   ⟨.cfgScrub, 0x702c, 1, 4, 0, 0, 0, 0⟩,
   ⟨.cfgReloadExp, 0x7030, 1, 4, 0, 0, 0, 0⟩,
   ⟨.calCtrl, 0x8000, 1, 4, 0x37fff, 0, 0, 0x300000⟩,
   ⟨.calStatus, 0x8004, 1, 4, 0, 0, 0, 0⟩,
   ⟨.calResult, 0x8008, 1, 4, 0, 0, 0, 0⟩,
   ⟨.calHits, 0x800c, 1, 4, 0, 0, 0, 0⟩,
   ⟨.calUni, 0x8010, 1, 4, 0, 0, 0, 0⟩,
   ⟨.calTimeout, 0x8014, 1, 4, 0xffff, 0, 0, 0⟩,
   ⟨.calTrack, 0x8018, 1, 4, 0, 0xff01ff, 0, 0⟩,
   ⟨.calNv, 0x801c, 1, 4, 0, 0, 0, 0⟩,
   ⟨.calBankSeq, 0x8020, 1, 4, 0, 0, 0, 0⟩,
   ⟨.calAgeSeq, 0x8024, 1, 4, 0, 0, 0, 0⟩,
   ⟨.csCfg, 0x8040, 1, 4, 0, 0xffffffff, 0, 0⟩,
   ⟨.csByte, 0x8800, 272, 4, 0, 0, 0xa0a0a0a0, 0⟩]

/-- Power and dependability registers (R503, R452). -/
def chipRows5 : List RegRow :=
  [⟨.pwCtrl, 0x9000, 1, 4, 0, 0, 0, 0xf⟩,
   ⟨.pwStatus, 0x9004, 1, 4, 0, 0, 0, 0⟩,
   ⟨.pwBootcnt, 0x9008, 1, 4, 0, 0, 0, 0⟩,
   ⟨.pwRstcause, 0x900c, 1, 4, 0, 0, 0, 0⟩,
   ⟨.pwRegateLo, 0x9010, 1, 4, 0, 0, 0, 0xffffffff⟩,
   ⟨.pwRegateHi, 0x9014, 1, 4, 0, 0, 0, 0xffffffff⟩,
   ⟨.pwAwakeLo, 0x9018, 1, 4, 0, 0, 0, 0⟩,
   ⟨.pwAwakeHi, 0x901c, 1, 4, 0, 0, 0, 0⟩,
   ⟨.depCtrl, 0xa000, 1, 4, 0, 0, 0, 1⟩,
   ⟨.depStatus, 0xa004, 1, 4, 0, 0, 0, 0⟩,
   ⟨.depPolicy, 0xa008, 1, 4, 0, 0xf1fc003, 0, 0⟩,
   ⟨.depEngRet, 0xa00c, 1, 4, 0, 0, 0, 0x7ff⟩,
   ⟨.depFailcnt, 0xa010, 1, 4, 0, 0, 0, 0⟩,
   ⟨.depMem, 0xa014, 1, 4, 0, 0, 0, 0⟩,
   ⟨.depTileRst, 0xa018, 1, 4, 0, 0, 0, 0x7f⟩,
   ⟨.depSnapQS, 0xa020, 1, 4, 0, 0, 0, 0⟩,
   ⟨.depSnapQNs, 0xa024, 1, 4, 0, 0, 0, 0⟩,
   ⟨.depSnapDur, 0xa028, 1, 4, 0, 0, 0, 0⟩,
   ⟨.depSnapCnt, 0xa02c, 1, 4, 0, 0, 0, 0⟩]

/-- All chip registers. -/
def chipRows : List RegRow := chipRows0 ++ chipRows1 ++ chipRows2 ++ chipRows3 ++ chipRows4 ++ chipRows5

/-- Tile registers: crossbar, capture, read-out, handover, queue counters (R511). -/
def tileRows0 : List RegRow :=
  [⟨.tcId, 0, 1, 4, 0, 0, 0, 0⟩,
   ⟨.tcXbar, 0x40, 1, 4, 0x1f, 0, 0, 0⟩,
   ⟨.tcCapLbq, 0x50, 1, 4, 0, 0xff, 0, 0⟩,
   ⟨.tcCapStat, 0x54, 1, 4, 0, 0, 0, 0⟩,
   ⟨.tcLbRm, 0x58, 1, 4, 0, 0, 0, 0⟩,
   ⟨.tcQsum, 0x5c, 1, 4, 0, 0, 0, 0⟩,
   ⟨.tcPt, 0x60, 4, 4, 0, 0x1ffffff, 0, 0⟩,
   ⟨.tcRoStat, 0x70, 1, 4, 0, 0, 0, 0⟩,
   ⟨.tcRoCnt, 0x74, 1, 4, 0, 0, 0, 0⟩,
   ⟨.tcPack, 0x80, 1, 4, 0, 0x1ff, 0, 0⟩,
   ⟨.tcHoCtrl, 0x90, 1, 4, 0xffff001f, 0, 0, 0x60⟩,
   ⟨.tcHoStat, 0x94, 1, 4, 0, 0, 0, 0⟩,
   ⟨.tcHoHS, 0x98, 1, 4, 0, 0, 0, 0⟩,
   ⟨.tcHoHNs, 0x9c, 1, 4, 0, 0, 0, 0⟩,
   ⟨.tcTemp, 0xa0, 1, 4, 0, 0, 0, 0⟩,
   ⟨.tcHoDiff, 0xa4, 1, 4, 0, 0, 0, 0⟩,
   ⟨.tqCsel, 0x100, 1, 4, 0xff, 0, 0, 0⟩,
   ⟨.tqCntOvr, 0x104, 1, 4, 0, 0, 0, 0⟩,
   ⟨.tqCntDrop, 0x108, 1, 4, 0, 0, 0, 0⟩,
   ⟨.tqCntFlush, 0x10c, 1, 4, 0, 0, 0, 0⟩,
   ⟨.tqCntPoison, 0x110, 1, 4, 0, 0, 0, 0⟩,
   ⟨.tqCntMfix, 0x114, 1, 4, 0, 0, 0, 0⟩,
   ⟨.tqCntExp, 0x118, 1, 4, 0, 0, 0, 0⟩,
   ⟨.tqCntCommit, 0x11c, 1, 4, 0, 0, 0, 0⟩]

/-- Channel and level-monitor registers (R120, R166, R391, R143). -/
def tileRows1 : List RegRow :=
  [⟨.chCfg, 0x400, 17, 64, 0xf, 0, 0, 0⟩,
   ⟨.chThr, 0x404, 17, 64, 0x3ff, 0, 0, 0⟩,
   ⟨.chCheck, 0x408, 17, 64, 0xff02, 0, 0, 1⟩,
   ⟨.chChkres, 0x40c, 17, 64, 0, 0, 0, 0⟩,
   ⟨.chChkval, 0x410, 17, 64, 0, 0, 0, 0⟩,
   ⟨.chDest, 0x414, 17, 64, 0, 0x3ff, 0, 0⟩,
   ⟨.chEdges, 0x418, 17, 64, 0, 0, 0, 0⟩,
   ⟨.chRefuse, 0x41c, 17, 64, 0, 0, 0, 0⟩,
   ⟨.chCapstat, 0x420, 17, 64, 0, 0, 0x10000, 0x20000⟩,
   ⟨.chTrimSel, 0x424, 17, 64, 0x7f, 0, 0, 0⟩,
   ⟨.chTrimVal, 0x428, 17, 64, 0, 0, 0, 0⟩,
   ⟨.chCalStat, 0x42c, 17, 64, 0, 0, 0, 0⟩,
   ⟨.chCalInl, 0x430, 17, 64, 0, 0, 0, 0⟩,
   ⟨.lmCtrl, 0x840, 1, 4, 0xffffff03, 0, 0, 0⟩,
   ⟨.lmMask, 0x844, 1, 4, 0x1f1fffff, 0, 0, 0⟩,
   ⟨.lmStateLo, 0x848, 1, 4, 0, 0, 0, 0⟩,
   ⟨.lmStateHi, 0x84c, 1, 4, 0, 0, 0, 0⟩,
   ⟨.lmLatch, 0x850, 1, 4, 0, 0, 0x1fffff, 0⟩,
   ⟨.lmWake, 0x854, 1, 4, 0x1fffff, 0, 0, 0⟩,
   ⟨.lmStat, 0x858, 1, 4, 0, 0, 0, 0⟩,
   ⟨.lmWin, 0x880, 21, 4, 0x3ffffff, 0, 0, 0⟩]

/-- Queue, engine, dispatcher and event registers of a tile (R246, R241, R485). -/
def tileRows2 : List RegRow :=
  [⟨.tqDesc, 0x1000, 256, 16, 0, 0xfff1ff, 0, 0⟩,
   ⟨.tqWm, 0x1004, 256, 16, 0, 0x1fffffff, 0, 0⟩,
   ⟨.tqPtr, 0x1008, 256, 16, 0, 0, 0, 0⟩,
   ⟨.tqStat, 0x100c, 256, 16, 0, 0, 0x3c00000, 0xc000000⟩,
   ⟨.engCfg, 0x2000, 9, 64, 0, 0x3fffffff, 0, 0⟩,
   ⟨.engCtxLo, 0x2004, 9, 64, 0, 0xffffffff, 0, 0⟩,
   ⟨.engCtxHi, 0x2008, 9, 64, 0, 0xffffffff, 0, 0⟩,
   ⟨.engStatus, 0x200c, 9, 64, 0, 0, 0, 0⟩,
   ⟨.engLoad, 0x2010, 9, 64, 0, 0, 0, 0⟩,
   ⟨.engCkpt, 0x2014, 9, 64, 0, 0, 0, 0⟩,
   ⟨.engDedup, 0x2018, 9, 64, 0, 0, 0, 0⟩,
   ⟨.engFault, 0x201c, 9, 64, 0, 0, 0, 0⟩,
   ⟨.engCtrl, 0x2020, 9, 64, 0, 0, 0, 7⟩,
   ⟨.dspCfg, 0x2400, 1, 4, 0, 0x1ff, 0, 0⟩,
   ⟨.pmAddr, 0x2410, 1, 4, 0x7ff, 0, 0, 0⟩,
   ⟨.pmDataLo, 0x2414, 1, 4, 0, 0, 0, 0⟩,
   ⟨.pmDataHi, 0x2418, 1, 4, 0, 0, 0, 0⟩,
   ⟨.cxAddr, 0x2420, 1, 4, 0x1fff, 0, 0, 0⟩,
   ⟨.cxDataLo, 0x2424, 1, 4, 0, 0, 0, 0⟩,
   ⟨.cxDataHi, 0x2428, 1, 4, 0, 0, 0, 0⟩,
   ⟨.teStat, 0x3000, 1, 4, 0, 0, 0xffff, 0⟩,
   ⟨.teMask, 0x3004, 1, 4, 0xffff, 0, 0, 0⟩,
   ⟨.teRoute, 0x3010, 4, 4, 0x1f1f1f1f, 0, 0, 0⟩]

/-- All registers of a tile, by tile offset. -/
def tileRows : List RegRow := tileRows0 ++ tileRows1 ++ tileRows2

/-- The copy of a row's register that lies at offset `o`. -/
def RegRow.index (r : RegRow) (o : Nat) : Option Nat :=
  if r.base ≤ o ∧ (o - r.base) % r.step = 0 ∧ (o - r.base) / r.step < r.n then some ((o - r.base) / r.step) else none

/-- The row and copy at offset `o`. -/
def findRow : List RegRow → Nat → Option (RegRow × Nat)
  | [], _ => none
  | r :: rs, o => match r.index o with
    | some i => some (r, i)
    | none => findRow rs o

/-- A register found at an address: its row, its copy, and its tile where it lies in a tile block. -/
structure RegAt where
  row : RegRow
  i : Nat
  tile : Option Nat
  deriving DecidableEq, Repr

/-- First address of tile `t` (R505). -/
def tileBase (t : Nat) : Nat := 0x100000 + t * 0x4000

/-- The tile whose block holds an address (R505). -/
def tileOf (a : Nat) : Option Nat := if 0x100000 ≤ a ∧ a < 0x200000 then some ((a - 0x100000) / 0x4000) else none

/-- The register at an address; none where the address is unmapped (R505, R511). -/
def regAt (a : Nat) : Option RegAt :=
  match tileOf a with
  | some t => (findRow tileRows ((a - 0x100000) % 0x4000)).map (fun p => ⟨p.1, p.2, some t⟩)
  | none => (findRow chipRows a).map (fun p => ⟨p.1, p.2, none⟩)

/-- Sources marked F in the tables of R480 and R481. -/
def isFSource (k : Nat) : Bool :=
  if k < 1024 then k % 16 = 6 || k % 16 = 7 else k = 1024 + 17 || k = 1024 + 24 || k = 1024 + 27

/-- Reset value of a route register: 0x01 in each byte, 0x05 for F sources (R485). -/
def routeReset (k0 : Nat) : Nat :=
  let b := fun j => if isFSource (k0 + j) then 5 else 1
  b 0 + b 1 * 2 ^ 8 + b 2 * 2 ^ 16 + b 3 * 2 ^ 24

/-- The reset value of an RW or RWF register (the Reset columns). -/
def Reg.resetNat (r : Reg) (i : Nat) : Nat :=
  match r with
  | .tbLock => 0x10000008
  | .tbPolicy => 0x6400fa0
  | .ttCtrl => 3
  | .ttPolicy => 0xc81040
  | .ttSlew => 0x3e8
  | .ttPeriod => 0x3e8
  | .lkCfg => 4
  | .lkPll => 0x5a3c
  | .evCfg => 0x18
  | .ebCfg => 6
  | .prCtrl => 0xffff
  | .calCtrl => 0x12000
  | .calTimeout => 0x3e8
  | .calTrack => 0x10010a
  | .csCfg => 0x190330a
  | .depPolicy => 0x4100003
  | .tcXbar => 0x1f
  | .tcHoCtrl => 0x3e80000
  | .chThr => 0x200
  | .chCheck => 0x2000
  | .chDest => 0x200
  | .lmCtrl => 0x10100000
  | .lmWin => 0x4ffc00
  | .dspCfg => 0x40
  | .evRoute => routeReset (1024 + 4 * i)
  | .teRoute => routeReset (4 * i)
  | .prMap => (2 * i + 1) * 2 ^ 16 + 2 * i
  | .tcPt => 0x610000 + 0xF * 16 ^ i
  | _ => 0

/-- The value an RW or RWF register at address `a` has after reset. -/
def resetValue (a : Nat) : Reg32 :=
  match regAt a with
  | some r => BitVec.ofNat 32 (r.row.reg.resetNat r.i)
  | none => 0

/-- The copy in force of the RW or RWF register at address `a`. -/
def State.rv (s : State) (a : Nat) : Nat := (mapGet resetValue s.regs a).toNat

/-- Set the stored register at address `a`. -/
def State.setReg (s : State) (a : Nat) (w : Reg32) : State := { s with regs := mapSet resetValue s.regs a w }

/-- Bits [hi:lo] of a number. -/
def bits (n hi lo : Nat) : Nat := n / 2 ^ lo % 2 ^ (hi + 1 - lo)

/-- Bit `i` of a number, as a truth value. -/
def bit (n i : Nat) : Bool := n / 2 ^ i % 2 = 1

/-- A field of a stored chip register. -/
def State.fld (s : State) (a hi lo : Nat) : Nat := bits (s.rv a) hi lo

/-- A field of a stored register of tile `t`, by tile offset. -/
def State.tfld (s : State) (t o hi lo : Nat) : Nat := bits (s.rv (tileBase t + o)) hi lo

end Sys2Proof.Machine
end

