-- ==== Sys2Proof/Machine/Records.lean ====
section
/-! DEFINITION. The 64-bit records the block puts on its streams and queues, one builder per layout, and the check
codes of the links (R331, R332). -/

namespace Sys2Proof.Machine

open Sys2Proof

/-- A word from its fields, each given as lowest bit, width and value; a value is cut to its width. -/
def packW : List (Nat × Nat × Nat) → Nat
  | [] => 0
  | (lo, w, v) :: fs => v % 2 ^ w * 2 ^ lo + packW fs

/-- A 64-bit record from its fields. -/
def rec64 (fs : List (Nat × Nat × Nat)) : W64 := BitVec.ofNat 64 (packW fs)

/-- Bits [hi:lo] of a word. -/
def fieldOf (w : W64) (hi lo : Nat) : Nat := bits w.toNat hi lo

/-- A truth value as a bit. -/
def b2n (b : Bool) : Nat := if b then 1 else 0

/-- A signed number from its low `n` bits. -/
def signed (n v : Nat) : Int := if v % 2 ^ n < 2 ^ (n - 1) then (v % 2 ^ n : Nat) else (v % 2 ^ n : Nat) - (2 ^ n : Nat)

/-- A signed number as its two's complement in `n` bits. -/
def twos (n : Nat) (v : Int) : Nat := (v % (2 ^ n : Nat)).toNat

/-- TYPE, the top three bits of a record. -/
def recType (w : W64) : Nat := fieldOf w 63 61

/-- CODE of a marker or status record. -/
def recCode (w : W64) : Nat := fieldOf w 60 56

/-- The seconds marker (R51). -/
def secondsMarker (epoch : Nat) (cs st : Bool) (secs : Nat) : W64 :=
  rec64 [(61, 3, 4), (56, 5, 1), (52, 4, epoch), (51, 1, b2n cs), (50, 1, b2n st), (0, 32, secs)]

/-- The epoch-change marker (R52). -/
def epochMarker (new old cause ns : Nat) : W64 :=
  rec64 [(61, 3, 4), (56, 5, 2), (52, 4, new), (48, 4, old), (40, 8, cause), (0, 30, ns)]

/-- The gap marker (R207). -/
def gapMarker (fin : Bool) (epoch : Nat) (t : Time) : W64 :=
  rec64 [(61, 3, 4), (56, 5, 3), (52, 4, 1), (51, 1, b2n fin), (47, 4, epoch), (40, 7, t.s), (10, 30, t.ns), (0, 10, t.fine)]

/-- The snapshot-gap marker (R450). -/
def snapMarker (epoch new : Nat) (src : Bool) (q : Time) : W64 :=
  rec64 [(61, 3, 4), (56, 5, 4), (52, 4, epoch), (48, 4, new), (47, 1, b2n src), (40, 7, q.s), (10, 30, q.ns)]

/-- The handover marker (R388). -/
def handoverMarker (input : Nat) (dir : Bool) (epoch : Nat) (h : Time) (matched unmOut unmIn : Nat) : W64 :=
  rec64 [(61, 3, 4), (56, 5, 5), (52, 4, input), (51, 1, b2n dir), (47, 4, epoch), (40, 7, h.s), (10, 30, h.ns),
    (6, 4, min 15 matched), (3, 3, min 7 unmOut), (0, 3, min 7 unmIn)]

/-- The stream-restart marker (R501). -/
def restartMarker (cause tile eng epoch boot : Nat) : W64 :=
  rec64 [(61, 3, 4), (56, 5, 6), (52, 4, cause), (46, 6, tile), (42, 4, eng), (38, 4, epoch), (0, 32, boot)]

/-- The hit record (R163). -/
def hitRecord (input : Nat) (sp e cs st iu lg : Bool) (epoch : Nat) (t : Time) : W64 :=
  rec64 [(61, 3, 1), (57, 4, input), (56, 1, b2n sp), (55, 1, b2n e), (54, 1, b2n cs), (53, 1, b2n st), (52, 1, b2n iu),
    (51, 1, b2n lg), (47, 4, epoch), (40, 7, t.s), (10, 30, t.ns), (0, 10, t.fine)]

/-- The level record (R140). -/
def levelRecord (source epoch : Nat) (t : Time) (state prev : Nat) : W64 :=
  rec64 [(61, 3, 7), (56, 5, 8), (51, 5, source), (47, 4, epoch), (40, 7, t.s), (10, 30, t.ns), (8, 2, state), (6, 2, prev)]

/-- The poison record (R267). -/
def poisonRecord (queue first count len : Nat) : W64 :=
  rec64 [(61, 3, 7), (56, 5, 9), (48, 8, queue), (32, 16, first), (16, 16, count), (0, 16, len)]

/-- The answer record: TACC or TREF (R292). -/
def answerRecord (acc : Bool) (id tcode reason epoch size : Nat) : W64 :=
  rec64 [(61, 3, 7), (56, 5, if acc then 16 else 17), (32, 24, id), (28, 4, tcode), (24, 4, reason), (20, 4, epoch), (0, 20, size)]

/-- The fragment header (R301). -/
def fragmentHeader (tile status : Nat) (capped lgs : Bool) (resv deliv poison count : Nat) : W64 :=
  rec64 [(61, 3, 6), (55, 6, tile), (52, 3, status), (51, 1, b2n capped), (50, 1, b2n lgs), (40, 10, resv), (30, 10, deliv),
    (24, 6, min 63 poison), (0, 16, min 65535 count)]

/-- The control response record (R326). -/
def responseRecord (tag op status len first : Nat) : W64 :=
  rec64 [(61, 3, 7), (56, 5, 20), (48, 8, tag), (44, 4, op), (40, 4, status), (30, 10, len), (20, 10, first)]

/-- The block-close record (R340). -/
def blockCloseRecord (block : Nat) : W64 := rec64 [(61, 3, 7), (56, 5, 21), (32, 24, block)]

/-- The sync record (R319). -/
def syncRecord (v : Nat) : W64 := rec64 [(61, 3, 7), (56, 5, 22), (32, 24, v)]

/-- The alert record (R478). -/
def alertRecord (source epoch : Nat) (unmask : Bool) : W64 :=
  rec64 [(61, 3, 7), (56, 5, 2), (45, 11, source), (41, 4, epoch), (40, 1, b2n unmask)]

/-- The time word of an alert (R478). -/
def alertTime (t : Time) : W64 := rec64 [(32, 32, t.s), (0, 30, t.ns)]

/-- The mailbox notice record (R459). -/
def noticeRecord (ch : Nat) (empty : Bool) (gen tag ptr : Nat) : W64 :=
  rec64 [(61, 3, 7), (56, 5, 3), (49, 7, ch), (48, 1, b2n empty), (40, 8, gen), (24, 16, tag), (0, 24, ptr)]

/-- One bit of a reflected CRC. -/
def crcBit (poly : Nat) (c : Nat) : Nat := if c % 2 = 1 then Nat.xor (c / 2) poly else c / 2

/-- One byte into a CRC-32C, low bit first (R332). -/
def crc32cByte (c : Nat) (b : Byte) : Nat :=
  (List.range 8).foldl (fun a _ => crcBit 0x82F63B78 a) (Nat.xor c b.toNat)

/-- The CRC-32C of a byte string (R332). -/
def crc32c (bs : List Byte) : Nat := Nat.xor (bs.foldl crc32cByte 0xFFFFFFFF) 0xFFFFFFFF

/-- One byte into the CRC-8 of LSEQ (R331). -/
def crc8Byte (c : Nat) (b : Byte) : Nat :=
  (List.range 8).foldl (fun a _ => if a / 128 % 2 = 1 then Nat.xor (a * 2 % 256) 7 else a * 2 % 256) (Nat.xor c b.toNat)

/-- LCHK over the three bytes of LSEQ, low byte first (R331). -/
def lchk (lseq : Nat) : Nat := (leBytes 3 lseq).foldl crc8Byte 0

/-- The bytes of words, each low byte first (R9). -/
def wordBytes (ws : List W64) : List Byte := ws.flatMap (fun w => leBytes 8 w.toNat)

/-- The header word of a link frame (R330). -/
def Frame.header (f : Frame) : W64 := rec64 [(56, 8, f.cls), (48, 8, f.idx), (32, 16, f.words.length), (0, 32, f.seq)]

/-- The trailer word of a link frame sent with `lseq` (R330). -/
def Frame.trailer (f : Frame) (lseq : Nat) : W64 :=
  rec64 [(40, 24, lseq), (32, 8, lchk lseq), (0, 32, crc32c (wordBytes (f.header :: f.words)))]

/-- All words of a link frame as a lane sends it (R330). -/
def Frame.sentWords (f : Frame) (lseq : Nat) : List W64 := f.header :: (f.words ++ [f.trailer lseq])

end Sys2Proof.Machine
end

