-- ==== Sys2Proof/Machine/Ops.lean ====
section
/-! DEFINITION. The named operations every family shares: reaching a tile, channel, queue or engine; device time; the
log; event sources with their routes; streams; refused register writes. -/

namespace Sys2Proof.Machine

open Sys2Proof

/-! ### Reaching the parts of the block -/

/-- Tiles of the part (R1 to R4). -/
def State.nTiles (s : State) : Nat :=
  match s.part with
  | .t1024 => 64
  | .t256 => 16

/-- Uplink lanes of the part (R6, R313). -/
def State.nLanes (s : State) : Nat :=
  match s.part with
  | .t1024 => 8
  | .t256 => 2

/-- The tile is enabled on the part (R4). -/
def State.onPart (s : State) (t : Nat) : Bool := decide (t < s.nTiles)

/-- The device is out of POR and RESET_N, its clocks run, and it takes commands from more than the factory's tester
(R406, R446, R494). -/
def State.up (s : State) : Bool := !(s.phase = .porHeld || s.phase = .rstHeld || s.phase = .factory || s.dep.frozen)

/-- Tile `t`. -/
def State.tile (s : State) (t : Nat) : Tile := mapGet (fun _ => {}) s.tiles t

/-- Replace tile `t`. -/
def State.setTile (s : State) (t : Nat) (x : Tile) : State := { s with tiles := mapSet (fun _ => {}) s.tiles t x }

/-- Change tile `t`. -/
def State.modTile (s : State) (t : Nat) (f : Tile → Tile) : State := s.setTile t (f (s.tile t))

/-- Channel `c` of a tile. -/
def Tile.chan (x : Tile) (c : Nat) : Chan := mapGet (fun _ => {}) x.chans c

/-- Replace channel `c`. -/
def Tile.setChan (x : Tile) (c : Nat) (y : Chan) : Tile := { x with chans := mapSet (fun _ => {}) x.chans c y }

/-- Queue `q` of a tile. -/
def Tile.queue (x : Tile) (q : Nat) : Queue := mapGet (fun _ => {}) x.qs q

/-- Replace queue `q`. -/
def Tile.setQueue (x : Tile) (q : Nat) (y : Queue) : Tile := { x with qs := mapSet (fun _ => {}) x.qs q y }

/-- Engine `e` of a tile right after reset: engine 8 serves no engine, code 15 (R242). -/
def Engine.fresh (e : Nat) : Engine := if e = 8 then { serving := 15 } else {}

/-- Engine `e` of a tile. -/
def Tile.eng (x : Tile) (e : Nat) : Engine := mapGet Engine.fresh x.engs e

/-- Replace engine `e`. -/
def Tile.setEng (x : Tile) (e : Nat) (y : Engine) : Tile := { x with engs := mapSet Engine.fresh x.engs e y }

/-- Context `c` of a tile, as the dispatcher keeps it. -/
def Tile.ctx (x : Tile) (c : Nat) : Ctx := mapGet (fun _ => {}) x.ctxs c

/-- Replace the dispatcher's state for context `c`. -/
def Tile.setCtx (x : Tile) (c : Nat) (y : Ctx) : Tile := { x with ctxs := mapSet (fun _ => {}) x.ctxs c y }

/-- Change channel `c` of tile `t`. -/
def State.modChan (s : State) (t c : Nat) (f : Chan → Chan) : State :=
  s.modTile t (fun x => x.setChan c (f (x.chan c)))

/-- Change queue `q` of tile `t`. -/
def State.modQueue (s : State) (t q : Nat) (f : Queue → Queue) : State :=
  s.modTile t (fun x => x.setQueue q (f (x.queue q)))

/-- Change engine `e` of tile `t`. -/
def State.modEng (s : State) (t e : Nat) (f : Engine → Engine) : State :=
  s.modTile t (fun x => x.setEng e (f (x.eng e)))

/-- Change context `c` of tile `t`. -/
def State.modCtx (s : State) (t c : Nat) (f : Ctx → Ctx) : State :=
  s.modTile t (fun x => x.setCtx c (f (x.ctx c)))

/-- Apply an operation for each key of a list, in order. -/
def forKeys (ks : List Nat) (f : Nat → State → State) (s : State) : State := ks.foldl (fun a k => f k a) s

/-- The outcome of a command on the chip: its effect where the device is up, no effect otherwise (log entry 1). -/
def onChip (s : State) (f : State → State) : Host.Outcome State Fault Refusal := .next (if s.up then f s else s)

/-- The outcome of a command on a tile (R4, R16): a fault where no part has the tile, no effect where this part has it
not. -/
def onTile (t : Nat) (s : State) (f : State → State) : Host.Outcome State Fault Refusal :=
  if t < 64 then .next (if s.up && s.onPart t then f s else s) else .fault .noSuchTile

/-- The outcome of a command on a channel, 0 to 16 (R16). -/
def onChan (t c : Nat) (s : State) (f : State → State) : Host.Outcome State Fault Refusal :=
  if c < 17 then onTile t s f else .fault .noSuchChannel

/-- The outcome of a command on an engine, 0 to 8 (R208). -/
def onEng (t e : Nat) (s : State) (f : State → State) : Host.Outcome State Fault Refusal :=
  if e < 9 then onTile t s f else .fault .noSuchEngine

/-- The outcome of a command on a context, 0 to 63 (R210). -/
def onCtx (t c : Nat) (s : State) (f : State → State) : Host.Outcome State Fault Refusal :=
  if c < 64 then onTile t s f else .fault .noSuchContext

/-- The outcome of a command on a unit numbered below `n`: a lane, a pin, a stream or a mask word. -/
def onUnit (k n : Nat) (s : State) (f : State → State) : Host.Outcome State Fault Refusal :=
  if k < n then onChip s f else .fault .noSuchUnit

/-- The outcome of a command on a mailbox channel, 0 to 95 (R455). -/
def onBox (ch : Nat) (s : State) (f : State → State) : Host.Outcome State Fault Refusal :=
  if ch < 96 then onChip s f else .fault .noSuchMailbox

/-! ### Device time (R38 to R41) -/

/-- Nanoseconds of a second. -/
def nsPerSec : Nat := 1000000000

/-- Engine time of a time value, modulo 2^64 (R41). -/
def Time.engine (t : Time) : Nat := ((t.s * nsPerSec + t.ns) * 1024 + t.fine) % 2 ^ 64

/-- Signed difference of two time values in fine units (R39). -/
def Time.diff (a b : Time) : Int :=
  signed 32 ((a.s + 2 ^ 32 - b.s % 2 ^ 32) % 2 ^ 32) * 1024000000000 + ((a.ns : Int) - b.ns) * 1024 + ((a.fine : Int) - b.fine)

/-- A time value moved by a signed number of fine units, with the carries of R38. -/
def Time.addFine (t : Time) (d : Int) : Time :=
  let u : Int := ((t.s * nsPerSec + t.ns) * 1024 + t.fine : Nat) + d
  { s := (u / 1024000000000 % 4294967296).toNat, ns := (u / 1024 % 1000000000).toNat, fine := (u % 1024).toNat }

/-- A time value moved by a signed number of nanoseconds. -/
def Time.addNs (t : Time) (d : Int) : Time := t.addFine (d * 1024)

/-- A time value is well-formed (R38). -/
def Time.wf (t : Time) : Bool := decide (t.s < 2 ^ 32) && decide (t.ns < nsPerSec) && decide (t.fine < 1024)

/-- The instant lies on a slot boundary (R40). -/
def Time.onSlot (t : Time) : Bool := decide (t.ns % 8 = 0) && decide (t.fine = 0)

/-- Device time now. -/
def State.now (s : State) : Time := s.tb.time

/-- The timebase is clock-suspect (R58). -/
def State.cs (s : State) : Bool := decide (s.tb.st ≠ .locked)

/-- The ramp generator is steering (R58, R74). -/
def State.st (s : State) : Bool := s.tb.prof.isSome

/-- One fine unit in the ramp accumulator's unit of 10^-21 s (R68). -/
def rampUnit : Nat := 976562500

/-- The ramp generator over the slots up to age `a`, within the present segment (R68): the accumulator takes 8 times
the rate in each slot, and each whole fine unit it passes moves the clock phase (DEDUCED, log entry 9). -/
def Timebase.rampTo (b : Timebase) (a : Nat) : Timebase :=
  match b.prof with
  | some ⟨_, g :: _, start⟩ =>
    let k := min a (start + g.dur * 128) - max b.age start
    let u := b.acc + 8 * g.rate * k
    { b with acc := u.tmod rampUnit, moved := b.moved + u.tdiv rampUnit }
  | _ => b

/-- Note the present CS and ST conditions where they changed, for GSTAT (R58, R228). -/
def Timebase.note (b : Timebase) (a : Nat) : Timebase :=
  let now := (decide (b.st ≠ .locked), b.prof.isSome)
  match b.conds with
  | c :: _ => if c.2 = now then b else { b with conds := (a, now) :: b.conds }
  | [] => { b with conds := [(a, now)] }

/-- CS and ST conditions met in the slots from `lo` to `hi` (R58, R228). -/
def condOver (lo hi : Nat) : List (Nat × Bool × Bool) → Nat → Bool × Bool
  | [], _ => (false, false)
  | (a, c, t) :: rest, fin =>
    let r := condOver lo hi rest a
    if a ≤ hi ∧ lo < fin then (c || r.1, t || r.2) else r

/-- The timebase `n` slots later (R40, R68, R262); the wrap of the seconds is an epoch cause (R42). -/
def Timebase.run (b : Timebase) (n : Nat) : Timebase :=
  let r := (b.note b.age).rampTo (b.age + n)
  let wrapped := 2 ^ 32 * 125000000 ≤ b.time.s * 125000000 + b.time.ns / 8 + n
  { r with
    time := b.time.addNs (8 * n)
    age := b.age + n
    openDue := if wrapped && decide (r.causes = 0) then b.age + n else r.openDue
    causes := if wrapped then r.causes ||| 0x20 else r.causes }

/-- Let `n` slots of the timing clock pass (log entry 2). During a snapshot freeze the master time counter stands still
and the freeze is measured instead (R446, R448); while POR or RESET_N is held no time runs. -/
def State.advance (s : State) (n : Nat) : State :=
  if s.phase = .porHeld ∨ s.phase = .rstHeld then s
  else if s.dep.frozen then { s with dep := { s.dep with dur := (s.dep.dur + n) % 2 ^ 32 } }
  else { s with tb := s.tb.run n }

/-- Let time pass up to slot age `a`; nothing happens where that age has passed. -/
def State.advanceTo (s : State) (a : Nat) : State := s.advance (a - s.tb.age)

/-- Slots from now to the device-time instant `x` on the present time scale; none where it has passed (R39). -/
def State.slotsTo (s : State) (x : Time) : Nat := (x.diff s.now / 8192).toNat

/-- Slots from now to the next instant strictly later whose engine time is a multiple of `n` slots (R40). An opening
instant that is itself a boundary is no first boundary of its epoch (R73; DEDUCED, log entry 127). -/
def State.toBoundary (s : State) (n : Nat) : Nat := n - s.now.engine / 8192 % n

/-- Slots from now to the next second boundary strictly later (R40). -/
def State.toSecond (s : State) : Nat := 125000000 - s.now.ns / 8

/-! ### Streams (R25, R333) -/

/-- Key of a stream in the table of streams. -/
def streamKey (cls idx : Nat) : Nat := cls * 256 + idx

/-- The stream of a class and index. -/
def State.stream (s : State) (cls idx : Nat) : Stream := mapGet (fun _ => {}) s.lk.streams (streamKey cls idx)

/-- Replace a stream. -/
def State.setStream (s : State) (cls idx : Nat) (x : Stream) : State :=
  { s with lk := { s.lk with streams := mapSet (fun _ => {}) s.lk.streams (streamKey cls idx) x } }

/-- Put a payload at the end of a stream (R25). -/
def State.sendWait (s : State) (cls idx : Nat) (w : Wait) : State :=
  let x := s.stream cls idx
  s.setStream cls idx { x with wait := x.wait ++ [w] }

/-- Put one frame's payload at the end of a stream (R25, R334). -/
def State.sendOwn (s : State) (cls idx : Nat) (ws : List W64) : State := s.sendWait cls idx { words := ws }

/-- Put records that are ready now at the end of a stream of class 0x03, 0x06 or 0x07 (R334). -/
def State.send (s : State) (cls idx : Nat) (ws : List W64) : State :=
  s.sendWait cls idx { words := ws, ready := some s.tb.age }

/-- The tile has a DRAIN queue (R247). -/
def State.hasDrain (s : State) (t : Nat) : Bool := (List.range 256).any (fun q => bit (s.rv (tileBase t + 0x1000 + 16 * q)) 8)

/-- The tile drains a packed stream (R341). -/
def State.packOn (s : State) (t : Nat) : Bool := bit (s.rv (tileBase t + 0x80)) 8

/-- Indices of the result streams the device uses: plain where the tile has a DRAIN queue, packed where TC_PACK.EN is 1
(R500). -/
def State.resultIndices (s : State) : List Nat :=
  (List.range s.nTiles).filter s.hasDrain ++ ((List.range s.nTiles).filter s.packOn).map (· + 64)

/-! ### Mailbox notices (R459) -/

/-- The mailbox slot of a channel. -/
def State.slot (s : State) (ch : Nat) : Slot := mapGet (fun _ => {}) s.sup.slots ch

/-- Replace the mailbox slot of a channel. -/
def State.setSlot (s : State) (ch : Nat) (x : Slot) : State :=
  { s with sup := { s.sup with slots := mapSet (fun _ => {}) s.sup.slots ch x } }

/-- The receiver of the channel is the host (R455). -/
def hostReceives (ch : Nat) : Bool := decide (8 ≤ ch ∧ ch < 16) || decide (24 ≤ ch ∧ ch < 32)

/-- The sender of the channel is the host (R455). -/
def hostSends (ch : Nat) : Bool := decide (ch < 8) || decide (16 ≤ ch ∧ ch < 24)

/-- The channel lies in the secure half (R455). -/
def secureBox (ch : Nat) : Bool := decide (ch < 16) || decide (32 ≤ ch)

/-- Put a notice of the slot's message on stream class 0x06 (R459). -/
def State.notice (s : State) (ch : Nat) (empty : Bool) : State :=
  let x := s.slot ch
  s.send 6 0 [noticeRecord ch empty x.gen.toNat x.tag.toNat x.ptr.toNat]

/-! ### The log (R471, R496) -/

/-- First byte of the log area in the non-volatile store (R364). -/
def logBase : Nat := 0x3837E0

/-- Entries of the log area (R471). -/
def logSize : Nat := 9865

/-- Bytes 0 to 27 of a log entry (R471). -/
def logBytes (seq boot : Nat) (t : Time) (epoch kind source detail : Nat) : List Byte :=
  leBytes 4 seq ++ leBytes 4 boot ++ leBytes 4 t.s ++ leBytes 4 t.ns ++ leBytes 1 epoch ++ leBytes 1 kind ++
    leBytes 2 source ++ leBytes 8 detail

/-- The entry at an index of the log area is valid: its CRC is right (R471). -/
def logValid (nv : Memory) (i : Nat) : Bool :=
  let b := readBytes nv (logBase + 32 * i) 32
  decide (crc32c (b.take 28) = leNat (b.drop 28))

/-- The indices of the log area that hold any byte other than 0; an entry of zeros is not valid. -/
def logIndices (nv : Memory) : List Nat :=
  (nv.filterMap (fun c => if logBase ≤ c.1 ∧ c.1 < logBase + 32 * logSize then some ((c.1 - logBase) / 32) else none)).dedup

/-- SEQ and BOOT of the valid entry with the highest SEQ (R496). -/
def logLast (nv : Memory) : Option (Nat × Nat) :=
  (logIndices nv).foldl (fun best i =>
    if logValid nv i then
      let q := leNat (readBytes nv (logBase + 32 * i) 4)
      let b := leNat (readBytes nv (logBase + 32 * i + 4) 4)
      match best with
      | some (q0, _) => if q0 < q then some (q, b) else best
      | none => some (q, b)
    else best) none

/-- The boot count of the boot that follows (R496). -/
def bootCount (nv : Memory) : Nat :=
  match logLast nv with
  | some (_, b) => (b + 1) % 2 ^ 32
  | none => 1

/-- The device has started up or does so: the supervisor has its boot count (R495, R496). -/
def State.started (s : State) : Bool := decide (s.phase = .running) || (decide (s.phase = .booting) && s.pw.counted)

/-- The boot count in force, or before start-up the one that it will compute (R496). -/
def State.boot (s : State) : Nat := if s.started then s.pw.bootCnt else bootCount s.nv

/-- Write a log entry, which counts under the limit of 16 in a second (R471). -/
def State.putEntry (s : State) (kind source detail : Nat) : State :=
  let b := logBytes s.sup.logSeq s.boot s.now s.tb.epoch kind source detail
  { s with
    nv := writeBytes s.nv (logBase + 32 * (s.sup.logSeq % logSize)) (b ++ leBytes 4 (crc32c b))
    sup := { s.sup with logSeq := (s.sup.logSeq + 1) % 2 ^ 32, logNow := s.sup.logNow + 1 } }

/-- Write a log entry, or count it beyond the limit of 16 in a second (R471); the entry of the boot comes before any
other (R496). -/
def State.log (s : State) (kind source detail : Nat) : State :=
  if !s.started then s
  else if s.sup.logNow < 16 then s.putEntry kind source detail
  else { s with sup := { s.sup with logLost := s.sup.logLost + 1 } }

/-! ### Event sources (R474 to R481) -/

/-- The sticky bit of a source (R474). -/
def State.evSet (s : State) (k : Nat) : Bool :=
  if k < 1024 then (s.tile (k / 16)).te.getLsbD (k % 16) else s.ev.chip.getLsbD (k - 1024)

/-- Write the sticky bit of a source. -/
def State.setSticky (s : State) (k : Nat) : State :=
  if k < 1024 then s.modTile (k / 16) (fun x => { x with te := x.te ||| BitVec.ofNat 16 (2 ^ (k % 16)) })
  else { s with ev := { s.ev with chip := s.ev.chip ||| BitVec.ofNat 128 (2 ^ (k - 1024)) } }

/-- The mask bit of a source (R475, R485). -/
def State.evMasked (s : State) (k : Nat) : Bool :=
  if k < 1024 then bit (s.rv (tileBase (k / 16) + 0x3004)) (k % 16)
  else bit (s.rv (0x4030 + 4 * ((k - 1024) / 32))) ((k - 1024) % 32)

/-- The route byte of a source (R476, R485). -/
def State.evRoute (s : State) (k : Nat) : Nat :=
  if k < 1024 then bits (s.rv (tileBase (k / 16) + 0x3010 + 4 * (k % 16 / 4))) (8 * (k % 4) + 7) (8 * (k % 4))
  else bits (s.rv (0x4040 + 4 * ((k - 1024) / 4))) (8 * (k % 4) + 7) (8 * (k % 4))

/-- Chip source `k` by number. -/
def chipSrc (k : Nat) : Nat := 1024 + k

/-- Source `k` of tile `t` by number. -/
def tileSrc (t k : Nat) : Nat := 16 * t + k

/-- The ALERT and SUP routes of a source act (R476, R478, R471). -/
def State.routeAlert (s : State) (k : Nat) (at_ : Time) (unmask : Bool) : State :=
  let r := s.evRoute k
  let s := if bit r 0 then s.send 3 0 [alertRecord k s.tb.epoch unmask, alertTime at_] else s
  if bit r 3 then
    let s := s.log 0 k 0
    { s with sup := { s.sup with wakeAsk := s.sup.wakeAsk || s.sup.asleep } }
  else s

/-- Set a source that has no MBOX route (R474, R476, R479). -/
def State.raiseQuiet (s : State) (k : Nat) : State :=
  if s.evSet k then s
  else
    let s' := s.setSticky k
    if s.evMasked k then s' else s'.routeAlert k s.now false

/-- Place an event post on channel MBCH: GEN 0, TAG 0xFFFF, PTR the source (R479). -/
def State.placePost (s : State) (k : Nat) : State :=
  let ch := s.fld 0x4000 6 0
  (s.setSlot ch { ptr := BitVec.ofNat 24 k, tag := 0xFFFF, gen := 0, full := true, held := false }).notice ch false

/-- The MBOX route of a source acts (R479). -/
def State.routeBox (s : State) (k : Nat) : State :=
  if bit (s.evRoute k) 4 && !(k = chipSrc 33) then
    if (s.slot (s.fld 0x4000 6 0)).full || !s.ev.posts.isEmpty then
      if s.ev.posts.length < 32 then { s with ev := { s.ev with posts := s.ev.posts ++ [k] } }
      else ({ s with ev := { s.ev with lost := satAdd (2 ^ 32 - 1) s.ev.lost 1 } }).raiseQuiet (chipSrc 33)
    else s.placePost k
  else s

/-- Every route of an unmasked source acts (R475, R476). -/
def State.routes (s : State) (k : Nat) (at_ : Time) (unmask : Bool) : State := (s.routeAlert k at_ unmask).routeBox k

/-- Set an event source, with the instant its alert states: the sticky bit sets, and the routes act when it went from 0
to 1 while the source is unmasked (R474, R476). -/
def State.raiseAt (s : State) (k : Nat) (at_ : Time) : State :=
  if s.evSet k then s
  else if s.evMasked k then s.setSticky k
  else (s.setSticky k).routes k at_ false

/-- Set an event source now. -/
def State.raise (s : State) (k : Nat) : State := s.raiseAt k s.now

/-- Some unmasked set source drives the pin of route bit `b` (R477). -/
def State.pinLow (s : State) (b : Nat) : Bool :=
  !(s.phase = .porHeld || s.phase = .rstHeld) &&
    ((List.range (16 * s.nTiles)).any (fun k => s.evSet k && !s.evMasked k && bit (s.evRoute k) b) ||
      (List.range 34).any (fun k => s.evSet (chipSrc k) && !s.evMasked (chipSrc k) && bit (s.evRoute (chipSrc k)) b))

/-! ### Words with two wrong bits (R442) -/

/-- Some word of a run of a memory holds two wrong bits. -/
def State.bad2 (s : State) (m : MemId) (lo n : Nat) : Bool :=
  s.dep.ecc2.any (fun p => decide (p.1 = m) && decide (lo ≤ p.2) && decide (p.2 < lo + n))

/-- A run of a memory is written anew. -/
def State.clear2 (s : State) (m : MemId) (lo n : Nat) : State :=
  { s with dep := { s.dep with ecc2 := s.dep.ecc2.filter (fun p => !(decide (p.1 = m) && decide (lo ≤ p.2) && decide (p.2 < lo + n))) } }

/-- An uncorrectable word is read: it is counted in DEP_MEM.UNCORR and raises memory-uncorrectable (R442). -/
def State.uncorrectable (s : State) : State :=
  ({ s with dep := { s.dep with uncorr := satAdd 65535 s.dep.uncorr 1 } }).raise (chipSrc 27)

/-! ### Refused register writes (R510, R515) -/

/-- The SRC code of GL_REFUSE. -/
def srcCode : Src → Nat
  | .host => 0
  | .supervisor _ => 1
  | .tileList => 2

/-- Record a refused register write (R510, R515). -/
def State.refuse (s : State) (src : Src) (addr reason : Nat) : State :=
  { s with refAddr := BitVec.ofNat 24 addr, refReason := reason, refSrc := srcCode src, refCnt := satAdd 65535 s.refCnt 1 }

/-- A draw of the free values (log entry 4): the counter the step reads and advances. -/
def State.draw (s : State) : Nat × State := (s.fresh, { s with fresh := s.fresh + 1 })

end Sys2Proof.Machine
end

