-- ==== Sys2Proof/Machine/Queues.lean ====
section
/-! DEFINITION. The hardware queues of a tile (R244 to R276): pointers, whole packets, the engines' open packets, the
latency buffer, parity and mirror, watermarks with their pins, flush. -/

namespace Sys2Proof.Machine

open Sys2Proof

/-- The image in force selects Bracket mode (R26). -/
def State.bracket (s : State) : Bool := s.cfg.bracket

/-- The queue that holds the tile's latency buffer (R248, R261). -/
def State.lbq (s : State) (t : Nat) : Nat := s.tfld t 0x50 7 0

/-- TQ_DESC of a queue. -/
def State.qDesc (s : State) (t q : Nat) : Nat := s.rv (tileBase t + 0x1000 + 16 * q)

/-- TQ_WM of a queue. -/
def State.qWm (s : State) (t q : Nat) : Nat := s.rv (tileBase t + 0x1004 + 16 * q)

/-- Capacity in words; 0 where the queue is disabled (R248, R249). -/
def State.qCap (s : State) (t q : Nat) : Nat :=
  let d := s.qDesc t q
  if bits d 7 4 ≠ 0 ∧ q = s.lbq t then bits d 7 4 * 4096
  else if bits d 3 0 = 0 then 0 else 2 ^ bits d 3 0

/-- The spine stream reader drains the queue (R247). -/
def State.qDrain (s : State) (t q : Nat) : Bool := bit (s.qDesc t q) 8

/-- Address in queue memory of a queue position (R252). -/
def State.qAddr (s : State) (t q pos : Nat) : Nat := bits (s.qDesc t q) 23 12 * 8 + pos % s.qCap t q

/-- The queue state of tile `t`. -/
def State.queue (s : State) (t q : Nat) : Queue := (s.tile t).queue q

/-- Distance from one pointer to another, modulo 2C (R252). -/
def ringDist (c a b : Nat) : Nat := if c = 0 then 0 else (b + 2 * c - a % (2 * c)) % (2 * c)

/-- A pointer moved on by `n` (R252). -/
def ringAdd (c a n : Nat) : Nat := if c = 0 then a else (a + n) % (2 * c)

/-- Words held, open packet included (R252). -/
def State.qLevel (s : State) (t q : Nat) : Nat := let x := s.queue t q; ringDist (s.qCap t q) x.rp x.wp

/-- Words a reader may take (R252). -/
def State.qCommitted (s : State) (t q : Nat) : Nat := let x := s.queue t q; ringDist (s.qCap t q) x.rp x.rmark

/-- Room for further words. -/
def State.qFree (s : State) (t q : Nat) : Nat := s.qCap t q - s.qLevel t q

/-! ### Words, parity and mirror (R265, R266) -/

/-- Even parity bit over the 64 bits of a word (R265). -/
def parity (w : W64) : Bool := decide ((List.range 64).countP (fun i => w.getLsbD i) % 2 = 1)

/-- A word as it is stored, with its parity and mirror copy. -/
def storedWord (w : W64) (fin : Bool) (age : Nat) (slice : Option SliceTag) : QWord :=
  { w := w, par := parity w, mw := w, mpar := parity w, fin := fin, age := age, slice := slice }

/-- The word at a queue position. -/
def State.qWord (s : State) (t q pos : Nat) : QWord := mapGet (fun _ => {}) (s.tile t).qmem (s.qAddr t q pos)

/-- Store a word at a queue position. -/
def State.setQWord (s : State) (t q pos : Nat) (w : QWord) : State :=
  s.modTile t (fun x => { x with qmem := mapSet (fun _ => {}) x.qmem (s.qAddr t q pos) w })

/-- What a reader gets from a stored word: the word, whether it is poisoned, and whether the mirror repaired it (R265,
R266). -/
def QWord.read (bracket : Bool) (x : QWord) : W64 × Bool × Bool :=
  if parity x.w = x.par then (x.w, false, false)
  else if bracket && parity x.mw = x.mpar then (x.mw, false, true)
  else (x.w, true, false)

/-! ### Sticky bits and watermarks (R255, R265, R270 to R272) -/

/-- OVR, XUP, XDN or PSN of a queue sets: the queue is noted in TC_QSUM.LAST (R276). -/
def State.qSticky (s : State) (t q : Nat) (f : Queue → Queue) : State :=
  (s.modQueue t q f).modTile t (fun x => { x with qLast := q })

/-- `n` words are refused at a queue: they are counted, OVR sets, and the queue-overrun event is raised when OVR goes to
1 (R255, R480). -/
def State.qRefuse (s : State) (t q n : Nat) : State :=
  let was := (s.queue t q).ovr
  let s := s.qSticky t q (fun x => { x with ovr := true, cOvr := satAdd (2 ^ 32 - 1) x.cOvr n })
  if was then s else s.raise (tileSrc t 9)

/-- The combined state of flow-control output `k`: some queue of some tile drives it (R272). -/
def State.fcoWanted (s : State) (k : Nat) : Bool :=
  (List.range s.nTiles).any (fun t => (s.tile t).qs.any (fun p =>
    p.2.hi && bit (s.qWm t p.1) 27 && bits (s.qWm t p.1) 26 24 = k))

/-- Flow-control output `k`. -/
def State.pinFco (s : State) (k : Nat) : Fco := mapGet (fun _ => {}) s.fco k

/-- Slots in which a pin follows a change now: 16 to 40 ns, which one is a free value (R272, log entry 134). -/
def State.fcoAfter (s : State) (k : Nat) : Nat := s.tb.age + max 2 (min 5 (Config.fcoDelay k s.tb.age))

/-- A flow-control output is asserted with its combined state, and its pin rises after the latency (R272). -/
def State.fcoRise (s : State) (k : Nat) : State :=
  if s.fcoWanted k && !(s.pinFco k).level then
    { s with fco := mapSet (fun _ => {}) s.fco k { level := true, since := s.fcoAfter k, back := 0 } }
  else s

/-- The combined state of a flow-control output has returned to 0: the pin learns it after the latency; its fall is
FCO_DEASSERT (R272). -/
def State.fcoReturn (s : State) (k : Nat) : State :=
  if (s.pinFco k).level && !s.fcoWanted k then
    { s with fco := mapSet (fun _ => {}) s.fco k { s.pinFco k with back := s.fcoAfter k } }
  else s

/-- The level of a flow-control pin (R272). -/
def State.fcoPin (s : State) (k : Nat) : Bool := (s.pinFco k).level && decide ((s.pinFco k).since ≤ s.tb.age)

/-- The watermark evaluation after a change of a queue's level (R269 to R272). -/
def State.qEval (s : State) (t q : Nat) : State :=
  let wm := s.qWm t q
  let hi := (s.queue t q).hi
  let lvl := s.qLevel t q
  if bits wm 11 0 = 0 then (if hi then (s.modQueue t q (fun x => { x with hi := false })).fcoReturn (bits wm 26 24) else s)
  else if !hi && bits wm 11 0 * 8 ≤ lvl then
    let s := s.qSticky t q (fun x => { x with hi := true, xup := true })
    let s := if bit wm 28 then s.raise (tileSrc t 10) else s
    s.fcoRise (bits wm 26 24)
  else if hi && lvl ≤ bits wm 23 12 * 8 then
    let s := s.qSticky t q (fun x => { x with hi := false, xdn := true })
    let s := if bit wm 28 then s.raise (tileSrc t 10) else s
    s.fcoReturn (bits wm 26 24)
  else s

/-- The channels whose records go to a queue: CH_DEST of a channel names it, and the spare's go where those of the input
that it serves go (R164, R166, R167, R482). -/
def State.chansOf (s : State) (t q : Nat) : List Nat :=
  let names := fun (c : Nat) =>
    let d := s.rv (tileBase t + 0x414 + 64 * c)
    (bit d 8 && bits d 7 0 = q) || (bit d 9 && s.lbq t = q)
  let h := (s.tile t).ho
  (List.range 16).filter names ++ (if (h.st = .serving ∨ h.st = .back) ∧ names h.served then [16] else [])

/-- A poisoned word is delivered from a queue: it is counted, PSN sets, the queue-poison event is raised, and the
contact sheet notes it (R265, R482). -/
def State.qPoison (s : State) (t q : Nat) : State :=
  let s := s.qSticky t q (fun x => { x with psn := true, cPoison := satAdd (2 ^ 32 - 1) x.cPoison 1 })
  let s := forKeys (s.chansOf t q) (fun c s => s.modChan t c (fun y => { y with sheet := { y.sheet with psn := true } })) s
  s.raise (tileSrc t 11)

/-- Read the word at a queue position: the word, whether it is poisoned, and the state with the repair or the poison
counted (R265, R266). -/
def State.qRead (s : State) (t q pos : Nat) : W64 × Bool × State :=
  let x := s.qWord t q pos
  let (w, bad, fixed) := x.read s.bracket
  let s := if fixed then
      (s.setQWord t q pos { x with w := x.mw, par := x.mpar }).modQueue t q
        (fun y => { y with cMfix := satAdd (2 ^ 32 - 1) y.cMfix 1 })
    else s
  (w, bad, if bad then s.qPoison t q else s)

/-! ### Whole packets (R254) -/

/-- Store the words of a packet from a position on, the last with the packet-end bit (R259). -/
def State.putWords (s : State) (t q pos age : Nat) : List (W64 × Option SliceTag) → State
  | [] => s
  | w :: ws =>
    (s.setQWord t q pos (storedWord w.1 ws.isEmpty age w.2)).putWords t q (ringAdd (s.qCap t q) pos 1) age ws

/-- Commit a packet that fits. -/
def State.qPut (s : State) (t q age : Nat) (ws : List (W64 × Option SliceTag)) : State :=
  let c := s.qCap t q
  let wp := (s.queue t q).wp
  let s := s.putWords t q wp age ws
  (s.modQueue t q (fun x => { x with
    wp := ringAdd c wp ws.length
    rmark := ringAdd c wp ws.length
    cCommit := (x.cCommit + ws.length) % 2 ^ 32 })).qEval t q

/-- The queue takes a whole packet of `n` words now. -/
def State.qFits (s : State) (t q n : Nat) : Bool := decide (s.qCap t q ≠ 0) && decide (n ≤ s.qFree t q)

/-- Offer a whole packet: committed when all of it fits, refused whole otherwise (R254). -/
def State.qOffer (s : State) (t q age : Nat) (ws : List W64) : Bool × State :=
  if s.qFits t q ws.length then (true, s.qPut t q age (ws.map (fun w => (w, none)))) else (false, s.qRefuse t q ws.length)

/-! ### The latency buffer (R261 to R264) -/

/-- A read mark stands at RP, so that expiry is held (R264). -/
def State.pinned (s : State) (t : Nat) : Bool := (s.tile t).marks.any (fun m => m.pos = (s.queue t (s.lbq t)).rp)

/-- The record at RP of the latency buffer expires (R261); the latest slot of an expired hit is kept for R284. -/
def State.lbExpire (s : State) (t : Nat) : State :=
  let q := s.lbq t
  let w := s.qWord t q (s.queue t q).rp
  let s := if recType w.w = 1 then s.modTile t (fun x => { x with expSlot := some (max w.age (x.expSlot.getD 0)) }) else s
  (s.modQueue t q (fun x => { x with rp := ringAdd (s.qCap t q) x.rp 1, cExp := (x.cExp + 1) % 2 ^ 32 })).qEval t q

/-- The slot age of the record at RP exceeds 8,192 slots (R261, R262). -/
def State.lbOld (s : State) (t : Nat) : Bool :=
  let q := s.lbq t
  decide (s.qLevel t q ≠ 0) && decide (8192 < s.tb.age - (s.qWord t q (s.queue t q).rp).age)

/-- Offer a capture record to the latency buffer: a full buffer first lets its oldest record expire, unless a read mark
pins it (R261, R264). -/
def State.lbOffer (s : State) (t age : Nat) (w : W64) : Bool × State :=
  let q := s.lbq t
  if decide (s.qCap t q ≠ 0) && decide (s.qFree t q = 0) && !s.pinned t then
    (s.lbExpire t).qOffer t q age [w]
  else s.qOffer t q age [w]

/-- Offer a capture record to a queue that is a capture destination. -/
def State.capOffer (s : State) (t q age : Nat) (w : W64) : Bool × State :=
  if q = s.lbq t then s.lbOffer t age w else s.qOffer t q age [w]

/-! ### The engines' open packets (R254 to R257) -/

/-- An engine offers a word to its open packet, opening one if needed; a DRAIN queue takes at most 1,023 words of one
packet (R230, R255, R256, R268, R337). -/
def State.qEmit (s : State) (t q : Nat) (w : W64) : State :=
  let s := s.modQueue t q (fun x => { x with opened := true })
  let x := s.queue t q
  let c := s.qCap t q
  if x.flushed then s.modQueue t q (fun x => { x with cFlush := satAdd (2 ^ 32 - 1) x.cFlush 1 })
  else if x.doomed then
    if s.qFree t q = 0 then s.qRefuse t q 1 else s.modQueue t q (fun x => { x with cOvr := satAdd (2 ^ 32 - 1) x.cOvr 1 })
  else if s.qFree t q = 0 then (s.qRefuse t q 1).modQueue t q (fun x => { x with doomed := true })
  else if s.qDrain t q && decide (ringDist c x.rmark x.wp = 1023) then
    let s := (s.qRefuse t q 1).modQueue t q (fun x => { x with doomed := true })
    { s with lk := { s.lk with longCnt := satAdd 65535 s.lk.longCnt 1, longTile := t } }
  else
    ((s.setQWord t q x.wp (storedWord w false 0 none)).modQueue t q (fun x => { x with wp := ringAdd c x.wp 1 })).qEval t q

/-- Take the open packet back: WP returns to RMARK (R254, R256, R257, R268). -/
def State.qRewind (s : State) (t q : Nat) : State :=
  let x := s.queue t q
  let n := ringDist (s.qCap t q) x.rmark x.wp
  let y := { x with wp := x.rmark, opened := false, doomed := false, flushed := false, head := none }
  let y := if x.flushed then { y with cFlush := satAdd (2 ^ 32 - 1) y.cFlush n }
    else if x.doomed then { y with cDrop := satAdd (2 ^ 32 - 1) y.cDrop 1 } else y
  if x.opened then (s.modQueue t q (fun _ => y)).qEval t q else s

/-- Commit the open packet; a doomed one is rewound (R254, R256). -/
def State.qCommit (s : State) (t q : Nat) : State :=
  let x := s.queue t q
  let c := s.qCap t q
  let n := ringDist c x.rmark x.wp
  if x.doomed then s.qRewind t q
  else if n = 0 then s.modQueue t q (fun x => { x with opened := false, head := none })
  else
    let last := ringAdd c x.rmark (n - 1)
    let s := s.setQWord t q last { s.qWord t q last with fin := true }
    s.modQueue t q (fun x => { x with rmark := x.wp, opened := false, head := none, cCommit := (x.cCommit + n) % 2 ^ 32 })

/-! ### Reading packets (R258, R259) -/

/-- Words of the committed packet at RP, from the packet-end bits. -/
def State.packetLen (s : State) (t q : Nat) : Nat :=
  let x := s.queue t q
  let c := s.qCap t q
  let n := ringDist c x.rp x.rmark
  match (List.range n).find? (fun i => (s.qWord t q (ringAdd c x.rp i)).fin) with
  | some i => i + 1
  | none => n

/-- Read `n` words from a position on: each word with its poison mark, and the state after the reads. -/
def State.qReads (s : State) (t q pos : Nat) : Nat → List (W64 × Bool) × State
  | 0 => ([], s)
  | n + 1 =>
    let (w, bad, s1) := s.qRead t q pos
    let (rest, s2) := s1.qReads t q (ringAdd (s.qCap t q) pos 1) n
    ((w, bad) :: rest, s2)

/-- Take the `n` words at RP out of the queue. -/
def State.qTake (s : State) (t q n : Nat) : State :=
  (s.modQueue t q (fun x => { x with rp := ringAdd (s.qCap t q) x.rp n })).qEval t q

/-! ### Flush (R268) -/

/-- The engine that runs what engine `e` was assigned: engine 8 where it serves a failed engine (R238, R435). -/
def Tile.runner (x : Tile) (e : Nat) : Nat := if (x.eng e).st = 5 ∧ (x.eng 8).serving = e then 8 else e

/-- The assignment that an engine runs: engine 8 runs that of the engine it serves (R238). -/
def Tile.assigned (x : Tile) (e : Nat) : Nat := if e = 8 then (x.eng 8).serving else e

/-- ENG_CFG of an assignment (R242). -/
def State.engCfg (s : State) (t f : Nat) : Nat := if f < 9 then s.rv (tileBase t + 0x2000 + 64 * f) else 0

/-- ENG_STATUS.STATE of an engine: 4 stands for a running engine outside Run state (R242). -/
def State.engState (s : State) (t e : Nat) : Nat :=
  let st := ((s.tile t).eng e).st
  if st = 1 ∧ s.pw.st ≠ .run then 4 else st

/-- The engines that read queue `q` as their input queue (R209). -/
def State.inqOf (s : State) (t q : Nat) : List Nat :=
  ((List.range 8).filter (fun f => bit (s.engCfg t f) 29 && bits (s.engCfg t f) 23 16 = q)).map (s.tile t).runner

/-- A latency buffer loses all its records: the latest slot of a hit among them is kept for R284. -/
def State.lbGone (s : State) (t : Nat) : State :=
  let q := s.lbq t
  let hit := fun (i : Nat) =>
    let w := s.qWord t q (ringAdd (s.qCap t q) (s.queue t q).rp i)
    if recType w.w = 1 then some w.age else none
  ((List.range (s.qCommitted t q)).filterMap hit).foldl
    (fun s a => s.modTile t (fun x => { x with expSlot := some (max a (x.expSlot.getD 0)) })) s

/-- Remove the committed words of a queue and doom its open packet, counting the words in TQ_CNT_FLUSH (R268). -/
def State.qFlush (s : State) (t q : Nat) : State :=
  let n := s.qCommitted t q
  let s := if q = s.lbq t then s.lbGone t else s
  let s := s.modQueue t q (fun x => { x with
    rp := x.rmark
    cFlush := satAdd (2 ^ 32 - 1) x.cFlush n
    flref := false
    flushed := x.flushed || (x.opened && !x.doomed)
    doomed := x.doomed || x.opened })
  let s := forKeys (s.inqOf t q) (fun e s => s.modEng t e (fun y => { y with dpos := (s.queue t q).rp })) s
  s.qEval t q

/-- A flush of the queue is refused now (R268). -/
def State.flushRefused (s : State) (t q : Nat) : Bool :=
  (decide (q = s.lbq t) && !(s.tile t).marks.isEmpty) ||
    (s.inqOf t q).any (fun e => let st := s.engState t e; st = 1 || st = 2 || st = 3)

/-- The host's flush of a queue: refused with FLREF, or done (R268). -/
def State.flushCmd (s : State) (t q : Nat) : State :=
  if s.flushRefused t q then s.modQueue t q (fun x => { x with flref := true }) else s.qFlush t q

/-- Zero the counters of a queue (R274). -/
def Queue.cleared (x : Queue) : Queue :=
  { x with cOvr := 0, cDrop := 0, cFlush := 0, cPoison := 0, cMfix := 0, cExp := 0, cCommit := 0 }

/-! ### The commands -/

/-- LB_EXPIRY (R261, R264): the record at RP of the latency buffer is older than 8,192 slots and no read mark stands at
RP. -/
def execLbExpiry (t : Nat) (s : State) : Host.Outcome State Fault Refusal :=
  onTile t s (fun s => if s.lbOld t && !s.pinned t then s.lbExpire t else s)

/-- FCO_DEASSERT (R272): the output's combined state is 0; the pin falls at the later of 64 ns after its rise and the
instant at which the return reaches it. -/
def execFcoDeassert (k : Nat) (s : State) : Host.Outcome State Fault Refusal :=
  onUnit k 8 s (fun s =>
    if (s.pinFco k).level && !s.fcoWanted k then
      let s := s.advanceTo (max ((s.pinFco k).since + 8) (s.pinFco k).back)
      { s with fco := mapSet (fun _ => {}) s.fco k {} }
    else s)

end Sys2Proof.Machine
end

