-- ==== Sys2Proof/Machine/EngineCode.lean ====
section
/-! DEFINITION. The engines' instruction words (R225 to R227): the 48-bit layout, its decoder and an encoder, and the
cycles of each operation. -/

namespace Sys2Proof.Machine

open Sys2Proof

/-- Operations of the form rd := ra op B (R227). -/
inductive AluOp where
  | add
  | sub
  | and
  | or
  | xor
  | shl
  | shr
  | sar
  | min
  | max
  | mul
  | divu
  | divs
  | remu
  | seq
  | slt
  | sltu
  deriving DecidableEq, Repr

/-- Comparisons of the branches with two registers (R227). -/
inductive BrOp where
  | eq
  | ne
  | lt
  | ge
  | ltu
  | geu
  deriving DecidableEq, Repr

/-- A decoded engine instruction (R227). -/
inductive EngOp where
  | nop
  | alu (f : AluOp) (rd ra : BitVec 5) (b : OpB)
  | ext (rd ra : BitVec 5) (imm : BitVec 24)
  | ins (rd ra k : BitVec 5) (imm : BitVec 24)
  | mac (signed : Bool) (ad : BitVec 2) (ra : BitVec 5) (b : OpB)
  | aclr (ad : BitVec 2)
  | aadd (ad : BitVec 2) (ra : BitVec 5)
  | aadda (ad aa : BitVec 2)
  | asuba (ad aa : BitVec 2)
  | ashl (ad aa : BitVec 2) (b : OpB)
  | asar (ad aa : BitVec 2) (b : OpB)
  | agetl (rd : BitVec 5) (aa : BitVec 2)
  | ageth (rd : BitVec 5) (aa : BitVec 2)
  | aset (ad : BitVec 2) (ra : BitVec 5) (b : OpB)
  | adiv (rd : BitVec 5) (aa : BitVec 2) (b : OpB)
  | adivr (rd : BitVec 5) (aa : BitVec 2) (b : OpB)
  | asqrt (rd : BitVec 5) (aa : BitVec 2)
  | br (c : BrOp) (ra rb : BitVec 5) (imm : BitVec 24)
  | brk (equal : Bool) (ra k : BitVec 5) (imm : BitVec 24)
  | bbit (set : Bool) (ra k : BitVec 5) (imm : BitVec 24)
  | jmp (imm : BitVec 24)
  | jal (rd : BitVec 5) (imm : BitVec 24)
  | jr (ra : BitVec 5)
  | ld (rd ra : BitVec 5) (imm : BitVec 24)
  | st (ra rb : BitVec 5) (imm : BitVec 24)
  | lda (ad : BitVec 2) (ra : BitVec 5) (imm : BitVec 24)
  | sta (ra : BitVec 5) (ab : BitVec 2) (imm : BitVec 24)
  | gnext (rd : BitVec 5)
  | gstat (rd : BitVec 5)
  | wait (imm : BitVec 24)
  | checkpoint
  | emit (ra : BitVec 5) (b : OpB)
  | emith (ra : BitVec 5) (b : OpB)
  | commit (b : OpB)
  | rewind (b : OpB)
  | tmset (ra : BitVec 5) (b : OpB)
  | tmclr
  deriving DecidableEq, Repr

/-! ### The layout (R225) -/

/-- OP, bits [47:40]. -/
def opOf (w : IWord) : BitVec 8 := w.extractLsb' 40 8

/-- RD, bits [39:35]. -/
def rdOf (w : IWord) : BitVec 5 := w.extractLsb' 35 5

/-- RA, bits [34:30]. -/
def raOf (w : IWord) : BitVec 5 := w.extractLsb' 30 5

/-- RB, bits [29:25]. -/
def rbOf (w : IWord) : BitVec 5 := w.extractLsb' 25 5

/-- I, bit [24]. -/
def iOf (w : IWord) : Bool := w.getLsbD 24

/-- IMM, bits [23:0]. -/
def immOf (w : IWord) : BitVec 24 := w.extractLsb' 0 24

/-- Operand B of a word (R226). -/
def opB (w : IWord) : OpB := if iOf w then .imm (immOf w) else .reg (rbOf w)

/-- An accumulator named in a register field; none where the field has bits above [1:0] set (R232). -/
def accOf (r : BitVec 5) : Option (BitVec 2) := if r.toNat < 4 then some (r.extractLsb' 0 2) else none

/-! ### The decoder (R227, R232) -/

/-- The ALU operation of an opcode. -/
def aluOf (op : Nat) : Option AluOp :=
  match op with
  | 0x01 => some .add
  | 0x02 => some .sub
  | 0x03 => some .and
  | 0x04 => some .or
  | 0x05 => some .xor
  | 0x06 => some .shl
  | 0x07 => some .shr
  | 0x08 => some .sar
  | 0x09 => some .min
  | 0x0A => some .max
  | 0x0B => some .mul
  | 0x0E => some .divu
  | 0x0F => some .divs
  | 0x10 => some .remu
  | 0x28 => some .seq
  | 0x29 => some .slt
  | 0x2A => some .sltu
  | _ => none

/-- The comparison of a branch opcode. -/
def brOf (op : Nat) : Option BrOp :=
  match op with
  | 0x30 => some .eq
  | 0x31 => some .ne
  | 0x32 => some .lt
  | 0x33 => some .ge
  | 0x34 => some .ltu
  | 0x35 => some .geu
  | _ => none

/-- The accumulator instructions, 0x18 to 0x25. -/
def decodeAcc (op : Nat) (w : IWord) : Option EngOp :=
  let d := accOf (rdOf w)
  let a := accOf (raOf w)
  match op with
  | 0x18 => d.map (fun d => .mac true d (raOf w) (opB w))
  | 0x19 => d.map (fun d => .mac false d (raOf w) (opB w))
  | 0x1A => d.map .aclr
  | 0x1B => d.map (fun d => .aadd d (raOf w))
  | 0x1C => d.bind (fun d => a.map (.aadda d))
  | 0x1D => d.bind (fun d => a.map (.asuba d))
  | 0x1E => d.bind (fun d => a.map (fun a => .ashl d a (opB w)))
  | 0x1F => d.bind (fun d => a.map (fun a => .asar d a (opB w)))
  | 0x20 => a.map (.agetl (rdOf w))
  | 0x21 => a.map (.ageth (rdOf w))
  | 0x22 => d.map (fun d => .aset d (raOf w) (opB w))
  | 0x23 => a.map (fun a => .adiv (rdOf w) a (opB w))
  | 0x24 => a.map (fun a => .adivr (rdOf w) a (opB w))
  | 0x25 => a.map (.asqrt (rdOf w))
  | _ => none

/-- The instructions whose I must be 1 (R226); JR is one of the jumps (DEDUCED, log entry 12). -/
def decodeImm (op : Nat) (w : IWord) : Option EngOp :=
  if !iOf w then none
  else match op with
  | 0x0C => some (.ext (rdOf w) (raOf w) (immOf w))
  | 0x0D => some (.ins (rdOf w) (raOf w) (rbOf w) (immOf w))
  | 0x36 => some (.brk true (raOf w) (rbOf w) (immOf w))
  | 0x37 => some (.brk false (raOf w) (rbOf w) (immOf w))
  | 0x38 => some (.bbit true (raOf w) (rbOf w) (immOf w))
  | 0x39 => some (.bbit false (raOf w) (rbOf w) (immOf w))
  | 0x3A => some (.jmp (immOf w))
  | 0x3B => some (.jal (rdOf w) (immOf w))
  | 0x3C => some (.jr (raOf w))
  | 0x40 => some (.ld (rdOf w) (raOf w) (immOf w))
  | 0x41 => some (.st (raOf w) (rbOf w) (immOf w))
  | 0x42 => (accOf (rdOf w)).map (fun d => .lda d (raOf w) (immOf w))
  | 0x43 => (accOf (rbOf w)).map (fun b => .sta (raOf w) b (immOf w))
  | 0x48 => some (.wait (immOf w))
  | _ => (brOf op).map (fun c => .br c (raOf w) (rbOf w) (immOf w))

/-- The remaining instructions. -/
def decodeRest (op : Nat) (w : IWord) : Option EngOp :=
  match op with
  | 0x00 => some .nop
  | 0x44 => some (.gnext (rdOf w))
  | 0x45 => some (.gstat (rdOf w))
  | 0x49 => some .checkpoint
  | 0x50 => some (.emit (raOf w) (opB w))
  | 0x51 => some (.emith (raOf w) (opB w))
  | 0x52 => some (.commit (opB w))
  | 0x53 => some (.rewind (opB w))
  | 0x58 => some (.tmset (raOf w) (opB w))
  | 0x59 => some .tmclr
  | _ => (aluOf op).map (fun f => .alu f (rdOf w) (raOf w) (opB w))

/-- The instruction a program word holds; none for a word that R232 rejects at load. Fields that an instruction does
not name are ignored. -/
def decodeEng (w : IWord) : Option EngOp :=
  let op := (opOf w).toNat
  ((decodeAcc op w).orElse (fun _ => decodeImm op w)).orElse (fun _ => decodeRest op w)

/-! ### The encoder (R225, R227) -/

/-- A word from its fields, in the order of R225. -/
def engWord (op : Nat) (rd ra rb : BitVec 5) (i : Bool) (imm : BitVec 24) : IWord :=
  BitVec.ofNat 8 op ++ rd ++ ra ++ rb ++ BitVec.ofBool i ++ imm

/-- An accumulator as a register field. -/
def accField (a : BitVec 2) : BitVec 5 := a.setWidth 5

/-- A word with operand B. -/
def engWordB (op : Nat) (rd ra : BitVec 5) : OpB → IWord
  | .reg r => engWord op rd ra r false 0
  | .imm v => engWord op rd ra 0 true v

/-- The opcode of an ALU operation. -/
def AluOp.code : AluOp → Nat
  | .add => 0x01
  | .sub => 0x02
  | .and => 0x03
  | .or => 0x04
  | .xor => 0x05
  | .shl => 0x06
  | .shr => 0x07
  | .sar => 0x08
  | .min => 0x09
  | .max => 0x0A
  | .mul => 0x0B
  | .divu => 0x0E
  | .divs => 0x0F
  | .remu => 0x10
  | .seq => 0x28
  | .slt => 0x29
  | .sltu => 0x2A

/-- The opcode of a branch comparison. -/
def BrOp.code : BrOp → Nat
  | .eq => 0x30
  | .ne => 0x31
  | .lt => 0x32
  | .ge => 0x33
  | .ltu => 0x34
  | .geu => 0x35

/-- The word of an instruction, unused fields 0. -/
def encodeEng : EngOp → IWord
  | .nop => engWord 0 0 0 0 false 0
  | .alu f rd ra b => engWordB f.code rd ra b
  | .ext rd ra imm => engWord 0x0C rd ra 0 true imm
  | .ins rd ra k imm => engWord 0x0D rd ra k true imm
  | .mac sg ad ra b => engWordB (if sg then 0x18 else 0x19) (accField ad) ra b
  | .aclr ad => engWord 0x1A (accField ad) 0 0 false 0
  | .aadd ad ra => engWord 0x1B (accField ad) ra 0 false 0
  | .aadda ad aa => engWord 0x1C (accField ad) (accField aa) 0 false 0
  | .asuba ad aa => engWord 0x1D (accField ad) (accField aa) 0 false 0
  | .ashl ad aa b => engWordB 0x1E (accField ad) (accField aa) b
  | .asar ad aa b => engWordB 0x1F (accField ad) (accField aa) b
  | .agetl rd aa => engWord 0x20 rd (accField aa) 0 false 0
  | .ageth rd aa => engWord 0x21 rd (accField aa) 0 false 0
  | .aset ad ra b => engWordB 0x22 (accField ad) ra b
  | .adiv rd aa b => engWordB 0x23 rd (accField aa) b
  | .adivr rd aa b => engWordB 0x24 rd (accField aa) b
  | .asqrt rd aa => engWord 0x25 rd (accField aa) 0 false 0
  | .br c ra rb imm => engWord c.code 0 ra rb true imm
  | .brk eq ra k imm => engWord (if eq then 0x36 else 0x37) 0 ra k true imm
  | .bbit set ra k imm => engWord (if set then 0x38 else 0x39) 0 ra k true imm
  | .jmp imm => engWord 0x3A 0 0 0 true imm
  | .jal rd imm => engWord 0x3B rd 0 0 true imm
  | .jr ra => engWord 0x3C 0 ra 0 true 0
  | .ld rd ra imm => engWord 0x40 rd ra 0 true imm
  | .st ra rb imm => engWord 0x41 0 ra rb true imm
  | .lda ad ra imm => engWord 0x42 (accField ad) ra 0 true imm
  | .sta ra ab imm => engWord 0x43 0 ra (accField ab) true imm
  | .gnext rd => engWord 0x44 rd 0 0 false 0
  | .gstat rd => engWord 0x45 rd 0 0 false 0
  | .wait imm => engWord 0x48 0 0 0 true imm
  | .checkpoint => engWord 0x49 0 0 0 false 0
  | .emit ra b => engWordB 0x50 0 ra b
  | .emith ra b => engWordB 0x51 0 ra b
  | .commit b => engWordB 0x52 0 0 b
  | .rewind b => engWordB 0x53 0 0 b
  | .tmset ra b => engWordB 0x58 0 ra b
  | .tmclr => engWord 0x59 0 0 0 false 0

/-! ### Cycles (R227) -/

/-- Cycles of an ALU operation. -/
def AluOp.cycles : AluOp → Nat
  | .mul => 3
  | .divu | .divs | .remu => 66
  | _ => 1

/-- Cycles that an instruction occupies; `taken` for a branch that is taken. -/
def EngOp.cycles (taken : Bool) : EngOp → Nat
  | .alu f _ _ _ => f.cycles
  | .mac _ _ _ _ => 2
  | .adiv _ _ _ | .adivr _ _ _ => 130
  | .asqrt _ _ => 66
  | .br _ _ _ _ | .brk _ _ _ _ | .bbit _ _ _ _ => if taken then 2 else 1
  | .jmp _ | .jal _ _ | .jr _ => 2
  | .ld _ _ _ => 2
  | .lda _ _ _ => 3
  | .sta _ _ _ => 2
  | .wait _ => 2
  | .checkpoint => 2
  | _ => 1

end Sys2Proof.Machine
end

