-- ==== Sys2Proof/Machine/Capture.lean ====
section
/-! DEFINITION. Capture (R145 to R168): destinations and their markers, the capture FIFO, the commit of hit records and
its refusals, the LG and IU flags, the count ring (R283). -/

namespace Sys2Proof.Machine

open Sys2Proof

/-! ### Channels and their destinations -/

/-- CH_CFG of a channel (R121). -/
def State.chCfg (s : State) (t c : Nat) : Nat := s.rv (tileBase t + 0x400 + 64 * c)

/-- EN of a channel. -/
def State.chEn (s : State) (t c : Nat) : Bool := bit (s.chCfg t c) 0

/-- INV of a channel. -/
def State.chInv (s : State) (t c : Nat) : Bool := bit (s.chCfg t c) 1

/-- TIE of a channel. -/
def State.chTie (s : State) (t c : Nat) : Nat := bits (s.chCfg t c) 3 2

/-- CH_DEST of a channel (R167). -/
def State.chDest (s : State) (t c : Nat) : Nat := s.rv (tileBase t + 0x414 + 64 * c)

/-- Channel `c` of tile `t`. -/
def State.chan (s : State) (t c : Nat) : Chan := (s.tile t).chan c

/-- The spare commits records for an input: it serves it, or still serves it in the overlap back (R164, R389). -/
def State.spareServes (s : State) (t : Nat) : Bool :=
  let h := (s.tile t).ho.st
  decide (h = .serving) || decide (h = .back)

/-- The spare serves local input `n`. -/
def State.spareServesInput (s : State) (t n : Nat) : Bool := s.spareServes t && decide ((s.tile t).ho.served = n)

/-- The local input whose CH_DEST, INV and INPUT a channel uses: a spare uses those of the input it serves (R164). -/
def State.inputOf (s : State) (t c : Nat) : Nat := if c = 16 then (s.tile t).ho.served else c

/-- A proof run has the channel off-line: its hits go only to the calibration logic (R378). -/
def State.offLine (s : State) (t c : Nat) : Bool :=
  match s.cal.run with
  | some r => decide (r.tile = t) && decide (r.chan = c) && decide (2 ≤ r.phase) && decide (r.phase ≤ 5)
  | none => false

/-- The channel captures and its records go to the capture destinations: an enabled channel with TIE 0b00 whose input
the spare does not serve, or the spare with TIE 0b00 while it serves an input, unless a proof run has it off-line (R119,
R122, R164, R378). -/
def State.captures (s : State) (t c : Nat) : Bool :=
  if s.offLine t c then false
  else if c = 16 then s.spareServes t && s.chEn t (s.tile t).ho.served && decide (s.chTie t 16 = 0)
  else s.chEn t c && decide (s.chTie t c = 0) && !s.spareServesInput t c

/-- The capture logic of a tile runs: the tile is powered, the device is not in Dark state and no reload is in progress
(R29, R415, R492). -/
def State.captureRuns (s : State) (t : Nat) : Bool :=
  (s.tile t).powered && !decide (s.pw.st = .dark) && s.cfg.load.isNone

/-- The queue that a destination of a channel names. -/
def State.destQ (s : State) (t c : Nat) (d : Dest) : Nat :=
  match d with
  | .lb => s.lbq t
  | .eq => bits (s.chDest t (s.inputOf t c)) 7 0

/-- The queue that a destination of the entry's input names (R164). -/
def State.hitQ (s : State) (t : Nat) (h : Hit) (d : Dest) : Nat := s.destQ t h.input d

/-- The channel names the destination (R167). -/
def State.destOn (s : State) (t c : Nat) (d : Dest) : Bool :=
  match d with
  | .lb => bit (s.chDest t (s.inputOf t c)) 9
  | .eq => bit (s.chDest t (s.inputOf t c)) 8

/-- The queue takes the level monitor's records and so the markers of R48 (R139). -/
def State.lmQueue (s : State) (t : Nat) : Option Nat :=
  let r := s.rv (tileBase t + 0x840)
  if bit r 1 then some (bits r 15 8) else none

/-- An instant in fine units on the slot age scale. -/
def fineAge (age sub : Nat) : Nat := age * 8192 + sub

/-- The capture destinations of a tile: the queues that its enabled channels name, and the level monitor's (R48, R139,
R168). -/
def State.capDests (s : State) (t : Nat) : List Nat :=
  let cs := (List.range 16).filter (fun c => s.chEn t c)
  let qs := cs.flatMap (fun c =>
    (if s.destOn t c .lb then [s.destQ t c .lb] else []) ++ (if s.destOn t c .eq then [s.destQ t c .eq] else []))
  (qs ++ (s.lmQueue t).toList).dedup

/-! ### What a channel owes a destination (R160, R161) -/

/-- The flags owed at a destination. -/
def Chan.owed (y : Chan) (d : Dest) : Owed :=
  match d with
  | .lb => y.lb
  | .eq => y.eq

/-- Set the flags owed at a destination. -/
def Chan.setOwed (y : Chan) (d : Dest) (o : Owed) : Chan :=
  match d with
  | .lb => { y with lb := o }
  | .eq => { y with eq := o }

/-- The next edge captured carries IU at both destinations (R114, R119, R161). -/
def Chan.oweIu (y : Chan) : Chan := { y with nlb := { y.nlb with iu := true }, neq := { y.neq with iu := true } }

/-- LG and IU that one source or another puts on a record. -/
def Owed.join (a b : Owed) : Owed := { lg := a.lg || b.lg, iu := a.iu || b.iu }

/-- An edge refused at the FIFO: the next edge captured carries LG and IU in every destination (R153, R160, R161). -/
def Chan.refusedFifo (y : Chan) : Chan :=
  { y with
    full := satAdd 65535 y.full 1
    nlb := { lg := true, iu := true }
    neq := { lg := true, iu := true }
    ovr := true
    sheet := { y.sheet with ovr := true } }

/-- An edge is refused at a destination: LG and IU are owed there, and the overrun bits set (R160, R161, R167, R168). -/
def Chan.refusedAt (y : Chan) (d : Dest) : Chan :=
  { y.setOwed d { lg := true, iu := true } with ovr := true, sheet := { y.sheet with ovr := true } }

/-! ### The capture FIFO (R153, R157, R168) -/

/-- State of an entry at a destination. -/
def Hit.at_ (h : Hit) (d : Dest) : DestState :=
  match d with
  | .lb => h.lb
  | .eq => h.eq

/-- LG and IU that fell to the entry at a destination. -/
def Hit.flags (h : Hit) (d : Dest) : Owed :=
  match d with
  | .lb => h.flb
  | .eq => h.feq

/-- The entry's stamp on the slot age scale, in fine units. -/
def Hit.key (h : Hit) : Nat := fineAge h.age h.sub

/-- The entry is settled at a destination. -/
def Hit.settle (h : Hit) (d : Dest) : Hit :=
  match d with
  | .lb => { h with lb := .done }
  | .eq => { h with eq := .done }

/-- An entry that still occupies the FIFO at slot age `a`: one that waits at a destination, or one with no destination
whose decode may not be complete, 16 ns after the crossing (R157, R168). -/
def Hit.holds (h : Hit) (a : Nat) : Bool :=
  decide (h.lb = .waiting) || decide (h.eq = .waiting) || (decide (h.lb = .off) && decide (h.eq = .off) && decide (a < h.age + 2))

/-- The FIFO without the entries that are free at slot age `a`. -/
def Chan.pruned (y : Chan) (a : Nat) : Chan := { y with fifo := y.fifo.filter (fun h => h.holds a) }

/-- FIFO entries in use, CH_CAPSTAT.LEVEL (R167). -/
def Chan.level (y : Chan) (a : Nat) : Nat := (y.pruned a).fifo.length

/-- The oldest entry that waits at a destination. -/
def Chan.oldest (y : Chan) (d : Dest) : Option Hit := y.fifo.find? (fun h => decide (h.at_ d = .waiting))

/-- Settle the oldest entry that waits at a destination. -/
def settleFirst (d : Dest) : List Hit → List Hit
  | [] => []
  | h :: hs => if h.at_ d = .waiting then h.settle d :: hs else h :: settleFirst d hs

/-! ### Markers (R47, R48) -/

/-- Some channel holds an entry stamped before the instant `a` that waits for queue `q`. -/
def State.waitsBefore (s : State) (t q a : Nat) : Bool :=
  (List.range 17).any (fun c => [Dest.lb, Dest.eq].any (fun d =>
    (s.chan t c).fifo.any (fun h => decide (s.hitQ t h d = q) && decide (h.at_ d = .waiting) && decide (h.key < a))))

/-- A capture destination can take one word now; a latency buffer that is not pinned always can (R261, R264). -/
def State.capFits (s : State) (t q : Nat) : Bool :=
  decide (s.qCap t q ≠ 0) && (decide (0 < s.qFree t q) || (decide (q = s.lbq t) && !s.pinned t))

/-- Commit held markers in order while the queue takes them; hits stamped before a marker's barrier go ahead of it. A
marker the queue cannot take is held and counted once (R47, R48, R254). -/
def State.flushHeld (s : State) (t q : Nat) (limit : Option Nat) : List HeldMark → State × List HeldMark
  | [] => (s, [])
  | m :: ms =>
    let ready := match limit with
      | some a => decide (m.barrier ≤ a)
      | none => !s.waitsBefore t q m.barrier
    if !ready then (s, m :: ms)
    else if s.capFits t q then (s.capOffer t q m.age m.w).2.flushHeld t q limit ms
    else if m.counted then (s, m :: ms)
    else (s.qRefuse t q 1, { m with counted := true } :: ms)

/-- Markers held for a queue of a tile. -/
def State.heldAt (s : State) (t q : Nat) : List HeldMark := mapGet (fun _ => []) (s.tile t).held q

/-- Commit what markers a queue can take now. -/
def State.settleHeld (s : State) (t q : Nat) (limit : Option Nat) : State :=
  let r := s.flushHeld t q limit (s.heldAt t q)
  r.1.modTile t (fun x => { x with held := mapSet (fun _ => []) x.held q r.2 })

/-- Give a capture destination markers (R48). -/
def State.giveMarks (s : State) (t q : Nat) (ms : List HeldMark) : State :=
  (s.modTile t (fun x => { x with held := mapSet (fun _ => []) x.held q (mapGet (fun _ => []) x.held q ++ ms) })).settleHeld t q none

/-- The seconds marker of the present second (R51). -/
def State.secMark (s : State) : W64 := secondsMarker s.tb.epoch s.cs s.st s.now.s

/-- A word with its CS bit set where it is a seconds marker and `b` holds (R51, R58). -/
def csMark (b : Bool) (w : W64) : W64 :=
  if b && decide (recType w = 4) && decide (recCode w = 1) then w ||| BitVec.ofNat 64 (2 ^ 51) else w

/-- The destinations that take markers: a tile woken in Dark state commits level records only, until the exit (R48,
R492). -/
def State.markDests (s : State) (t : Nat) : List Nat :=
  if s.pw.st = .dark ∧ !s.pw.exiting then (s.lmQueue t).toList else s.capDests t

/-- Give every destination of a tile the same words, all stated at the present instant; while the tile's replica counters
wait for a reload, its seconds markers carry CS (R58). -/
def State.markTile (s : State) (t barrier : Nat) (ws : List W64) : State :=
  forKeys (s.markDests t) (fun q s =>
    s.giveMarks t q (ws.map (fun w => { w := csMark (s.tile t).repLoad w, age := s.tb.age, barrier := barrier }))) s

/-- Give every capture destination of the device the same words (R48); gated tiles take none. -/
def State.markAll (s : State) (barrier : Nat) (ws : List W64) : State :=
  forKeys (List.range s.nTiles) (fun t s => if (s.tile t).powered then s.markTile t barrier ws else s) s

/-- Age of the first 1.024 µs boundary at or after `ovl` µs from now (R385). -/
def State.hoInstant (s : State) (ovl : Nat) : Nat :=
  let e := s.now.engine / 8192
  s.tb.age + ((e + ovl * 125 + 127) / 128 * 128 - e)

/-- An epoch opens in an overlap window: the window starts again (R390). -/
def State.hoRestart (s : State) : State :=
  forKeys (s.tiles.map (·.1)) (fun t s => s.modTile t (fun x =>
    if x.ho.st = .toSpare ∨ x.ho.st = .back then { x with ho := { x.ho with hAge := s.hoInstant x.ho.ovl } } else x)) s

/-! ### The count ring (R283) -/

/-- The ring entry of a slot, where it still stands for that slot. -/
def State.ringOf (s : State) (t slot : Nat) : Option Ring :=
  match mapGet (fun _ => none) (s.tile t).ring (slot % 8192) with
  | some r => if r.slot = slot then some r else none
  | none => none

/-- Count a hit record of slot `slot` committed at latency-buffer position `pos` (R283). -/
def State.ringCount (s : State) (t slot pos : Nat) : State :=
  let nxt := ringAdd (s.qCap t (s.lbq t)) pos 1
  let r := match s.ringOf t slot with
    | some r => { r with n := r.n + 1, last := nxt }
    | none => { slot := slot, n := 1, first := pos, last := nxt }
  s.modTile t (fun x => { x with ring := mapSet (fun _ => none) x.ring (slot % 8192) (some r) })

/-! ### Commit and refusal (R154, R155, R158) -/

/-- The hit record of an entry, with the flags owed at the destination (R163). -/
def Hit.record (h : Hit) (o : Owed) : W64 := hitRecord h.input h.spare h.rise h.cs h.st o.iu o.lg h.epoch h.stamp

/-- The entry of a channel that waits longest at a destination is refused there: the channel owes LG and IU, its overrun
bits set, and `late` refusals are counted (R155, R160, R161, R167). -/
def State.refuseHit (s : State) (t c : Nat) (d : Dest) (late : Bool) : State :=
  s.modChan t c (fun y =>
    let y := y.refusedAt d
    { y with
      fifo := settleFirst d y.fifo
      late := if late then satAdd 65535 y.late 1 else y.late })

/-- The commit buffer that serves a destination (R155). -/
def Tile.commitBuf (x : Tile) (d : Dest) : CommitBuf :=
  match d with
  | .lb => x.cbLb
  | .eq => x.cbEq

/-- Replace the commit buffer of a destination. -/
def Tile.setCommitBuf (x : Tile) (d : Dest) (b : CommitBuf) : Tile :=
  match d with
  | .lb => { x with cbLb := b }
  | .eq => { x with cbEq := b }

/-- Level of a commit buffer at slot age `a`: the queue memory drains at least 1.44 records per nanosecond, 11.52 in a slot
(R156); how many more is a free value (log entry 118). -/
def CommitBuf.levelAt (b : CommitBuf) (a : Nat) : Nat :=
  let n := a - b.age
  b.level - max (Config.commitDrain n) ((n * 1152 + 99) / 100)

/-- The tile's commit buffer for a destination has room (R154, R155). -/
def State.commitRoom (s : State) (t : Nat) (d : Dest) : Bool := decide (((s.tile t).commitBuf d).levelAt s.tb.age < 512)

/-- A record enters the commit buffer of a destination. -/
def State.commitPush (s : State) (t : Nat) (d : Dest) : State :=
  s.modTile t (fun x => x.setCommitBuf d { level := (x.commitBuf d).levelAt s.tb.age + 1, age := s.tb.age })

/-- The first slot that begins `n` slots or more after the entry's stamp (R154, R155). -/
def Hit.due (h : Hit) (n : Nat) : Nat := h.age + n + (if h.sub = 0 then 0 else 1)

/-- No other channel of the tile has an entry for the same queue whose stamp is earlier, or equal with a lower local input:
records commit in that order, also those that a full commit buffer held (R158; DEDUCED, log entry 131). -/
def State.commitsFirst (s : State) (t c : Nat) (d : Dest) (h : Hit) : Bool :=
  (List.range 17).all (fun k => decide (k = c) ||
    (match (s.chan t k).oldest d with
      | some g => decide (s.hitQ t g d ≠ s.hitQ t h d) || decide (h.key < g.key) || (decide (h.key = g.key) && decide (h.input ≤ g.input))
      | none => true))

/-- An attempt to commit an entry at a destination (R154): the markers ahead of it, then the record, where the commit
buffer has room; refused at once where the queue is full, disabled or pinned. With a full commit buffer the attempt is
repeated later (R155). -/
def State.commitHit (s : State) (t c : Nat) (d : Dest) (h : Hit) : State :=
  let q := s.hitQ t h d
  let s := s.settleHeld t q (some h.key)
  let blocked := (s.heldAt t q).any (fun m => decide (m.barrier ≤ h.key))
  if !(s.capFits t q && !blocked) then ((s.qRefuse t q 1).refuseHit t c d false).settleHeld t q none
  else if !s.commitRoom t d then s
  else
    let pos := (s.queue t q).wp
    let s := ((s.capOffer t q h.age (h.record (((s.chan t c).owed d).join (h.flags d)))).2).commitPush t d
    let s := if d = .lb then s.ringCount t h.age pos else s
    let s := s.modChan t c (fun y => { y.setOwed d {} with fifo := settleFirst d y.fifo })
    s.settleHeld t q none

/-- HIT_COMMIT (R154, R157, R158, R160, R161): the oldest entry of the channel that waits at the destination, no earlier
than 32 ns and earlier than 112 ns after its stamp, and in the order of R158. -/
def execHitCommit (t c : Nat) (d : Dest) (s : State) : Host.Outcome State Fault Refusal :=
  onChan t c s (fun s =>
    match (s.chan t c).oldest d with
    | some h =>
      if s.captureRuns t && s.commitsFirst t c d h && decide (s.tb.age < h.due 14) then
        let s := s.advanceTo (h.due 4)
        (s.commitHit t c d h).modChan t c (fun y => y.pruned s.tb.age)
      else s
    | none => s)

/-- COMMIT_LATE_REFUSE (R155): the oldest entry that waits at the destination, still not committed at stamp plus 112 ns, is
refused and counted in CH_REFUSE.LATE. While the commit buffer has room before that instant, the entry is committed and
not refused. -/
def execCommitLateRefuse (t c : Nat) (d : Dest) (s : State) : Host.Outcome State Fault Refusal :=
  onChan t c s (fun s =>
    match (s.chan t c).oldest d with
    | some h =>
      let s' := s.advanceTo (h.due 14)
      if s.captureRuns t && (decide (h.due 14 ≤ s.tb.age) || !s'.commitRoom t d) then
        ((s'.refuseHit t c d true).modChan t c (fun y => y.pruned s'.tb.age)).settleHeld t (s.hitQ t h d) none
      else s
    | none => s)

end Sys2Proof.Machine
end

