-- ==== Sys2Proof/Machine/TimePlane.lean ====
section
/-! DEFINITION. The time plane (R38 to R83): epochs and their causes, second markers, the lock states of the timing
PLL, the return of a reference, the ramp generator, the replica counters. -/

namespace Sys2Proof.Machine

open Sys2Proof

/-! ### Time quality (R107) -/

/-- The code of the present time quality: the first state of R107 whose condition holds. -/
def State.qualityCode (s : State) : Nat :=
  if s.tb.epoch = 0 then 0
  else match s.tb.st with
    | .holdover | .ret | .waitRealign | .relock => 4
    | .acquire | .locked => if s.tt.hold then 2 else if s.tt.stale then 3 else 1

/-- Take the present time quality; a change raises the quality-changed event (R107). -/
def State.updQuality (s : State) : State :=
  if s.qualityCode = s.tt.quality then s
  else ({ s with tt := { s.tt with quality := s.qualityCode } }).raise (chipSrc 8)

/-! ### Ramp profiles (R68 to R74) -/

/-- STEER_MAX in units of 10^-12 (R82). -/
def State.steerMax (s : State) : Nat := s.fld 0x100C 29 20 * 10000

/-- Rounded quotient, ties away from zero. -/
def roundDiv (n : Int) (d : Nat) : Int := if n < 0 then -((2 * (-n) + d) / (2 * d)) else (2 * n + d) / (2 * d)

/-- The segments of an automatic profile that removes `e`, in 10^-21 s, at the rate `m`, in 10^-12 (R71). -/
def autoSegs (e : Int) (m : Nat) : List Seg :=
  let n := e.natAbs / (m * 1024)
  let r := e.natAbs - n * (m * 1024)
  [⟨-e.sign * m, n⟩, ⟨-e.sign * roundDiv r 1024, 1⟩].filter (fun g => decide (g.dur ≠ 0))

/-- The host profile in the registers: segments 0 to LAST, those of duration 0 skipped (R69). -/
def State.hostSegs (s : State) : List Seg :=
  ((List.range (s.fld 0x1040 7 4 + 1)).map (fun k => (⟨signed 32 (s.rv (0x1100 + 8 * k)), s.rv (0x1104 + 8 * k)⟩ : Seg))).filter
    (fun g => decide (g.dur ≠ 0))

/-- A segment of the host profile exceeds STEER_MAX (R70). -/
def State.hostTooFast (s : State) : Bool :=
  (List.range (s.fld 0x1040 7 4 + 1)).any (fun k => decide (s.steerMax < (signed 32 (s.rv (0x1100 + 8 * k))).natAbs))

/-- Start a profile now, at a 1.024 µs boundary. -/
def Timebase.startProfile (b : Timebase) (auto : Bool) (segs : List Seg) : Timebase :=
  { b with prof := if segs.isEmpty then none else some ⟨auto, segs, b.age⟩ }

/-- Start the automatic profile that waits: the offset less what has moved since its measurement (R72). What a preempted
host profile moved since then is taken off as well, which R72 states for an automatic profile only (DEDUCED, log entry
122). -/
def Timebase.startAuto (b : Timebase) (r : AutoReq) : Timebase :=
  { (b.startProfile true (autoSegs (r.off + (b.moved - r.moved) * rampUnit) r.rate)) with autoReq := none, hostReq := none }

/-- START of TB_RAMP_CTRL: refused with the ramp-refused event while a profile runs, and when a rate exceeds STEER_MAX;
otherwise the host profile waits for its boundary with the segments as they stand now (R69, R70, R72). That a write in
between changes nothing of it is the model's choice (DEDUCED, log entry 121): R70 checks the profile at START. -/
def State.rampAsk (s : State) : State :=
  if s.tb.prof.isSome || s.hostTooFast then s.raise (chipSrc 4)
  else { s with tb := { s.tb with hostReq := some s.hostSegs } }

/-- ABORT of TB_RAMP_CTRL: a running host profile ends at the next 1.024 µs boundary (R83). -/
def Timebase.rampCut (b : Timebase) : Timebase :=
  match b.prof with
  | some ⟨false, g :: _, start⟩ => { b with prof := some ⟨false, [{ g with dur := min g.dur ((b.age - start) / 128 + 1) }], start⟩ }
  | _ => b

/-- The end of the present segment, and what follows it (R69). -/
def Timebase.nextSegment (b : Timebase) : Timebase :=
  match b.prof with
  | some ⟨auto, g :: gs, start⟩ =>
    let fin := start + g.dur * 128
    let p := if gs.isEmpty then none else some ⟨auto, gs, fin⟩
    { ({ b with prof := p, age := fin }).rampTo b.age with age := b.age }
  | _ => { b with prof := none }

/-- Slots until the accumulator passes the next whole fine unit at the present rate (R68); none where the rate is 0. -/
def Timebase.phaseStepIn (b : Timebase) : Option Nat :=
  match b.prof with
  | some ⟨_, g :: _, _⟩ =>
    if g.rate = 0 then none
    else
      let left := (rampUnit : Int) - (if 0 < g.rate then b.acc else -b.acc)
      some ((left.toNat + 8 * g.rate.natAbs - 1) / (8 * g.rate.natAbs))
  | _ => none

/-! ### Epochs (R42 to R47) -/

/-- An epoch cause is recognised, for the slot boundary of age `due` (R45). -/
def State.addCause (s : State) (i due : Nat) : State :=
  { s with tb := { s.tb with
    openDue := if s.tb.causes = 0 then due else s.tb.openDue
    causes := s.tb.causes ||| BitVec.ofNat 8 (2 ^ i) } }

/-- Nearest multiple of 8 ns to an offset in fine units, ties away from zero (R99). -/
def slotRound (d : Int) : Int := roundDiv d 8192 * 8192

/-- The number of the epoch after `e` (R44). -/
def nextEpoch (e : Nat) : Nat := if 15 ≤ e then 1 else e + 1

/-- Device time and the requests after the opening: the value of exactly one cause, in the order of R45; a step that is
taken requests its residual profile (R99). -/
def Timebase.opened (b : Timebase) : Timebase :=
  let shift := fun (r : AutoReq) => { r with moved := r.moved - b.moved }
  let b := { b with
    epoch := nextEpoch b.epoch, closed := (b.epoch, b.time, b.frozenAt.getD b.time) :: b.closed.take 31, frozenAt := none, prof := none, setVal := none, realignVal := none, stepVal := none, causes := 0,
    openAge := b.age, opens := b.opens + 1, moved := 0, heldMoved := b.heldMoved - b.moved, secAge := b.age,
    autoReq := b.autoReq.map shift,
    time := match b.setVal, b.realignVal, b.stepVal with
      | some v, _, _ => v
      | none, some v, _ => v
      | none, none, some th => b.time.addFine (-slotRound th)
      | none, none, none => b.time }
  { b with openTime := b.time }

/-- The residual of a step that is taken, in fine units (R45, R99). -/
def Timebase.residual (b : Timebase) : Option Int :=
  match b.setVal, b.realignVal, b.stepVal with
  | none, none, some th => some (th - slotRound th)
  | _, _, _ => none

/-- A pending Dark entry or exit is refused when an epoch opens before X (R489). -/
def State.dropDark (s : State) (reason : Nat) : State :=
  if s.pw.dark.isSome then ({ s with pw := { s.pw with dark := none, reason := reason } }).raise (chipSrc 30) else s

/-- Pending triggers whose windows end after the opening instant will be refused with reason 5 (R282, R289, R302). -/
def doomTriggers (openAge : Nat) (ps : List Trig) : List Trig :=
  ps.map (fun p => if decide ((openAge : Int) * 8 < p.w1) && p.doom.isNone then { p with doom := some 5 } else p)

/-- Outliers of the run that no step confirmed are discarded with reason 4 (R89, R97). -/
def TimeTransfer.dropped (x : TimeTransfer) : TimeTransfer :=
  let n := if x.confirmed then 0 else (x.run.filter (·.out)).length
  { x with
    run := [], confirmed := false, stepAsk := none, disc := satAdd 65535 x.disc n
    lastReason := if n = 0 then x.lastReason else 4 }

/-- An epoch opens now, for the causes recorded (R42 to R47, R73, R262): device time takes its value, profiles end, and
every capture destination and uplink stream receives the markers `pre`, the epoch-change marker and a seconds marker. The
block and the agreeing run end with the epoch, whatever its cause (DEDUCED, log entry 123). -/
def State.openEpoch (s : State) (pre : List W64) : State :=
  let old := s.tb.epoch
  let causes := s.tb.causes
  let host := match s.tb.prof with
    | some ⟨false, _, _⟩ => true
    | _ => false
  let res := s.tb.residual
  let s := { s with
    tb := s.tb.opened
    tt := { s.tt.dropped with block := [], last := none }
    eb := { s.eb with pending := doomTriggers s.tb.age s.eb.pending }
    cfg := if s.cfg.decided then { s.cfg with fixAge := s.tb.age } else s.cfg
    pw := if s.pw.st = PwState.dark then { s.pw with darkCauses := s.pw.darkCauses ||| causes } else s.pw }
  let s := match res with
    | some r => { s with tb := { s.tb with autoReq := some ⟨r * rampUnit, s.steerMax, 0⟩ } }
    | none => s
  let ws := pre ++ [epochMarker s.tb.epoch old causes.toNat s.now.ns, s.secMark]
  let s := s.hoRestart.markAll (fineAge s.tb.age 0) ws
  let s := forKeys [1, 3, 4, 5, 6, 7] (fun c s => s.sendOwn c 0 ws) s
  let s := if host then s.raise (chipSrc 5) else s
  ((s.dropDark 3).raise (chipSrc 6)).updQuality

/-- Open the epoch whose causes are recorded, at its slot boundary (R45). -/
def State.openDue (s : State) : State :=
  if s.tb.causes = 0 then s else (s.advanceTo s.tb.openDue).openEpoch []

/-- TB_CTRL.LATCH (R79). -/
def State.latchTime (s : State) : State :=
  let t := s.now
  { s with tb := { s.tb with
    capS := BitVec.ofNat 32 t.s
    capNs := BitVec.ofNat 32 t.ns
    capFe := BitVec.ofNat 32 (packW [(0, 10, t.fine), (10, 4, s.tb.epoch), (14, 1, b2n s.cs), (15, 1, b2n s.st)]) } }

/-- TB_CTRL.SET: device time takes TB_SET_S and TB_SET_NS, with cause bit 4 (R45, R79). -/
def State.setTime (s : State) (due : Nat) : State :=
  let s := s.addCause 4 due
  { s with tb := { s.tb with setVal := some { s := s.rv 0x1020, ns := s.fld 0x1024 29 0, fine := 0 } } }

/-! ### Lock states (R53 to R67) -/

/-- REFSRC selects REFCLK_P/N now (R53). -/
def State.refClk (s : State) : Bool :=
  match s.fld 0x1000 1 0 with
  | 0 => !decide (s.lk.dn = .slot)
  | 1 => false
  | _ => true

/-- Hits stamped and seconds markers stated from slot age `lo` on carry CS (R58, R59). -/
def State.suspectFrom (s : State) (lo : Nat) : State :=
  forKeys (List.range s.nTiles) (fun t s =>
    let s := s.modTile t (fun x => { x with
      chans := x.chans.map (fun p => (p.1, { p.2 with fifo := p.2.fifo.map (fun h =>
        if lo ≤ h.age then { h with cs := true } else h) }))
      held := x.held.map (fun p => (p.1, p.2.map (fun m => if lo ≤ m.age then { m with w := csMark true m.w } else m))) })
    forKeys (s.markDests t) (fun q s => forKeys (List.range (s.qLevel t q)) (fun i s =>
      let pos := ringAdd (s.qCap t q) (s.queue t q).rp i
      let x := s.qWord t q pos
      if lo ≤ x.age ∧ csMark true x.w ≠ x.w then
        s.setQWord t q pos { x with w := csMark true x.w, par := !x.par, mw := csMark true x.mw, mpar := !x.mpar }
      else s) s) s) s

/-- The timebase loses its reference (R57 to R61, R67): unlock is declared, and hits stamped from `lead` slots before
carry CS; in WAIT_REALIGN it returns to HOLDOVER. -/
def State.unlock (s : State) (lead : Nat) : State :=
  let hold := fun (s : State) => { s with tb := { s.tb with
    st := .holdover, heldErr := none, heldSteer := false, jumpAge := none, refOk := false, loopFrozen := true } }
  let back := fun (s : State) => { s with tb := { s.tb with conds := (s.tb.age - lead, true, s.st) :: s.tb.conds } }
  match s.tb.st with
  | .locked | .ret | .relock => ((back (hold (s.suspectFrom (s.tb.age - lead)))).raise (chipSrc 0)).updQuality
  | .waitRealign => (hold s).updQuality
  | .acquire | .holdover => s

/-- A change of the reference selected acts as the loss of the reference (R53), from the value `old` of REF_ACT's
selection: hits stamped from 8 ns before it carry CS, and the return of the new reference is measured as R63 says. Its
unlock is declared at once (DESIGN CHOICE, log entry 124). -/
def State.refSwitch (s : State) (old : Bool) : State :=
  if s.refClk = old then s
  else
    let s := s.unlock 1
    { s with tb := { s.tb with refOk := false, refAct := s.refClk } }

/-- The decision on a return error (R64 to R67): relock with the error held, or wait for the realign. A held error is no
part of TB_OFFSET, which counts what profiles move (DEDUCED, log entry 125). -/
def State.decideReturn (s : State) (e : Int) : State :=
  let s := { s with tb := { s.tb with phaseErr := e } }
  let held := fun (steer : Bool) (s : State) =>
    { s with tb := { s.tb with st := .relock, heldErr := some e, heldMoved := s.tb.moved, heldSteer := steer, jumpAge := none, loopFrozen := false } }
  if e.natAbs ≤ s.fld 0x100C 15 4 then held false s
  else
    let s := s.raise (chipSrc 3)
    if bit (s.rv 0x100C) 0 then held true s
    else { s with tb := { s.tb with st := .waitRealign, jumpAge := some s.tb.age, heldErr := none } }

/-- The value of device time at a realign (R65): at the reference-aligned boundary the old time scale reads the second
plus *e*, in ps; with a time-transfer estimate that less θ̄, rounded to whole slots, is master time there. Without one,
the boundary takes the second. -/
def State.realignTime (s : State) : Time :=
  if s.tt.lastDone.isSome then s.now.addFine (roundDiv (s.tb.phaseErr * 1024 - s.tt.thetaBar * 1000) 8192000 * 8192)
  else { s := s.now.s, ns := 0, fine := 0 }

/-! ### The commands -/

/-- SECOND_BOUNDARY (R48): at the second boundary, every capture destination receives a seconds marker. -/
def execSecondBoundary (s : State) : Host.Outcome State Fault Refusal :=
  onChip s (fun s =>
    let s := if s.now.ns = 0 ∧ s.tb.secAge ≠ s.tb.age then s else s.advance s.toSecond
    ({ s with tb := { s.tb with secAge := s.tb.age } }).markAll 0 [s.secMark])

/-- EPOCH_OPEN (R45 to R47, R73). -/
def execEpochOpen (s : State) : Host.Outcome State Fault Refusal := onChip s (fun s => s.openDue)

/-- A tile's replica counters take the broadcast value: the interval in which its records carry CS ends (R58, R76, R77). -/
def Tile.replicaLoad (x : Tile) (a : Nat) : Tile :=
  { x with rep := 0, repB := 0, repLoad := false, pairLoad := false, reps := if x.repLoad then (x.repFrom, a) :: x.reps else x.reps }

/-- A tile's records carry CS from slot age `a` until its counters are loaded. -/
def Tile.replicaDoubt (x : Tile) (a : Nat) : Tile :=
  if x.repLoad then x else { x with repLoad := true, repFrom := a }

/-- A replica mismatch of a tile is counted, and its event names the instant `at_` (R76, R77). -/
def State.replicaMiss (s : State) (t : Nat) (at_ : Time) : State :=
  ({ s with tb := { s.tb with replCnt := satAdd 65535 s.tb.replCnt 1, replTile := t } }).raiseAt (tileSrc t 3) at_

/-- REPLICA_CHECK (R75 to R77): at a 1.024 µs boundary the master broadcasts its time. A tile whose two counters disagreed
loads both; one whose replica differs flags its hits CS until its load. -/
def execReplicaCheck (s : State) : Host.Outcome State Fault Refusal :=
  onChip s (fun s =>
    let s := if s.now.engine % (128 * 8192) = 0 then s else s.advance (s.toBoundary 128)
    let s := { s with tb := { s.tb with checkAge := s.tb.age } }
    forKeys (List.range s.nTiles) (fun t s => s.modTile t (fun x =>
      if !x.powered then x
      else if x.pairLoad then x.replicaLoad s.tb.age
      else if x.rep ≠ 0 then x.replicaDoubt s.tb.age else x)) s)

/-- REPLICA_RELOAD (R76): the tile's replica differed from the last broadcast, so hits stamped from that check on carry CS
and the tile loads the broadcast value at the slot boundary after the check. -/
def execReplicaReload (t : Nat) (s : State) : Host.Outcome State Fault Refusal :=
  onTile t s (fun s =>
    if (s.tile t).powered then
      let a := s.tb.checkAge
      let s := (s.modTile t (fun x => { x.replicaDoubt a with
        chans := x.chans.map (fun p => (p.1, { p.2 with fifo := p.2.fifo.map (fun h =>
          if a ≤ h.age then { h with cs := true } else h) })) })).advanceTo (a + 1)
      let s := s.modTile t (fun x => x.replicaLoad s.tb.age)
      s.replicaMiss t (s.now.addNs (-8 * ((s.tb.age - a : Nat) : Int)))
    else s)

/-- REPLICA_PAIR_MISMATCH (R77): in Bracket mode, hits carry CS at once, and both counters load at the next 1.024 µs
boundary; by how much each of the two is wrong meanwhile is a free value (log entry 117). -/
def execReplicaPairMismatch (t : Nat) (s : State) : Host.Outcome State Fault Refusal :=
  onTile t s (fun s =>
    if (s.tile t).powered && s.bracket then
      let (n, s) := s.draw
      let a := Config.replicaDrift n false
      let b := Config.replicaDrift n true
      let s := s.modTile t (fun x => { x.replicaDoubt s.tb.age with
        pairLoad := true, rep := a, repB := if b = a then a + 1 else b })
      s.replicaMiss t s.now
    else s)

/-- LOCK_COMPLETE (R55, R57, R64, R66): the timebase enters LOCKED; an error held through RELOCK is removed by an
automatic profile. REF_OK is 1 from here or from REFERENCE_PRESENT on, until the reference is lost or changes (DEDUCED, log
entry 126). -/
def execLockComplete (s : State) : Host.Outcome State Fault Refusal :=
  onChip s (fun s =>
    if s.tb.st = .acquire ∨ s.tb.st = .relock then
      let req := match s.tb.heldErr with
        | some e => some ⟨e * 1000000000, if s.tb.heldSteer then 10000000 else s.steerMax, s.tb.heldMoved⟩
        | none => s.tb.autoReq
      let s := { s with tb := { s.tb with
        st := .locked, heldErr := none, heldSteer := false, autoReq := req, refOk := true, refAct := s.refClk, loopFrozen := false } }
      (s.raise (chipSrc 1)).updQuality
    else s)

/-- UNLOCK_DECLARED (R57 to R61, R67): hits stamped from 32 ns before carry CS, the loop filter freezes, a held error
is dropped; in WAIT_REALIGN the reference is lost. -/
def execUnlockDeclared (s : State) : Host.Outcome State Fault Refusal := onChip s (fun s => s.unlock 4)

/-- LOSC_MISSING (R62). -/
def execLoscMissing (s : State) : Host.Outcome State Fault Refusal :=
  onChip s (fun s =>
    let s' := { s with tb := { s.tb with loscOk := false } }
    if bit (s.rv 0x1000) 2 then s'.raise (chipSrc 2) else s')

/-- LOSC_CLOCK_PRESENT (R62, R80). -/
def execLoscClockPresent (s : State) : Host.Outcome State Fault Refusal :=
  onChip s (fun s => { s with tb := { s.tb with loscOk := true } })

/-- REFERENCE_PRESENT (R63 to R66): the mean error, in ps, lies in −4,000 to +3,999. -/
def execReferencePresent (err : Int) (s : State) : Host.Outcome State Fault Refusal :=
  onChip s (fun s =>
    if s.tb.st = .holdover ∧ -4000 ≤ err ∧ err ≤ 3999 then
      ((({ s with tb := { s.tb with st := .ret, refOk := true, refAct := s.refClk } }).decideReturn err)).updQuality
    else s)

/-- REFERENCE_REMEASURED (R67): a new consistent error that differs by more than the lock window. -/
def execReferenceRemeasured (err : Int) (s : State) : Host.Outcome State Fault Refusal :=
  onChip s (fun s =>
    if s.tb.st = .waitRealign ∧ -4000 ≤ err ∧ err ≤ 3999 ∧ s.fld 0x1008 6 0 < (err - s.tb.phaseErr).natAbs then
      (s.decideReturn err).updQuality
    else s)

/-- REALIGN (R65): at the first second boundary 1 ms or more after the phase-jump event, the ramp offset is zeroed,
device time is set, and an epoch opens with cause bit 2. -/
def execRealign (s : State) : Host.Outcome State Fault Refusal :=
  onChip s (fun s =>
    match s.tb.st, s.tb.jumpAge with
    | .waitRealign, some a =>
      let s := s.advanceTo (a + 125000)
      let s := if s.now.ns = 0 then s else s.advance s.toSecond
      let v := s.realignTime
      let s := { s with tb := { s.tb with
        st := .relock, jumpAge := none, acc := 0, autoReq := none, realignVal := some v, loopFrozen := false } }
      (s.addCause 2 s.tb.age).openEpoch []
    | _, _ => s)

/-- RAMP_PROFILE_START (R69, R72, R74): at the next 1.024 µs boundary, the profile that waits starts, a host profile with
the segments it had at its START (log entry 121); an automatic one takes the place of a host profile that waits. -/
def execRampProfileStart (s : State) : Host.Outcome State Fault Refusal :=
  onChip s (fun s =>
    if s.tb.prof.isSome then s
    else match s.tb.autoReq with
      | some r =>
        let pre := s.tb.hostReq.isSome
        let s := s.advance (s.toBoundary 128)
        let s := { s with tb := s.tb.startAuto r }
        if pre then s.raise (chipSrc 5) else s
      | none =>
        match s.tb.hostReq with
        | some segs =>
          let s := s.advance (s.toBoundary 128)
          { s with tb := { (s.tb.startProfile false segs) with hostReq := none } }
        | none => s)

/-- RAMP_SEGMENT_END (R69): the present segment's duration expires. -/
def execRampSegmentEnd (s : State) : Host.Outcome State Fault Refusal :=
  onChip s (fun s =>
    match s.tb.prof with
    | some ⟨_, g :: _, start⟩ =>
      let s := s.advanceTo (start + g.dur * 128)
      { s with tb := s.tb.nextSegment }
    | _ => s)

/-- RAMP_PHASE_STEP (R68): the accumulator passes a whole fine unit, within the present segment. -/
def execRampPhaseStep (s : State) : Host.Outcome State Fault Refusal :=
  onChip s (fun s =>
    match s.tb.phaseStepIn, s.tb.prof with
    | some n, some ⟨_, g :: _, start⟩ => if s.tb.age + n ≤ start + g.dur * 128 then s.advance n else s
    | _, _ => s)

/-- RAMP_AUTO_REPLACE (R72): at the next 1.024 µs boundary the automatic profile that waits replaces the one that
runs; a host profile is preempted. -/
def execRampAutoReplace (s : State) : Host.Outcome State Fault Refusal :=
  onChip s (fun s =>
    match s.tb.autoReq, s.tb.prof with
    | some r, some p =>
      let s := s.advance (s.toBoundary 128)
      let s := { s with tb := s.tb.startAuto r }
      if p.auto then s else s.raise (chipSrc 5)
    | _, _ => s)

end Sys2Proof.Machine
end

