-- ==== Sys2Proof/Machine/Dispatcher.lean ====
section
/-! DEFINITION. The slice dispatcher (R209 to R224): the function descriptors, the reading of the input queue, item
keys and their release, time gates and timers, the engines' markers, checkpoints and restores (R234 to R238). -/

namespace Sys2Proof.Machine

open Sys2Proof

/-! ### Engines, contexts and descriptors (R171, R209, R210, R215) -/

/-- Engine `e` of tile `t`. -/
def State.eng (s : State) (t e : Nat) : Engine := (s.tile t).eng e

/-- The dispatcher's state for context key `c`. -/
def State.ctx (s : State) (t c : Nat) : Ctx := (s.tile t).ctx c

/-- The assignment that an engine runs now. -/
def State.asg (s : State) (t e : Nat) : Nat := (s.tile t).assigned e

/-- The engine runs: running or replaying, on a powered tile that is not in reset (R242, R444). -/
def State.engRuns (s : State) (t e : Nat) : Bool :=
  let st := (s.eng t e).st
  (s.tile t).powered && !(s.tile t).inReset && decide (s.pw.st ≠ .dark) && (decide (st = 1) || decide (st = 2))

/-- The input queue of an engine (R209). -/
def State.inq (s : State) (t e : Nat) : Nat := bits (s.engCfg t (s.asg t e)) 23 16

/-- The local inputs of an engine (R209). -/
def State.owned (s : State) (t e : Nat) : BitVec 16 := BitVec.ofNat 16 (s.engCfg t (s.asg t e))

/-- Items per slice (R220). -/
def State.batch (s : State) (t e : Nat) : Nat := bits (s.engCfg t (s.asg t e)) 28 24

/-- The live contexts that ENG_CTX gives an assignment (R210). -/
def State.ctxMap (s : State) (t f : Nat) : List Nat :=
  (List.range 64).filter (fun c =>
    if c < 32 then bit (s.rv (tileBase t + 0x2004 + 64 * f)) c else bit (s.rv (tileBase t + 0x2008 + 64 * f)) (c - 32))

/-- A word of the context store. -/
def State.cxWord (s : State) (t a : Nat) : W64 := mapGet (fun _ => 0) (s.tile t).cx a

/-- Write a word of the context store. -/
def State.setCxWord (s : State) (t a : Nat) (w : W64) : State :=
  s.modTile t (fun x => { x with cx := mapSet (fun _ => 0) x.cx a w })

/-- Write a run of words of the context store. -/
def State.setCxWords (s : State) (t a : Nat) : List W64 → State
  | [] => s
  | w :: ws => (s.setCxWord t a w).setCxWords t (a + 1) ws

/-- Descriptor word `k` of a context key: that of the block, or of the block that is to start (R171, R422). -/
def State.dword (s : State) (t c k : Nat) : W64 :=
  match (s.ctx t c).anew with
  | some ws => ws.getD k 0
  | none => s.cxWord t (64 * c + k)

/-- A field of descriptor word 0. -/
def State.dsc (s : State) (t c hi lo : Nat) : Nat := fieldOf (s.dword t c 0) hi lo

/-- FUNC. -/
def State.func (s : State) (t c : Nat) : Nat := s.dsc t c 4 0

/-- GATE_KIND. -/
def State.gateKind (s : State) (t c : Nat) : Nat := s.dsc t c 23 22

/-- OUT_Q. -/
def State.outQ (s : State) (t c : Nat) : Nat := s.dsc t c 39 32

/-- Source B is used (R551). -/
def usesB (func qty srcB : Nat) : Bool :=
  decide (9 ≤ func ∧ func ≤ 11) || (decide (12 ≤ func ∧ func ≤ 14) && (decide (qty = 2) || decide (qty = 3))) ||
    (decide (24 ≤ func) && decide (srcB ≠ 31))

/-- The context runs time gates with boundary items (R217). -/
def State.timeGate (s : State) (t c : Nat) : Bool :=
  decide (s.gateKind t c = 0) && decide (s.func t c ≠ 5) && decide (s.func t c ≠ 8)

/-- A polarity field selects the edge (R171). -/
def selects (pol : Nat) (rise : Bool) : Bool := if rise then bit pol 0 else bit pol 1

/-- ROLE_A, ROLE_B and ROLE_G of an edge for a context, as bits 0 to 2 (R212). -/
def State.roles (s : State) (t c input : Nat) (rise : Bool) : Nat :=
  let a := decide (s.dsc t c 12 8 = input) && selects (s.dsc t c 19 18) rise
  let b := usesB (s.func t c) (s.dsc t c 43 40) (s.dsc t c 17 13) && decide (s.dsc t c 17 13 = input) &&
    selects (s.dsc t c 21 20) rise
  let g := decide (s.gateKind t c = 2) && decide (s.dsc t c 28 24 = input) && selects (s.dsc t c 30 29) rise
  b2n a + 2 * b2n b + 4 * b2n g

/-- HALTED of a context's resume word; a context that has not started is not halted (R215, R231). -/
def State.halted (s : State) (t c : Nat) : Bool := decide (c < 64) && (s.cxWord t (64 * c + 27)).getLsbD 11

/-- The contexts of an engine that take items. -/
def State.liveCtxs (s : State) (t e : Nat) : List Nat := (s.eng t e).ctxs.filter (fun c => !s.halted t c)

/-- The distinct output queues of an engine's contexts (R224, R230). -/
def State.outQs (s : State) (t e : Nat) : List Nat := ((s.eng t e).ctxs.map (s.outQ t)).dedup

/-- A context has an open packet (R230, R231). -/
def State.hasOpen (s : State) (t e c : Nat) : Bool :=
  (s.outQs t e).any (fun q => (s.queue t q).opened && decide ((s.queue t q).owner = c))

/-! ### Items (R212, R213) -/

/-- KIND of an item. -/
def Item.kind (i : Item) : Nat := fieldOf i.info 3 0

/-- G29 of an item that is not a hit and not of a trigger gate. -/
def plainInfo (kind epoch : Nat) : W64 := rec64 [(0, 4, kind), (22, 4, epoch)]

/-- G29 of a hit, with its roles, IU and LEAD (R212). -/
def hitInfo (w : W64) (roles : Nat) (iu lead : Bool) : W64 :=
  rec64 [(4, 4, fieldOf w 60 57), (8, 1, fieldOf w 55 55), (9, 1, fieldOf w 53 53), (10, 1, fieldOf w 54 54),
    (11, 1, b2n iu), (12, 1, fieldOf w 51 51), (13, 1, fieldOf w 56 56), (14, 3, roles), (17, 1, b2n lead),
    (22, 4, fieldOf w 50 47)]

/-- G29 of a trigger gate's opening or closing item (R212). -/
def gateInfo (kind : Nat) (ovf : Bool) (epoch code id : Nat) : W64 :=
  rec64 [(0, 4, kind), (18, 1, b2n ovf), (22, 4, epoch), (26, 4, code), (32, 24, id)]

/-- Full seconds from the last marker and the low seven bits (R49). -/
def rebuildSec (m low : Nat) : Nat :=
  let d := (low + 128 - m % 128) % 128
  if 64 ≤ d then (m + 2 ^ 32 + d - 128) % 2 ^ 32 else (m + d) % 2 ^ 32

/-- Engine time of a hit record (R49, R163, R213). -/
def hitTime (secs : Nat) (w : W64) : W64 :=
  BitVec.ofNat 64 (rebuildSec secs (fieldOf w 46 40) * 1024000000000 + fieldOf w 39 0)

/-- An engine time is at or before another, by their signed difference (R41). -/
def timeLe (a b : W64) : Bool := decide (0 ≤ (b - a).toInt)

/-- An engine time is strictly before another. -/
def timeLt (a b : W64) : Bool := decide (0 < (b - a).toInt)

/-! ### Keys (R218) -/

/-- A poisoned word before which no hit of its segment was read: it comes first there. -/
def DItem.unkeyed (d : DItem) : Bool := decide (d.kind = 8) && decide (d.word = 0)

/-- One item's key is strictly before another's: segment, the barrier last in its segment, engine time, class, input. -/
def DItem.before (a b : DItem) : Bool :=
  if a.seg ≠ b.seg then decide (a.seg < b.seg)
  else if a.kind = 3 then false
  else if b.kind = 3 then true
  else if b.unkeyed then false
  else if a.unkeyed then true
  else if a.t ≠ b.t then timeLt a.t b.t
  else if a.cls ≠ b.cls then decide (a.cls < b.cls)
  else decide (a.input < b.input)

/-- Put an item into the buffer after those of equal key. -/
def insItem (x : DItem) : List DItem → List DItem
  | [] => [x]
  | y :: ys => if x.before y then x :: y :: ys else y :: insItem x ys

/-- Put an item into the buffer ahead of those of equal key. -/
def insFirst (x : DItem) : List DItem → List DItem
  | [] => [x]
  | y :: ys => if y.before x then y :: insFirst x ys else x :: y :: ys

/-- A poisoned word as an item: it has the key of the hit of greatest key read before it in its segment, and so stands
directly after that hit (R218). -/
def poisonItem (seg age : Nat) : Option (W64 × Nat) → DItem
  | some (t, input) => ⟨seg, t, 2, input, age, none, 8, 1, 0⟩
  | none => ⟨seg, 0, 2, 0, age, none, 8, 0, 0⟩

/-- The greatest key of the hits read in a segment, with one more hit. -/
def topKey (t : W64) (input : Nat) : Option (W64 × Nat) → Option (W64 × Nat)
  | some (u, n) => if timeLt u t || (decide (u = t) && decide (n < input)) then some (t, input) else some (u, n)
  | none => some (t, input)

/-- An item with its key is ahead of a timer's instant (R218): classes 0 and 1 of the same instant are. -/
def Item.aheadOf (i : Item) (tau : W64) : Bool :=
  if i.kind = 0 then timeLt i.t tau else timeLe i.t tau

/-- Put a timer item among a context's items (R218): before the first item of a later key; the barrier of an epoch and a
Safelight entry stay behind every item of their epoch that is earlier. -/
def insTimer (x : Item) : List Item → List Item
  | [] => [x]
  | y :: ys =>
    if y.kind = 3 || y.kind = 5 then (if timeLt x.t y.t then x :: y :: ys else y :: insTimer x ys)
    else if y.kind = 4 || y.aheadOf x.t then y :: insTimer x ys
    else x :: y :: ys

/-- Put a timer item behind the last barrier of an epoch or of Safelight among a context's items. -/
def insLate (x : Item) (xs : List Item) : List Item :=
  let n := (xs.reverse.dropWhile (fun y => !(decide (y.kind = 3) || decide (y.kind = 5)))).length
  xs.take n ++ insTimer x (xs.drop n)

/-- The timer of a context is disarmed: an item of it that the program has not taken goes too (R227, R233). -/
def Ctx.disarmed (x : Ctx) : Ctx := { x with timer := none, items := x.items.filter (fun i => decide (i.kind ≠ 2)) }

/-- Put a released item behind a context's items, ahead only of timer items of a later key. -/
def insBack (x : Item) (xs : List Item) : List Item :=
  let late := xs.reverse.takeWhile (fun y => decide (y.kind = 2) && !(decide (3 ≤ x.kind)) && x.aheadOf y.t)
  xs.take (xs.length - late.length) ++ x :: late.reverse

/-! ### Reading the input queue (R217, R218, R235) -/

/-- Change the dispatcher's state of an engine. -/
def State.pushBuf (s : State) (t e : Nat) (f : List DItem → List DItem) : State :=
  s.modEng t e (fun y => { y with buf := f y.buf })

/-- The contexts of an engine that take trigger slices, or those that take hits in key order, owe IU on their next hit of
each owned input (R217). -/
def State.breakAll (s : State) (t e : Nat) (slices : Bool) : State :=
  forKeys ((s.eng t e).ctxs.filter (fun c => decide (s.gateKind t c = 3) == slices))
    (fun c s => s.modCtx t c (fun x => { x with brk := x.brk ||| s.owned t e })) s

/-- IU of a hit item with the break that a context carries for its input, which it ends (R217). -/
def Ctx.carry (x : Ctx) (input : Nat) (iu : Bool) : Bool × Ctx :=
  (iu || x.brk.getLsbD input, { x with brk := x.brk &&& ~~~(BitVec.ofNat 16 (2 ^ input)) })

/-- A word of a trigger slice: its item joins the slice being read; the last one makes the slice ready (R222). -/
def State.readSlice (s : State) (t : Nat) (tag : SliceTag) (bad fin : Bool) : State :=
  s.modCtx t tag.ctx (fun x =>
    let i := tag.item
    let p := if i.kind = 0 then x.carry (fieldOf i.info 7 4) (i.info.getLsbD 11) else (false, x)
    let i' := if p.1 then { i with info := i.info ||| 0x800 } else i
    let x := if bad then x else { p.2 with part := p.2.part ++ [i'] }
    if fin then { x with trig := x.trig ++ x.part, part := [] } else x)

/-- An epoch-change marker read from the input queue: the barrier of its segment (R218). -/
def State.readBarrier (s : State) (t e age : Nat) (w : W64) : State :=
  let old := fieldOf w 51 48
  let at_ := match s.tb.closed.find? (fun p => p.1 = old) with
    | some p => BitVec.ofNat 64 p.2.1.engine
    | none => BitVec.ofNat 64 s.now.engine
  s.modEng t e (fun y => { y with
    buf := insItem ⟨y.seg, at_, 3, 0, age, none, 3, w, 0⟩ y.buf
    seg := y.seg + 1
    top := none })

/-- The last instant of an epoch that has closed, at which its gates end: for a snapshot the freeze instant (R206). -/
def State.epochEnd (s : State) (epoch : Nat) : Option W64 :=
  (s.tb.closed.find? (fun p => p.1 = epoch)).map (fun p => BitVec.ofNat 64 p.2.2.engine)

/-- A seconds marker: the seconds of the hits that follow, and the second marker of a barrier read just before (R49,
R224). -/
def State.readSeconds (s : State) (t e : Nat) (w : W64) : State :=
  s.modEng t e (fun y => { y with
    secs := fieldOf w 31 0
    buf := y.buf.map (fun d => if d.kind = 3 ∧ d.word2 = 0 then { d with word2 := w } else d) })

/-- Take one word of the input queue at the dispatcher's position. -/
def State.readWord (s : State) (t e : Nat) : State :=
  let q := s.inq t e
  let y := s.eng t e
  let x := s.qWord t q y.dpos
  let (w, bad, s) := s.qRead t q y.dpos
  let s := s.modEng t e (fun y => { y with dpos := ringAdd (s.qCap t q) y.dpos 1 })
  let s := if bad then (s.pushBuf t e (insItem (poisonItem y.seg x.age y.top))).breakAll t e true else s
  match x.slice with
  | some tag => s.readSlice t tag bad x.fin
  | none =>
    if bad then s
    else if recType w = 1 then
      (s.pushBuf t e (insItem ⟨y.seg, hitTime y.secs w, 2, fieldOf w 60 57, x.age, none, 0, w, 0⟩)).modEng t e
        (fun y => { y with top := topKey (hitTime y.secs w) (fieldOf w 60 57) y.top })
    else if recType w = 4 ∧ recCode w = 1 then s.readSeconds t e w
    else if recType w = 4 ∧ recCode w = 2 then s.readBarrier t e x.age w
    else if recType w = 4 ∧ recCode w = 4 then s.modEng t e (fun y => { y with snaps := ((y.seg, w) :: y.snaps).take 4 })
    else s

/-- Words of the input queue that the dispatcher has not taken. -/
def State.unread (s : State) (t e : Nat) : Nat :=
  let q := s.inq t e
  ringDist (s.qCap t q) (s.eng t e).dpos (s.queue t q).rmark

/-- Take every committed word of the input queue. -/
def State.readAll (s : State) (t e : Nat) : State :=
  forKeys (List.range (s.unread t e)) (fun _ s => s.readWord t e) s

/-! ### The commit frontier (R219) -/

/-- Every edge of an owned input stamped at or before `tau` has been committed to the input queue or refused there, on
the scale of the epoch whose items are being released (R219). -/
def State.pastFrontier (s : State) (t e : Nat) (tau : W64) : Bool :=
  let y := s.eng t e
  decide (s.unread t e = 0) && (decide (y.epoch ≠ s.tb.epoch) || timeLt tau (BitVec.ofNat 64 s.now.engine)) &&
    !(List.range 17).any (fun c => decide (s.destQ t c .eq = s.inq t e) && (s.chan t c).fifo.any (fun h =>
      decide (h.eq = .waiting) && decide (h.epoch = y.epoch) && timeLe (BitVec.ofNat 64 h.stamp.engine) tau))

/-! ### Markers committed by the engine (R205, R206, R224) -/

/-- Commit markers to each distinct output queue; those that a replay repeats stand there already (R233, R236). -/
def State.putMarkers (s : State) (t e : Nat) (ws : List W64) : State :=
  let y := s.eng t e
  let s := s.modEng t e (fun y => { y with marksDone := y.marksDone + 1 })
  if y.marksDone < y.marksSkip then s
  else forKeys (s.outQs t e) (fun q s => ws.foldl (fun s w => (s.qOffer t q s.tb.age [w]).2) s) s

/-! ### Grids (R181, R182) -/

/-- The first 1.024 µs boundary at or after an engine time (R40, R181). -/
def gridOrigin (t : W64) : W64 := BitVec.ofNat 64 ((t.toNat + 1048575) / 1048576 * 1048576)

/-- Length of a context's time gate in fine units (R181). -/
def State.gateLen (s : State) (t c : Nat) : W64 := BitVec.ofNat 64 (fieldOf (s.dword t c 1) 31 0 * 1048576)

/-- The first boundary of a grid that starts at `start` (R181). -/
def State.gridAt (s : State) (t c : Nat) (start : W64) : Option W64 :=
  if s.timeGate t c then some (gridOrigin start + s.gateLen t c) else none

/-! ### Release (R217 to R219) -/

/-- The context takes an item of segment `seg` at `tau`: it is not halted, it has its grid start behind it, and a retired
one takes only what lies before its instant (R231, R422). -/
def State.takes (s : State) (t c seg : Nat) (tau : W64) : Bool :=
  !s.halted t c && !(s.ctx t c).idle && (match (s.ctx t c).retire with
    | some (g, f, _) => decide (seg < g) || (decide (seg = g) && timeLt tau f)
    | none => true)

/-- Give a context an item. -/
def State.giveItem (s : State) (t c : Nat) (i : Item) : State := s.modCtx t c (fun x => { x with items := insBack i x.items })

/-- A released hit for one context: delivered with every role it fills, or withheld with its break carried (R217). -/
def State.releaseHit (s : State) (t c : Nat) (d : DItem) : State :=
  if s.gateKind t c = 3 || !s.takes t c d.seg d.t then s
  else
    let r := s.roles t c d.input (d.word.getLsbD 55)
    let iu := d.word.getLsbD 52
    if r = 0 then (if iu then s.modCtx t c (fun x => { x with brk := x.brk ||| BitVec.ofNat 16 (2 ^ d.input) }) else s)
    else
      let p := (s.ctx t c).carry d.input iu
      (s.modCtx t c (fun _ => p.2)).giveItem t c ⟨d.t, hitInfo d.word r p.1 false, d.age⟩

/-- The barrier item for one context: kind 3 or 5; its grid ends (R182, R224). -/
def State.releaseBarrier (s : State) (t c : Nat) (d : DItem) (epoch : Nat) : State :=
  if !s.takes t c d.seg d.t then s
  else (s.giveItem t c ⟨d.t, plainInfo d.kind epoch, d.age⟩).modCtx t c (fun x => { x with bar := 1, grid := none })

/-- The grid start for one context (R181, R182, R217). -/
def State.releaseStart (s : State) (t c : Nat) (d : DItem) (epoch : Nat) : State :=
  let s := s.modCtx t c (fun x => { x with idle := false })
  if !s.takes t c d.seg d.t then s
  else (s.giveItem t c ⟨d.t, plainInfo 4 epoch, d.age⟩).modCtx t c (fun x => { x with grid := s.gridAt t c d.t })

/-- A fragment copy has ended (`frag`), which releases its mark, or a trigger slice has been copied, which releases the mark
of a tile that copies slices only with the last one (R263, R284, R295). -/
def State.useMark (s : State) (t ord : Nat) (frag : Bool) : State :=
  let use := fun (m : Mark) =>
    if m.owner = ord then (if frag then { m with frag := false, slices := 0 } else { m with slices := m.slices - 1 }) else m
  let keep := fun (m : Mark) => m.frag || decide (m.slices ≠ 0)
  s.modTile t (fun x => { x with marks := (x.marks.map use).filter keep })

/-- Some context of the tile has still to end (R422). -/
def State.retiring (s : State) (t : Nat) : Bool :=
  (List.range 9).any (fun e => (s.eng t e).ctxs.any (fun c => (s.ctx t c).retire.isSome))

/-- A retired context has ended: it leaves the engine, and the marks of gates it never took are given up; one that starts
in its block takes its place, and program words that waited are written when the tile has no retired context left
(R422). An engine without a context that is not active any more becomes inactive (R242). -/
def State.endContext (s : State) (t e c : Nat) : State :=
  let s := forKeys ((s.ctx t c).gates.map (·.owner)) (fun o s => s.useMark t o false) s
  let nx := s.ctx t (64 + c)
  let keys := (s.eng t e).ctxs.filter (fun k => k ≠ c)
  let s := match nx.anew with
    | some ws =>
      let s := s.setCxWords t (64 * c) ((List.range 64).map (fun k => ws.getD k 0))
      (s.modCtx t c (fun _ => { nx with anew := none })).modCtx t (64 + c) (fun _ => {})
    | none => s.modCtx t c (fun _ => {})
  let last := keys.isEmpty && !bit (s.engCfg t e) 29
  let s := s.modEng t e (fun y =>
    let run := decide (y.ctx = c)
    { y with
      ctxs := keys, loaded := y.loaded && !run, sliceEnd := y.sliceEnd || run, ckptReq := true
      st := if last && decide (y.st = 1) then 0 else y.st })
  let s := if nx.anew.isNone then s else forKeys (List.range 9) (fun f s =>
    if (s.eng t f).ctxs.contains (64 + c) then s.modEng t f (fun y => { y with
      ctxs := y.ctxs.map (fun k => if k = 64 + c then c else k)
      buf := y.buf.map (fun d => if d.ctx = some (64 + c) then { d with ctx := some c } else d)
      ckptReq := true })
    else s) s
  if s.retiring t then s
  else s.modTile t (fun x => { x with pm := x.pmNew.foldl (fun m p => mapSet (fun _ => 0) m p.1 p.2) x.pm, pmNew := [] })

/-- A retired context for which an item stands at its instant while its engine stands in Safelight state: it has taken the
barrier item, and nothing more comes (R206, R422). -/
def State.endsQuiet (s : State) (t e : Nat) (d : DItem) : Option Nat :=
  match d.ctx with
  | some c => if (s.eng t e).safe && decide (d.kind = 1) && (match (s.ctx t c).retire with
      | some (_, f, _) => decide (f = d.t)
      | none => false) then some c else none
  | none => none

/-- The contexts an item is for. -/
def State.targets (s : State) (t e : Nat) (d : DItem) : List Nat :=
  match d.ctx with
  | some c => [c]
  | none => (s.eng t e).ctxs

/-- What the release of an item does (R205, R206, R217, R218, R224). -/
def State.release (s : State) (t e : Nat) (d : DItem) : State :=
  let y := s.eng t e
  let cs := s.targets t e d
  match d.kind with
  | 0 => if y.safe then s else forKeys cs (fun c s => s.releaseHit t c d) s
  | 3 =>
    let new := fieldOf d.word 55 52
    let start := BitVec.ofNat 64 (fieldOf d.word2 31 0 * 1024000000000 + fieldOf d.word 29 0 * 1024)
    let snap := ((y.snaps.find? (fun p => p.1 = d.seg)).map (·.2)).toList
    let s := s.modEng t e (fun y => { y with epoch := new, rseg := y.rseg + 1, marks := snap ++ [d.word, d.word2] })
    if y.safe then s
    else (forKeys cs (fun c s => s.releaseBarrier t c d (fieldOf d.word 51 48)) s).pushBuf t e
      (insFirst ⟨d.seg + 1, start, 0, 0, d.age, none, 4, 0, 0⟩)
  | 4 =>
    let s := if d.word = 0 then s
      else (s.putMarkers t e [d.word2, d.word]).modEng t e (fun y => { y with safe := false })
    if d.word = 0 ∧ y.safe then s else forKeys cs (fun c s => s.releaseStart t c d y.epoch) s
  | 5 =>
    let s := s.modEng t e (fun y => { y with safe := true, marks := [d.word2, d.word] })
    forKeys cs (fun c s => s.releaseBarrier t c d y.epoch) s
  | 8 => s.breakAll t e false
  | k => if y.safe then (match s.endsQuiet t e d with
      | some c => s.endContext t e c
      | none => s)
    else forKeys cs (fun c s => if s.halted t c then s else s.giveItem t c ⟨d.t, plainInfo k y.epoch, d.age⟩) s

/-- A time-gate boundary of some context comes before an item and has not been queued yet (R217, R218). -/
def State.gridFirst (s : State) (t e : Nat) (d : DItem) : Bool :=
  (s.liveCtxs t e).any (fun c => match (s.ctx t c).grid with
    | some g => decide (d.seg = (s.eng t e).rseg) && s.takes t c d.seg g &&
        (if d.kind = 3 then timeLt g ((s.epochEnd (fieldOf d.word 51 48)).getD d.t) else DItem.before ⟨d.seg, g, 0, 0, 0, none, 1, 0, 0⟩ d)
    | none => false)

/-- The item at the head of the buffer can be released now (R219, R224). -/
def State.releasable (s : State) (t e : Nat) (d : DItem) : Bool :=
  let y := s.eng t e
  decide (d.seg ≤ y.rseg) && !s.gridFirst t e d && (match d.kind with
    | 3 => decide (d.word2 ≠ 0) && y.marks.isEmpty
    | 4 => y.marks.isEmpty
    | 8 => d.unkeyed || decide (d.seg < y.seg) || s.pastFrontier t e d.t
    | _ => (decide (d.seg < y.seg) || s.pastFrontier t e d.t) && (decide (d.kind ≠ 5) || y.marks.isEmpty) &&
        (match s.endsQuiet t e d with
          | some c => let x := s.ctx t c; x.items.isEmpty && decide (x.bar = 0) && !(y.loaded && !y.sliceEnd && decide (y.ctx = c))
          | none => true))

/-- Release the item of least key, when the frontier has passed it. -/
def State.releaseNext (s : State) (t e : Nat) : State :=
  match (s.eng t e).buf with
  | d :: rest =>
    if s.releasable t e d then (s.modEng t e (fun y => { y with buf := rest })).release t e d else s
  | [] => s

/-- The engine's own items for one context or all: a grid start (kind 4), a Safelight entry (kind 5) or a boundary, kept
for replay (R217, R233). -/
def State.inject (s : State) (t e : Nat) (d : DItem) : State :=
  s.modEng t e (fun y => { y with buf := insFirst d y.buf, hist := y.hist ++ [d] })

/-- The segment of the present epoch at an engine's dispatcher: the one that follows every epoch-change marker committed
to, or held for, its input queue. -/
def State.segNow (s : State) (t e : Nat) : Nat :=
  let q := s.inq t e
  let opens := fun (w : W64) => decide (recType w = 4) && decide (recCode w = 2)
  (s.eng t e).seg + (s.heldAt t q).countP (fun m => opens m.w) +
    (List.range (s.unread t e)).countP (fun k => opens (s.qWord t q (ringAdd (s.qCap t q) (s.eng t e).dpos k)).w)

/-! ### Slices (R220, R221) -/

/-- An item is a hit. -/
def Item.isHit (i : Item) : Bool := decide (i.kind = 0)

/-- The merge horizon, 64 ns in fine units (R220). -/
def horizon : W64 := 65536

/-- The slice that starts with the first of these items has all its items: BATCH of them, an item that is not a hit, one
beyond the horizon, or the horizon passed by the frontier (R220). -/
def sliceWhole (batch : Nat) (past : Bool) (t0 : W64) : Nat → List Item → Bool
  | _, [] => past
  | n, i :: is =>
    if batch ≤ n then true
    else if timeLt (t0 + horizon) i.t then true
    else if !i.isHit then true
    else sliceWhole batch past t0 (n + 1) is

/-- An armed timer is due before an item and has not been queued yet. -/
def Ctx.timerFirst (x : Ctx) (i : Item) : Bool :=
  match x.timer with
  | some tau => if i.kind = 4 then false else !(i.aheadOf tau)
  | none => false

/-- No item of the segment being released waits in the buffer at or before an instant. -/
def State.bufPast (s : State) (t e : Nat) (tau : W64) : Bool :=
  (s.eng t e).buf.all (fun d => !(decide (d.seg = (s.eng t e).rseg) && decide (d.kind ≤ 2) && timeLe d.t tau))

/-- Every item at or before an instant of the segment being released has been released (R219, R220). -/
def State.allPast (s : State) (t e : Nat) (tau : W64) : Bool :=
  (decide ((s.eng t e).rseg < (s.eng t e).seg) || s.pastFrontier t e tau) && s.bufPast t e tau

/-- The head item of a context can be delivered: no armed timer comes first, and a timer item only when the frontier has
passed it (R218, R219). -/
def State.headReady (s : State) (t e c : Nat) (i : Item) : Bool :=
  !(s.ctx t c).timerFirst i &&
    (decide (i.kind ≠ 2) || (s.ctx t c).items.any (fun j => decide (j.kind = 3) || decide (j.kind = 5)) || s.allPast t e i.t)

/-- A context can start a slice with its released items (R220). -/
def State.sliceReady (s : State) (t e c : Nat) : Bool :=
  match (s.ctx t c).items with
  | i :: is => s.headReady t e c i &&
      sliceWhole (s.batch t e) (s.allPast t e (i.t + horizon)) i.t 1 (if i.isHit then is else i :: is)
  | [] => false

/-- The key of a context's head item is least: engine time, class, local input (R218, R220). -/
def headBefore (a b : Item) : Bool :=
  DItem.before ⟨0, a.t, if a.kind = 0 then 2 else if a.kind = 2 then 1 else 0, fieldOf a.info 7 4, 0, none, 0, 0, 0⟩
    ⟨0, b.t, if b.kind = 0 then 2 else if b.kind = 2 then 1 else 0, fieldOf b.info 7 4, 0, none, 0, 0, 0⟩

/-- The last item of a retired context waits for the trigger gates of triggers that arrived before its instant (R421,
R422). -/
def State.lastWaits (s : State) (t c : Nat) : Bool :=
  let x := s.ctx t c
  match x.retire, x.items with
  | some (_, f, a), i :: _ => decide (i.kind = 1) && decide (i.t = f) && decide (s.gateKind t c = 3) &&
      (!x.gates.isEmpty || !x.trig.isEmpty || !x.part.isEmpty || decide (x.dels < x.opens) ||
        s.eb.pending.any (fun p => decide (p.arrAge < a) && bit (fieldOf (s.dword t c 1) 15 0) p.code && !bit p.flags 1))
  | _, _ => false

/-- Among contexts with released items, the one whose next item has the least key; ties go to the lower number (R220). -/
def State.leastCtx (s : State) (t e : Nat) : Option Nat :=
  ((s.liveCtxs t e).insertionSort (· ≤ ·)).foldl (fun best c =>
    match (s.ctx t c).items with
    | i :: _ =>
      if decide (64 ≤ c) || decide (1 < (s.ctx t c).bar) || s.lastWaits t c then best
      else match best with
        | some b => if headBefore i ((s.ctx t b).items.headD i) then some c else best
        | none => some c
    | [] => best) none

/-- The context that takes the next slice, and whether it takes items of trigger slices (R220); none of those between
kind 5 and the return to Run (R224). -/
def State.nextSlice (s : State) (t e : Nat) : Option (Nat × Bool) :=
  let cs := (s.liveCtxs t e).insertionSort (· ≤ ·)
  match cs.find? (fun c => decide (c < 64) && decide ((s.ctx t c).bar = 2)) with
  | some c => some (c, false)
  | none =>
    match cs.find? (fun c => decide (c < 64) && decide ((s.ctx t c).bar = 0) && !(s.eng t e).safe && !(s.ctx t c).trig.isEmpty) with
    | some c => some (c, true)
    | none =>
      match s.leastCtx t e with
      | some c => if s.sliceReady t e c then some (c, false) else none
      | none => none

/-- Save the running context's registers to its block (R211, R215). -/
def State.saveRegs (s : State) (t e : Nat) : State :=
  let y := s.eng t e
  if y.loaded then
    let b := 64 * y.ctx
    let r := s.cxWord t (b + 27)
    let s := s.setCxWord t (b + 27) ((r &&& ~~~(0x7FF : W64)) ||| BitVec.ofNat 64 (y.pc % 2048))
    let s := s.setCxWords t (b + 28) ((List.range 28).map (fun k => mapGet (fun _ => 0) y.g k))
    s.setCxWords t (b + 56) ((List.range 4).flatMap (fun k =>
      let a := mapGet (fun _ => 0) y.a k
      [a.setWidth 64, (a >>> 64).setWidth 64]))
  else s

/-- Restore a context's registers from its block (R211, R215). -/
def State.loadRegs (s : State) (t e c : Nat) : State :=
  let b := 64 * c
  let g := (List.range 28).foldl (fun m k => mapSet (fun _ => 0) m k (s.cxWord t (b + 28 + k))) []
  let a := (List.range 4).foldl (fun m k =>
    mapSet (fun _ => 0) m k ((s.cxWord t (b + 57 + 2 * k)) ++ (s.cxWord t (b + 56 + 2 * k)) : BitVec 128)) []
  s.modEng t e (fun y => { y with
    loaded := true, ctx := c, pc := fieldOf (s.cxWord t (b + 27)) 10 0, g := g, a := a })

/-- The switch to a context for a new slice (R220, R221). -/
def State.switchTo (s : State) (t e c : Nat) (trig : Bool) : State :=
  ((s.saveRegs t e).loadRegs t e c).modEng t e (fun y => { y with
    sliceEnd := false, sliceN := 0, inTrig := trig, cycles := 0, busy := y.busy + 2 })

/-! ### Checkpoints and restores (R234 to R236) -/

/-- Cycles of a checkpoint or a restore (R234, R236). -/
def State.ckptCost (s : State) (t e : Nat) : Nat := 16 + 16 * (s.eng t e).ctxs.length

/-- Copy the blocks of an engine's contexts from one place to another. -/
def State.copyBlocks (s : State) (t e : Nat) (src dst : Nat) : State :=
  forKeys ((s.eng t e).ctxs.filter (fun c => decide (c < 64))) (fun c s =>
    s.setCxWords t (64 * (dst + c)) ((List.range 64).map (fun k => s.cxWord t (64 * (src + c) + k)))) s

/-- Load over the interval since the last checkpoint, per 1,024 (R240, R243). -/
def Engine.loadNow (y : Engine) (age : Nat) : Nat :=
  let n := Config.engineCycles (age - y.ckptAge)
  if n = 0 then y.load else min 2047 (y.busy * 1024 / n)

/-- Store the shadows and the dispatcher's state, and free the records before the dispatcher's position (R234, R235). -/
def State.ckptStore (s : State) (t e : Nat) : State :=
  let s := (s.saveRegs t e).copyBlocks t e 0 64
  let y := s.eng t e
  let s := s.modQueue t (s.inq t e) (fun x => { x with rp := y.dpos })
  let k : Ckpt :=
    { keys := y.ctxs, buf := y.buf, seg := y.seg, rseg := y.rseg, secs := y.secs, epoch := y.epoch, safe := y.safe, marks := y.marks, top := y.top,
      ctxs := y.ctxs.map (fun c => (c, s.ctx t c)) }
  (s.modEng t e (fun y => { y with
    ckpt := k, hist := [], marksDone := 0, marksSkip := y.marksSkip - y.marksDone, replay := y.replay - y.delivered,
    delivered := 0, ckptReq := false, ckptAge := s.tb.age, mismatched := false })).qEval t (s.inq t e)

/-- A checkpoint is taken now: its load figure, its count and its cost (R234, R240, R241). -/
def State.checkpoint (s : State) (t e : Nat) : State :=
  let l := (s.eng t e).loadNow s.tb.age
  (s.ckptStore t e).modEng t e (fun y => { y with
    load := l, peak := max y.peak l, ckpts := (y.ckpts + 1) % 2 ^ 32, busy := s.ckptCost t e, loaded := false, sliceEnd := true })

/-- A context after a restore: the checkpoint's, with what the tile keeps outside the engine (R223, R237). -/
def Ctx.restored (now old : Ctx) : Ctx := { old with gates := now.gates, opens := now.opens, hw := now.hw }

/-- Rewind every open packet of an engine without counting it (R239, R257, R434). -/
def State.rewindAll (s : State) (t e : Nat) : State :=
  forKeys (s.outQs t e) (fun q s => if (s.queue t q).opened then s.qRewind t q else s) s

/-- Restore an engine from its checkpoint and replay (R236, R238). -/
def State.restore (s : State) (t e : Nat) : State :=
  let s := (s.rewindAll t e).copyBlocks t e 64 0
  let y := s.eng t e
  let k := y.ckpt
  let s := forKeys k.keys (fun c s => s.modCtx t c (fun x => x.restored (mapGet (fun _ => {}) k.ctxs c))) s
  let n := max y.replay y.delivered
  s.modEng t e (fun y => { y with
    st := if n = 0 then 1 else 2
    loaded := false, sliceEnd := true, cycles := 0, ctxs := k.keys
    dpos := (s.queue t (s.inq t e)).rp
    buf := y.hist.foldl (fun b d => insFirst d b) k.buf
    seg := k.seg, rseg := k.rseg, secs := k.secs, epoch := k.epoch, safe := k.safe, marks := k.marks, top := k.top
    marksSkip := max y.marksSkip y.marksDone, marksDone := 0
    replay := n, delivered := 0, busy := y.busy + s.ckptCost t e })

/-- A checkpoint is due: asked for, by the interval, or by the records retained (R234). -/
def State.ckptDue (s : State) (t e : Nat) : Bool :=
  let y := s.eng t e
  y.ckptReq || decide (s.tfld t 0x2400 8 0 * 125 ≤ s.tb.age - y.ckptAge) ||
    (decide (s.qCap t (s.inq t e) ≠ 0) && decide (s.qCap t (s.inq t e) ≤ 2 * s.qLevel t (s.inq t e)))

/-- The engine stands at a slice boundary at which no context has an open packet (R234). -/
def State.atBoundary (s : State) (t e : Nat) : Bool :=
  (!(s.eng t e).loaded || (s.eng t e).sliceEnd) && !(s.outQs t e).any (fun q => (s.queue t q).opened)

/-- A context is halted: HALTED in its resume word, and its items are skipped (R231); a retired one has ended. -/
def State.haltCtx (s : State) (t c : Nat) : State :=
  let s := (s.setCxWord t (64 * c + 27) (s.cxWord t (64 * c + 27) ||| 0x800)).modCtx t c (fun x =>
    { x with items := [], trig := [], part := [], timer := none, grid := none, bar := 0, dels := x.opens })
  match (List.range 9).find? (fun e => (s.eng t e).ctxs.contains c), (s.ctx t c).retire with
  | some e, some _ => s.endContext t e c
  | _, _ => s

/-- The counters and fault record of an engine's own registers go with another's work (R241). -/
def Engine.withStats (y own : Engine) : Engine :=
  { y with load := own.load, peak := own.peak, ckpts := own.ckpts, dup := own.dup, cp := own.cp, fCtx := own.fCtx,
           fPc := own.fPc, fCause := own.fCause, fCount := own.fCount, test := own.test, passed := own.passed }

/-- The work of engine `src` goes to engine `dst`; `src` is left with a state (R238, R435, R440). -/
def State.moveEngine (s : State) (t src dst srcSt : Nat) : State :=
  let a := s.eng t src
  let b := s.eng t dst
  (s.modEng t dst (fun _ => { a.withStats b with serving := if dst = 8 then src else b.serving })).modEng t src
    (fun _ => { (Engine.fresh src).withStats a with st := srcSt })

/-- An engine that has passed its self-test takes over from engine 8 at engine 8's checkpoint (R440). -/
def State.takeBack (s : State) (t e : Nat) : State :=
  let f := (s.eng t 8).serving
  if 8 ≤ f ∨ !(s.eng t f).passed then s
  else if e = 8 then
    let cost := s.ckptCost t 8
    (s.moveEngine t 8 f 0).modEng t f (fun y => { y with passed := false, busy := y.busy + cost })
  else if f = e + 1 then
    (s.modEng t f (fun y => { y with st := 0, passed := false })).modEng t 8 (fun y => { y with serving := 15 })
  else s

/-- The switch reads a block with an uncorrectable word: the engine restores from the shadow; a context whose shadow
holds one too is halted (R442). -/
def State.badBlock (s : State) (t e c : Nat) : State :=
  let m := MemId.context t
  let both := s.bad2 m (64 * (64 + c)) 64
  let s := ((s.uncorrectable).clear2 m (64 * c) 64).clear2 m (64 * (64 + c)) 64
  if both then s.haltCtx t c else s.restore t e

/-! ### The commands -/

/-- ITEM_RELEASE (R217 to R219): the dispatcher takes what INQ holds, and releases the item of least key when the commit
frontier has passed it. -/
def execItemRelease (t e : Nat) (s : State) : Host.Outcome State Fault Refusal :=
  onEng t e s (fun s => if s.engRuns t e then (s.readAll t e).releaseNext t e else s)

/-- SLICE_SWITCH (R211, R220, R221). -/
def execSliceSwitch (t e : Nat) (s : State) : Host.Outcome State Fault Refusal :=
  onEng t e s (fun s =>
    if s.engRuns t e && (!(s.eng t e).loaded || (s.eng t e).sliceEnd) then
      match s.nextSlice t e with
      | some (c, trig) => if s.bad2 (.context t) (64 * c) 64 then s.badBlock t e c else s.switchTo t e c trig
      | none => s
    else s)

/-- TIME_GATE_BOUNDARY (R181, R217): the next grid boundary of the engine's contexts is reached, and a kind 1 item is
queued for each context whose boundary it is. A boundary of an epoch that has closed counts while it lies before the
close. -/
def execTimeGateBoundary (t e : Nat) (s : State) : Host.Outcome State Fault Refusal :=
  onEng t e s (fun s =>
    let y := s.eng t e
    let due := fun c => match (s.ctx t c).grid with
      | some g => if s.takes t c y.rseg g then some g else none
      | none => none
    let gs := (s.liveCtxs t e).filterMap due
    match gs with
    | g0 :: rest =>
      if !s.engRuns t e then s
      else
        let g := rest.foldl (fun a b => if timeLt b a then b else a) g0
        let late := match s.epochEnd y.epoch with
          | some z => decide (y.epoch ≠ s.tb.epoch) && timeLe z g
          | none => false
        if late then s
        else
          let s := if y.epoch = s.tb.epoch then
              s.advance (((g - BitVec.ofNat 64 s.now.engine).toInt / 8192).toNat) else s
          let age := if y.epoch = s.tb.epoch then
              s.tb.age - ((BitVec.ofNat 64 s.now.engine - g).toInt / 8192).toNat else s.tb.openAge
          forKeys (s.liveCtxs t e) (fun c s =>
            if due c = some g then
              (s.pushBuf t e (insItem ⟨y.rseg, g, 0, 0, age, some c, 1, 0, 0⟩)).modCtx t c
                (fun x => { x with grid := some (g + s.gateLen t c) })
            else s) s
    | [] => s)

/-- CONTEXT_TIMER (R217, R227): the armed instant is reached and the timer item is queued. One due after Safelight entry
waits for the return to Run (DEDUCED, log entry 13). -/
def execContextTimer (t c : Nat) (s : State) : Host.Outcome State Fault Refusal :=
  onCtx t c s (fun s =>
    match (List.range 9).find? (fun e => s.engRuns t e && (s.eng t e).ctxs.contains c), (s.ctx t c).timer with
    | some e, some tau =>
      let y := s.eng t e
      let put := fun (late : Bool) (s : State) =>
        let age := s.tb.age - ((BitVec.ofNat 64 s.now.engine - tau).toInt / 8192).toNat
        let i : Item := ⟨tau, plainInfo 2 y.epoch, age⟩
        s.modCtx t c (fun x => { x with timer := none, items := if late then insLate i x.items else insTimer i x.items })
      let present := fun (s : State) =>
        if y.epoch = s.tb.epoch ∧ y.safe = false then
          put true (s.advance (((tau - BitVec.ofNat 64 s.now.engine).toInt + 8191) / 8192).toNat)
        else s
      if s.halted t c then s
      else
        match (s.ctx t c).items.find? (fun i => decide (i.kind = 3) || decide (i.kind = 5)) with
        | some i =>
          let z := if i.kind = 3 then (s.epochEnd (fieldOf i.info 25 22)).getD i.t else i.t
          if timeLt tau z then put false s else present s
        | none =>
          match s.epochEnd y.epoch with
          | some z => if y.epoch ≠ s.tb.epoch ∧ y.safe = false ∧ timeLt tau z then put false s else present s
          | none => present s
    | _, _ => s)

/-- ENGINE_EPOCH_MARKERS (R205, R206, R224): every context has taken the barrier item and executed its next WAIT, so the
engine commits the markers to each distinct OUT_Q. -/
def execEngineEpochMarkers (t e : Nat) (s : State) : Host.Outcome State Fault Refusal :=
  onEng t e s (fun s =>
    let y := s.eng t e
    if s.engRuns t e && !y.marks.isEmpty && (s.liveCtxs t e).all (fun c => let b := (s.ctx t c).bar; decide (b = 0) || decide (b = 3)) then
      let s := (s.putMarkers t e y.marks).modEng t e (fun y => { y with marks := [] })
      forKeys y.ctxs (fun c s => s.modCtx t c (fun x => { x with bar := 0 })) s
    else s)

/-- CHECKPOINT_TAKE (R234, R235): at an eligible slice boundary. -/
def execCheckpointTake (t e : Nat) (s : State) : Host.Outcome State Fault Refusal :=
  onEng t e s (fun s =>
    if s.engRuns t e && s.atBoundary t e && s.ckptDue t e then (s.checkpoint t e).takeBack t e else s)

end Sys2Proof.Machine
end

