-- ==== Sys2Proof/Machine/Engines.lean ====
section
/-! DEFINITION. The measurement engines (R211, R216, R225 to R231): registers, arithmetic, the context store, packets,
WAIT and CHECKPOINT, program faults, and the 61 instructions. -/

namespace Sys2Proof.Machine

open Sys2Proof

/-! ### Registers and operands (R211, R226) -/

/-- The value of a general register (R211): G28 and G29 of the current item, G30 the block's address, G31 zero. -/
def State.getG (s : State) (t e : Nat) (r : BitVec 5) : W64 :=
  let y := s.eng t e
  match r.toNat with
  | 28 => ((s.ctx t y.ctx).cur.map (·.t)).getD 0
  | 29 => ((s.ctx t y.ctx).cur.map (·.info)).getD 0
  | 30 => BitVec.ofNat 64 (64 * y.ctx)
  | 31 => 0
  | k => mapGet (fun _ => 0) y.g k

/-- Write a general register; writes to G28 to G31 are ignored (R211). -/
def State.setG (s : State) (t e : Nat) (r : BitVec 5) (v : W64) : State :=
  if r.toNat < 28 then s.modEng t e (fun y => { y with g := mapSet (fun _ => 0) y.g r.toNat v }) else s

/-- The value of an accumulator (R211). -/
def State.getA (s : State) (t e : Nat) (a : BitVec 2) : Acc := mapGet (fun _ => 0) (s.eng t e).a a.toNat

/-- Write an accumulator. -/
def State.setA (s : State) (t e : Nat) (a : BitVec 2) (v : Acc) : State :=
  s.modEng t e (fun y => { y with a := mapSet (fun _ => 0) y.a a.toNat v })

/-- The value of operand B (R226). -/
def State.getB (s : State) (t e : Nat) : OpB → W64
  | .reg r => s.getG t e r
  | .imm v => v.signExtend 64

/-! ### Arithmetic (R227, R229) -/

/-- A truth value as a register value. -/
def boolW (b : Bool) : W64 := if b then 1 else 0

/-- Unsigned division (R229). -/
def divU (a b : W64) : W64 := if b = 0 then BitVec.allOnes 64 else a / b

/-- Signed division toward zero (R229). -/
def divS (a b : W64) : W64 := if b = 0 then 0 else a.sdiv b

/-- Unsigned remainder (R229). -/
def remU (a b : W64) : W64 := if b = 0 then a else a % b

/-- The result of an ALU operation (R227). -/
def AluOp.eval : AluOp → W64 → W64 → W64
  | .add, a, b => a + b
  | .sub, a, b => a - b
  | .and, a, b => a &&& b
  | .or, a, b => a ||| b
  | .xor, a, b => a ^^^ b
  | .shl, a, b => a <<< (b.toNat % 64)
  | .shr, a, b => a >>> (b.toNat % 64)
  | .sar, a, b => a.sshiftRight (b.toNat % 64)
  | .min, a, b => if a.sle b then a else b
  | .max, a, b => if b.sle a then a else b
  | .mul, a, b => a * b
  | .divu, a, b => divU a b
  | .divs, a, b => divS a b
  | .remu, a, b => remU a b
  | .seq, a, b => boolW (decide (a = b))
  | .slt, a, b => boolW (a.slt b)
  | .sltu, a, b => boolW (a.ult b)

/-- Whether a branch is taken (R227). -/
def BrOp.holds : BrOp → W64 → W64 → Bool
  | .eq, a, b => decide (a = b)
  | .ne, a, b => decide (a ≠ b)
  | .lt, a, b => a.slt b
  | .ge, a, b => !a.slt b
  | .ltu, a, b => a.ult b
  | .geu, a, b => !a.ult b

/-- EXT: position IMM[5:0], width IMM[11:6], width 0 meaning 64 (R227). -/
def extField (a : W64) (imm : BitVec 24) : W64 :=
  let w := imm.toNat / 64 % 64
  let v := a >>> (imm.toNat % 64)
  if w = 0 then v else v &&& BitVec.ofNat 64 (2 ^ w - 1)

/-- INS: bits [24k + 23:24k] take IMM; for k = 2, bits [63:48] take IMM[15:0] (R227). -/
def insField (a : W64) (k : BitVec 5) (imm : BitVec 24) : W64 :=
  match k.toNat with
  | 0 => (a &&& ~~~(0xFFFFFF : W64)) ||| imm.setWidth 64
  | 1 => (a &&& ~~~(0xFFFFFF000000 : W64)) ||| (imm.setWidth 64 <<< 24)
  | 2 => (a &&& ~~~(0xFFFF000000000000 : W64)) ||| (imm.setWidth 64 <<< 48)
  | _ => a

/-- The product that MACS and MACU add (R227). -/
def macProduct (sg : Bool) (a b : W64) : Acc :=
  if sg then a.signExtend 128 * b.signExtend 128 else a.setWidth 128 * b.setWidth 128

/-- ADIV, and ADIVR with its rounding: any quotient of 2^64 or more, and division by zero, gives 2^64 - 1 (R229). -/
def accDiv (round : Bool) (a : Acc) (b : W64) : W64 :=
  let q := if round then (2 * a.toNat + b.toNat) / (2 * b.toNat) else a.toNat / b.toNat
  if b = 0 ∨ 2 ^ 64 ≤ q then BitVec.allOnes 64 else BitVec.ofNat 64 q

/-- Floor square root of a number below 2^128, bit by bit (R227). -/
def isqrt (n : Nat) : Nat :=
  (List.range 64).foldl (fun r i => let c := r + 2 ^ (63 - i); if c * c ≤ n then c else r) 0

/-! ### Program faults (R231) -/

/-- A program fault: the context's open packets are rewound, it is halted, the event is raised, ENG_FAULT records it, and
its items are skipped. -/
def State.progFault (s : State) (t e cause : Nat) : State :=
  let y := s.eng t e
  let c := y.ctx
  let s := forKeys (s.outQs t e) (fun q s =>
    if (s.queue t q).opened && decide ((s.queue t q).owner = c) then s.qRewind t q else s) s
  let s := s.saveRegs t e
  let s := s.haltCtx t c
  let s := s.modEng t e (fun y => { y with
    loaded := false, sliceEnd := true, fCtx := c, fPc := y.pc, fCause := cause, fCount := satAdd 255 y.fCount 1 })
  s.raise (tileSrc t 5)

/-- An instruction is complete: its cycles are counted and the PC moves; beyond 2,047 it is a program fault (R226, R231,
R240). -/
def State.retireOp (s : State) (t e cycles : Nat) (pc : Int) : State :=
  let s := s.modEng t e (fun y => { y with cycles := y.cycles + cycles, busy := y.busy + cycles, lastRun := s.tb.age })
  if 0 ≤ pc ∧ pc < 2048 then s.modEng t e (fun y => { y with pc := pc.toNat }) else s.progFault t e 5

/-! ### The context store (R216) -/

/-- The cause with which an access to a context word faults (R216, R231). -/
def State.cxFault (s : State) (t e : Nat) (store : Bool) (a : W64) : Option Nat :=
  let n := a.toNat
  if !((s.eng t e).ctxs.any (fun c => decide (c < 64) && decide (c = n / 64))) then some 1
  else if store && decide (n % 64 < 8) then some 2 else none

/-- The cause with which an access to two words faults. -/
def State.cxFault2 (s : State) (t e : Nat) (store : Bool) (a : W64) : Option Nat :=
  let f := s.cxFault t e store a
  let g := s.cxFault t e store (a + 1)
  if f = some 1 ∨ g = some 1 then some 1 else if f.isSome then f else g

/-! ### Packets (R230, R236, R237, R254) -/

/-- An engine names a queue: the queue number, when it is the OUT_Q of one of its contexts (R230, R231). -/
def State.nameQ (s : State) (t e : Nat) (b : W64) : Option Nat :=
  (s.outQs t e).find? (fun q => decide (q = b.toNat))

/-- EMIT and EMITH: a word for the context's open packet; EMITH gives the header the assigned engine (R230). -/
def State.emitWord (s : State) (t e q : Nat) (w : W64) (header : Bool) : State :=
  let w := if header then (w &&& ~~~(0x00F0000000000000 : W64)) ||| (BitVec.ofNat 64 (s.asg t e) <<< 52) else w
  let fresh := !(s.queue t q).opened
  let s := s.modQueue t q (fun x => { x with
    owner := (s.eng t e).ctx, head := if fresh then (if header then some w else none) else x.head })
  s.qEmit t q w

/-- GSEQ `g` is at or below the context's high-water mark, by signed difference modulo 2^32 (R237). -/
def Ctx.duplicate (x : Ctx) (g : Nat) : Bool :=
  match x.hw with
  | some h => decide (signed 32 (g + 2 ^ 32 - h % 2 ^ 32) ≤ 0)
  | none => false

/-- COMMIT of a queue (R236, R237, R254, R256): an item at or below the high-water mark is discarded; in replay, one
above it carries CP. -/
def State.commitPacket (s : State) (t e q : Nat) : State :=
  let x := s.queue t q
  match x.head with
  | some w =>
    let g := fieldOf w 31 0
    if (s.ctx t x.owner).duplicate g then
      (s.qRewind t q).modEng t e (fun y => { y with dup := satAdd 65535 y.dup 1 })
    else
      let s := s.modCtx t x.owner (fun k => { k with hw := some g })
      let s := if (s.eng t e).st = 2 ∧ !x.doomed then
          let cp := w ||| 0x200000000
          (s.setQWord t q x.rmark (storedWord cp false 0 none)).modEng t e (fun y => { y with cp := satAdd 65535 y.cp 1 })
        else s
      s.qCommit t q
  | none => s.qCommit t q

/-! ### WAIT and CHECKPOINT (R217, R220, R224, R228) -/

/-- Records of the tile stamped between two slot ages carry CS for its replica counters: an interval that has ended meets
them, or one that has begun by then has not ended (R58). -/
def Tile.doubted (x : Tile) (lo hi : Nat) : Bool :=
  x.reps.any (fun p => decide (p.1 ≤ hi) && decide (lo < p.2)) || (x.repLoad && decide (x.repFrom ≤ hi))

/-- CS and ST conditions of the timebase met in the slots from `lo` to `hi`, and CS for the tile's replica counters (R58). -/
def State.condMet (s : State) (t lo hi : Nat) : Bool × Bool :=
  let r := condOver lo hi (s.tb.note s.tb.age).conds (max (s.tb.age + 1) (hi + 1))
  (r.1 || (s.tile t).doubted lo hi, r.2)

/-- The conditions collected up to an item that a context takes (R228). -/
def State.collect (s : State) (t : Nat) (x : Ctx) (i : Item) : Ctx :=
  match x.cur with
  | some p =>
    if p.age ≤ i.age then
      let hi := if i.t.toNat % 8192 = 0 ∧ p.age < i.age then i.age - 1 else i.age
      let r := s.condMet t p.age hi
      { x with gcs := x.gcs || r.1, gst := x.gst || r.2 }
    else x
  | none => x

/-- Deliver an item to the running context (R211, R217, R220, R223, R236). -/
def State.deliver (s : State) (t e : Nat) (i : Item) (imm : BitVec 24) : State :=
  let y := s.eng t e
  let s := s.modCtx t y.ctx (fun x =>
    let x := s.collect t x i
    { x with cur := some i, bar := if i.kind = 3 ∨ i.kind = 5 then 2 else x.bar, dels := if i.kind = 7 then x.dels + 1 else x.dels })
  let s := s.modEng t e (fun y => { y with
    sliceN := y.sliceN + 1, sliceT := if y.sliceN = 0 then i.t else y.sliceT, cycles := 0, delivered := y.delivered + 1 })
  s.retireOp t e 2 (if i.isHit then (y.pc : Int) + imm.toInt else y.pc + 1)

/-- The slice of the running context ends before its next item: it holds BATCH items, has delivered an item that is not a
hit, or the item lies beyond the horizon (R220). -/
def State.sliceOver (s : State) (t e : Nat) (next : Option Item) : Bool :=
  let y := s.eng t e
  let x := s.ctx t y.ctx
  decide (y.sliceN ≠ 0) && (decide (s.batch t e ≤ y.sliceN) || !((x.cur.map (·.isHit)).getD true) ||
    (match next with
      | some i => timeLt (y.sliceT + horizon) i.t
      | none => match x.timer with
        | some tau => timeLt (y.sliceT + horizon) tau
        | none => true))

/-- WAIT (R217, R220, R222, R231): the context takes its next item; the PC stays on WAIT where the slice ends here or no
item can be taken yet. -/
def State.opWait (s : State) (t e : Nat) (imm : BitVec 24) : State :=
  let y := s.eng t e
  let c := y.ctx
  if s.hasOpen t e c then s.progFault t e 4
  else
    let s := if (s.ctx t c).bar = 2 then s.modCtx t c (fun x => { x with bar := 3 }) else s
    let x := s.ctx t c
    let last := match x.retire, x.cur with
      | some (_, f, _), some i => decide (i.kind = 1) && decide (i.t = f) && x.items.isEmpty
      | _, _ => false
    let endSlice := fun (s : State) => s.modEng t e (fun y => { y with sliceEnd := true })
    if last then s.endContext t e c
    else if x.bar = 3 then endSlice s
    else if y.inTrig && y.safe && decide (x.bar = 0) then endSlice s
    else if y.inTrig then
      match x.trig with
      | i :: rest => if s.sliceOver t e (some i) then endSlice s
          else (s.modCtx t c (fun x => { x with trig := rest })).deliver t e i imm
      | [] => endSlice s
    else
      match x.items with
      | i :: rest => if s.sliceOver t e (some i) then endSlice s
          else if s.headReady t e c i then (s.modCtx t c (fun x => { x with items := rest })).deliver t e i imm
          else s
      | [] => if s.sliceOver t e none then endSlice s else s

/-- CHECKPOINT (R220, R227, R231, R234): the slice ends, and a checkpoint is asked for there. -/
def State.opCheckpoint (s : State) (t e : Nat) : State :=
  let y := s.eng t e
  if s.hasOpen t e y.ctx then s.progFault t e 4
  else (s.modEng t e (fun y => { y with sliceEnd := true, ckptReq := true, cycles := 0 })).retireOp t e 2 (y.pc + 1)

/-! ### Execution -/

/-- What an instruction does: the cause of its program fault, or the state, the next PC and whether a branch was taken
(R226 to R231). -/
def State.opRun (s : State) (t e : Nat) (op : EngOp) : Except Nat (State × Int × Bool) :=
  let y := s.eng t e
  let pc : Int := y.pc
  let g := s.getG t e
  let b := s.getB t e
  let a := s.getA t e
  let next := fun (s' : State) => Except.ok (s', pc + 1, false)
  let branch := fun (c : Bool) (imm : BitVec 24) => Except.ok (s, if c then pc + imm.toInt else pc + 1, c)
  let onQ := fun (v : W64) (f : Nat → State) =>
    match s.nameQ t e v with
    | some q => next (f q)
    | none => Except.error 3
  match op with
  | .nop => next s
  | .alu f rd ra v => next (s.setG t e rd (f.eval (g ra) (b v)))
  | .ext rd ra imm => next (s.setG t e rd (extField (g ra) imm))
  | .ins rd ra k imm => next (s.setG t e rd (insField (g ra) k imm))
  | .mac sg ad ra v => next (s.setA t e ad (a ad + macProduct sg (g ra) (b v)))
  | .aclr ad => next (s.setA t e ad 0)
  | .aadd ad ra => next (s.setA t e ad (a ad + (g ra).signExtend 128))
  | .aadda ad aa => next (s.setA t e ad (a ad + a aa))
  | .asuba ad aa => next (s.setA t e ad (a ad - a aa))
  | .ashl ad aa v => next (s.setA t e ad (a aa <<< ((b v).toNat % 128)))
  | .asar ad aa v => next (s.setA t e ad ((a aa).sshiftRight ((b v).toNat % 128)))
  | .agetl rd aa => next (s.setG t e rd ((a aa).setWidth 64))
  | .ageth rd aa => next (s.setG t e rd ((a aa >>> 64).setWidth 64))
  | .aset ad ra v => next (s.setA t e ad (g ra ++ b v))
  | .adiv rd aa v => next (s.setG t e rd (accDiv false (a aa) (b v)))
  | .adivr rd aa v => next (s.setG t e rd (accDiv true (a aa) (b v)))
  | .asqrt rd aa => next (s.setG t e rd (BitVec.ofNat 64 (isqrt (a aa).toNat)))
  | .br c ra rb imm => branch (c.holds (g ra) (g rb)) imm
  | .brk eq ra k imm => branch (decide (g ra = k.setWidth 64) == eq) imm
  | .bbit set ra k imm => branch ((g ra).getLsbD k.toNat == set) imm
  | .jmp imm => .ok (s, pc + imm.toInt, true)
  | .jal rd imm => .ok (s.setG t e rd (BitVec.ofNat 64 (y.pc + 1)), pc + imm.toInt, true)
  | .jr ra => .ok (s, ((g ra).toNat % 2048 : Nat), true)
  | .ld rd ra imm =>
    let ad := g ra + imm.signExtend 64
    match s.cxFault t e false ad with
    | some c => .error c
    | none => next (s.setG t e rd (s.cxWord t ad.toNat))
  | .st ra rb imm =>
    let ad := g ra + imm.signExtend 64
    match s.cxFault t e true ad with
    | some c => .error c
    | none => next (s.setCxWord t ad.toNat (g rb))
  | .lda ad ra imm =>
    let w := g ra + imm.signExtend 64
    match s.cxFault2 t e false w with
    | some c => .error c
    | none => next (s.setA t e ad (s.cxWord t (w.toNat + 1) ++ s.cxWord t w.toNat))
  | .sta ra ab imm =>
    let w := g ra + imm.signExtend 64
    match s.cxFault2 t e true w with
    | some c => .error c
    | none => next ((s.setCxWord t w.toNat ((a ab).setWidth 64)).setCxWord t (w.toNat + 1) ((a ab >>> 64).setWidth 64))
  | .gnext rd =>
    let ad := 64 * y.ctx + 26
    let w := s.cxWord t ad
    next ((s.setCxWord t ad ((w &&& ~~~(0xFFFFFFFF : W64)) ||| ((w + 1) &&& 0xFFFFFFFF))).setG t e rd w)
  | .gstat rd =>
    let x := s.ctx t y.ctx
    next ((s.modCtx t y.ctx (fun x => { x with gst := false, gcs := false })).setG t e rd
      (BitVec.ofNat 64 (b2n x.gst + 2 * b2n x.gcs)))
  | .wait imm => .ok (s.opWait t e imm, pc, false)
  | .checkpoint => .ok (s.opCheckpoint t e, pc, false)
  | .emit ra v => onQ (b v) (fun q => s.emitWord t e q (g ra) false)
  | .emith ra v => onQ (b v) (fun q => s.emitWord t e q (g ra) true)
  | .commit v => onQ (b v) (fun q => s.commitPacket t e q)
  | .rewind v => onQ (b v) (fun q => s.qRewind t q)
  | .tmset ra v => next (s.modCtx t y.ctx (fun x => { x.disarmed with timer := some (g ra + b v) }))
  | .tmclr => next (s.modCtx t y.ctx Ctx.disarmed)

/-- WAIT and CHECKPOINT account for their own cycles and PC. -/
def EngOp.endsSlice : EngOp → Bool
  | .wait _ | .checkpoint => true
  | _ => false

/-- The engine is at an instruction: it runs a context inside a slice, below the cycle limit, and the program word at
its PC holds that instruction. -/
def State.atOp (s : State) (t e : Nat) (op : EngOp) : Bool :=
  let y := s.eng t e
  s.engRuns t e && y.loaded && !y.sliceEnd && decide (y.cycles < 65536) &&
    decide (decodeEng (mapGet (fun _ => 0) (s.tile t).pm y.pc) = some op)

/-- Execute an instruction. -/
def State.opStep (s : State) (t e : Nat) (op : EngOp) : State :=
  match s.opRun t e op with
  | .error c => s.progFault t e c
  | .ok (s', pc, taken) => if op.endsSlice then s' else s'.retireOp t e (op.cycles taken) pc

/-- The outcome of an engine instruction's row: the engine executes it when it stands at it (log entry 1). -/
def engStep (t e : Nat) (op : EngOp) (s : State) : Host.Outcome State Fault Refusal :=
  onEng t e s (fun s => if s.atOp t e op then s.opStep t e op else s)

/-! ### The instructions (R227) -/

/-- NOP (R227). -/
def execNop (t e : Nat) (s : State) : Host.Outcome State Fault Refusal := engStep t e .nop s

/-- ADD (R227). -/
def execAdd (t e : Nat) (rd ra : BitVec 5) (b : OpB) (s : State) : Host.Outcome State Fault Refusal := engStep t e (.alu .add rd ra b) s

/-- SUB (R227). -/
def execSub (t e : Nat) (rd ra : BitVec 5) (b : OpB) (s : State) : Host.Outcome State Fault Refusal := engStep t e (.alu .sub rd ra b) s

/-- AND (R227). -/
def execAnd (t e : Nat) (rd ra : BitVec 5) (b : OpB) (s : State) : Host.Outcome State Fault Refusal := engStep t e (.alu .and rd ra b) s

/-- OR (R227). -/
def execOr (t e : Nat) (rd ra : BitVec 5) (b : OpB) (s : State) : Host.Outcome State Fault Refusal := engStep t e (.alu .or rd ra b) s

/-- XOR (R227). -/
def execXor (t e : Nat) (rd ra : BitVec 5) (b : OpB) (s : State) : Host.Outcome State Fault Refusal := engStep t e (.alu .xor rd ra b) s

/-- SHL (R227). -/
def execShl (t e : Nat) (rd ra : BitVec 5) (b : OpB) (s : State) : Host.Outcome State Fault Refusal := engStep t e (.alu .shl rd ra b) s

/-- SHR (R227). -/
def execShr (t e : Nat) (rd ra : BitVec 5) (b : OpB) (s : State) : Host.Outcome State Fault Refusal := engStep t e (.alu .shr rd ra b) s

/-- SAR (R227). -/
def execSar (t e : Nat) (rd ra : BitVec 5) (b : OpB) (s : State) : Host.Outcome State Fault Refusal := engStep t e (.alu .sar rd ra b) s

/-- MIN (R227). -/
def execMin (t e : Nat) (rd ra : BitVec 5) (b : OpB) (s : State) : Host.Outcome State Fault Refusal := engStep t e (.alu .min rd ra b) s

/-- MAX (R227). -/
def execMax (t e : Nat) (rd ra : BitVec 5) (b : OpB) (s : State) : Host.Outcome State Fault Refusal := engStep t e (.alu .max rd ra b) s

/-- MUL (R227). -/
def execMul (t e : Nat) (rd ra : BitVec 5) (b : OpB) (s : State) : Host.Outcome State Fault Refusal := engStep t e (.alu .mul rd ra b) s

/-- DIVU (R227). -/
def execDivu (t e : Nat) (rd ra : BitVec 5) (b : OpB) (s : State) : Host.Outcome State Fault Refusal := engStep t e (.alu .divu rd ra b) s

/-- DIVS (R227). -/
def execDivs (t e : Nat) (rd ra : BitVec 5) (b : OpB) (s : State) : Host.Outcome State Fault Refusal := engStep t e (.alu .divs rd ra b) s

/-- REMU (R227). -/
def execRemu (t e : Nat) (rd ra : BitVec 5) (b : OpB) (s : State) : Host.Outcome State Fault Refusal := engStep t e (.alu .remu rd ra b) s

/-- SEQ (R227). -/
def execSeq (t e : Nat) (rd ra : BitVec 5) (b : OpB) (s : State) : Host.Outcome State Fault Refusal := engStep t e (.alu .seq rd ra b) s

/-- SLT (R227). -/
def execSlt (t e : Nat) (rd ra : BitVec 5) (b : OpB) (s : State) : Host.Outcome State Fault Refusal := engStep t e (.alu .slt rd ra b) s

/-- SLTU (R227). -/
def execSltu (t e : Nat) (rd ra : BitVec 5) (b : OpB) (s : State) : Host.Outcome State Fault Refusal := engStep t e (.alu .sltu rd ra b) s

/-- EXT (R227). -/
def execExt (t e : Nat) (rd ra : BitVec 5) (imm : BitVec 24) (s : State) : Host.Outcome State Fault Refusal := engStep t e (.ext rd ra imm) s

/-- INS (R227). -/
def execIns (t e : Nat) (rd ra k : BitVec 5) (imm : BitVec 24) (s : State) : Host.Outcome State Fault Refusal := engStep t e (.ins rd ra k imm) s

/-- MACS (R227). -/
def execMacs (t e : Nat) (ad : BitVec 2) (ra : BitVec 5) (b : OpB) (s : State) : Host.Outcome State Fault Refusal := engStep t e (.mac true ad ra b) s

/-- MACU (R227). -/
def execMacu (t e : Nat) (ad : BitVec 2) (ra : BitVec 5) (b : OpB) (s : State) : Host.Outcome State Fault Refusal := engStep t e (.mac false ad ra b) s

/-- ACLR (R227). -/
def execAclr (t e : Nat) (ad : BitVec 2) (s : State) : Host.Outcome State Fault Refusal := engStep t e (.aclr ad) s

/-- AADD (R227). -/
def execAadd (t e : Nat) (ad : BitVec 2) (ra : BitVec 5) (s : State) : Host.Outcome State Fault Refusal := engStep t e (.aadd ad ra) s

/-- AADDA (R227). -/
def execAadda (t e : Nat) (ad aa : BitVec 2) (s : State) : Host.Outcome State Fault Refusal := engStep t e (.aadda ad aa) s

/-- ASUBA (R227). -/
def execAsuba (t e : Nat) (ad aa : BitVec 2) (s : State) : Host.Outcome State Fault Refusal := engStep t e (.asuba ad aa) s

/-- ASHL (R227). -/
def execAshl (t e : Nat) (ad aa : BitVec 2) (b : OpB) (s : State) : Host.Outcome State Fault Refusal := engStep t e (.ashl ad aa b) s

/-- ASAR (R227). -/
def execAsar (t e : Nat) (ad aa : BitVec 2) (b : OpB) (s : State) : Host.Outcome State Fault Refusal := engStep t e (.asar ad aa b) s

/-- AGETL (R227). -/
def execAgetl (t e : Nat) (rd : BitVec 5) (aa : BitVec 2) (s : State) : Host.Outcome State Fault Refusal := engStep t e (.agetl rd aa) s

/-- AGETH (R227). -/
def execAgeth (t e : Nat) (rd : BitVec 5) (aa : BitVec 2) (s : State) : Host.Outcome State Fault Refusal := engStep t e (.ageth rd aa) s

/-- ASQRT (R227). -/
def execAsqrt (t e : Nat) (rd : BitVec 5) (aa : BitVec 2) (s : State) : Host.Outcome State Fault Refusal := engStep t e (.asqrt rd aa) s

/-- ASET (R227). -/
def execAset (t e : Nat) (ad : BitVec 2) (ra : BitVec 5) (b : OpB) (s : State) : Host.Outcome State Fault Refusal := engStep t e (.aset ad ra b) s

/-- ADIV (R227). -/
def execAdiv (t e : Nat) (rd : BitVec 5) (aa : BitVec 2) (b : OpB) (s : State) : Host.Outcome State Fault Refusal := engStep t e (.adiv rd aa b) s

/-- ADIVR (R227). -/
def execAdivr (t e : Nat) (rd : BitVec 5) (aa : BitVec 2) (b : OpB) (s : State) : Host.Outcome State Fault Refusal := engStep t e (.adivr rd aa b) s

/-- BEQ (R227). -/
def execBeq (t e : Nat) (ra rb : BitVec 5) (imm : BitVec 24) (s : State) : Host.Outcome State Fault Refusal := engStep t e (.br .eq ra rb imm) s

/-- BNE (R227). -/
def execBne (t e : Nat) (ra rb : BitVec 5) (imm : BitVec 24) (s : State) : Host.Outcome State Fault Refusal := engStep t e (.br .ne ra rb imm) s

/-- BLT (R227). -/
def execBlt (t e : Nat) (ra rb : BitVec 5) (imm : BitVec 24) (s : State) : Host.Outcome State Fault Refusal := engStep t e (.br .lt ra rb imm) s

/-- BGE (R227). -/
def execBge (t e : Nat) (ra rb : BitVec 5) (imm : BitVec 24) (s : State) : Host.Outcome State Fault Refusal := engStep t e (.br .ge ra rb imm) s

/-- BLTU (R227). -/
def execBltu (t e : Nat) (ra rb : BitVec 5) (imm : BitVec 24) (s : State) : Host.Outcome State Fault Refusal := engStep t e (.br .ltu ra rb imm) s

/-- BGEU (R227). -/
def execBgeu (t e : Nat) (ra rb : BitVec 5) (imm : BitVec 24) (s : State) : Host.Outcome State Fault Refusal := engStep t e (.br .geu ra rb imm) s

/-- BEQI (R227). -/
def execBeqi (t e : Nat) (ra k : BitVec 5) (imm : BitVec 24) (s : State) : Host.Outcome State Fault Refusal := engStep t e (.brk true ra k imm) s

/-- BNEI (R227). -/
def execBnei (t e : Nat) (ra k : BitVec 5) (imm : BitVec 24) (s : State) : Host.Outcome State Fault Refusal := engStep t e (.brk false ra k imm) s

/-- BBS (R227). -/
def execBbs (t e : Nat) (ra k : BitVec 5) (imm : BitVec 24) (s : State) : Host.Outcome State Fault Refusal := engStep t e (.bbit true ra k imm) s

/-- BBC (R227). -/
def execBbc (t e : Nat) (ra k : BitVec 5) (imm : BitVec 24) (s : State) : Host.Outcome State Fault Refusal := engStep t e (.bbit false ra k imm) s

/-- JMP (R227). -/
def execJmp (t e : Nat) (imm : BitVec 24) (s : State) : Host.Outcome State Fault Refusal := engStep t e (.jmp imm) s

/-- JAL (R227). -/
def execJal (t e : Nat) (rd : BitVec 5) (imm : BitVec 24) (s : State) : Host.Outcome State Fault Refusal := engStep t e (.jal rd imm) s

/-- JR (R227). -/
def execJr (t e : Nat) (ra : BitVec 5) (s : State) : Host.Outcome State Fault Refusal := engStep t e (.jr ra) s

/-- LD (R227). -/
def execLd (t e : Nat) (rd ra : BitVec 5) (imm : BitVec 24) (s : State) : Host.Outcome State Fault Refusal := engStep t e (.ld rd ra imm) s

/-- ST (R227). -/
def execSt (t e : Nat) (ra rb : BitVec 5) (imm : BitVec 24) (s : State) : Host.Outcome State Fault Refusal := engStep t e (.st ra rb imm) s

/-- LDA (R227). -/
def execLda (t e : Nat) (ad : BitVec 2) (ra : BitVec 5) (imm : BitVec 24) (s : State) : Host.Outcome State Fault Refusal := engStep t e (.lda ad ra imm) s

/-- STA (R227). -/
def execSta (t e : Nat) (ra : BitVec 5) (ab : BitVec 2) (imm : BitVec 24) (s : State) : Host.Outcome State Fault Refusal := engStep t e (.sta ra ab imm) s

/-- GNEXT (R227). -/
def execGnext (t e : Nat) (rd : BitVec 5) (s : State) : Host.Outcome State Fault Refusal := engStep t e (.gnext rd) s

/-- GSTAT (R227). -/
def execGstat (t e : Nat) (rd : BitVec 5) (s : State) : Host.Outcome State Fault Refusal := engStep t e (.gstat rd) s

/-- WAIT (R227). -/
def execWait (t e : Nat) (imm : BitVec 24) (s : State) : Host.Outcome State Fault Refusal := engStep t e (.wait imm) s

/-- CHECKPOINT (R227). -/
def execCheckpoint (t e : Nat) (s : State) : Host.Outcome State Fault Refusal := engStep t e .checkpoint s

/-- EMIT (R227). -/
def execEmit (t e : Nat) (ra : BitVec 5) (b : OpB) (s : State) : Host.Outcome State Fault Refusal := engStep t e (.emit ra b) s

/-- EMITH (R227). -/
def execEmith (t e : Nat) (ra : BitVec 5) (b : OpB) (s : State) : Host.Outcome State Fault Refusal := engStep t e (.emith ra b) s

/-- COMMIT (R227). -/
def execCommit (t e : Nat) (b : OpB) (s : State) : Host.Outcome State Fault Refusal := engStep t e (.commit b) s

/-- REWIND (R227). -/
def execRewind (t e : Nat) (b : OpB) (s : State) : Host.Outcome State Fault Refusal := engStep t e (.rewind b) s

/-- TMSET (R227). -/
def execTmset (t e : Nat) (ra : BitVec 5) (b : OpB) (s : State) : Host.Outcome State Fault Refusal := engStep t e (.tmset ra b) s

/-- TMCLR (R227). -/
def execTmclr (t e : Nat) (s : State) : Host.Outcome State Fault Refusal := engStep t e .tmclr s

/-- SLICE_CYCLE_LIMIT (R231): 65,536 cycles have passed in one slice without WAIT or CHECKPOINT. -/
def execSliceCycleLimit (t e : Nat) (s : State) : Host.Outcome State Fault Refusal :=
  onEng t e s (fun s =>
    let y := s.eng t e
    if s.engRuns t e && y.loaded && !y.sliceEnd && decide (65536 ≤ y.cycles) then s.progFault t e 6 else s)

end Sys2Proof.Machine
end

