-- ==== Sys2Proof/Machine/Transfer.lean ====
section
/-! DEFINITION. Time transfer over the downlink (R84 to R111): exchanges, offset and round trip, the averages, steps
and path changes. -/

namespace Sys2Proof.Machine

open Sys2Proof

/-! ### Settings -/

/-- TT_PERIOD in slots (R88, R108). -/
def State.ttPeriod (s : State) : Nat := s.fld 0x2010 15 0 * 128

/-- TT_SLEW in fine units (R97, R108). -/
def State.ttSlew (s : State) : Nat := s.fld 0x200C 23 0 * 1024

/-- CONFIRM (R111). -/
def State.ttConfirm (s : State) : Nat := s.fld 0x2008 7 4

/-- A difference in fine units exceeds `n` halves of PATH_THR, which is in ps (R104, R111). -/
def State.beyondPath (s : State) (n : Nat) (d : Int) : Bool := decide (n * s.fld 0x2008 31 16 * 1024 < 2 * d.natAbs * 1000)

/-- TT_ASYM, signed fine units (R105). -/
def State.ttAsym (s : State) : Int := signed 32 (s.rv 0x2014)

/-- Corrections are applied now: SERVO is 1 and the timebase is LOCKED (R98, R101, R102). -/
def State.ttServo (s : State) : Bool := bit (s.rv 0x2000) 1 && decide (s.tb.st = .locked)

/-! ### Open exchanges (R86 to R89) -/

/-- A slot that arrives: discarded and counted with a code violation or disparity error, acted on only in SLOT (R314,
R317). -/
def State.onSlot (s : State) (bad : Bool) (f : State → State) : State :=
  if s.lk.dn = .slot then
    (if bad then { s with lk := { s.lk with dnDisc := satAdd 65535 s.lk.dnDisc 1 } } else f s)
  else s

/-- Count a discard with its reason (R89). -/
def State.ttDiscard (s : State) (reason : Nat) : State :=
  { s with tt := { s.tt with disc := satAdd 65535 s.tt.disc 1, lastReason := reason } }

/-- The open exchange with an id. -/
def State.exch (s : State) (id : BitVec 8) : Option Exch := s.tt.opened.find? (fun x => x.id = id)

/-- Close the exchange with an id. -/
def State.closeExch (s : State) (id : BitVec 8) : State :=
  { s with tt := { s.tt with opened := s.tt.opened.filter (fun x => x.id ≠ id) } }

/-- Change the exchange with an id. -/
def State.modExch (s : State) (id : BitVec 8) (f : Exch → Exch) : State :=
  { s with tt := { s.tt with opened := s.tt.opened.map (fun x => if x.id = id then f x else x) } }

/-! ### Arithmetic (R95 to R99) -/

/-- Mean of signed values, rounded to the nearest whole, ties away from zero (R96, R99). -/
def meanRound (xs : List Int) : Int := if xs.isEmpty then 0 else roundDiv xs.sum xs.length

/-- An offset brought to another instant by the ramp offset there (R96). -/
def Meas.brought (m : Meas) (o : Int) : Int := m.theta + (o - m.o)

/-- A measurement agrees within the slew limit with every one of a run (R97, R101). -/
def agrees (slew : Nat) (run : List Meas) (m : Meas) : Bool :=
  run.all (fun x => decide ((m.theta - m.o - (x.theta - x.o)).natAbs ≤ slew))

/-- The ramp offset at the latest t2 of some measurements (R96, R98). -/
def endOffset (ms : List Meas) : Int :=
  match ms with
  | [] => 0
  | m :: rest => (rest.foldl (fun a b => if a.t2 ≤ b.t2 then b else a) m).o

/-- The mean offset of measurements, each brought to their latest t2 (R96, R99). -/
def meanTheta (ms : List Meas) : Int := meanRound (ms.map (fun m => m.brought (endOffset ms)))

/-- The confirmed offset of a run: the mean of its last `n` (R99). -/
def confirmedTheta (n : Nat) (run : List Meas) : Int := meanTheta (run.drop (run.length - n))

/-- What is left of a run when a measurement comes that does not agree with all of it: in LOCKED its longest end that
agrees, since R97 asks for consecutive outliers only; otherwise nothing (R101). -/
def State.runKept (s : State) (m : Meas) : List Meas :=
  if agrees s.ttSlew s.tt.run m then s.tt.run
  else if s.tb.st = .locked then (s.tt.run.reverse.takeWhile (fun x => agrees s.ttSlew [x] m)).reverse
  else []

/-- A run ends (R97, R101). -/
def State.endRun (s : State) : State := { s with tt := s.tt.dropped }

/-- The run is cut to what is left of it: outliers cut off that no step confirmed are discarded with reason 4 (R89, R97). -/
def TimeTransfer.cut (x : TimeTransfer) (kept : List Meas) : TimeTransfer :=
  if kept.length = x.run.length then x
  else { ({ x with run := x.run.take (x.run.length - kept.length) } : TimeTransfer).dropped with run := kept }

/-- A measurement continues the run or starts a new one; a run of CONFIRM asks for a step when corrections are applied
(R97, R99 to R101, R105). -/
def State.growRun (s : State) (m : Meas) : State :=
  let run := s.runKept m ++ [m]
  let s := { s with tt := { s.tt.cut (s.runKept m) with run := run } }
  if s.ttConfirm ≤ run.length then
    let s := { s with tt := { s.tt with confirmed := true } }
    if s.ttServo && !s.tt.hold then { s with tt := { s.tt with stepAsk := some (confirmedTheta s.ttConfirm run) } } else s
  else s

/-- The action at the end of a block (R98). -/
def State.blockAct (s : State) (th o : Int) : State :=
  if !s.ttServo || s.tt.hold || decide (th = 0) then s
  else if th.natAbs ≤ s.ttSlew then
    { s with tb := { s.tb with autoReq := some ⟨th * rampUnit, s.steerMax, o⟩ } }
  else { s with tt := { s.tt with stepAsk := some th } }

/-- A measurement enters the block; a full block gives the mean offset and the reference round trip (R96, R105,
R106). -/
def State.growBlock (s : State) (m : Meas) : State :=
  let blk := s.tt.block ++ [m]
  if s.fld 0x2008 15 8 ≤ blk.length then
    let th := meanTheta blk
    let rtt := meanRound (blk.map (·.rtt))
    let s := { s with tt := { s.tt with
      block := [], thetaBar := th, rttRef := if s.tt.hold then s.tt.rttRef else some rtt, newRef := false } }
    s.blockAct th (endOffset blk)
  else { s with tt := { s.tt with block := blk } }

/-- A measurement enters the averages: the run of outliers or of first exchanges, and the block unless it is an outlier
(R96, R97, R100). -/
def State.average (s : State) (m : Meas) : State :=
  if s.tb.epoch = 0 then (if m.out then s.growRun m else (s.growRun m).growBlock m)
  else if m.out then s.growRun m else s.endRun.growBlock m

/-! ### Path changes (R104 to R106) -/

/-- The round trip differs from the reference by more than PATH_THR: PATH of the reply (R104). -/
def State.offPath (s : State) (rtt : Int) : Bool :=
  match s.tt.rttRef with
  | some r => s.beyondPath 2 (rtt - r)
  | none => false

/-- A further exchange off the path agrees with one before it: the same direction, and within half of PATH_THR (R104). -/
def State.pathAgrees (s : State) (x m : Meas) : Bool :=
  let ref := s.tt.rttRef.getD 0
  decide ((x.rtt < ref) = (m.rtt < ref)) && !s.beyondPath 1 (m.rtt - x.rtt)

/-- The exchanges just before `m` that agree with it as R104 asks. -/
def State.pathKept (s : State) (m : Meas) : List Meas := (s.tt.pathRun.reverse.takeWhile (fun x => s.pathAgrees x m)).reverse

/-- The hold policy is in force (R105, R111). -/
def State.pathHolds (s : State) : Bool := !bit (s.rv 0x2008) 0

/-- Measurements of this epoch that were kept out of the averages enter them in their order (R96, R105). -/
def State.averageAll (s : State) (ms : List Meas) : State :=
  (ms.filter (fun m => decide (s.tb.openAge ≤ m.t2))).foldl State.average s

/-- The path change is confirmed (R104 to R106): the hold, which covers the exchanges `run` that confirmed it; under the
follow policy a new reference from the block that starts with the last of them. The path-changed event. -/
def State.pathChange (s : State) (run : List Meas) (m : Meas) : State :=
  let s := { s with tt := { s.tt with pathRun := [] } }
  (if s.pathHolds then ({ s with tt := { s.tt with hold := true, stepAsk := none } }).averageAll run
    else ({ s with tt := { s.tt with newRef := true, block := [] } }).average m).raise (chipSrc 9)

/-- The path test of one exchange, with what the averages take of it (R104 to R106): while a run of exchanges off the path
could become a path change under the hold policy, they are kept out of the averages, so that no correction follows from
them; a run that breaks gives them back. No test while a hold lasts or the new reference is not there yet. -/
def State.pathTest (s : State) (m : Meas) : State :=
  if s.tt.hold || s.tt.newRef || !s.offPath m.rtt then
    let old := s.tt.pathRun
    let s := { s with tt := { s.tt with pathRun := [] } }
    (if s.pathHolds then s.averageAll old else s).average m
  else
    let kept := s.pathKept m
    let gone := s.tt.pathRun.take (s.tt.pathRun.length - kept.length)
    let run := kept ++ [m]
    let s := { s with tt := { s.tt with pathRun := run } }
    let s := if s.pathHolds then s.averageAll gone else s
    if s.ttConfirm ≤ run.length then s.pathChange run m
    else if s.pathHolds then s else s.average m

/-- End of a path hold: a new block, whose mean round trip becomes the reference (R105). -/
def State.endHold (s : State) : State :=
  if s.tt.hold then
    ({ s with tt := { s.tt with hold := false, block := [], pathRun := [], newRef := true } }).updQuality
  else s

/-! ### Completion (R86, R95) -/

/-- What a complete exchange does (R95 to R101, R104, R107). -/
def State.measured (s : State) (x : Exch) (theta rtt : Int) : State :=
  let m : Meas := { theta := theta, o := x.t2Moved, rtt := rtt, t2 := x.t2Age }
  let m := { m with out := decide (s.ttSlew < (m.brought s.tb.moved).natAbs) }
  let s := { s with tt := { s.tt with
    done := (s.tt.done + 1) % 2 ^ 32, lastId := x.id, lastDone := some s.tb.age, stale := false,
    last := some ⟨x.id, theta, rtt, m.out, s.offPath rtt⟩ } }
  (s.pathTest m).updQuality

/-- Complete an exchange that holds all four stamps; one that an epoch opening cut is discarded with reason 3 (R86,
R89, R95). -/
def State.tryComplete (s : State) (id : BitVec 8) : State :=
  match s.exch id with
  | some x =>
    match x.t3, x.t1s, x.t1nf, x.t4s, x.t4nf with
    | some t3, some s1, some (n1, f1), some s4, some (n4, f4) =>
      let s := s.closeExch id
      if x.t2Opens ≠ s.tb.opens then s.ttDiscard 3
      else
        let fwd := x.t2.diff { s := s1, ns := n1, fine := f1 }
        let bwd := Time.diff { s := s4, ns := n4, fine := f4 } t3
        s.measured x ((fwd - bwd - s.ttAsym).tdiv 2) (fwd + bwd)
    | _, _, _, _, _ => s
  | none => s

/-- A follow-up or response slot for an id: discarded with reason 5 where no exchange has it (R89). Reserved DATA bits are
not looked at (DEDUCED, log entry 128). -/
def State.onExch (s : State) (bits_ : BitVec 52) (bad : Bool) (f : BitVec 8 → State → State) : State :=
  s.onSlot bad (fun s =>
    if bit (s.rv 0x2000) 0 then
      let id := BitVec.ofNat 8 (bits bits_.toNat 51 44)
      if (s.exch id).isSome then f id s else s.ttDiscard 5
    else s)

/-- The nanoseconds and fine of an NF slot (R92). -/
def nfOf (b : BitVec 52) : Nat × Nat := (bits b.toNat 39 10, bits b.toNat 9 0)

/-! ### The reply frame (R94) -/

/-- The six payload records of a reply frame (R94). LAST_ID stays that of the last completed exchange where VALID is 0,
and RTT saturates as a signed value as OFFSET does (DEDUCED, log entry 129). -/
def State.replyWords (s : State) (x : Exch) (t3 : Time) : List W64 :=
  let hd := fun (c : Nat) (fs : List (Nat × Nat × Nat)) => rec64 ([(61, 3, 7), (56, 5, c)] ++ fs)
  let sat := fun (v : Int) => twos 40 (clampInt (-(2 ^ 39)) (2 ^ 39 - 1) v)
  let l := s.tt.last
  let v (f : LastEx → Nat) : Nat := (l.map f).getD 0
  [hd 0x18 [(48, 8, x.id.toNat), (44, 4, x.t2Epoch), (40, 4, x.quality), (0, 32, x.t2.s)],
   hd 0x19 [(10, 30, x.t2.ns), (0, 10, x.t2.fine)],
   hd 0x1A [(48, 8, x.id.toNat), (44, 4, s.tb.epoch), (0, 32, t3.s)],
   hd 0x19 [(10, 30, t3.ns), (0, 10, t3.fine)],
   hd 0x1B [(48, 8, s.tt.lastId.toNat), (40, 1, b2n l.isSome), (41, 1, v (fun y => b2n y.outlier)), (42, 1, v (fun y => b2n y.path)),
     (0, 40, v (fun y => sat y.theta))],
   hd 0x1C [(48, 8, s.tt.lastId.toNat), (0, 40, v (fun y => sat y.rtt))]]

/-! ### The commands -/

/-- TT_SYNC (R86, R88, R89): stamps t2 and opens an exchange. -/
def execTtSync (b : BitVec 52) (sub : BitVec 13) (bad : Bool) (s : State) : Host.Outcome State Fault Refusal :=
  onChip s (fun s => s.onSlot bad (fun s =>
    if bit (s.rv 0x2000) 0 then
      let id := BitVec.ofNat 8 (bits b.toNat 51 44)
      let s := if (s.exch id).isSome then (s.closeExch id).ttDiscard 8 else s
      let s := match s.tt.opened with
        | _ :: rest => if 4 ≤ s.tt.opened.length then
            ({ s with tt := { s.tt with opened := rest } }).ttDiscard 6 else s
        | [] => s
      let x : Exch :=
        { id := id, t2 := s.now.addFine sub.toNat, t2Age := s.tb.age, t2Epoch := s.tb.epoch, t2Opens := s.tb.opens,
          t2Moved := s.tb.moved, quality := s.qualityCode }
      { s with tt := { s.tt with opened := s.tt.opened ++ [x] } }
    else s))

/-- FOLLOW_UP_S (R86). -/
def execFollowUpS (b : BitVec 52) (bad : Bool) (s : State) : Host.Outcome State Fault Refusal :=
  onChip s (fun s => s.onExch b bad (fun id s =>
    (s.modExch id (fun x => { x with t1s := some (bits b.toNat 31 0) })).tryComplete id))

/-- FOLLOW_UP_NF (R86, R93). -/
def execFollowUpNf (b : BitVec 52) (bad : Bool) (s : State) : Host.Outcome State Fault Refusal :=
  onChip s (fun s => s.onExch b bad (fun id s =>
    if nsPerSec ≤ (nfOf b).1 then (s.closeExch id).ttDiscard 7
    else (s.modExch id (fun x => { x with t1nf := some (nfOf b) })).tryComplete id))

/-- DELAY_RESP_S (R86). -/
def execDelayRespS (b : BitVec 52) (bad : Bool) (s : State) : Host.Outcome State Fault Refusal :=
  onChip s (fun s => s.onExch b bad (fun id s =>
    (s.modExch id (fun x => { x with t4s := some (bits b.toNat 31 0) })).tryComplete id))

/-- DELAY_RESP_NF (R86, R89, R93). NONE goes before a nanoseconds value that is too great (DEDUCED, log entry 130). -/
def execDelayRespNf (b : BitVec 52) (bad : Bool) (s : State) : Host.Outcome State Fault Refusal :=
  onChip s (fun s => s.onExch b bad (fun id s =>
    if b.getLsbD 40 then (s.closeExch id).ttDiscard 2
    else if nsPerSec ≤ (nfOf b).1 then (s.closeExch id).ttDiscard 7
    else (s.modExch id (fun x => { x with t4nf := some (nfOf b) })).tryComplete id))

/-- TT_UNKNOWN_SLOT (R92): counted and otherwise ignored. -/
def execTtUnknownSlot (msg : BitVec 4) (_b : BitVec 52) (bad : Bool) (s : State) : Host.Outcome State Fault Refusal :=
  onChip s (fun s => s.onSlot bad (fun s =>
    if bit (s.rv 0x2000) 0 && !(1 ≤ msg.toNat && msg.toNat ≤ 5) then
      { s with tt := { s.tt with unknown := satAdd 255 s.tt.unknown 1 } }
    else s))

/-- EXCHANGE_TIMEOUT (R89): two exchange periods after t2 the exchange is discarded with reason 1. -/
def execExchangeTimeout (id : BitVec 8) (s : State) : Host.Outcome State Fault Refusal :=
  onChip s (fun s =>
    match s.exch id with
    | some x => ((s.advanceTo (x.t2Age + 2 * s.ttPeriod)).closeExch id).ttDiscard 1
    | none => s)

/-- TIME_STEP (R99, R100): a confirmed step sets device time to master time at the next slot boundary and opens an
epoch, with cause bit 0 in epoch 0 and bit 1 otherwise; its residual becomes an automatic profile. Where another cause gives
the value of that boundary (R45), no step is made and none is reported (R107). -/
def execTimeStep (s : State) : Host.Outcome State Fault Refusal :=
  onChip s (fun s =>
    match s.tt.stepAsk with
    | some th =>
      if s.ttServo && !s.tt.hold then
        let taken := s.tb.setVal.isNone && s.tb.realignVal.isNone
        let s := { s with tb := { s.tb with stepVal := some th }, tt := { s.tt with stepAsk := none } }
        let s := (s.addCause (if s.tb.epoch = 0 then 0 else 1) (s.tb.age + 1)).openDue
        if taken then s.raise (chipSrc 7) else s
      else s
    | none => s)

/-- QUALITY_STALE (R107): 16 exchange periods pass without a complete exchange. -/
def execQualityStale (s : State) : Host.Outcome State Fault Refusal :=
  onChip s (fun s =>
    let s := match s.tt.lastDone with
      | some a => s.advanceTo (a + 16 * s.ttPeriod)
      | none => s
    ({ s with tt := { s.tt with stale := true } }).updQuality)

end Sys2Proof.Machine
end

