-- ==== Sys2Proof/Machine/Trigger.lean ====
section
/-! DEFINITION. Triggered read-out (R277 to R302): windows, read marks, admission, fragments, events, trigger slices. -/

namespace Sys2Proof.Machine

open Sys2Proof

/-! ### The window (R279 to R284) -/

/-- Trigger latency in ns: A less the latest instant whose nanoseconds end in TLOW (R279, R280). -/
def trigLatency (a tlow : Nat) : Nat :=
  if tlow ≤ a then (a - tlow) % 2 ^ 24
  else a + 1000000000 - (999999999 - (999999999 - tlow) % 2 ^ 24)

/-- Settings of a trigger code: OFFSET, WIDTH, CAP with its enable, and the topology (R281, R288, R310). -/
def State.trgWin (s : State) (k : Nat) : Nat := s.rv (0x6100 + 16 * k)

/-- TRG_CAP of a code. -/
def State.trgCap (s : State) (k : Nat) : Nat := s.rv (0x6104 + 16 * k)

/-- The topology of a code. -/
def State.trgTopo (s : State) (k : Nat) : BitVec 64 :=
  BitVec.ofNat 64 (s.rv (0x6108 + 16 * k) + s.rv (0x610C + 16 * k) * 2 ^ 32)

/-- A trigger that arrived at slot age `a` falls to a context: at or after its start, and before its retirement (R421). -/
def Ctx.takesTrig (x : Ctx) (a : Nat) : Bool :=
  decide (x.born ≤ a) && (match x.retire with
    | some (_, _, r) => decide (a < r)
    | none => true)

/-- The contexts of a tile that take trigger slices of a code, for a trigger that arrived at slot age `a`, with their
engines (R171, R222, R291, R421). -/
def State.sliceCtxs (s : State) (t code a : Nat) : List (Nat × Nat) :=
  ((List.range 9).filter (fun e => let st := (s.eng t e).st; decide (1 ≤ st) && decide (st ≤ 3))).flatMap (fun e =>
    ((s.liveCtxs t e).filter (fun c =>
      decide (s.gateKind t c = 3) && bit (fieldOf (s.dword t c 1) 15 0) code && (s.ctx t c).takesTrig a)).map
        (fun c => (e, c)))

/-- Tiles of a topology. -/
def topoTiles (topo : BitVec 64) : List Nat := (List.range 64).filter (fun t => topo.getLsbD t)

/-- Slots that a window touches, on the slot age scale (R283). -/
def winSlots (w0 w1 : Int) : List Nat :=
  let a := (w0 / 8).toNat
  (List.range (((w1 + 7) / 8).toNat - a)).map (· + a)

/-- Instant of a hit record in ns on the slot age scale: its slot age with the nanoseconds below 8 (R262, R281). -/
def hitNs (age : Nat) (w : W64) : Int := (age * 8 + fieldOf w 39 10 % 8 : Nat)

/-- A record of slot age `age` is a hit stamped in the window (R281). -/
def inWindow (w0 w1 : Int) (age : Nat) (w : W64) : Bool :=
  decide (recType w = 1) && decide (w0 ≤ hitNs age w) && decide (hitNs age w < w1)

/-- First buffer position and last-plus-one of the hits of the window's slots; both at WP where there are none yet
(R283, R284, R289). -/
def State.winSpan (s : State) (t : Nat) (w0 w1 : Int) : Nat × Nat :=
  let q := s.lbq t
  let x := s.queue t q
  let c := s.qCap t q
  let rs := (winSlots w0 w1).filterMap (fun k => s.ringOf t k)
  let far := fun (p : Nat) => ringDist c x.rp p
  let lo := rs.foldl (fun a r => if far r.first < far a then r.first else a) x.wp
  let hi := rs.foldl (fun a r => if far a < far r.last then r.last else a) lo
  (lo, hi)

/-- Buffer positions from `first` up to `last`. -/
def State.lbRange (s : State) (t first last : Nat) : List Nat :=
  let c := s.qCap t (s.lbq t)
  (List.range (ringDist c first last)).map (fun i => ringAdd c first i)

/-- Slot age and word that a reader gets at a buffer position, repaired by the mirror where it can be (R266). -/
def State.lbSeen (s : State) (t i : Nat) : Nat × W64 :=
  let x := s.qWord t (s.lbq t) i
  (x.age, (x.read s.bracket).1)

/-- The buffer positions that a trigger's window takes in a tile: from its read mark, which none of them can leave, to the
last record of the window's slots (R263, R284, R289). -/
def State.trigSpan (s : State) (t : Nat) (p : Trig) : Nat × Nat :=
  match (s.tile t).marks.find? (fun m => m.owner = p.ord) with
  | none => s.winSpan t p.w0 p.w1
  | some m =>
    let slots := winSlots p.w0 p.w1
    let hit := fun (i : Nat) => let x := s.lbSeen t i; decide (recType x.2 = 1) && slots.contains x.1
    let is := (s.lbRange t m.pos (s.queue t (s.lbq t)).rmark).filter hit
    match is.head?, is.getLast? with
    | some a, some z => (a, ringAdd (s.qCap t (s.lbq t)) z 1)
    | _, _ => (m.pos, m.pos)

/-- The first and the last slot of a window, which it may cut (R285). -/
def cutSlots (w0 w1 : Int) : List Nat :=
  let k := winSlots w0 w1
  (k.take 1 ++ k.drop (k.length - 1)).dedup

/-- Hits of a whole slot: its ring entry, which a scan of the positions held for the trigger replaces when the entry has
been taken over since (R283, R285). -/
def State.slotCount (s : State) (t slot : Nat) (is : List Nat) : Nat :=
  match s.ringOf t slot with
  | some r => r.n
  | none => (is.filter (fun i => let x := s.lbSeen t i; decide (recType x.2 = 1) && decide (x.1 = slot))).length

/-- The hit count of a tile for a trigger: whole slots from the ring, the slots that the window may cut by a scan
(R285). -/
def State.winCount (s : State) (t : Nat) (p : Trig) : Nat :=
  let w := s.trigSpan t p
  let is := s.lbRange t w.1 w.2
  let cut := cutSlots p.w0 p.w1
  let whole := (winSlots p.w0 p.w1).filter (fun k => !cut.contains k)
  (whole.map (fun k => s.slotCount t k is)).sum +
    (is.filter (fun i => let x := s.lbSeen t i; cut.contains x.1 && inWindow p.w0 p.w1 x.1 x.2)).length

/-- The scan of the slots that a window may cut reads their words, with the parity check of every read (R265, R285). -/
def State.scanReads (s : State) (t : Nat) (p : Trig) : State :=
  let w := s.trigSpan t p
  let cut := cutSlots p.w0 p.w1
  forKeys ((s.lbRange t w.1 w.2).filter (fun i => cut.contains (s.lbSeen t i).1))
    (fun i s => (s.qRead t (s.lbq t) i).2.2) s

/-- Records of the window's slots have expired from the buffer (R284). -/
def State.winExpired (s : State) (t : Nat) (w0 : Int) : Bool :=
  match (s.tile t).expSlot with
  | some k => decide (w0 / 8 ≤ (k : Int))
  | none => false

/-! ### Answers (R292) -/

/-- Answer TREF with a reason (R286, R292, R311, R481). -/
def State.tref (s : State) (id code reason epoch : Nat) : State :=
  let s := s.send 7 0 [answerRecord false id code reason epoch 0]
  ({ s with eb := { s.eb with tref := (s.eb.tref + 1) % 2 ^ 32, lastReason := reason, lastId := id } }).raise (chipSrc 14)

/-- Release the read marks of a trigger (R263, R286, R291). -/
def State.dropMarks (s : State) (ord : Nat) : State :=
  forKeys (List.range 64) (fun t s => s.modTile t (fun x => { x with marks := x.marks.filter (fun m => m.owner ≠ ord) })) s

/-! ### Admission (R286 to R290) -/

/-- The schedule check of R287 over decision instants sorted in ascending order. -/
def scheduleOk (clock : Int) : List Int → Bool
  | [] => true
  | d :: ds =>
    let fin := max clock d + 250
    decide (fin ≤ d + 1372) && scheduleOk fin ds

/-- Insert a pending trigger in ascending order of D, after those of equal D (R287). -/
def insPending (x : Trig) : List Trig → List Trig
  | [] => [x]
  | y :: ys => if x.d < y.d then x :: y :: ys else y :: insPending x ys

/-- Tiles where a trigger places read marks, each with its count of trigger slices and whether the topology holds it, also
where a WIDTH of 0 leaves no fragment to copy (R284). -/
def State.markTiles (s : State) (p : Trig) : List (Nat × Nat × Bool) :=
  (List.range s.nTiles).filterMap (fun t =>
    let n := if bit p.flags 1 then 0 else (s.sliceCtxs t p.code p.arrAge).length
    let f := p.topo.getLsbD t
    if f || decide (n ≠ 0) then some (t, n, f) else none)

/-- The first reason for which a trigger is refused at its arrival (R286). -/
def State.arrivalReason (s : State) (p : Trig) (latency : Nat) : Option Nat :=
  let tiles := s.markTiles p
  if bits p.flags 3 2 ≠ 0 then some 1
  else if !bit (s.trgCap p.code) 16 then some 2
  else if 65528 < latency then some 3
  else if p.w0 / 8 < (p.arrAge : Int) - 8191 then some 4
  else if p.w0 < ((s.tb.openAge * 8 : Nat) : Int) then some 5
  else if s.pw.st ≠ .run ∨ s.dep.request.isSome then some 6
  else if s.lk.stallAge.isSome then some 7
  else if !scheduleOk (s.tb.age * 8 : Nat) ((insPending p s.eb.pending).map (·.d)) then some 8
  else if 256 ≤ s.eb.pending.length then some 9
  else if tiles.any (fun x => decide (512 ≤ (s.tile x.1).marks.length)) then some 10
  else if tiles.any (fun x => s.winExpired x.1 p.w0) then some 11
  else none

/-- The trigger that a command describes, arriving now (R277 to R282). -/
def State.trigOf (s : State) (b : Nat) : Trig :=
  let code := bits b 55 52
  let lat := trigLatency s.now.ns (bits b 23 0)
  let win := s.trgWin code
  let off := signed 16 win
  let width := bits win 27 16
  let w0 : Int := ((s.tb.age * 8 : Nat) : Int) - lat + off
  let cap := if bit b 48 then 0 else bits (s.trgCap code) 9 0
  { ord := s.eb.nextOrd, id := bits b 47 24, code := code, flags := bits b 51 48,
    start := s.now.addNs (off - lat), epoch := s.tb.epoch, arrAge := s.tb.age, w0 := w0, w1 := w0 + width,
    d := max ((s.tb.age * 8 : Nat) : Int) (w0 + width + 128),
    offset := BitVec.ofNat 16 win, width := width, cap := cap, topo := s.trgTopo code }

/-- Link-frame words of an event of `n` words (R288). -/
def linkWords (n : Nat) : Nat := n + 2 * ((n + 1023) / 1024)

/-- The event budget: what the guaranteed share carries in 8 µs (R290); the share is 0 while the uplink retrains (R311,
R354). -/
def State.budget (s : State) : Nat :=
  let full := match s.part, s.bracket with
    | .t1024, false => 49650
    | .t1024, true => 24825
    | .t256, false => 6200
    | .t256, true => 3100
  if s.lk.linkDown then 0 else full * s.fld 0x6000 3 0 / 16

/-- Words of event memory that are free (R289, R310). -/
def State.eventFree (s : State) : Nat := 262144 - (s.eb.events.map (·.size)).sum

/-- Buffer positions that a tile's accepted fragments and trigger slices have still to copy (R289, R310). -/
def State.copyBacklog (s : State) (t : Nat) : Nat :=
  let c := s.qCap t (s.lbq t)
  let fr := (s.eb.events.flatMap (·.frags)).filter (fun f => decide (f.tile = t) && !f.done && decide (f.resv ≠ 0))
  let gs := (s.tile t).ctxs.flatMap (fun p => p.2.gates)
  (fr.map (fun f => ringDist c f.pos f.last)).sum + (gs.map (fun g => ringDist c g.first g.last)).sum

/-- Copy work of a tile for a trigger (R289). -/
def State.copyWork (s : State) (p : Trig) (t : Nat) : Nat :=
  let w := s.trigSpan t p
  let n := (s.lbRange t w.1 w.2).length
  let k := if bit p.flags 1 then 0 else (s.sliceCtxs t p.code p.arrAge).length
  (if p.cap = 0 ∨ !p.topo.getLsbD t then 0 else n) + k * n

/-- The fragments of a trigger: none with a WIDTH of 0 (R288, R294). -/
def State.newFrags (s : State) (p : Trig) : List Frag :=
  if p.width = 0 then [] else (topoTiles p.topo).map (fun t =>
    let n := s.winCount t p
    let w := s.trigSpan t p
    { tile := t, count := n, resv := min n p.cap, pos := w.1, last := w.2 })

/-- Event size in words (R288). -/
def eventSize (fs : List Frag) : Nat := 5 + (fs.map (fun f => 1 + f.resv)).sum

/-- The first reason for which a trigger is refused at its decision (R289). -/
def State.decideReason (s : State) (p : Trig) (size : Nat) : Option Nat :=
  match p.doom with
  | some r => some r
  | none =>
    if s.pw.st ≠ .run then some 6
    else if s.eventFree < size then some 12
    else if s.budget < s.eb.backlog + linkWords size then some 13
    else if (topoTiles p.topo).any (fun t => decide (720 < s.copyBacklog t + s.copyWork p t)) then some 14
    else none

/-- The trigger's read mark in a tile is needed for `n` slices (R284). -/
def State.setSlices (s : State) (t ord n : Nat) : State :=
  let put := fun (m : Mark) => if m.owner = ord then { m with slices := n } else m
  s.modTile t (fun x => { x with marks := (x.marks.map put).filter (fun m => m.frag || decide (m.slices ≠ 0)) })

/-- Open the trigger gates of an accepted trigger (R185, R222, R223, R291). -/
def State.openGates (s : State) (p : Trig) : State :=
  if bit p.flags 1 then s
  else forKeys (List.range s.nTiles) (fun t s =>
    forKeys ((s.sliceCtxs t p.code p.arrAge).map (·.2)) (fun c s =>
      let w := s.trigSpan t p
      let gate := fun (x : Ctx) => (⟨p.ord, p.id, p.code, BitVec.ofNat 64 p.start.engine,
        BitVec.ofNat 64 (p.start.addNs p.width).engine, p.w0, p.w1, p.epoch, decide (4 ≤ x.opens - x.dels), w.1, w.2, p.start.s,
        false⟩ : Gate)
      s.modCtx t c (fun (x : Ctx) => { x with opens := x.opens + 1, gates := x.gates ++ [gate x] }))
      (s.setSlices t p.ord (s.sliceCtxs t p.code p.arrAge).length)) s

/-- A trigger without fragments leaves its read marks to its trigger slices (R263, R284, R288). -/
def State.fragless (s : State) (p : Trig) : State :=
  if p.width = 0 then
    let put := fun (m : Mark) => if m.owner = p.ord then { m with frag := false } else m
    forKeys (topoTiles p.topo) (fun t s => s.modTile t (fun x =>
      { x with marks := (x.marks.map put).filter (fun m => m.frag || decide (m.slices ≠ 0)) })) s
  else s

/-- Accept a trigger: its words are reserved and TACC is answered (R288, R289, R292). -/
def State.tacc (s : State) (p : Trig) (fs : List Frag) : State :=
  let size := eventSize fs
  let s := s.send 7 0 [answerRecord true p.id p.code 0 p.epoch size]
  (({ s with eb := { s.eb with
    tacc := (s.eb.tacc + 1) % 2 ^ 32, backlog := s.eb.backlog + linkWords size,
    events := s.eb.events ++ [({ trig := p, size := size, frags := fs, tacc := s.tb.age } : Event)] } }).openGates p).fragless p

/-! ### Fragments (R294 to R297) -/

/-- Change a fragment of the oldest event that still gathers from tile `t`, when `sel` picks it. -/
def updFrag (t : Nat) (sel : Frag → Bool) (f : Frag → Frag) : List Event → List Event
  | [] => []
  | e :: es =>
    if e.frags.any (fun x => decide (x.tile = t) && sel x) then
      { e with frags := e.frags.map (fun x => if x.tile = t ∧ sel x then f x else x) } :: es
    else e :: updFrag t sel f es

/-- The oldest event with a fragment of tile `t` that `sel` picks, and that fragment. -/
def findFrag (t : Nat) (sel : Frag → Bool) (es : List Event) : Option (Event × Frag) :=
  es.findSome? (fun e => (e.frags.find? (fun x => decide (x.tile = t) && sel x)).map (fun f => (e, f)))

/-- A fragment that is not complete: it counts, and the event-memory event sets (R295). -/
def State.fragMissing (s : State) (t : Nat) : State :=
  ({ s with eb := { s.eb with absent := satAdd 65535 s.eb.absent 1, absentTile := t } }).raise (chipSrc 15)

/-- The fragment is whole: its copy is counted, its mark released, and poison makes it incomplete (R295, R297). -/
def State.fragWhole (s : State) (t ord : Nat) : State :=
  let bad := match findFrag t (fun f => !f.done) s.eb.events with
    | some (_, f) => decide (f.poison ≠ 0)
    | none => false
  let s := { s with eb := { s.eb with
    events := updFrag t (fun f => !f.done) (fun f => { f with done := true, status := if f.poison = 0 then 0 else 1 }) s.eb.events } }
  let s := (s.modTile t (fun x => { x with roCnt := (x.roCnt + 1) % 2 ^ 32 })).useMark t ord true
  if bad then s.fragMissing t else s

/-- The fragment has no word left to copy: its reserved places are taken, by hits, and where the count is above the cap by
poisoned words too, or its range is at an end (R294, R297; log entry 133). -/
def Frag.full (f : Frag) : Bool :=
  decide (f.words.length + (if f.resv < f.count then f.poison else 0) = f.resv) || decide (f.pos = f.last)

/-- Copy one buffer position of a fragment (R294, R297). -/
def State.fragStep (s : State) (t : Nat) : State :=
  match findFrag t (fun f => !f.done) s.eb.events with
  | some (e, f) =>
    let q := s.lbq t
    if f.full then s.fragWhole t e.trig.ord
    else
      let age := (s.qWord t q f.pos).age
      let nxt := ringAdd (s.qCap t q) f.pos 1
      let (w, bad, s) := s.qRead t q f.pos
      let take := inWindow e.trig.w0 e.trig.w1 age w
      let upd := fun (f : Frag) => { f with
        pos := nxt
        words := if take && !bad then f.words ++ [w] else f.words
        poison := if bad then f.poison + 1 else f.poison }
      let s := { s with eb := { s.eb with events := updFrag t (fun f => !f.done) upd s.eb.events } }
      match findFrag t (fun f => !f.done) s.eb.events with
      | some (_, f) => if f.full then s.fragWhole t e.trig.ord else s
      | none => s
  | none => s

/-! ### Events (R298, R300, R301) -/

/-- The five header records of an event (R300). -/
def eventHeader (e : Event) : List W64 :=
  let p := e.trig
  let late := (e.frags.filter (fun f => decide (f.status ≠ 0))).map (fun f => 2 ^ f.tile)
  let map_ := late.sum
  let hd := fun (k : Nat) (fs : List (Nat × Nat × Nat)) => rec64 ([(61, 3, 5), (58, 3, k)] ++ fs)
  [hd 0 [(54, 4, p.code), (50, 4, p.flags), (46, 4, p.epoch), (20, 24, p.id), (0, 20, e.size)],
   hd 1 [(46, 12, p.width), (30, 16, p.offset.toNat), (0, 30, p.start.ns)],
   hd 2 [(51, 7, e.frags.length), (0, 32, p.start.s)],
   hd 3 [(0, 32, map_)],
   hd 4 [(0, 32, map_ / 2 ^ 32)]]

/-- The words of a fragment: header, hits, filler (R298, R301). -/
def fragWords (f : Frag) : List W64 :=
  fragmentHeader f.tile f.status (decide (f.resv < f.count)) (f.words.any (fun w => w.getLsbD 51)) f.resv f.words.length f.poison f.count ::
    (f.words ++ List.replicate (f.resv - f.words.length) 0)

/-- All words of an event (R298). -/
def eventWords (e : Event) : List W64 := eventHeader e ++ e.frags.flatMap fragWords

/-- Cut words into frames of at most `n`; `k` bounds the number of frames. -/
def chunks (n : Nat) : Nat → List W64 → List (List W64)
  | 0, _ => []
  | _, [] => []
  | k + 1, ws => ws.take n :: chunks n k (ws.drop n)

/-! ### Trigger slices (R222, R223, R297) -/

/-- A word on its way into a slice: with its tag, and whether it was read poisoned. -/
abbrev SliceWord := W64 × SliceTag × Bool

/-- Put a hit of a slice in key order; poisoned words keep their place behind the hit they follow. -/
def insSlice (x : SliceWord) : List SliceWord → List SliceWord
  | [] => [x]
  | y :: ys =>
    let a := x.2.1.item
    let b := y.2.1.item
    if !y.2.2 && (timeLt a.t b.t || (decide (a.t = b.t) && decide (fieldOf a.info 7 4 < fieldOf b.info 7 4))) then x :: y :: ys
    else y :: insSlice x ys

/-- A hit as an item of a context's slice, on the gate's second (R49, R212, R222). -/
def State.sliceItem (s : State) (t c : Nat) (g : Gate) (age : Nat) (w : W64) (lead : Bool) : Item :=
  let r := s.roles t c (fieldOf w 60 57) (w.getLsbD 55)
  ⟨hitTime g.secs w, hitInfo w r (w.getLsbD 52) lead, age⟩

/-- The role bits of a record in a context: 0 where the context does not select it. -/
def State.rolesOf (s : State) (t c : Nat) (w : W64) : Nat := s.roles t c (fieldOf w 60 57) (w.getLsbD 55)

/-- Buffer position of the lead-in of a source input: its last selected hit before the window start that the buffer still
holds (R222). -/
def State.leadPos (s : State) (t c : Nat) (g : Gate) (input : Nat) : Option Nat :=
  let x := s.queue t (s.lbq t)
  let lead := fun (i : Nat) =>
    let y := s.lbSeen t i
    if recType y.2 = 1 ∧ fieldOf y.2 60 57 = input ∧ hitNs y.1 y.2 < g.w0 ∧ s.rolesOf t c y.2 ≠ 0 then
      some (hitTime g.secs y.2, i)
    else none
  match (s.lbRange t x.rp x.rmark).filterMap lead with
  | [] => none
  | a :: rest => some (rest.foldl (fun b z => if timeLe b.1 z.1 then z else b) a).2

/-- Read one buffer position for a slice, with the parity check of every read: a poisoned word goes on into the slice
(R265, R266, R297). -/
def State.sliceRead (s : State) (t c : Nat) (g : Gate) (lead : Bool) (i : Nat) : SliceWord × State :=
  let age := (s.qWord t (s.lbq t) i).age
  let (w, bad, s) := s.qRead t (s.lbq t) i
  ((w, ⟨c, s.sliceItem t c g age w lead⟩, bad), s)

/-- The lead-ins at the given positions, read in turn (R222). -/
def State.sliceLeads (s : State) (t c : Nat) (g : Gate) : List Nat → List SliceWord × State
  | [] => ([], s)
  | i :: is =>
    let (x, s1) := s.sliceRead t c g true i
    let (xs, s2) := s1.sliceLeads t c g is
    (x :: xs, s2)

/-- The window's words of a slice, read from the latency buffer (R222, R297). -/
def State.sliceBody (s : State) (t c : Nat) (g : Gate) : List Nat → List SliceWord → List SliceWord × State
  | [], acc => (acc, s)
  | i :: is, acc =>
    let (x, s) := s.sliceRead t c g false i
    let acc := if x.2.2 then acc ++ [x]
      else if inWindow g.w0 g.w1 x.2.1.item.age x.1 && decide (s.rolesOf t c x.1 ≠ 0) then insSlice x acc
      else acc
    s.sliceBody t c g is acc

/-- The opening and closing words of a slice (R212, R213, R222, R223). -/
def gateWord (c : Nat) (g : Gate) (kind : Nat) (ovf : Bool) : SliceWord :=
  let t := if kind = 6 then g.t0 else g.t1
  let a := ((if kind = 6 then g.w0 else g.w1) / 8).toNat
  (Config.sliceWord kind, ⟨c, ⟨t, gateInfo kind ovf g.epoch g.code g.id, a⟩⟩, false)

/-- Commit the words of a slice to the input queue; a poisoned word goes in with its parity inverted (R297). -/
def State.putSlice (s : State) (t q : Nat) (ws : List SliceWord) : State :=
  let c := s.qCap t q
  let wp := (s.queue t q).wp
  let s := s.qPut t q s.tb.age (ws.map (fun w => (w.1, some w.2.1)))
  forKeys ((List.range ws.length).filter (fun i => (ws.map (·.2.2)).getD i false)) (fun i s =>
    let p := ringAdd c wp i
    let x := s.qWord t q p
    s.setQWord t q p { x with par := !x.par, mpar := !x.mpar }) s

/-- The slice of a context's first waiting gate is in INQ: the gate's mark use ends. -/
def State.sliceDone (s : State) (t c : Nat) (g : Gate) : State :=
  (s.modCtx t c (fun x => { x with gates := x.gates.tail })).useMark t g.owner false

/-! ### The commands -/

/-- TRIGGER (R277 to R287): the window is resolved, and the trigger is refused with TREF or waits for its decision with
its read marks placed. -/
def execTrigger (b : BitVec 56) (bad : Bool) (s : State) : Host.Outcome State Fault Refusal :=
  onChip s (fun s => s.onSlot bad (fun s =>
    if 12 ≤ bits b.toNat 55 52 then s
    else
      let p := s.trigOf b.toNat
      match s.arrivalReason p (trigLatency s.now.ns (bits b.toNat 23 0)) with
      | some r => s.tref p.id p.code r p.epoch
      | none =>
        let s := forKeys ((s.markTiles p).map (·.1)) (fun t s =>
          let n := if bit p.flags 1 then 0 else (s.sliceCtxs t p.code p.arrAge).length
          s.modTile t (fun x => { x with
            marks := x.marks ++ [{ owner := p.ord, pos := (s.winSpan t p.w0 p.w1).1, frag := p.topo.getLsbD t, slices := n }] })) s
        { s with eb := { s.eb with pending := insPending p s.eb.pending, nextOrd := s.eb.nextOrd + 1 } }))

/-- TRIGGER_DECIDE (R287 to R293): the pending trigger of least D is decided, at most one per 250 ns. -/
def execTriggerDecide (s : State) : Host.Outcome State Fault Refusal :=
  onChip s (fun s =>
    match s.eb.pending with
    | p :: rest =>
      let at_ := max (max s.eb.clock p.d) (s.tb.age * 8 : Nat)
      let s := s.advanceTo ((at_ + 7) / 8).toNat
      let s := { s with eb := { s.eb with pending := rest, clock := at_ + 250 } }
      let s := forKeys (topoTiles p.topo) (fun t s => s.scanReads t p) s
      let fs := s.newFrags p
      match s.decideReason p (eventSize fs) with
      | some r => (s.dropMarks p.ord).tref p.id p.code r p.epoch
      | none => s.tacc p fs
    | [] => s)

/-- FRAGMENT_COPY (R294, R296, R297): the tile copies up to so many buffer positions of its oldest fragment; words of a
fragment past its deadline are discarded and counted. -/
def execFragmentCopy (t : Nat) (words : Nat) (s : State) : Host.Outcome State Fault Refusal :=
  onTile t s (fun s =>
    if !(s.tile t).powered || (s.tile t).inReset then s
    else
      let tardy := fun (f : Frag) => f.done && decide (2 ≤ f.status) && !f.late
      match findFrag t (fun f => tardy f || !f.done) s.eb.events with
      | some (_, f) =>
        if f.done then
          { s with eb := { s.eb with
            late := satAdd 1023 s.eb.late 1
            events := updFrag t tardy (fun f => { f with late := true }) s.eb.events } }
        else
          let ord := ((findFrag t (fun f => !f.done) s.eb.events).map (fun p => p.1.trig.ord)).getD 0
          forKeys (List.range (max 1 (min words 1024))) (fun _ s =>
            match findFrag t (fun f => !f.done) s.eb.events with
            | some (e, _) => if e.trig.ord = ord then s.fragStep t else s
            | none => s) s
      | none => s)

/-- FRAGMENT_DEADLINE (R295, R296): 8 µs after TACC the tile's unfinished fragment is reported not complete. -/
def execFragmentDeadline (t : Nat) (s : State) : Host.Outcome State Fault Refusal :=
  onTile t s (fun s =>
    match findFrag t (fun f => !f.done) s.eb.events with
    | some (e, f) =>
      let s := s.advanceTo (e.tacc + 1000)
      let st := if (s.tile t).inReset then 4 else if f.words.isEmpty then 3 else 2
      let s := { s with eb := { s.eb with
        events := updFrag t (fun f => !f.done) (fun f => { f with done := true, status := st }) s.eb.events } }
      (s.useMark t e.trig.ord true).fragMissing t
    | none => s)

/-- EVENT_SEND (R293, R298): the oldest accepted event not yet handed over goes to the event stream, in frames of up to
1,024 words; an uncorrectable word of event memory goes as filler (R442). -/
def execEventSend (s : State) : Host.Outcome State Fault Refusal :=
  onChip s (fun s =>
    match s.eb.events.find? (fun e => !e.sent) with
    | some e =>
      if e.frags.all (·.done) then
        let ws := eventWords e
        let bad := (List.range ws.length).filter (fun i => s.bad2 .event i 1)
        let ws := (List.range ws.length).map (fun i => if bad.contains i then 0 else ws.getD i 0)
        let s := forKeys bad (fun i s => (s.uncorrectable).clear2 .event i 1) s
        let fs := chunks 1024 (ws.length + 1) ws
        let x := s.stream 1 0
        let s := s.setStream 1 0 { x with wait := x.wait ++ fs.map (fun w => { words := w, ev := e.trig.ord }) }
        { s with eb := { s.eb with
          events := s.eb.events.map (fun y => if y.trig.ord = e.trig.ord then { y with sent := true, unacked := fs.length } else y) } }
      else s
    | none => s)

/-- TRIGGER_SLICE_COPY (R222, R223, R297): the slice of the context's first waiting gate goes into INQ; shrunk when four
gates stood open or INQ refuses part of it, and held while INQ has no room for the shrunken one. -/
def execTriggerSliceCopy (t c : Nat) (s : State) : Host.Outcome State Fault Refusal :=
  onCtx t c s (fun s =>
    match (s.ctx t c).gates, (List.range 9).find? (fun e => (s.eng t e).ctxs.contains c) with
    | g :: _, some e =>
      if !(s.tile t).powered || (s.tile t).inReset then s
      else
        let q := s.inq t e
        let small := [gateWord c g 6 true, gateWord c g 7 false]
        let wait := fun (x : Ctx) => { x with gates := match x.gates with
          | g :: gs => { g with ovf := true, held := true } :: gs
          | [] => [] }
        let shrink := fun (s : State) (refused : Bool) =>
          if s.qFits t q 2 then (s.putSlice t q small).sliceDone t c g
          else (if refused then s else s.qRefuse t q 2).modCtx t c wait
        if g.ovf then shrink s g.held
        else
          let inputs := (s.dsc t c 12 8 :: (if usesB (s.func t c) (s.dsc t c 43 40) (s.dsc t c 17 13) then [s.dsc t c 17 13] else [])).dedup
          let (leads, s) := s.sliceLeads t c g (inputs.filterMap (s.leadPos t c g))
          let (body, s) := s.sliceBody t c g (s.lbRange t g.first g.last) []
          let ws := gateWord c g 6 false :: (leads ++ body ++ [gateWord c g 7 false])
          if s.qFits t q ws.length then (s.putSlice t q ws).sliceDone t c g
          else shrink (s.qRefuse t q ws.length) true
    | _, _ => s)

end Sys2Proof.Machine
end

