-- ==== Sys2Proof/Machine/Links.lean ====
section
/-! DEFINITION. The links (R313 to R360): downlink receiver, fast commands, lanes, the order of frames, replay and
acknowledgement, result frames, pauses and stalls. -/

namespace Sys2Proof.Machine

open Sys2Proof

/-! ### Lanes (R329, R336) -/

/-- The part and the power state use the lane (R6, R329, R356). -/
def State.usedLane (s : State) (l : Nat) : Bool := decide (l < s.nLanes) && (!s.lk.darkRate || decide (l = 0))

/-- Lanes work in pairs: Bracket mode at full rate (R336, R357). -/
def State.pairs (s : State) : Bool := s.bracket && !s.lk.darkRate

/-- The lane that holds the frames of a lane: the even one of its pair (R336). -/
def State.leadOf (s : State) (l : Nat) : Nat := if s.pairs then l - l % 2 else l

/-- Lanes that hold frames. -/
def State.leads (s : State) : List Nat := (List.range 8).filter (fun l => s.usedLane l && decide (s.leadOf l = l))

/-- Lane `l`. -/
def State.lane (s : State) (l : Nat) : Lane := mapGet (fun _ => {}) s.lk.lanes l

/-- Change lane `l`. -/
def State.modLane (s : State) (l : Nat) (f : Lane → Lane) : State :=
  { s with lk := { s.lk with lanes := mapSet (fun _ => {}) s.lk.lanes l (f (s.lane l)) } }

/-- State of a lane: one that is not used, or held in POR or RESET_N, is in electrical idle (R329, R494). -/
def State.laneSt (s : State) (l : Nat) : LaneState :=
  if s.usedLane l && !(decide (s.phase = .porHeld) || decide (s.phase = .rstHeld)) then (s.lane l).st else .idleElec

/-- A lane, or one lane of its pair, is UP. -/
def State.leadUp (s : State) (l : Nat) : Bool :=
  decide (s.laneSt l = .up) || (s.pairs && decide (s.laneSt (l + 1) = .up))

/-- Some lane is UP. -/
def State.anyUp (s : State) : Bool := s.leads.any s.leadUp

/-- The lanes of a lead lane. -/
def State.members (s : State) (l : Nat) : List Nat := if s.pairs then [l, l + 1] else [l]

/-- Replay words of a frame: header, payload and trailer for classes 0x02 to 0x07, none for events (R344, R358). -/
def Frame.replayWords (f : Frame) : Nat := if f.cls = 1 then 0 else f.words.length + 2

/-- Words of the replay memory in use (R344, R358). -/
def State.replayUsed (s : State) : Nat :=
  (s.lk.lanes.map (fun p => (p.2.unack.map (fun u => u.frame.replayWords)).sum)).sum

/-! ### Blocks (R327 to R329) -/

/-- A block on an uplink lane: its two-bit sync header and its 64 bits (R327). -/
structure Block where
  sync : BitVec 2
  bits : W64
  deriving DecidableEq, Repr

/-- A data block carries one word of a link frame (R327). -/
def dataBlock (w : W64) : Block := ⟨0b01, w⟩

/-- The IDLE control block (R327). -/
def idleBlock : Block := ⟨0b10, 0x2D⟩

/-- The TRAIN control block of a lane at a rate: 1 for 25.6, 2 for 12.8, 3 for 1.25 Gb/s (R327). -/
def trainBlock (lane rate : Nat) : Block := ⟨0b10, rec64 [(0, 8, 0x4B), (8, 8, lane), (16, 8, rate)]⟩

/-- RATE of the TRAIN blocks at the present rate of the part (R313, R327). -/
def State.rateCode (s : State) : Nat :=
  if s.lk.darkRate then 3 else match s.part with
    | .t1024 => 1
    | .t256 => 2

/-- What a lane sends while no frame goes out on it: TRAIN blocks in TRAIN, IDLE blocks in UP, nothing in DOWN and in
electrical idle (R328, R329, R354). -/
def State.restBlock (s : State) (l : Nat) : Option Block :=
  match s.laneSt l with
  | .train => some (trainBlock l s.rateCode)
  | .up => some idleBlock
  | .down => none
  | .idleElec => none

/-- The blocks of a frame on a lane: the IDLE block that the lane owes, then header, payload and trailer as consecutive data
blocks (R328 to R330, R346). -/
def Lane.frameBlocks (x : Lane) (f : Frame) (lseq : Nat) : List Block :=
  (if x.idle then [idleBlock] else []) ++ (f.sentWords lseq).map dataBlock

/-- How many blocks a frame of `n` payload words takes on the lane. -/
def Lane.blockCount (x : Lane) (n : Nat) : Nat := n + 2 + b2n x.idle

/-- Slots that a lane takes for `n` blocks, 66 bits each (R313, R327). -/
def State.txSlots (s : State) (n : Nat) : Nat :=
  if s.lk.darkRate then (n * 66 + 9) / 10
  else match s.part with
    | .t1024 => (n * 165 + 511) / 512
    | .t256 => (n * 165 + 255) / 256

/-- Slot age at which a lane's transmitter is free. -/
def Lane.free (x : Lane) : Nat := (x.unack.map (·.sent)).foldl max 0

/-! ### Stream restart (R500, R501) -/

/-- A restart marker. -/
def isRestart (w : Wait) : Bool :=
  match w.words with
  | [v] => decide (recType v = 4) && decide (recCode v = 6)
  | _ => false

/-- The marker of a reset now. -/
def State.restartWord (s : State) (cause tile eng : Nat) : W64 := restartMarker cause tile eng s.tb.epoch s.boot

/-- Put a restart frame ahead of every other new frame of a stream, behind earlier restart frames. -/
def State.restartOn (s : State) (cls idx : Nat) (v : W64) : State :=
  let x := s.stream cls idx
  s.setStream cls idx { x with wait := x.wait.takeWhile isRestart ++ { words := [v] } :: x.wait.dropWhile isRestart }

/-- Restart frames on the streams of classes 0x03 to 0x07. -/
def State.restartTier1 (s : State) (v : W64) : State := forKeys [3, 4, 5, 6, 7] (fun c s => s.restartOn c 0 v) s

/-- Restart frames on the event stream and the result streams in use. -/
def State.restartData (s : State) (v : W64) : State :=
  forKeys s.resultIndices (fun i s => s.restartOn 2 i v) (s.restartOn 1 0 v)

/-- The restart frames of a reset; streams whose frames of POR or RESET_N are still to come get none of their own. -/
def State.restartAll (s : State) (cause tile eng : Nat) : State :=
  let v := s.restartWord cause tile eng
  let s := if s.lk.restartOwed.isNone then s.restartTier1 v else s
  if s.lk.lateRestart.isNone then s.restartData v else s

/-- The image comes into force: event and result streams get their restart frames of POR or RESET_N. -/
def State.imageRestart (s : State) : State :=
  match s.lk.lateRestart with
  | some c =>
    let s := s.restartData (s.restartWord c 0 0)
    { s with lk := { s.lk with lateRestart := none } }
  | none => s

/-- EPOCH of a restart marker is the one in force when it is sent (R501). -/
def State.atSending (s : State) (w : W64) : W64 :=
  if recType w = 4 ∧ recCode w = 6 then (w &&& ~~~(0x000003C000000000 : W64)) ||| (BitVec.ofNat 64 s.tb.epoch <<< 38) else w

/-! ### Lane changes (R329, R347, R354) -/

/-- Every unacknowledged frame of a lane that was not UP waits to be resent, a wait that counts for no stall (R347, R351). -/
def Lane.resendAll (x : Lane) : Lane := { x with unack := x.unack.map (fun u => { u with waiting := true, exempt := true }) }

/-- One IDLE block, then a resend from an LSEQ on (R346). -/
def Lane.resendFrom (x : Lane) (ge : Nat → Bool) : Lane :=
  { x with unack := x.unack.map (fun u => if ge u.lseq then { u with waiting := true } else u), idle := true }

/-- The host is reachable again: the first UP lane ends LINKDOWN, sends the restart frames that POR or RESET_N owes, and
delivers the empty notices held for the host (R311, R465, R500). -/
def State.linkUp (s : State) : State :=
  if !s.anyUp then s
  else
    let s := match s.lk.restartOwed with
      | some c => s.restartTier1 (s.restartWord c 0 0)
      | none => s
    let s := if s.lk.hostReset then
        forKeys ((List.range 96).filter (fun ch => hostSends ch && (s.slot ch).held)) (fun ch s =>
          (s.notice ch true).setSlot ch { s.slot ch with held := false }) s
      else s
    { s with lk := { s.lk with linkDown := false, restartOwed := none, hostReset := false } }

/-- Put a lane into a state. -/
def State.putLane (s : State) (l : Nat) (st : LaneState) : State := s.modLane l (fun x => { x with st := st })

/-- The uplink retrains when no lane is UP any more, once it has been UP (R311). -/
def State.noteDown (s : State) : State :=
  if !s.anyUp && s.lk.restartOwed.isNone then { s with lk := { s.lk with linkDown := true } } else s

/-- Every used lane goes to TRAIN, or to DOWN while the link PLL is unlocked (R329, R355, R359). -/
def State.trainAll (s : State) : State :=
  (forKeys ((List.range 8).filter s.usedLane) (fun l s => s.putLane l (if s.lk.pllLock then .train else .down)) s).noteDown

/-! ### Refused fast commands, responses (R318, R326) -/

/-- A fast command is refused (R318). -/
def State.refuseFast (s : State) : State := { s with lk := { s.lk with dnRefused := satAdd 65535 s.lk.dnRefused 1 } }

/-- Answer a control frame (R324, R326, R358). -/
def State.respond (s : State) (h : CtlHead) (status first : Nat) (data : List W64) : State :=
  let s := s.sendOwn 4 0 (responseRecord h.tag.toNat h.op.toNat status h.len.toNat first :: data)
  if status = 0 then s
  else { s with lk := { s.lk with cfCnt := satAdd 65535 s.lk.cfCnt 1, cfStatus := status, cfTag := h.tag.toNat } }

/-- A frame cut by a link reset or a device soft reset is answered once with status 2 (R324). -/
def State.cutFrame (s : State) : Option CtlHead → State
  | some h => s.respond h 2 1023 []
  | none => s

/-! ### Pauses and stalls (R349 to R351) -/

/-- FCI input `k` maps the stream (R349). -/
def State.fciMaps (s : State) (k cls idx : Nat) : Bool :=
  if cls = 1 then bit (s.rv (0x3040 + 16 * k)) 0
  else decide (cls = 2) && (if idx % 64 < 32 then bit (s.rv (0x3044 + 16 * k)) (idx % 64) else bit (s.rv (0x3048 + 16 * k)) (idx % 64 - 32))

/-- FCI input `k` maps some stream. -/
def State.fciMapsAny (s : State) (k : Nat) : Bool :=
  bit (s.rv (0x3040 + 16 * k)) 0 || decide (s.rv (0x3044 + 16 * k) ≠ 0) || decide (s.rv (0x3048 + 16 * k) ≠ 0)

/-- The slot age at which FCI input `k` rose, while it is high. -/
def State.fciHigh (s : State) (k : Nat) : Option Nat := mapGet (fun _ => none) s.lk.fci k

/-- The pause of a stream: the slot age at which its duration expires. -/
def State.pauseOf (s : State) (cls idx : Nat) : Option Nat := mapGet (fun _ => none) s.lk.paused (streamKey cls idx)

/-- The stream is paused (R349, R350). -/
def State.isPaused (s : State) (cls idx : Nat) : Bool :=
  (s.pauseOf cls idx).isSome || (List.range 4).any (fun k => (s.fciHigh k).isSome && s.fciMaps k cls idx)

/-- A frame is unacknowledged more than 50 µs after its latest transmission, on a lane that is UP, and does not wait because
its lane was not (R351). -/
def State.ackLate (s : State) : Bool :=
  s.leads.any (fun l => s.leadUp l && (s.lane l).unack.any (fun u => !u.exempt && decide (u.sent + 6250 < s.tb.age)))

/-- A stall condition holds (R351). -/
def State.stallNow (s : State) : Bool :=
  s.ackLate || s.lk.paused.any (fun p => match p.2 with
    | some a => decide (a < s.tb.age)
    | none => false) ||
  (List.range 4).any (fun k => s.fciMapsAny k && (match s.fciHigh k with
    | some a => decide (a + s.fld (0x3040 + 16 * k) 31 16 * 125 < s.tb.age)
    | none => false))

/-- A stall starts: it is counted and the stall event is raised (R351). -/
def State.stall (s : State) : State :=
  if s.stallNow && s.lk.stallAge.isNone then
    ({ s with lk := { s.lk with stallAge := some s.tb.age, stalls := satAdd 65535 s.lk.stalls 1 } }).raise (chipSrc 13)
  else s

/-- R333 issues the stream on the part, with its configuration (R350). -/
def State.issued (s : State) (cls idx : Nat) : Bool :=
  if cls = 1 then decide (idx = 0)
  else decide (cls = 2) && (if idx < 64 then decide (idx < s.nTiles) else decide (idx < 64 + s.nTiles) && s.packOn (idx - 64))

/-! ### Result frames (R337 to R342) -/

/-- The payload of a result frame: code bytes fill whole words, unused bytes 0 (R341). -/
def OpenFrame.payload (f : OpenFrame) : List W64 :=
  f.words ++ ((List.range ((f.bytes.length + 7) / 8)).map (fun k => BitVec.ofNat 64 (leNat ((f.bytes.drop (8 * k)).take 8))))

/-- Close the open frame of a result stream (R338). -/
def State.closeFrame (s : State) (i : Nat) : State :=
  let x := s.stream 2 i
  match x.opened with
  | some f => s.setStream 2 i { x with opened := none, wait := x.wait ++ [{ words := f.payload }] }
  | none => s

/-- The bytes of a code word for the delta `d` with its flags (R341). -/
def codeWord (d : Int) (cs st : Bool) : List Byte :=
  let z : Nat := if 0 ≤ d then (2 * d).toNat else (-2 * d - 1).toNat
  let n := ((List.range 9).find? (fun n => decide (z < 256 ^ n))).getD 8
  BitVec.ofNat 8 (n + 1 + 16 * b2n cs + 32 * b2n st) :: leBytes n z

/-- The header follows the previous item's: GSEQ one greater, CS and ST free, all else equal (R341). -/
def follows (h prev : W64) : Bool :=
  decide (h &&& ~~~(0x30FFFFFFFF : W64) = prev &&& ~~~(0x30FFFFFFFF : W64)) &&
    decide (fieldOf h 31 0 = (fieldOf prev 31 0 + 1) % 2 ^ 32)

/-- One packet into a packed stream (R341, R342). -/
def State.packItem (s : State) (i : Nat) (ws : List W64) (clean : Bool) : State :=
  let x := s.stream 2 i
  let alone := fun (s : State) => (s.closeFrame i).sendOwn 2 i ws
  let start := fun (s : State) (h v : W64) =>
    s.setStream 2 i { s.stream 2 i with opened := some { words := [h, v], ref := some (h, v), since := s.tb.age } }
  match ws with
  | [h, v] =>
    if !clean || recType h ≠ 2 then alone s
    else match x.opened with
      | none => start s h v
      | some f =>
        match f.ref with
        | some (ph, pv) =>
          if !follows h ph then alone s
          else
            let b := codeWord (v - pv).toInt (h.getLsbD 37) (h.getLsbD 36)
            if f.bytes.length + b.length ≤ 8176 then
              s.setStream 2 i { x with opened := some { f with bytes := f.bytes ++ b, ref := some (h, v) } }
            else start (s.closeFrame i) h v
        | none => start (s.closeFrame i) h v
  | _ => alone s

/-- One packet into a plain stream; a frame that it would take above 1,024 words closes first (R337, R338). -/
def State.plainPacket (s : State) (i : Nat) (ws : List W64) : State :=
  let s := match (s.stream 2 i).opened with
    | some f => if 1024 < f.words.length + ws.length then s.closeFrame i else s
    | none => s
  let x := s.stream 2 i
  let f := match x.opened with
    | some f => { f with words := f.words ++ ws }
    | none => { words := ws, since := s.tb.age }
  s.setStream 2 i { x with opened := some f }

/-- Take the packet at RP of a DRAIN queue: its words, with its poison record where one is needed, and whether it is
clean (R259, R265, R267). -/
def State.claimPacket (s : State) (t q : Nat) : List W64 × Bool × State :=
  let n := s.packetLen t q
  let (ws, s) := s.qReads t q (s.queue t q).rp n
  let bad := (List.range n).filter (fun i => (ws.map (·.2)).getD i false)
  let s := s.qTake t q n
  let rec_ := match bad with
    | b :: _ => [poisonRecord q b bad.length n]
    | [] => []
  (ws.map (·.1) ++ rec_, bad.isEmpty, s)

/-- The queue that the reader of a plain stream takes next: its DRAIN queues that hold a packet, in turn (R337). -/
def State.nextDrain (s : State) (t : Nat) : Option Nat :=
  let from_ := (s.stream 2 t).round
  let packedQ := if s.packOn t then some (s.tfld t 0x80 7 0) else none
  let ok := fun (q : Nat) => s.qDrain t q && decide (s.qCap t q ≠ 0) && decide (packedQ ≠ some q) && decide (s.qCommitted t q ≠ 0)
  let qs := List.range 256
  match (qs.filter (fun q => decide (from_ ≤ q))).find? ok with
  | some q => some q
  | none => qs.find? ok

/-- The uplink takes a result stream now: a lane is UP, at full rate, the stream is not paused, and the replay memory has room
for a whole frame (R260, R338, R344, R357; log entry 136). -/
def State.takesResults (s : State) (i : Nat) : Bool :=
  s.anyUp && !s.lk.darkRate && !s.isPaused 2 i && decide (s.replayUsed + 1026 ≤ 131072)

/-! ### Transmission (R328 to R335, R344) -/

/-- Payload words that the uplink carries in 10 µs, over 128 (R313, R334). -/
def State.tier1Share (s : State) : Nat :=
  let perLane := if s.lk.darkRate then 1250 * 10 / 66 else match s.part with
    | .t1024 => 1250 * 512 / 165
    | .t256 => 1250 * 256 / 165
  s.leads.length * perLane / 128

/-- Words of the first tier whose transmission began in the last 10 µs (R334). -/
def State.tier1Words (s : State) : Nat :=
  ((s.lk.tier1.filter (fun p => decide (s.tb.age < p.1 + 1250))).map (·.2)).sum

/-- A frame of the first tier starts: its words count for 10 µs (R334). -/
def State.noteTier1 (s : State) (f : Frame) : State :=
  if 3 ≤ f.cls then
    { s with lk := { s.lk with
      tier1 := s.lk.tier1.filter (fun p => decide (s.tb.age < p.1 + 1250)) ++ [(s.tb.age, f.words.length + 2)] } }
  else s

/-- Send a frame for the first time on a lane (R328, R331, R344, R351). -/
def State.sendFrame (s : State) (l : Nat) (f : Frame) : State :=
  let a := s.tb.age + s.txSlots ((s.lane l).blockCount f.words.length)
  (s.noteTier1 f).modLane l (fun x => { x with
    next := (x.next + 1) % 2 ^ 24
    unack := x.unack ++ [{ lseq := x.next, frame := f, sent := a }]
    idle := false })

/-- The records that join a frame: those ready at the same age, up to 1,024 words (R330, R334). -/
def gatherMore (ready : Option Nat) : List W64 → List Wait → List W64 × List Wait
  | acc, [] => (acc, [])
  | acc, w :: ws =>
    if w.ready = ready ∧ ready.isSome ∧ acc.length + w.words.length ≤ 1024 then gatherMore ready (acc ++ w.words) ws
    else (acc, w :: ws)

/-- The words of a stream's next frame, and the payloads that wait behind it (R334). -/
def gather : List Wait → List W64 × List Wait
  | [] => ([], [])
  | w :: ws => gatherMore w.ready w.words ws

/-- The next frame of a stream, and the payloads that wait behind it. -/
def State.nextFrame (s : State) (cls idx : Nat) : Option (Frame × List Wait) :=
  let x := s.stream cls idx
  match x.wait with
  | [] => none
  | w :: _ =>
    let g := gather x.wait
    some ({ cls := cls, idx := idx, seq := x.seq, words := g.1.map s.atSending, ev := w.ev }, g.2)

/-- Transmit the next frame of a stream on a lane (R25, R331). -/
def State.sendNext (s : State) (l cls idx : Nat) : State :=
  match s.nextFrame cls idx with
  | some (f, rest) =>
    let s := s.sendFrame l f
    let x := s.stream cls idx
    let s := s.setStream cls idx { x with seq := (x.seq + 1) % 2 ^ 32, wait := rest }
    if cls = 1 ∧ f.ev ≠ 0 then { s with eb := { s.eb with backlog := s.eb.backlog - (f.words.length + 2) } } else s
  | none => s

/-- A stream has a frame that can start on a lane now: not paused, room in the replay memory, and the lane may carry its
class (R335, R344, R357). -/
def State.canSend (s : State) (l cls idx : Nat) : Bool :=
  match s.nextFrame cls idx with
  | some (f, _) =>
    !s.isPaused cls idx && decide (s.replayUsed + f.replayWords ≤ 131072) && (decide (cls ≠ 5) || decide (l = 0)) &&
      (decide (3 ≤ cls) || !s.lk.darkRate)
  | none => false

/-- Result streams in the order of their turns (R334). -/
def State.resultTurns (s : State) : List Nat :=
  let is := (List.range 128)
  is.filter (fun i => decide (s.lk.turn ≤ i)) ++ is.filter (fun i => decide (i < s.lk.turn))

/-- The first tier may take a lane now: its next frame stays within 1/128 of the payload of 10 µs, or no frame of the other
tiers is ready (R334; log entry 113). -/
def State.tier1Goes (s : State) (l c : Nat) : Bool :=
  let n := match s.nextFrame c 0 with
    | some (f, _) => f.words.length + 2
    | none => 0
  decide (s.tier1Words + n ≤ s.tier1Share) || !(s.canSend l 1 0 || (List.range 128).any (fun i => s.canSend l 2 i))

/-- Send a new frame on a lane, by the tiers of R334. -/
def State.sendNew (s : State) (l : Nat) : State :=
  match [3, 4, 5, 6, 7].find? (fun c => s.canSend l c 0 && s.tier1Goes l c) with
  | some c => s.sendNext l c 0
  | none =>
    let ev := s.canSend l 1 0
    let res := s.resultTurns.find? (fun i => s.canSend l 2 i)
    let size := fun (cls idx : Nat) => match s.nextFrame cls idx with
      | some (f, _) => f.words.length + 2
      | none => 0
    match ev, res with
    | true, none =>
      let s := s.sendNext l 1 0
      { s with lk := { s.lk with evSent := 0, allSent := 0 } }
    | false, none => s
    | e, some i =>
      if e && decide (s.lk.evSent * 8 ≤ s.fld 0x6000 3 0 * s.lk.allSent) then
        let n := size 1 0
        let s := s.sendNext l 1 0
        { s with lk := { s.lk with evSent := s.lk.evSent + n, allSent := s.lk.allSent + n } }
      else
        let n := size 2 i
        let s := s.sendNext l 2 i
        { s with lk := { s.lk with
          turn := (i + 1) % 128, evSent := if e then s.lk.evSent else 0, allSent := if e then s.lk.allSent + n else 0 } }

/-- Word address in the replay memory that stands for a held frame (log entry 14). -/
def replayAddr (l lseq : Nat) : Nat := l * 2 ^ 24 + lseq

/-- Count a frame as acknowledged; the last frame of an event frees its event memory (R344). -/
def State.frameDone (s : State) (f : Frame) : State :=
  if f.cls = 1 ∧ f.ev ≠ 0 then
    let es := s.eb.events.map (fun e => if e.trig.ord = f.ev then { e with unacked := e.unacked - 1 } else e)
    { s with eb := { s.eb with events := es.filter (fun e => !(e.sent && decide (e.unacked = 0))) } }
  else s

/-- Resend a held frame with its LSEQ; one with an uncorrectable word is sent with its CRC word inverted and counts as
acknowledged (R346, R442). -/
def State.resend (s : State) (l : Nat) (u : Unacked) : State :=
  let m := replayAddr l u.lseq
  if u.frame.cls ≠ 1 ∧ s.bad2 .replay m 1 then
    let s := (s.uncorrectable).clear2 .replay m 1
    (s.modLane l (fun x => { x with unack := x.unack.filter (fun v => v.lseq ≠ u.lseq) })).frameDone u.frame
  else
    let a := s.tb.age + s.txSlots ((s.lane l).blockCount u.frame.words.length)
    (s.noteTier1 u.frame).modLane l (fun x => { x with
      unack := x.unack.map (fun v => if v.lseq = u.lseq then { v with waiting := false, exempt := false, sent := a } else v)
      idle := false })

/-- The frame that a lane resends next: the oldest that waits there, of a stream that is not paused (R346, R349). -/
def State.resendNext (s : State) (l : Nat) : Option Unacked :=
  (s.lane l).unack.find? (fun u => u.waiting && !s.isPaused u.frame.cls u.frame.idx)

/-- The lane that takes the next new frame: UP, with nothing to resend, and the first whose transmitter is free, ties to the
lower lane (R335, R346; log entry 135). -/
def State.nextLane (s : State) : Option Nat :=
  let at_ := fun (l : Nat) => max s.tb.age (s.lane l).free
  match s.leads.filter (fun l => s.leadUp l && (s.resendNext l).isNone) with
  | [] => none
  | l :: ls => some (ls.foldl (fun a b => if at_ b < at_ a then b else a) l)

/-- A frame that waits on a lane that is not UP, and may go on lane `l` (R346). -/
def State.stranded (s : State) (l : Nat) : Option (Nat × Unacked) :=
  (s.lk.lanes.filter (fun p => !s.leadUp p.1)).findSome? (fun p =>
    (p.2.unack.find? (fun u => u.waiting && (decide (u.frame.cls ≠ 5) || decide (l = 0)) &&
      !s.isPaused u.frame.cls u.frame.idx)).map (fun u => (p.1, u)))

/-- Send a frame that is not a resend on the lane that is next: first frames of lanes that are not UP, then a new one (R334,
R346). -/
def State.sendFresh (s : State) (l : Nat) : State :=
  match s.stranded l with
  | some (k, u) =>
    (s.modLane k (fun x => { x with unack := x.unack.filter (fun v => v.lseq ≠ u.lseq) })).sendFrame l u.frame
  | none => s.sendNew l

/-- Start one frame on a lane: a resend first, then the frames that go to the lane under R335; lane 0 sends class 0x05 also
where another lane is the next one (R334, R346, R347). -/
def State.transmit (s : State) (l : Nat) : State :=
  if !(s.leads.contains l && s.leadUp l) then s
  else
    let go := s.advanceTo (s.lane l).free
    match s.resendNext l with
    | some u => go.resend l u
    | none =>
      if s.nextLane = some l then go.sendFresh l
      else if decide (l = 0) && s.canSend 0 5 0 && s.tier1Goes 0 5 then go.sendNext 0 5 0
      else s

/-! ### LINK operations (R318, R336, R345 to R347) -/

/-- Signed difference of two LSEQ values (R345). -/
def lseqDiff (a b : Nat) : Int := signed 24 (a + 2 ^ 24 - b % 2 ^ 24)

/-- A LINK operation on a lane: refused with a reserved bit set, for an odd lane of a pair and for a lane not in use
(R318, R336). -/
def State.onLane (s : State) (b : BitVec 48) (reserved : Nat) (f : Nat → State → State) : State :=
  let l := bits b.toNat 47 45
  if Nat.land b.toNat reserved ≠ 0 ∨ !s.usedLane l ∨ s.leadOf l ≠ l then s.refuseFast else f l s

/-- The LSEQ names a frame of the lane that has been sent and is not acknowledged (R345). -/
def State.awaits (s : State) (l lseq : Nat) : Bool :=
  decide (0 < lseqDiff lseq (s.lane l).ack) && decide (lseqDiff lseq (s.lane l).next < 0)

/-- An ACK or NAK is ignored and counted (R345). -/
def State.ignoreAck (s : State) : State := { s with lk := { s.lk with ignCnt := satAdd 65535 s.lk.ignCnt 1 } }

/-- ACK of a lane (R344, R345). -/
def State.ackLane (s : State) (l lseq : Nat) : State :=
  if s.awaits l lseq then
    let gone := (s.lane l).unack.filter (fun u => decide (lseqDiff u.lseq lseq ≤ 0))
    let s := s.modLane l (fun x => { x with ack := lseq, unack := x.unack.filter (fun u => !decide (lseqDiff u.lseq lseq ≤ 0)) })
    gone.foldl (fun s u => s.frameDone u.frame) s
  else s.ignoreAck

/-- NAK of a lane (R346). -/
def State.nakLane (s : State) (l lseq : Nat) : State :=
  if s.awaits l lseq then
    let s := { s with lk := { s.lk with nakCnt := satAdd 65535 s.lk.nakCnt 1 } }
    s.modLane l (fun x => x.resendFrom (fun k => decide (0 ≤ lseqDiff k lseq)))
  else s.ignoreAck

/-- LANE_UP: the training lanes go UP with one IDLE block; unless one was UP already, every unacknowledged frame is resent
(R329, R347). -/
def State.upLane (s : State) (l : Nat) : State :=
  let ms := (s.members l).filter (fun k => decide (s.laneSt k = .train))
  let was := s.leadUp l
  let s := forKeys ms (fun k s => s.putLane k .up) s
  let s := if !was && s.leadUp l then s.modLane l (fun x => { x.resendAll with idle := true }) else s
  s.linkUp

/-- RETRAIN: the lane or the pair goes back to TRAIN (R329). -/
def State.retrainLane (s : State) (l : Nat) : State :=
  if s.lk.pllLock then (forKeys (s.members l) (fun k s => s.putLane k .train) s).noteDown else s

/-! ### Resets that the links share (R355, R463, R473) -/

/-- A generation after the next rise (R463). -/
def genNext (g : BitVec 8) : BitVec 8 := if g = 255 then 1 else g + 1

/-- SEC_CHAL takes a new value and SEC_CNT becomes 0 (R473). -/
def State.newChal (s : State) : State :=
  let d := s.draw
  { d.2 with sup := { d.2.sup with chal := Config.random d.1, secCnt := 0 } }

/-- Note the last reset in PW_RSTCAUSE (R503). -/
def State.noteReset (s : State) (cause tile eng : Nat) : State :=
  { s with pw := { s.pw with cause := cause, causeTile := tile, causeEng := eng } }

/-- The receiver's state (R314); in automatic selection the reference follows its character lock (R53). -/
def State.setDn (s : State) (d : DnState) : State :=
  let ref := s.refClk
  ({ s with lk := { s.lk with dn := d } }).refSwitch ref

/-- What a link reset does to the receiver, the lanes, the host's generation, the session and the notices (R314, R324,
R355, R459, R463, R473, R481). -/
def State.linkReset (s : State) (h : Option CtlHead) : State :=
  let s := s.cutFrame h
  let s := if s.lk.dn = .slot then s.raise (chipSrc 10) else s
  let s := s.setDn .noSignal
  let s := { s with lk := { s.lk with hostReset := true }, sup := { s.sup with hostGen := genNext s.sup.hostGen } }
  let s := (s.trainAll).newChal
  forKeys ((List.range 96).filter (fun ch => hostReceives ch && (s.slot ch).full)) (fun ch s => s.notice ch false) s

/-! ### The commands: receiver and slots -/

/-- DN_CLOCK_RECOVERED (R314). -/
def execDnClockRecovered (s : State) : Host.Outcome State Fault Refusal :=
  onChip s (fun s => if s.lk.dn = .noSignal then s.setDn .cdr else s)

/-- DN_COMMA_LOCK (R314). -/
def execDnCommaLock (s : State) : Host.Outcome State Fault Refusal :=
  onChip s (fun s => if s.lk.dn = .cdr then s.setDn .char else s)

/-- DN_SLOT_LOCK (R314). -/
def execDnSlotLock (s : State) : Host.Outcome State Fault Refusal :=
  onChip s (fun s => if s.lk.dn = .char then s.setDn .slot else s)

/-- DN_SLOT_LOST (R314, R481). -/
def execDnSlotLost (s : State) : Host.Outcome State Fault Refusal :=
  onChip s (fun s => if s.lk.dn = .slot then (s.setDn .char).raise (chipSrc 10) else s)

/-- DN_SIGNAL_LOST (R314, R481). -/
def execDnSignalLost (s : State) : Host.Outcome State Fault Refusal :=
  onChip s (fun s =>
    if s.lk.dn = .slot then (s.setDn .noSignal).raise (chipSrc 10) else s.setDn .noSignal)

/-- IDLE_SLOT (R316, R317). -/
def execIdleSlot (_b : BitVec 56) (bad : Bool) (s : State) : Host.Outcome State Fault Refusal :=
  onChip s (fun s => s.onSlot bad id)

/-- BLOCK_CLOSE (R318, R340). -/
def execBlockClose (b : BitVec 52) (bad : Bool) (s : State) : Host.Outcome State Fault Refusal :=
  onChip s (fun s => s.onSlot bad (fun s =>
    if Nat.land b.toNat 0xF000000FFFFFF ≠ 0 then s.refuseFast
    else
      let s := forKeys (List.range 128) (fun i s => s.closeFrame i) s
      forKeys s.resultIndices (fun i s => s.sendOwn 2 i [blockCloseRecord (bits b.toNat 47 24)]) s))

/-- SYNC (R318, R319). -/
def execSync (b : BitVec 52) (bad : Bool) (s : State) : Host.Outcome State Fault Refusal :=
  onChip s (fun s => s.onSlot bad (fun s =>
    if Nat.land b.toNat 0xF000000FFFFFF ≠ 0 then s.refuseFast else s.sendOwn 4 0 [syncRecord (bits b.toNat 47 24)]))

/-- ACK (R345). -/
def execAck (b : BitVec 48) (bad : Bool) (s : State) : Host.Outcome State Fault Refusal :=
  onChip s (fun s => s.onSlot bad (fun s => s.onLane b 0x1F000000FFFF (fun l s => s.ackLane l (bits b.toNat 39 16))))

/-- NAK (R346). -/
def execNak (b : BitVec 48) (bad : Bool) (s : State) : Host.Outcome State Fault Refusal :=
  onChip s (fun s => s.onSlot bad (fun s => s.onLane b 0x1F000000FFFF (fun l s => s.nakLane l (bits b.toNat 39 16))))

/-- LANE_UP (R329, R347). -/
def execLaneUp (b : BitVec 48) (bad : Bool) (s : State) : Host.Outcome State Fault Refusal :=
  onChip s (fun s => s.onSlot bad (fun s => s.onLane b 0x1FFFFFFFFFFF (fun l s => s.upLane l)))

/-- RETRAIN (R329). -/
def execRetrain (b : BitVec 48) (bad : Bool) (s : State) : Host.Outcome State Fault Refusal :=
  onChip s (fun s => s.onSlot bad (fun s => s.onLane b 0x1FFFFFFFFFFF (fun l s => s.retrainLane l)))

/-- PAUSE (R318, R338, R350): the stream's open result frame closes. -/
def execPause (b : BitVec 48) (bad : Bool) (s : State) : Host.Outcome State Fault Refusal :=
  onChip s (fun s => s.onSlot bad (fun s =>
    let cls := bits b.toNat 47 40
    let idx := bits b.toNat 39 32
    let dur := bits b.toNat 31 16
    if bits b.toNat 15 0 ≠ 0 ∨ dur = 0 ∨ !s.issued cls idx then s.refuseFast
    else
      let s := { s with lk := { s.lk with
        paused := mapSet (fun _ => none) s.lk.paused (streamKey cls idx) (some (s.tb.age + dur * 125)) } }
      if cls = 2 then s.closeFrame idx else s))

/-- RESUME (R318, R350). -/
def execResume (b : BitVec 48) (bad : Bool) (s : State) : Host.Outcome State Fault Refusal :=
  onChip s (fun s => s.onSlot bad (fun s =>
    let cls := bits b.toNat 47 40
    let idx := bits b.toNat 39 32
    if bits b.toNat 31 0 ≠ 0 ∨ !s.issued cls idx then s.refuseFast
    else { s with lk := { s.lk with paused := mapSet (fun _ => none) s.lk.paused (streamKey cls idx) none } }))

/-- UNKNOWN_LINK_OPERATION (R318). -/
def execUnknownLinkOperation (op : BitVec 4) (_b : BitVec 48) (bad : Bool) (s : State) : Host.Outcome State Fault Refusal :=
  onChip s (fun s => s.onSlot bad (fun s => if 6 ≤ op.toNat then s.refuseFast else s))

/-- ORPHAN_CONTROL_SLOT (R325). -/
def execOrphanControlSlot (_b : BitVec 56) (bad : Bool) (s : State) : Host.Outcome State Fault Refusal :=
  onChip s (fun s => s.onSlot bad (fun s => { s with lk := { s.lk with dnDisc := satAdd 65535 s.lk.dnDisc 1 } }))

/-! ### The commands: uplink -/

/-- FRAME_TRANSMIT (R328 to R335, R344): one frame starts on the lane, or the pair, when its transmitter is free. -/
def execFrameTransmit (l : Nat) (s : State) : Host.Outcome State Fault Refusal := onUnit l 8 s (fun s => s.transmit l)

/-- STREAM_READ_PACKET (R259, R260, R337, R341): one packet of a DRAIN queue of the tile goes into a result frame. -/
def execStreamReadPacket (t : Nat) (packed : Bool) (s : State) : Host.Outcome State Fault Refusal :=
  onTile t s (fun s =>
    if !(s.tile t).powered then s
    else if packed then
      let q := s.tfld t 0x80 7 0
      if s.packOn t && s.takesResults (64 + t) && decide (s.qCommitted t q ≠ 0) then
        let (ws, clean, s) := s.claimPacket t q
        s.packItem (64 + t) ws clean
      else s
    else
      match s.nextDrain t with
      | some q =>
        if s.takesResults t then
          let (ws, _, s) := s.claimPacket t q
          let s := s.plainPacket t ws
          s.setStream 2 t { s.stream 2 t with round := (q + 1) % 256 }
        else s
      | none => s)

/-- RESULT_FRAME_CLOSE (R338): a full frame closes now, any other FCLOSE microseconds after its opening. -/
def execResultFrameClose (i : Nat) (s : State) : Host.Outcome State Fault Refusal :=
  onUnit i 128 s (fun s =>
    match (s.stream 2 i).opened with
    | some f => (if f.payload.length < 1024 then s.advanceTo (f.since + s.fld 0x3008 4 0 * 125) else s).closeFrame i
    | none => s)

/-- LINK_PLL_LOCK (R329, R354). -/
def execLinkPllLock (s : State) : Host.Outcome State Fault Refusal :=
  onChip s (fun s =>
    let s := { s with lk := { s.lk with pllLock := true } }
    forKeys ((List.range 8).filter (fun l => s.usedLane l && decide ((s.lane l).st = .down))) (fun l s => s.putLane l .train) s)

/-- LINK_PLL_LOSS (R354). -/
def execLinkPllLoss (s : State) : Host.Outcome State Fault Refusal :=
  onChip s (fun s =>
    if s.lk.pllLock then
      let s := { s with lk := { s.lk with pllLock := false, linkDown := true } }
      (forKeys ((List.range 8).filter s.usedLane) (fun l s => s.putLane l .down) s).raise (chipSrc 11)
    else s)

/-- LANE_DEGRADED (R336): one lane of a pair that is UP on both lanes leaves UP, and the pair runs on the other. -/
def execLaneDegraded (l : Nat) (s : State) : Host.Outcome State Fault Refusal :=
  onUnit l 8 s (fun s =>
    let other := if l % 2 = 0 then l + 1 else l - 1
    if s.pairs && decide (s.laneSt l = .up) && decide (s.laneSt other = .up) then (s.putLane l .down).raise (chipSrc 12) else s)

/-- FCI_CHANGE (R338, R349): a rising input pauses its mapped streams and closes their open frames; a falling one
releases them. The pin's level counts also where it changed while the device was held or frozen. -/
def execFciChange (k : Nat) (level : Bool) (s : State) : Host.Outcome State Fault Refusal :=
  if k < 4 then
    .next (if level = (s.fciHigh k).isSome then s
      else
        let s := { s with lk := { s.lk with fci := mapSet (fun _ => none) s.lk.fci k (if level then some s.tb.age else none) } }
        if level && s.up then forKeys ((List.range 128).filter (fun i => s.fciMaps k 2 i)) (fun i s => s.closeFrame i) s else s)
  else .fault .noSuchUnit

/-- FCI_HOLD_EXPIRY (R351): an input that maps a stream stays high past its HOLD. -/
def execFciHoldExpiry (k : Nat) (s : State) : Host.Outcome State Fault Refusal :=
  onUnit k 4 s (fun s =>
    match s.fciHigh k with
    | some a => if s.fciMapsAny k then (s.advanceTo (a + s.fld (0x3040 + 16 * k) 31 16 * 125 + 1)).stall else s
    | none => s)

/-- PAUSE_EXPIRY (R350, R351): the stream stays paused, and a stall is in force. -/
def execPauseExpiry (cls idx : Nat) (s : State) : Host.Outcome State Fault Refusal :=
  onUnit (streamKey cls idx) 1024 s (fun s =>
    match s.pauseOf cls idx with
    | some a => (s.advanceTo (a + 1)).stall
    | none => s)

/-- ACK_TIMEOUT (R351): a frame of the lane stays unacknowledged for more than 50 µs. -/
def execAckTimeout (l : Nat) (s : State) : Host.Outcome State Fault Refusal :=
  onUnit l 8 s (fun s =>
    match (s.lane l).unack.filter (fun u => !u.exempt) with
    | u :: us =>
      if s.leads.contains l && s.leadUp l then
        (s.advanceTo ((us.map (·.sent)).foldl min u.sent + 6251)).stall
      else s
    | [] => s)

/-- STALL_END (R351): no stall condition holds any longer; the longest stall is kept in µs (R358). -/
def execStallEnd (s : State) : Host.Outcome State Fault Refusal :=
  onChip s (fun s =>
    match s.lk.stallAge with
    | some a =>
      if s.stallNow then s
      else { s with lk := { s.lk with stallAge := none, longest := max s.lk.longest (min 65535 ((s.tb.age - a + 124) / 125)) } }
    | none => s)

/-- TT_REPLY_SEND (R86, R90, R91, R94): the reply of the oldest exchange without one leaves on lane 0, or pair 0, with its
own departure time; frames of its stream that wait go first, while the replay memory has room (R344). -/
def execTtReplySend (sub : BitVec 13) (s : State) : Host.Outcome State Fault Refusal :=
  onChip s (fun s =>
    match s.tt.opened.find? (fun x => x.t3.isNone) with
    | some x =>
      let s := if s.leadUp 0 && s.usedLane 0 then
          forKeys (List.range (s.stream 5 0).wait.length) (fun _ s =>
            if s.canSend 0 5 0 then (s.advanceTo (s.lane 0).free).sendNext 0 5 0 else s) s
        else s
      if s.leadUp 0 && s.usedLane 0 && (s.stream 5 0).wait.isEmpty && decide (s.replayUsed + 8 ≤ 131072) then
        let s := s.advanceTo (s.lane 0).free
        let t3 := s.now.addFine sub.toNat
        let s := (s.sendOwn 5 0 (s.replyWords x t3)).sendNext 0 5 0
        (s.modExch x.id (fun y => { y with t3 := some t3 })).tryComplete x.id
      else s
    | none => s)

end Sys2Proof.Machine
end

