-- ==== Sys2Proof/Machine/Calibration.lean ====
section
/-! DEFINITION. Calibration and trimming (R361 to R392), the tie and swap checks (R123 to R128), the spare's handover
(R384 to R390), channel faults (R441) and the contact sheet's refresh (R482, R483). -/

namespace Sys2Proof.Machine

open Sys2Proof

/-! ### Copies in the non-volatile store (R364, R365, R369 to R373) -/

/-- First byte of calibration bank A or B (R364). -/
def bankBase (b : Bool) : Nat := if b then 0x29F630 else 0x1E8480

/-- First byte of ageing copy A or B (R364). -/
def ageBase (b : Bool) : Nat := if b then 0x36D7E0 else 0x3577E0

/-- MAGIC of a calibration bank (R365). -/
def bankMagic : Nat := 0x4C414354

/-- MAGIC of an ageing copy (R369). -/
def ageMagic : Nat := 0x45474154

/-- Bytes of a bank's sets (R365). -/
def bankLen : Nat := 635904

/-- Bytes of an ageing copy's entries (R369). -/
def ageLen : Nat := 87040

/-- A copy is valid: STATE, MAGIC, LENGTH and CRC (R371). -/
def copyValid (nv : Memory) (base magic len : Nat) : Bool :=
  decide (readByte nv (base + 12) = 0x5A) && decide ((readW32 nv base).toNat = magic) &&
    decide ((readW32 nv (base + 16)).toNat = len) &&
    decide (crc32c (readBytes nv (base + 16) 44 ++ readBytes nv (base + 64) len) = (readW32 nv (base + 60)).toNat)

/-- SEQ of a copy. -/
def copySeq (nv : Memory) (base : Nat) : Nat := (readW32 nv (base + 8)).toNat

/-- Signed difference of two sequence numbers modulo 2^32 (R371). -/
def seqDiff (a b : Nat) : Int := signed 32 (a + 2 ^ 32 - b % 2 ^ 32)

/-- The copy in force of a pair, from which are valid and their SEQ (R371). -/
def chooseCopy (va vb : Bool) (sa sb : Nat) : Option Bool :=
  match va, vb with
  | true, true => some (!decide (0 < seqDiff sa sb))
  | true, false => some false
  | false, true => some true
  | false, false => none

/-- The copy that a write takes: an invalid one, or the one with the lower SEQ (R370). -/
def targetCopy (va vb : Bool) (sa sb : Nat) : Bool :=
  match va, vb with
  | true, true => decide (0 < seqDiff sa sb)
  | true, false => true
  | _, _ => false

/-- SEQ of the new copy (R370). -/
def nextSeq (inForce : Option Nat) : Nat :=
  match inForce with
  | some q => (q + 1) % 2 ^ 32
  | none => 1

/-- The calibration bank in force. -/
def State.bank (s : State) : Option Bool :=
  chooseCopy (copyValid s.nv (bankBase false) bankMagic bankLen) (copyValid s.nv (bankBase true) bankMagic bankLen)
    (copySeq s.nv (bankBase false)) (copySeq s.nv (bankBase true))

/-- The ageing copies that are valid. -/
def State.ageValid (s : State) (b : Bool) : Bool := copyValid s.nv (ageBase b) ageMagic ageLen

/-- The ageing copy in force. -/
def State.ageCopy (s : State) : Option Bool :=
  chooseCopy (s.ageValid false) (s.ageValid true) (copySeq s.nv (ageBase false)) (copySeq s.nv (ageBase true))

/-- The choice of the calibration copies, with its events (R372, R373). -/
def State.calChoose (s : State) : State :=
  let ba := copyValid s.nv (bankBase false) bankMagic bankLen
  let bb := copyValid s.nv (bankBase true) bankMagic bankLen
  let aa := s.ageValid false
  let ab := s.ageValid true
  let s := if !ba && !bb then s.raise (chipSrc 17) else s
  let s := if (ba != bb) || (aa != ab) then s.raise (chipSrc 18) else s
  if !aa && !ab then s.raise (chipSrc 19) else s

/-! ### Trims (R361, R366, R367, R374, R375) -/

/-- Lowest and highest live code of a trim: 0 to 31 stage, 32 to 63 vernier, 64 offset, 65 gain, 66 skew, 67 to 82 path
skew (R361, R391). -/
def trimRange (k : Nat) : Int × Int :=
  if k < 32 then (0, 1008) else if k < 64 then (0, 496) else if k = 65 then (0, 1008) else (-2048, 2032)

/-- The mid-scale record code of a trim (R367). -/
def trimMid (k : Nat) : Int := if k < 32 then 32 else if k < 64 then 16 else if k = 65 then 32 else 0

/-- The trims of a channel: the spare has 16 path-skew trims more (R361). -/
def trimsOf (c : Nat) : List Nat := List.range (if c = 16 then 83 else 67)

/-- First byte of the trim record of a channel in set `i` of a bank (R365). -/
def recBase (b : Bool) (i t c : Nat) : Nat := bankBase b + 64 + 70656 * i + (17 * t + c) * 64

/-- The trim record is usable: its CRC is right and VALID is 1 (R367). -/
def recGood (nv : Memory) (base : Nat) : Bool :=
  bit (readByte nv (base + 47)).toNat 0 && decide (crc32c (readBytes nv base 60) = (readW32 nv (base + 60)).toNat)

/-- The record code of a trim in set `i` of a bank (R365, R366). -/
def trimCode (nv : Memory) (b : Bool) (i t c k : Nat) : Int :=
  let base := recBase b i t c
  let byte := fun n => (readByte nv (base + n)).toNat
  if k < 32 then (bits (leNat (readBytes nv base 24)) (6 * k + 5) (6 * k) : Nat)
  else if k < 64 then (bits (leNat (readBytes nv (base + 24) 20)) (5 * (k - 32) + 4) (5 * (k - 32)) : Nat)
  else if k = 64 then signed 8 (byte 44)
  else if k = 65 then (byte 45 % 64 : Nat)
  else if k = 66 then signed 8 (byte 46)
  else signed 8 (readByte nv (bankBase b + 64 + 70656 * i + 69632 + 16 * t + (k - 67))).toNat

/-- A channel whose nine records are usable in the bank in force (R367). -/
def State.calGood (s : State) (t c : Nat) : Bool :=
  match s.bank with
  | some b => (List.range 9).all (fun i => recGood s.nv (recBase b i t c))
  | none => false

/-- A channel that failed at the factory (R366, R367). -/
def State.factoryDead (s : State) (t c : Nat) : Bool :=
  match s.bank with
  | some b => (List.range 9).any (fun i => bit (readByte s.nv (recBase b i t c + 47)).toNat 1)
  | none => false

/-- The record code of a trim in set `i` that holds for a channel (R367, R372). -/
def State.setCode (s : State) (i t c k : Nat) : Int :=
  match s.bank with
  | some b => if s.calGood t c || decide (67 ≤ k) then trimCode s.nv b i t c k else trimMid k
  | none => trimMid k

/-- The factory target of a trim at a temperature in 1/16 degree Celsius, not limited to the DAC's range (R374). -/
def State.factoryTarget (s : State) (t c k : Nat) (t16 : Int) : Int :=
  let x := clampInt (-640) 1360 t16
  let i := min 7 ((x + 640) / 240).toNat
  16 * s.setCode i t c k +
    roundDiv (16 * (s.setCode (i + 1) t c k - s.setCode i t c k) * (x - 16 * (-40 + 15 * (i : Int)))) 240

/-- First byte of a channel's entry in an ageing copy (R369). -/
def entryBase (b : Bool) (t c : Nat) : Nat := ageBase b + 64 + 80 * (17 * t + c)

/-- A channel's entry in the ageing copy in force (R369, R372). -/
def State.ageEntry (s : State) (t c : Nat) : List Byte :=
  match s.ageCopy with
  | some b => readBytes s.nv (entryBase b t c) 80
  | none => List.replicate 80 0

/-- PRESENT of an ageing entry. -/
def entryPresent (e : List Byte) : Bool := bit (leNat ((e.drop 66).take 1)) 0

/-- COUNT of an ageing entry. -/
def entryCount (e : List Byte) : Nat := leNat ((e.drop 70).take 2)

/-- The ageing delta of a trim (R369). -/
def State.ageDelta (s : State) (t c k : Nat) : Int :=
  let e := s.ageEntry t c
  if !entryPresent e then 0
  else if k < 64 then signed 8 (leNat ((e.drop k).take 1))
  else if k = 64 then signed 16 (leNat ((e.drop 64).take 2))
  else 0

/-- The target of a trim at a temperature (R374). -/
def State.trimTarget (s : State) (t c k : Nat) (t16 : Int) : Int :=
  clampInt (trimRange k).1 (trimRange k).2 (s.factoryTarget t c k t16 + s.ageDelta t c k)

/-- The present target of a trim: at the temperature of the last tracking, the mid-scale code before the first. -/
def State.presentTarget (s : State) (t c k : Nat) : Int :=
  match (s.tile t).trackT with
  | some x => s.trimTarget t c k x
  | none => 16 * trimMid k

/-- The live code of a trim; codes lost in power gating are free values within the DAC's range (R491). -/
def Chan.liveCode (y : Chan) (k : Nat) : Int :=
  match y.lost with
  | some n => clampInt (trimRange k).1 (trimRange k).2 (Config.trimLost n k)
  | none => mapGet (fun j => 16 * trimMid j) y.live k

/-- Set the live code of a trim. -/
def Chan.setLive (y : Chan) (k : Nat) (v : Int) : Chan := { y with live := mapSet (fun j => 16 * trimMid j) y.live k v }

/-- Every live code of a channel takes its target at once (R378, R492). -/
def State.loadTrims (s : State) (t c : Nat) : State :=
  let vs := (trimsOf c).map (fun k => (k, s.presentTarget t c k))
  s.modChan t c (fun y => vs.foldl (fun y p => y.setLive p.1 p.2) { y with lost := none })

/-- One code toward a target. -/
def stepTo (v target : Int) : Int := if v < target then v + 1 else if target < v then v - 1 else v

/-- One step of the stepper for a channel (R375). -/
def State.stepTrims (s : State) (t c : Nat) : State :=
  let y := s.chan t c
  if y.trimHeld || y.lost.isSome then s
  else
    let vs := (trimsOf c).map (fun k => (k, stepTo (y.liveCode k) (s.presentTarget t c k)))
    s.modChan t c (fun y => vs.foldl (fun y p => y.setLive p.1 p.2) y)

/-! ### The ageing copy's write (R369, R370, R372) -/

/-- The header of a copy with SEQ and STATE in place (R365, R370). -/
def copyHeader (magic seq len : Nat) (serial body : List Byte) : List Byte :=
  let tail := leBytes 4 len ++ serial ++ List.replicate 32 0
  leBytes 4 magic ++ leBytes 2 1 ++ leBytes 2 0 ++ leBytes 4 seq ++ [0x5A] ++ leBytes 3 0 ++ tail ++
    leBytes 4 (crc32c (tail ++ body))

/-- The factory record is whole: its CRC is right (R368). -/
def factoryWhole (nv : Memory) : Bool :=
  decide (crc32c (readBytes nv 0x3567E0 4092) = (readW32 nv 0x3577DC).toNat)

/-- A tile's temperature in 1/16 °C from what its sensor reads: less the sensor's TEMP_OFS, where the factory record is whole
(R368; log entry 139). -/
def State.tempOf (s : State) (t : Nat) (raw : Int) : Int :=
  let o := signed 8 (readByte s.nv (0x3567E0 + 24 + t)).toNat
  if o ≠ 0 ∧ factoryWhole s.nv then raw - o else raw

/-- The part serial number of the factory record (R368). -/
def serialBytes (nv : Memory) : List Byte := readBytes nv 0x3567E0 8

/-- The ageing copy that the next write takes (R370). -/
def State.ageTarget (s : State) : Bool :=
  targetCopy (s.ageValid false) (s.ageValid true) (copySeq s.nv (ageBase false)) (copySeq s.nv (ageBase true))

/-- A write of an ageing copy starts: STATE of the target is set to 0 (R370). -/
def State.ageBegin (s : State) : State :=
  let b := s.ageTarget
  { s with
    nv := writeByte s.nv (ageBase b + 12) 0
    cfg := { s.cfg with job := some (if b then .ageingB else .ageingA) } }

/-- The write of an ageing copy ends: the copy in force with one entry replaced stands in the target (R370, R372). -/
def State.ageFinish (s : State) (b : Bool) (t c : Nat) (entry : List Byte) : State :=
  let old := match s.ageCopy with
    | some u => readBytes s.nv (ageBase u + 64) ageLen
    | none => List.replicate ageLen 0
  let at_ := 80 * (17 * t + c)
  let body := old.take at_ ++ entry ++ old.drop (at_ + 80)
  let seq := nextSeq (s.ageCopy.map (fun u => copySeq s.nv (ageBase u)))
  ({ s with
    nv := writeBytes s.nv (ageBase b) (copyHeader ageMagic seq ageLen (serialBytes s.nv) body ++ body)
    cfg := { s.cfg with job := none } }).calChoose

/-! ### Tie and swap checks (R123 to R128) -/

/-- The spare taps an input. -/
def State.tapSel (s : State) (t : Nat) : Nat := s.tfld t 0x40 4 0

/-- The reason to refuse a check (R123, R128). -/
def State.checkRefusal (s : State) (t c : Nat) : Option Nat :=
  if s.chEn t c then some 8
  else if c = 16 ∧ s.tapSel t ≠ 31 then some 9
  else if (s.chan t c).check.busy then some 10
  else if !(s.tile t).powered then some 11
  else none

/-- A check starts, a tie check with its margin (R123, R124). -/
def Chan.checkBusy (y : Chan) (swap : Bool) (margin : Nat) : Chan :=
  { y with check := { y.check with busy := true, swap := swap, margin := margin } }

/-- CH_CHECK.START (R123): the check named in KIND, or its refusal. -/
def State.checkAsk (s : State) (t c : Nat) : State :=
  match s.checkRefusal t c with
  | some r => s.modChan t c (fun y => { y with check := { y.check with result := 3, reason := r } })
  | none =>
    let w := s.rv (tileBase t + 0x408 + 64 * c)
    s.modChan t c (fun y => y.checkBusy (bit w 1) (bits w 15 8))

/-- The four steps of a tie check: configuration (true: swapped), code and the number of 1 decisions expected (R124). -/
def tieSteps (margin : Nat) : List (Bool × Nat × Nat) :=
  [(false, 512 + margin, 0), (false, 512 - margin, 256), (true, 512 + margin, 256), (true, 512 - margin, 0)]

/-- The reason of the first step of a tie check that fails: stuck at 0, stuck at 1, or mixed (R124, R128). -/
def tieReason : List (Nat × Nat) → Option Nat
  | [] => none
  | (n, want) :: ps => if n = want then tieReason ps else some (if n = 0 then 1 else if n = 256 then 2 else 3)

/-- The number of decisions at a code that fall with a rising code: the 1s in the normal configuration, the 0s in the
swapped one (R124, R125); none where the code was not looked at. -/
def decisions (swapped : Bool) (cs : List (Nat × Nat)) (c : Nat) : Option Nat :=
  ((cs.find? (fun p => p.1 = c)).map (·.2)).map (fun n => if swapped then 256 - n else n)

/-- The binary search of R125 between a code with at least half of its decisions and one with fewer: the highest code that
has at least half; none where a code it needs was not looked at. -/
def bisect (g : Nat → Option Nat) : Nat → Nat → Nat → Option Nat
  | 0, lo, _ => some lo
  | n + 1, lo, hi =>
    match g ((lo + hi) / 2) with
    | none => none
    | some v => if 128 ≤ v then bisect g n ((lo + hi) / 2) hi else bisect g n lo ((lo + hi) / 2)

/-- The transition of a configuration, in 1/16 code: the search, then the line through the two neighbouring codes (R125).
The outer none: the decisions are not those of such a search; the inner none: no transition. -/
def transition (swapped : Bool) (cs : List (Nat × Nat)) : Option (Option (BitVec 14)) :=
  let g := decisions swapped cs
  match g 0, g 1023 with
  | some a, some b =>
    if a < 128 ∨ 128 ≤ b then some none
    else match bisect g 10 0 1023 with
      | none => none
      | some lo =>
        match g lo, g (lo + 1) with
        | some p, some q =>
          let x := 16 * (p - 128)
          let up := decide (x % (p - q) ≠ 0) && Config.swapRoundUp p q
          some (some (BitVec.ofNat 14 (16 * lo + x / (p - q) + b2n up)))
        | _, _ => none
  | _, _ => none

/-- The reason of a check that fails (R124, R125, R128). -/
def checkReason : CheckOutcome → Option Nat
  | .tie steps => tieReason ((steps.map (·.2.2)).zip [0, 256, 256, 0])
  | .swap normal swapped =>
    match transition false normal, transition true swapped with
    | some (some cn), some (some cs) => if ((cn.toNat : Int) - cs.toNat).natAbs ≤ 640 then none else some 5
    | _, _ => some 4

/-- The outcome is one of the check that runs: a tie check's steps have the configurations and codes of R124 for its margin,
and a swap check's decisions are those of its searches (R125). -/
def Check.takes (k : Check) : CheckOutcome → Bool
  | .tie steps => k.busy && !k.swap && decide (steps.map (fun p => (p.1, p.2.1)) = (tieSteps k.margin).map (fun p => (p.1, p.2.1))) &&
      steps.all (fun p => decide (p.2.2 ≤ 256))
  | .swap normal swapped => k.busy && k.swap && (transition false normal).isSome && (transition true swapped).isSome

/-- The result of a check is stored (R124, R125, R127). -/
def Check.finish (k : Check) (o : CheckOutcome) : Check :=
  let k := match o with
    | .swap normal swapped =>
      { k with cn := ((transition false normal).getD none).getD k.cn, cs := ((transition true swapped).getD none).getD k.cs }
    | .tie _ => k
  match checkReason o with
  | none => { k with busy := false, kind := k.swap, result := 1 }
  | some r => { k with busy := false, kind := k.swap, result := 2, reason := r }

/-- The threshold written while a check ran takes effect at its end, however it ends (R123). -/
def State.checkRelease (s : State) (t c : Nat) : State :=
  let thr := (s.chan t c).check.thr
  let s := s.modChan t c (fun y => { y with check := { y.check with busy := false, thr := none } })
  match thr with
  | some w => s.setReg (tileBase t + 0x404 + 64 * c) w
  | none => s

/-- A check ends: its result, the threshold written meanwhile, and the check-failed event (R123, R126). -/
def State.checkEnd (s : State) (t c : Nat) (o : CheckOutcome) : State :=
  let s := (s.checkRelease t c).modChan t c (fun y => { y with check := y.check.finish o })
  if (checkReason o).isSome then s.raise (tileSrc t 1) else s

/-! ### Spare takeover (R384 to R390) -/

/-- The tap closes on an input or, for 31, opens (R129, R130); the spare's next hit carries IU when it closes (R131). -/
def State.setTap (s : State) (t sel : Nat) : State :=
  let a := tileBase t + 0x40
  let s := s.setReg a (BitVec.ofNat 32 sel)
  let s := s.modTile t (fun x => { x with ho := { x.ho with tapped := decide (sel ≠ 31) } })
  if sel = 31 then s else s.modChan t 16 (fun y => { y with tapIu := true })

/-- An overlap window is open. -/
def Handover.overlap (h : Handover) : Bool := decide (h.st = .toSpare) || decide (h.st = .back)

/-- A handover request is refused (R384). -/
def State.hoRefused (s : State) (t input : Nat) (dir : Bool) : Bool :=
  let x := s.tile t
  x.ho.overlap || x.ho.req.isSome || !x.powered ||
    (if dir then !(s.spareServesInput t input && s.chEn t input)
     else decide (x.ho.st = .serving) || (x.chan 16).check.busy)

/-- A handover request, for the slot boundary of age `due` (R384). -/
def State.hoRequest (s : State) (t input : Nat) (dir : Bool) (ovl due : Nat) : State :=
  if s.hoRefused t input dir then s.modTile t (fun x => { x with ho := { x.ho with result := 3 } })
  else s.modTile t (fun x => { x with ho := { x.ho with req := some (input, dir, ovl), reqAge := due } })

/-- The overlap window opens at P (R385). -/
def State.hoOpen (s : State) (t : Nat) : State :=
  match (s.tile t).ho.req with
  | some (input, dir, ovl) =>
    let s := s.advanceTo (s.tile t).ho.reqAge
    let h := s.hoInstant ovl
    let s := if dir then s else s.setTap t input
    s.modTile t (fun x => { x with ho := { x.ho with
      st := if dir then .back else .toSpare
      req := none
      served := input
      dir := dir
      ovl := ovl
      hAge := h } })
  | none => s

/-- A handover or a request of one is aborted before H: RESULT 2; for DIR 0 the tap opens; the outgoing channel keeps
serving (R390). -/
def State.hoCut (s : State) (t : Nat) : State :=
  let h := (s.tile t).ho
  if !h.overlap && h.req.isNone then s
  else
    let s := if h.st = .toSpare then s.setTap t 31 else s
    let s := s.modTile t (fun x => { x with ho := { x.ho with
      st := if h.st = .toSpare then .idle else if h.st = .back then .serving else h.st
      req := none
      hAge := 0
      result := 2 } })
    s.raise (tileSrc t 13)

/-! ### Channel faults (R441) -/

/-- The tile's spare is free. -/
def State.spareFree (s : State) (t : Nat) : Bool :=
  let x := s.tile t
  decide (x.ho.st = .idle) && x.ho.req.isNone && decide (s.tapSel t = 31) && !(x.chan 16).check.busy && !s.offLine t 16

/-- A capture channel is declared faulty: the event, and with AUTO_SPARE the handover to a free spare or the
channel-unserved event (R441). -/
def State.channelFault (s : State) (t c : Nat) : State :=
  let auto := bit (s.rv 0xA008) 0
  let s := s.modChan t c (fun y => { y with faulty := true, unserved := auto })
  let s := s.raise (tileSrc t 8)
  if !auto || s.spareServesInput t c then s
  else if s.spareFree t && decide (c < 16) then s.hoRequest t c false (s.fld 0xA008 20 14) (s.tb.age + 1)
  else s.raise (tileSrc t 7)

/-- Two decodes of a crossing disagree, in Bracket mode: the event, and a fault beyond DMM_THR (R165, R441). -/
def State.decodeMismatch (s : State) (t c : Nat) : State :=
  let n := (s.chan t c).dmm + 1
  let s := (s.modChan t c (fun y => { y with dmm := n })).raise (tileSrc t 2)
  if n = s.fld 0xA008 27 24 + 1 then s.channelFault t c else s

/-! ### Edges into the capture FIFO (R22, R153, R163) -/

/-- What a channel holds before a crossing is captured or refused (R151). -/
def Chan.before (y : Chan) (key : Nat) (took : Bool) : Crossing :=
  { key := key, took := took, edges := y.edges, full := y.full, peak := y.peak, ovr := y.ovr, sheetOvr := y.sheet.ovr
    nlb := y.nlb, neq := y.neq, tapIu := y.tapIu }

/-- A crossing of channel `c` at slot age `age`, `sub` fine units into the slot, takes a FIFO entry for the input it
serves, or is refused at a full FIFO (R153, R157, R162, R163, R168). The entry stands at the slot of its stamp, which a
replica counter that differs from the master moves (R262). -/
def State.captureEdge (s : State) (t c age sub : Nat) (rise suspect : Bool) : State :=
  let x := s.tile t
  let y := (x.chan c).pruned s.tb.age
  let key := age * 8192 + sub
  if 16 ≤ y.fifo.length then s.setTile t (x.setChan c { y.refusedFifo with cross := some (y.before key false) })
  else
    let lb := s.destOn t c .lb
    let eq := s.destOn t c .eq && decide (s.pw.st = .run)
    let tap : Owed := { iu := y.tapIu }
    let at_ := ((key : Int) + x.rep * 1024).toNat
    let h : Hit :=
      { stamp := s.now.addFine ((key : Int) - (s.tb.age * 8192 : Nat) + x.rep * 1024)
        age := at_ / 8192
        sub := at_ % 8192
        epoch := s.tb.epoch
        rise := rise
        cs := s.cs || suspect || x.repLoad || decide (x.rep ≠ x.repB)
        st := s.st
        spare := decide (c = 16)
        input := s.inputOf t c
        lb := if lb then .waiting else .off
        eq := if eq then .waiting else .off
        flb := if lb then y.nlb.join tap else {}
        feq := if eq then y.neq.join tap else {} }
    s.setTile t (x.setChan c { y with
      fifo := y.fifo ++ [h]
      edges := (y.edges + 1) % 2 ^ 32
      peak := max y.peak (y.fifo.length + 1)
      tapIu := false
      cross := some (y.before key true)
      nlb := if lb then {} else y.nlb
      neq := if eq then {} else y.neq })

/-- The channel takes its last crossing back: no record, no count, no flag of it stays (R151). -/
def Chan.takeBack (y : Chan) (u : Crossing) : Chan :=
  { y with
    fifo := if u.took then y.fifo.dropLast else y.fifo
    edges := u.edges
    full := u.full
    peak := u.peak
    ovr := u.ovr
    sheet := { y.sheet with ovr := u.sheetOvr }
    nlb := u.nlb
    neq := u.neq
    tapIu := u.tapIu
    cross := none }

/-- An entry stamped `d` fine units away. -/
def Hit.shift (h : Hit) (d : Int) : Hit :=
  let k := ((h.key : Int) + d).toNat
  { h with stamp := h.stamp.addFine d, age := k / 8192, sub := k % 8192 }

/-- The last entry of a FIFO stamped `d` fine units away. -/
def shiftLast (d : Int) : List Hit → List Hit
  | [] => []
  | [h] => [h.shift d]
  | h :: hs => h :: shiftLast d hs

/-- The error of a stamp of a narrow level, within ±10 ps (R151). -/
def narrowShift (n : Nat) (second : Bool) : Int := clampInt (-10) 10 (Config.narrowError n second)

/-- A crossing after one that the channel captured or refused (R150 to R152): a level shorter than 120 ps yields neither of
its edges; one of less than 250 ps yields both, each within ±10 ps, or neither, which is a free value (log entry 119). -/
def State.captureAfter (s : State) (t c sub : Nat) (rise suspect : Bool) : State :=
  let key := s.tb.age * 8192 + sub
  match (s.chan t c).cross with
  | none => s.captureEdge t c s.tb.age sub rise suspect
  | some u =>
    let wide := (key - u.key) * 1000
    if 250 * 1024 ≤ wide then s.captureEdge t c s.tb.age sub rise suspect
    else if wide < 120 * 1024 then s.modChan t c (fun y => y.takeBack u)
    else
      let (n, s) := s.draw
      if Config.narrowKept n then
        let s := if u.took then s.modChan t c (fun y => { y with fifo := shiftLast (narrowShift n false) y.fifo }) else s
        let k := ((key : Int) + narrowShift n true).toNat
        s.captureEdge t c (k / 8192) (k % 8192) rise suspect
      else s.modChan t c (fun y => y.takeBack u)

/-- Find the first incoming edge that pairs with an outgoing one: same polarity, within 100 ps, which is 102 whole fine
units (R386); and the others. -/
def pairEdge (o : HoEdge) : List HoEdge → Option (HoEdge × List HoEdge)
  | [] => none
  | i :: is =>
    if i.rise = o.rise ∧ ((i.off : Int) - o.off).natAbs ≤ 102 then some (i, is)
    else (pairEdge o is).map (fun r => (r.1, i :: r.2))

/-- What the matcher emits (R386): each edge with whether the incoming channel stamped it, and the numbers of matched
pairs and of unmatched outgoing and incoming edges. -/
def matchEdges : List HoEdge → List HoEdge → List (HoEdge × Bool) × Nat × Nat × Nat
  | [], inc => (inc.map (fun i => (i, true)), 0, 0, inc.length)
  | o :: out, inc =>
    match pairEdge o inc with
    | some (i, rest) =>
      let (es, m, uo, ui) := matchEdges out rest
      ((if o.off < 1024 then (o, false) else (i, true)) :: es, m + 1, uo, ui)
    | none =>
      let (es, m, uo, ui) := matchEdges out inc
      ((o, false) :: es, m, uo + 1, ui)

/-- Put an emitted edge in stamp order. -/
def insEdge (e : HoEdge × Bool) : List (HoEdge × Bool) → List (HoEdge × Bool)
  | [] => [e]
  | f :: fs => if e.1.off < f.1.off then e :: f :: fs else f :: insEdge e fs

/-- The edges of one channel in the interval stand in stamp order and lie in it (R386). -/
def hoEdgesOk : List HoEdge → Bool
  | [] => true
  | e :: es => decide (e.off < 2048) && es.all (fun f => decide (e.off ≤ f.off)) && hoEdgesOk es

/-- The queues that a local input's records go to. -/
def State.inputDests (s : State) (t n : Nat) : List Nat :=
  ((if s.destOn t n .lb then [s.destQ t n .lb] else []) ++ (if s.destOn t n .eq then [s.destQ t n .eq] else [])).dedup

/-- The handover takes place at H: the matcher's edges are captured, the serving state changes, every destination of the
input receives the handover marker (R386 to R389). -/
def State.hoTake (s : State) (t : Nat) (out inc : List HoEdge) (diff : Int) : State :=
  let s := s.advanceTo (s.tile t).ho.hAge
  let ho := (s.tile t).ho
  let a := ho.hAge
  let own := ho.served
  let chOut := if ho.dir then 16 else own
  let chIn := if ho.dir then own else 16
  let (es, m, uo, ui) := matchEdges out inc
  let s := (es.foldl (fun l e => insEdge e l) []).foldl (fun s e =>
    let age := if e.1.off < 1024 then a - 1 else a
    let sub := if e.1.off < 1024 then 7168 + e.1.off else e.1.off - 1024
    s.captureEdge t (if e.2 then chIn else chOut) age sub e.1.rise (e.1.mismatch && s.bracket)) s
  let miss := fun (c : Nat) (es : List HoEdge) (s : State) =>
    forKeys (List.range (es.filter (·.mismatch)).length) (fun _ s => s.decodeMismatch t c) s
  let s := if s.bracket then miss chIn inc (miss chOut out s) else s
  let s := if uo + ui = 0 then s else s.modChan t chIn Chan.oweIu
  let s := s.modTile t (fun x => { x with ho := { x.ho with
    st := if ho.dir then .idle else .serving
    result := 1
    matched := min 15 m
    unmOut := min 7 uo
    unmIn := min 7 ui
    hS := s.now.s
    hNs := s.now.ns
    diff := signed 32 (twos 32 diff)
    release := ho.dir } })
  let w := handoverMarker own ho.dir s.tb.epoch s.now m uo ui
  let s := forKeys (s.inputDests t own)
    (fun q s => s.giveMarks t q [({ w := w, age := a, barrier := fineAge a 1024 } : HeldMark)]) s
  s.raise (tileSrc t 13)

/-! ### Proof runs (R377 to R383) -/

/-- CAL_RESULT (R391). -/
def State.calResult (s : State) : Nat := packW [(0, 5, s.cal.reason), (6, 6, s.cal.resTile), (12, 5, s.cal.resChan)]

/-- Set the proof run. -/
def State.setRun (s : State) (r : ProofRun) : State := { s with cal := { s.cal with run := some r } }

/-- The supervisor's reply to a request waits for its slot (R467, R469). -/
def State.reply (s : State) (q : SupReq) (status : Nat) (body : List W64) : State :=
  let ch := q.ch + 8
  let r := mapGet (fun _ => ([] : List Reply)) s.sup.replies ch
  { s with sup := { s.sup with
    replies := mapSet (fun _ => ([] : List Reply)) s.sup.replies ch (r ++ [{ tag := q.tag, code := q.code, status := status, body := body }]) } }

/-- The action of a service has ended: its request is answered (R470). -/
def State.serviceEnd (s : State) (q : SupReq) (status : Nat) (body : List W64) : State :=
  ({ s with sup := { s.sup with reqs := s.sup.reqs.filter (fun r => r.code ≠ q.code) } }).reply q status body

/-- The request of a service whose action has begun. -/
def State.begunReq (s : State) (code : Nat) : Option SupReq := s.sup.reqs.find? (fun q => q.started && decide (q.code = code))

/-- The reply body of PROOF_RUN (R470). -/
def State.proofBody (s : State) : List W64 :=
  [rec64 [(0, 32, s.calResult), (32, 32, s.cal.hits)], rec64 [(0, 16, s.cal.uniMin), (16, 16, s.cal.uniHarm)]]

/-- The proof run ends with a reason: CAL_RESULT, the channel's proof status, the log entry, the event, and the reply of a
PROOF_RUN service that started it (R382, R383, R470, R471, R481). -/
def State.proofEnd (s : State) (r : ProofRun) (reason : Nat) : State :=
  let s := { s with cal := { s.cal with run := none, reason := reason, resTile := r.tile, resChan := r.chan } }
  let s := s.modChan r.tile r.chan (fun y => { y with
    trimHeld := false
    cal := { y.cal with proof := if reason = 0 then 1 else 2, reason := reason } })
  let s := (s.log 2 0xFFFF s.calResult).raise (chipSrc 20)
  match s.begunReq 0x10 with
  | some q => s.serviceEnd q 0 s.proofBody
  | none => s

/-- After the off-line phases: the handback, where the run made a handover, or the end (R378, R382). -/
def State.proofBack (s : State) (r : ProofRun) : State :=
  let s := s.modChan r.tile r.chan (fun y => { y with trimHeld := false })
  if r.handed then
    let s := (s.setRun { r with phase := 6 }).hoRequest r.tile r.chan true r.ovl (s.tb.age + 1)
    if (s.tile r.tile).ho.req.isSome then s else s.proofEnd r 9
  else s.proofEnd r (r.failed.getD 0)

/-- The run fails off-line: the old trim codes return (R380, R382). -/
def State.proofFail (s : State) (r : ProofRun) (reason : Nat) : State :=
  let s := (s.checkRelease r.tile r.chan).modChan r.tile r.chan (fun y => { y with live := r.codes })
  s.proofBack { r with failed := some reason }

/-- The channel goes off-line and its swap check starts (R378, phase 2). -/
def State.proofOffset (s : State) (r : ProofRun) : State :=
  let codes := (s.chan r.tile r.chan).live
  let s := s.modChan r.tile r.chan (fun y => { y.checkBusy true 0 with trimHeld := true })
  s.setRun { r with phase := 2, codes := codes }

/-- A handover of the run's tile has ended, done or aborted: the run goes on (R378, R382). -/
def State.proofHo (s : State) (t : Nat) : State :=
  match s.cal.run with
  | some r =>
    let h := (s.tile t).ho
    if r.tile ≠ t ∨ h.overlap ∨ h.req.isSome then s
    else if r.phase = 1 then
      if s.spareServesInput t r.chan then s.proofOffset { r with handed := true } else s.proofEnd r 9
    else if r.phase = 6 then s.proofEnd r (if h.result = 1 then r.failed.getD 0 else 9)
    else s
  | none => s

/-- The reason to refuse the start of a proof run (R377). -/
def State.proofRefusal (s : State) (t c : Nat) (internal : Bool) : Option Nat :=
  let x := s.tile t
  let serves := s.spareServesInput t c
  let need := decide (c < 16) && s.chEn t c && !serves
  if s.cal.run.isSome then some 16
  else if need && (decide (s.tapSel t ≠ 31) || x.ho.overlap || x.ho.req.isSome || s.spareServes t || (x.chan 16).check.busy) then
    some 17
  else if need && !decide ((x.chan 16).cal.proof = 1) then some 18
  else if !x.powered || decide (s.pw.st = .dark) then some 19
  else if 16 < c ∨ !s.onPart t then some 20
  else if s.bank.isNone then some 21
  else if c = 16 ∧ !internal then some 22
  else none

/-- CAL_CTRL.START (R377, R378). -/
def State.proofStart (s : State) : State :=
  let v := s.rv 0x8000
  let t := bits v 5 0
  let c := bits v 10 6
  match s.proofRefusal t c (bit v 11) with
  | some reason =>
    ({ s with cal := { s.cal with reason := reason, resTile := t, resChan := c } }).raise (chipSrc 20)
  | none =>
    let r : ProofRun :=
      { tile := t, chan := c, internal := bit v 11, hits := bits v 14 12, passes := bits v 17 16 + 1, phase := 1
        ovl := s.tfld t 0x90 31 16 }
    if decide (c < 16) && s.chEn t c && !s.spareServesInput t c then
      (s.setRun r).hoRequest t c false r.ovl s.tb.age
    else s.proofOffset r

/-- The store is being written for an AGEING_CLEAR service (R470). -/
def State.clearRuns (s : State) : Bool := (s.begunReq 0x21).isSome

/-- The proof run's own write of an ageing copy is in progress (R378, phase 5). -/
def State.storeOwn (s : State) : Bool :=
  (decide (s.cfg.job = some .ageingA) || decide (s.cfg.job = some .ageingB)) && !s.clearRuns

/-- A write of an ageing copy ends without its copy: one copy at most is valid (R370, R372, R373). -/
def State.ageGone (s : State) : State := ({ s with cfg := { s.cfg with job := none } }).calChoose

/-- The proof run stops with reason 8; by a tile reset, without its handback (R382, R383, R451). A run in its handback
is decided already and goes on. -/
def State.proofStop (s : State) (reset : Bool) : State :=
  match s.cal.run with
  | some r =>
    if r.phase = 6 then (if reset then s.proofEnd r (r.failed.getD 8) else s)
    else if r.phase = 1 then (s.hoCut r.tile).proofEnd r 8
    else
      let r := if reset then { r with handed := false } else r
      let s := if r.phase = 5 ∧ s.storeOwn then s.ageGone else s
      s.proofFail r 8
  | none => s

/-- Crossings of a pass. -/
def passTotal (d : PassData) : Nat := d.hist.sum

/-- The smallest bin count of a pass. -/
def passLeast (d : PassData) : Nat := (d.hist.drop 1).foldl min (d.hist.headD 0)

/-- The first of the tests 1 to 6 of R380 that the last pass fails. -/
def passFault (d : PassData) (internal swapOk : Bool) : Option Nat :=
  let n := (passTotal d)
  if n < 2 ^ 20 then some 1
  else if !d.hist.all (fun k => decide (n ≤ 4096 * k) && decide (1024 * k ≤ 2 * n)) || decide (1310 < d.harm) then
    some (if internal then 3 else 2)
  else if !d.hist.all (fun k => decide (n ≤ 2048 * k) && decide (2048 * k ≤ 3 * n)) then some 3
  else if !d.ringOk then some 4
  else if !swapOk then some 5
  else if !d.hist.all (fun k => decide (5 * ((1024 * k : Nat) - (n : Int)).natAbs ≤ n)) then some 6
  else none

/-- Largest |DNL| of a pass in 1/256 LSB (R148, R391). -/
def passDnl (d : PassData) : Nat :=
  (d.hist.map (fun k => ((1024 * k : Nat) - ((passTotal d) : Int)).natAbs * 256 / (passTotal d))).foldl max 0

/-- Running sums of the bin counts. -/
def sums : Nat → List Nat → List Nat
  | _, [] => []
  | a, k :: ks => (a + k) :: sums (a + k) ks

/-- Largest |INL| of a pass in 1/64 LSB: the sum of the bin widths against the line through bin 0 and bin 1,023 of the
next period (R148, R391). -/
def passInl (d : PassData) : Nat :=
  let n := (passTotal d)
  let n0 := d.hist.headD 0
  let dev := fun (p : Nat × Nat) =>
    ((1024 * 2047 * (p.1 : Int) - 1024 * 2047 * n0 - p.2 * ((2048 * n : Nat) - (1024 * n0 : Nat) : Int))).natAbs * 64 / (n * 2047)
  (((sums 0 (d.hist ++ d.hist)).zipIdx).map dev).foldl max 0

/-- Temperatures differ by no more than CAL_TRACK.DTEMP, in 1/8 degree (R380 test 8). -/
def State.tempSteady (s : State) (ts : List Int) : Bool :=
  ts.all (fun a => ts.all (fun b => decide (a - b ≤ 2 * (s.fld 0x8018 23 16 : Nat))))

/-- The mean temperature of a run (R381). -/
def meanTemp (ts : List Int) : Int := if ts.isEmpty then 0 else roundDiv ts.sum ts.length

/-- Test 7 of R380, that every delta fits, and the run's ageing entry (R369, R381). -/
def State.newEntry (s : State) (r : ProofRun) (offset : Int) : Bool × List Byte :=
  let y := s.chan r.tile r.chan
  let at_ := meanTemp r.temps
  let ds := (List.range 64).map (fun k => y.liveCode k - s.factoryTarget r.tile r.chan k at_)
  let dOff := offset - s.factoryTarget r.tile r.chan 64 at_
  let old := s.ageEntry r.tile r.chan
  (ds.all (fun d => decide (-128 ≤ d) && decide (d ≤ 127)),
    ds.map (fun d => BitVec.ofNat 8 (twos 8 d)) ++ leBytes 2 (twos 16 dOff) ++ [1, 0] ++ leBytes 2 (twos 16 at_) ++
      leBytes 2 (satAdd 65535 (entryCount old) 1) ++ leBytes 4 s.now.s ++ leBytes 4 0)

/-- The proof run's storage starts as soon as the store is free (R378 phase 5). -/
def State.proofStore (s : State) : State :=
  match s.cal.run with
  | some r => if r.phase = 5 ∧ s.cfg.job.isNone then s.ageBegin else s
  | none => s

/-- Evaluation of the last pass (R380, R381). -/
def State.proofEvaluate (s : State) (r : ProofRun) (d : PassData) : State :=
  match passFault d r.internal r.swapOk with
  | some reason => s.proofFail r reason
  | none =>
    let (n, s) := s.draw
    let e := s.newEntry r (clampInt (-2048) 2032 (Config.trimOffset n))
    if !e.1 then s.proofFail r 7
    else if !s.tempSteady r.temps then s.proofFail r 11
    else (s.setRun { r with phase := 5, pass := 0, entry := e.2, newDnl := min 255 (passDnl d), newInl := min 255 (passInl d) }).proofStore

/-- The adjustment after a pass but the last: each stage and vernier trim takes a free value within its range (R378). -/
def State.proofAdjust (s : State) (r : ProofRun) : State :=
  let (n, s) := s.draw
  let vs := (List.range 64).map (fun k => (k, clampInt (trimRange k).1 (trimRange k).2 (Config.trimAdjust n k)))
  (s.modChan r.tile r.chan (fun y => vs.foldl (fun y p => y.setLive p.1 p.2) y)).setRun { r with pass := r.pass + 1, passAge := s.tb.age }

/-- A collection pass ends (R378 to R381). -/
def State.passEnd (s : State) (d : PassData) : State :=
  match s.cal.run with
  | some r =>
    let n := (passTotal d)
    let s := { s with cal := { s.cal with
      hits := n
      uniMin := if n = 0 then 0 else min 65535 (1024 * (passLeast d) * 4096 / n)
      uniHarm := min 65535 d.harm } }
    let r := { r with temps := r.temps ++ [s.tempOf r.tile d.temp] }
    let s := s.setRun r
    if r.pass < r.passes then s.proofAdjust r else s.proofEvaluate r d
  | none => s

/-- The run collects a pass now. -/
def State.collecting (s : State) (d : PassData) : Bool :=
  match s.cal.run with
  | some r => decide (r.phase = 3) && decide (d.hist.length = 1024)
  | none => false

/-! ### The contact sheet (R482, R483) -/

/-- Local inputs whose level monitor reported a change since the last refresh. -/
def State.padMoved (s : State) (t c : Nat) : Bool := (s.tile t).lm.moved.getLsbD (s.inputOf t c)

/-- The refresh of one channel, over `span` slots (R483). -/
def State.sheetChan (s : State) (t c span : Nat) : State :=
  let y := s.chan t c
  let deadN := s.fld 0x8040 11 8
  let noisyN := s.fld 0x8040 15 12
  let moved := (y.edges + 2 ^ 32 - y.sheet.lastEdges) % 2 ^ 32
  let noise := decide (s.fld 0x8040 31 16 * 8 * span < moved * 10000) || decide (y.sheet.lastFull < y.full)
  let dead := decide (moved = 0) && s.padMoved t c
  let dr := if dead then min deadN (y.sheet.deadRun + 1) else 0
  let nr := if noise then min noisyN (y.sheet.noisyRun + 1) else 0
  let qr := if noise then 0 else min noisyN (y.sheet.quietRun + 1)
  let nowDead := y.sheet.dead || decide (dr = deadN)
  let nowNoisy := decide (nr = noisyN) || (y.sheet.noisy && !decide (qr = noisyN))
  let s := s.modChan t c (fun y => { y with
    sheet := { y.sheet with
      dead := nowDead
      noisy := nowNoisy
      lastEdges := y.edges
      lastFull := y.full
      deadRun := dr
      noisyRun := nr
      quietRun := qr }
    faulty := y.faulty && (nowDead || nowNoisy || !y.sheet.noisy)
    unserved := y.unserved && (nowDead || nowNoisy || !y.sheet.noisy) })
  if (nowDead && !y.sheet.dead) || (nowNoisy && !y.sheet.noisy) then s.channelFault t c else s

/-- One refresh of the contact sheet: every enabled channel, and the spare while it serves (R483). -/
def State.sheetRefresh (s : State) : State :=
  let span := s.tb.age - s.sup.sheetAge
  let s := forKeys (List.range s.nTiles) (fun t s =>
    if (s.tile t).powered then
      let cs := (List.range 17).filter (fun c => if c = 16 then s.spareServes t else s.chEn t c && !s.spareServesInput t c)
      (forKeys cs (fun c s => s.sheetChan t c span) s).modTile t (fun x => { x with lm := { x.lm with moved := 0 } })
    else s) s
  { s with sup := { s.sup with sheetAge := s.tb.age } }

/-- Contact-sheet byte of a channel (R482). -/
def State.sheetByte (s : State) (t c : Nat) : Nat :=
  let y := s.chan t c
  let serving := if c = 16 then s.spareServes t else s.spareServesInput t c
  packW [(0, 1, b2n (if c = 16 then s.spareServes t else s.chEn t c)), (1, 1, b2n serving), (2, 1, b2n (decide (y.cal.proof = 1))),
    (3, 1, b2n (y.sheet.dead || y.sheet.deadF)), (4, 1, b2n y.sheet.noisy), (5, 1, b2n y.sheet.ovr),
    (6, 1, b2n (y.sheet.outF || y.sheet.outT)), (7, 1, b2n y.sheet.psn)]

/-- The supervisor runs: it is neither asleep nor restarting, and start-up has reached it (R443, R491, R495). -/
def State.supRuns (s : State) : Bool :=
  !s.sup.asleep && !s.sup.restarting && (decide (s.phase = .booting) || decide (s.phase = .running))

/-! ### The commands -/

/-- CHECK_COMPLETE (R124 to R128, R378): the check that runs on the channel ends; in a proof run the collection starts. -/
def execCheckComplete (t c : Nat) (o : CheckOutcome) (s : State) : Host.Outcome State Fault Refusal :=
  onChan t c s (fun s =>
    if (s.chan t c).check.takes o then
      let ok := (checkReason o).isNone
      let s := s.checkEnd t c o
      match s.cal.run with
      | some r => if r.tile = t ∧ r.chan = c ∧ r.phase = 2 then s.setRun { r with swapOk := ok, phase := 3, pass := 1, passAge := s.tb.age } else s
      | none => s
    else s)

/-- HANDOVER_OPEN (R385). -/
def execHandoverOpen (t : Nat) (s : State) : Host.Outcome State Fault Refusal :=
  onTile t s (fun s => if (s.tile t).powered then s.hoOpen t else s)

/-- HANDOVER_INSTANT (R386 to R390). -/
def execHandoverInstant (t : Nat) (out inc : List HoEdge) (diff : Int) (s : State) : Host.Outcome State Fault Refusal :=
  onTile t s (fun s =>
    if (s.tile t).ho.overlap && hoEdgesOk out && hoEdgesOk inc then (s.hoTake t out inc diff).proofHo t else s)

/-- TAP_RELEASE (R389): the tap opens at the first slot boundary after H + 1 ns. -/
def execTapRelease (t : Nat) (s : State) : Host.Outcome State Fault Refusal :=
  onTile t s (fun s =>
    if (s.tile t).ho.release then
      let s := s.advanceTo ((s.tile t).ho.hAge + 1)
      (s.setTap t 31).modTile t (fun x => { x with ho := { x.ho with release := false } })
    else s)

/-- PROOF_PASS_END (R378): the pass has its 2^(20 + HITS) crossings. -/
def execProofPassEnd (d : PassData) (s : State) : Host.Outcome State Fault Refusal :=
  onChip s (fun s =>
    let full := match s.cal.run with
      | some r => decide ((passTotal d) = 2 ^ (20 + r.hits))
      | none => false
    if s.collecting d && full then s.passEnd d else s)

/-- PROOF_PASS_TIMEOUT (R379, R391): CAL_TIMEOUT, in units of 10 ms, expires on a live pass that has not its crossings. -/
def execProofPassTimeout (d : PassData) (s : State) : Host.Outcome State Fault Refusal :=
  onChip s (fun s =>
    match s.cal.run with
    | some r =>
      if s.collecting d && !r.internal && decide ((passTotal d) < 2 ^ (20 + r.hits)) then
        (s.advanceTo (r.passAge + s.fld 0x8014 15 0 * 1250000)).passEnd d
      else s
    | none => s)

/-- PROOF_STORE_DONE (R370, R378, R382): the write of the ageing copy ends; the new codes come into force, and the
handback starts. -/
def execProofStoreDone (ok : Bool) (s : State) : Host.Outcome State Fault Refusal :=
  onChip s (fun s =>
    let finish := fun (b : Bool) (r : ProofRun) =>
      if ok then
        let s := (s.ageFinish b r.tile r.chan r.entry).loadTrims r.tile r.chan
        let s := s.modChan r.tile r.chan (fun y => { y with
          cal := { y.cal with proof := 1, dnl := r.newDnl, inl := r.newInl }
          sheet := { y.sheet with dead := false, deadRun := 0 }
          faulty := y.faulty && y.sheet.noisy
          unserved := y.unserved && y.sheet.noisy })
        s.proofBack r
      else (s.ageGone).proofFail r 10
    match s.cal.run, s.cfg.job with
    | some r, some .ageingA => if r.phase = 5 ∧ s.storeOwn then finish false r else s
    | some r, some .ageingB => if r.phase = 5 ∧ s.storeOwn then finish true r else s
    | _, _ => s)

/-- TRACK_TICK (R368, R374, R376): the supervisor reads the tiles' temperature sensors and sets new targets. -/
def execTrackTick (temps : List (Option Int)) (s : State) : Host.Outcome State Fault Refusal :=
  onChip s (fun s =>
    if s.supRuns && bit (s.rv 0x8018) 8 then
      let s := s.advanceTo (s.sup.trackAge + s.fld 0x8018 7 0 * 1250000)
      let s := { s with sup := { s.sup with trackAge := s.tb.age } }
      let inside := fun (v : Int) => decide (-640 ≤ v) && decide (v ≤ 1360)
      forKeys (List.range s.nTiles) (fun t s =>
        let v := ((temps[t]?).getD none).map (s.tempOf t)
        let bad := !(v.any inside)
        let s := s.modTile t (fun x => { x with
          temp := v
          trackT := if s.sup.trackHold || v.isNone then x.trackT else v })
        let s := forKeys (List.range 17) (fun c s => s.modChan t c (fun y => { y with sheet := { y.sheet with outT := bad } })) s
        if bad then s.raise (chipSrc 21) else s) s
    else s)

/-- DAC_STEP (R375): 1 µs passes, and every live DAC of every powered tile moves one code toward its target. -/
def execDacStep (s : State) : Host.Outcome State Fault Refusal :=
  onChip s (fun s =>
    let s := s.advance 125
    if s.sup.restarting || s.sup.trackHold then s
    else forKeys (List.range s.nTiles) (fun t s =>
      if (s.tile t).powered then forKeys (List.range 17) (fun c s => s.stepTrims t c) s else s) s)

/-- CONTACT_SHEET_REFRESH (R483): CS_CFG.PERIOD has passed since the last refresh. -/
def execContactSheetRefresh (s : State) : Host.Outcome State Fault Refusal :=
  onChip s (fun s =>
    if s.supRuns && decide (s.phase = .running) then
      (s.advanceTo (s.sup.sheetAge + s.fld 0x8040 7 0 * 1250000)).sheetRefresh
    else s)

/-- DMM_INTERVAL (R441): the interval of 128,000 slots of the slot age counter ends, and every count restarts at 0. -/
def execDmmInterval (s : State) : Host.Outcome State Fault Refusal :=
  onChip s (fun s =>
    let s := s.advanceTo ((s.tb.age / 128000 + 1) * 128000)
    forKeys (s.tiles.map (·.1)) (fun t s =>
      forKeys ((s.tile t).chans.map (·.1)) (fun c s => s.modChan t c (fun y => { y with dmm := 0 })) s) s)

end Sys2Proof.Machine
end

