-- ==== Sys2Proof/Machine/Sha.lean ====
section
/-! DEFINITION. The keyed digest that R400 and R472 name: SHA-256 (FIPS 180-4) and HMAC-SHA-256 (FIPS 198-1), on words as
natural numbers below 2^32. -/

namespace Sys2Proof.Machine

open Sys2Proof

/-- Word `i` of a packed table of 16 words, the first one highest. -/
def packedWord (table i : Nat) : Nat := (table >>> (32 * (15 - i))) % 2 ^ 32

/-- The constant of step `t`: its 32 bits of the cube root of a prime. -/
def stepConst (t : Nat) : Nat :=
  packedWord (match t / 16 with
    | 0 => 0x428a2f9871374491b5c0fbcfe9b5dba53956c25b59f111f1923f82a4ab1c5ed5d807aa9812835b01243185be550c7dc372be5d7480deb1fe9bdc06a7c19bf174
    | 1 => 0xe49b69c1efbe47860fc19dc6240ca1cc2de92c6f4a7484aa5cb0a9dc76f988da983e5152a831c66db00327c8bf597fc7c6e00bf3d5a7914706ca635114292967
    | 2 => 0x27b70a852e1b21384d2c6dfc53380d13650a7354766a0abb81c2c92e92722c85a2bfe8a1a81a664bc24b8b70c76c51a3d192e819d6990624f40e3585106aa070
    | _ => 0x19a4c1161e376c082748774c34b0bcb5391c0cb34ed8aa4a5b9cca4f682e6ff3748f82ee78a5636f84c878148cc7020890befffaa4506cebbef9a3f7c67178f2) (t % 16)

/-- Right rotation of a word. -/
def turnRight (n x : Nat) : Nat := x / 2 ^ n + x % 2 ^ n * 2 ^ (32 - n)

/-- A word rotated by each of the amounts, the results added bit by bit; `drop` shifts one more copy. -/
def spread (rots : List Nat) (drop : Option Nat) (x : Nat) : Nat :=
  let shifted := match drop with
    | some n => x / 2 ^ n
    | none => 0
  rots.foldl (fun y n => Nat.xor y (turnRight n x)) shifted

/-- Where `x` has a 1 the bit of `y`, elsewhere that of `z`. -/
def pick (x y z : Nat) : Nat := Nat.xor z (Nat.land x (Nat.xor y z))

/-- The bit that two of three words have. -/
def agree (x y z : Nat) : Nat := Nat.lor (Nat.land x y) (Nat.land z (Nat.lor x y))

/-- The digest's state: the last four words of its two chains, newest first. -/
structure Chains where
  a : List Nat
  e : List Nat
  deriving DecidableEq, Repr

/-- Word `i` of a list of words. -/
def wordAt (ws : List Nat) (i : Nat) : Nat := ws.getD i 0

/-- Step `t` with message word `w`: each chain grows by one word. -/
def Chains.step (x : Chains) (t w : Nat) : Chains :=
  let a := wordAt x.a
  let e := wordAt x.e
  let new := e 3 + spread [6, 11, 25] none (e 0) + pick (e 0) (e 1) (e 2) + stepConst t + w
  let mixed := spread [2, 13, 22] none (a 0) + agree (a 0) (a 1) (a 2)
  { a := (new + mixed) % 2 ^ 32 :: x.a.take 3, e := (a 3 + new) % 2 ^ 32 :: x.e.take 3 }

/-- The next word of the message schedule, from the words so far, newest first. -/
def scheduleWord (ws : List Nat) : Nat :=
  (spread [17, 19] (some 10) (wordAt ws 1) + wordAt ws 6 + spread [7, 18] (some 3) (wordAt ws 14) + wordAt ws 15) % 2 ^ 32

/-- The steps from step `t` on: the first 16 take the block's own words, the others scheduled ones. -/
def Chains.steps (x : Chains) (t : Nat) (ws own : List Nat) : Nat → Chains
  | 0 => x
  | n + 1 =>
    match own with
    | w :: own => (x.step t w).steps (t + 1) (w :: ws) own n
    | [] => let w := scheduleWord ws; (x.step t w).steps (t + 1) ((w :: ws).take 16) [] n

/-- A block of 64 bytes as 16 words, high byte first. -/
def blockWords (b : List Byte) : List Nat := (List.range 16).map (fun i => leNat ((b.drop (4 * i)).take 4).reverse)

/-- Word by word sums of two chains. -/
def addChain (x y : List Nat) : List Nat := List.zipWith (fun u v => (u + v) % 2 ^ 32) x y

/-- Take one block into the state. -/
def Chains.block (x : Chains) (b : List Byte) : Chains :=
  let y := x.steps 0 [] (blockWords b) 64
  { a := addChain x.a y.a, e := addChain x.e y.e }

/-- Take `n` blocks into the state. -/
def Chains.blocks (x : Chains) (b : List Byte) : Nat → Chains
  | 0 => x
  | n + 1 => (x.block (b.take 64)).blocks (b.drop 64) n

/-- The state before the first block: 32 bits each of the square roots of the first eight primes. -/
def Chains.start : Chains :=
  let w := packedWord 0x6a09e667bb67ae853c6ef372a54ff53a510e527f9b05688c1f83d9ab5be0cd190000000000000000000000000000000000000000000000000000000000000000
  { a := [w 0, w 1, w 2, w 3], e := [w 4, w 5, w 6, w 7] }

/-- A message filled up to whole blocks: a 1 bit, zeros, and its length in bits. -/
def padded (m : List Byte) : List Byte :=
  m ++ 0x80 :: (List.replicate ((119 - m.length % 64) % 64) 0 ++ (leBytes 8 (8 * m.length)).reverse)

/-- SHA-256 of a byte string. -/
def sha256 (m : List Byte) : List Byte :=
  let p := padded m
  let x := Chains.start.blocks p (p.length / 64)
  (x.a ++ x.e).flatMap (fun w => (leBytes 4 w).reverse)

/-- A key as one block: a long one by its digest, filled up with zeros. -/
def keyBlock (key : List Byte) : List Byte :=
  let k := if key.length ≤ 64 then key else sha256 key
  k ++ List.replicate (64 - k.length) 0

/-- HMAC-SHA-256 of a byte string under a key. -/
def hmacSha256 (key m : List Byte) : List Byte :=
  let masked := fun (v : Byte) => (keyBlock key).map (fun b => b ^^^ v)
  sha256 (masked 0x5c ++ sha256 (masked 0x36 ++ m))

end Sys2Proof.Machine
end

