-- ==== Sys2Proof/Machine/Inputs.lean ====
section
/-! DEFINITION. The analogue inputs: crossings (R22, R112 to R122), and the window level monitors (R133 to R144). -/

namespace Sys2Proof.Machine

open Sys2Proof

/-! ### Crossings -/

/-- The crossing lies in the matching interval of a handover, so the matcher takes it (R386); it is an edge of
HANDOVER_INSTANT. -/
def Handover.takesEdge (h : Handover) (c age sub : Nat) : Bool :=
  (decide (c = h.served) || decide (c = 16)) &&
    ((h.overlap && decide (age + 1 = h.hAge) && decide (7168 ≤ sub)) ||
      (decide (h.hAge = age) && decide (h.hAge ≠ 0) && decide (sub < 1024)))

/-- The channel is the incoming one of an open overlap window: its hits go to the matcher only (R385). -/
def Handover.incoming (h : Handover) (c : Nat) : Bool :=
  (decide (h.st = .toSpare) && decide (c = 16)) || (decide (h.st = .back) && decide (c = h.served))

/-- The channel's edges count as prompt edges of its input: it serves the input, or H falls in this slot (R303). -/
def State.promptFeeds (s : State) (t c : Nat) : Bool :=
  let h := (s.tile t).ho
  s.captures t c ||
    (decide (h.hAge = s.tb.age) && decide (h.hAge ≠ 0) && (decide (c = h.served) || decide (c = 16)) && s.chEn t h.served &&
      decide (s.chTie t c = 0))

/-- The threshold code that a comparator uses: the spare that taps an input uses that input's (R115, R131). -/
def State.thrCode (s : State) (t c : Nat) : Nat :=
  let n := if c = 16 ∧ s.tapSel t < 16 then s.tapSel t else c
  bits (s.rv (tileBase t + 0x404 + 64 * n)) 9 0

/-- The threshold voltage of a channel in nV, with a trimmed step of 1 mV; the errors of R115 stand in `vref`. -/
def State.vTh (s : State) (t c : Nat) (vref : Int) : Int := vref + ((s.thrCode t c : Int) - 512) * 1000000

/-- The comparator output: 1 when the signal is above the threshold voltage (R114). -/
def State.comparator (s : State) (t c : Nat) (v : Swing) : Bool := decide (s.vTh t c v.vref < v.signal)

/-- A crossing of a channel (R22): prompt edge, capture, decode mismatch. A hit of the incoming channel of an overlap window
goes to the matcher only, so it is the spare's first hit after its tap closed (R131, R385). -/
def State.crossing (s : State) (t c sub : Nat) (rise mismatch : Bool) : State :=
  let n := s.inputOf t c
  let e := rise != s.chInv t n
  let h := (s.tile t).ho
  let s := if s.promptFeeds t c then s.modChan t n (fun y => { y with recent := y.recent ++ [(s.tb.age, e)] }) else s
  if h.takesEdge c s.tb.age sub then s
  else if h.incoming c then
    let s := s.modChan t c (fun y => { y with tapIu := false })
    if mismatch && s.bracket then s.decodeMismatch t c else s
  else if s.captures t c then
    let bad := mismatch && s.bracket
    let full := decide (16 ≤ (s.chan t c).level s.tb.age)
    let s := s.captureAfter t c sub e bad
    if bad && !full then s.decodeMismatch t c else s
  else s

/-- EDGE (R22, R114 to R116, R153, R163, R165, R303): `sub` fine units into the present slot the signal or the threshold of
channel `c` moves; it is a crossing where the comparator output changes. `mismatch`: the two decodes of Bracket mode
disagree. -/
def execEdge (t c : Nat) (v : Swing) (sub : BitVec 13) (mismatch : Bool) (s : State) : Host.Outcome State Fault Refusal :=
  onChan t c s (fun s =>
    let out := s.comparator t c v
    if s.captureRuns t && (out != v.was) then s.crossing t c sub.toNat out mismatch else s)

/-! ### The level monitor -/

/-- The source after `k` in a mask, or none at the end of a round (R135). -/
def nextSource (mask : BitVec 21) (k : Nat) : Option Nat :=
  (List.range 21).find? (fun j => decide (k ≤ j) && mask.getLsbD j)

/-- Reported state of a source. -/
def LevelMon.state (m : LevelMon) (k : Nat) : Nat := mapGet (fun _ => 3) m.rep k

/-- LM_WIN of a source as the round took it (R136). -/
def LevelMon.win (m : LevelMon) (k : Nat) : Nat := (mapGet (fun _ => (0x4FFC00 : Reg32)) m.wins k).toNat

/-- The LM_LATCH bit of a source takes a value; one that goes from 0 to 1 sets the event (R138). -/
def State.setLatch (s : State) (t k : Nat) (v : Bool) : State :=
  let old := (s.tile t).lm.latch.getLsbD k
  let s := s.modTile t (fun x => { x with lm := { x.lm with
    latch := if v then x.lm.latch ||| BitVec.ofNat 21 (2 ^ k) else x.lm.latch &&& ~~~(BitVec.ofNat 21 (2 ^ k)) } })
  if v && !old then s.raise (tileSrc t 0) else s

/-- A latch bit in mode Follow is 1 while the reported state is BELOW or ABOVE (R137). -/
def State.lmFollow (s : State) (t : Nat) : State :=
  forKeys (List.range 21) (fun k s =>
    let m := (s.tile t).lm
    if bits (m.win k) 21 20 = 0 then s.setLatch t k (decide (m.state k = 1) || decide (m.state k = 2)) else s) s

/-- A round begins: it takes LM_MASK and LM_WIN as they stand, a mode Follow among them (R135 to R137). -/
def State.lmRound (s : State) (t : Nat) : State :=
  let mask := BitVec.ofNat 21 (s.rv (tileBase t + 0x844))
  let wins := (List.range 21).foldl (fun (m : Map Reg32) k =>
    mapSet (fun _ => 0x4FFC00) m k (BitVec.ofNat 32 (s.rv (tileBase t + 0x880 + 4 * k)))) []
  (s.modTile t (fun x => { x with lm := { x.lm with
    mask := mask, wins := wins, pos := (nextSource mask 0).getD 0, since := s.tb.age } })).lmFollow t

/-- LM_CTRL.EN goes from 0 to 1: every state is UNKNOWN until its first change, and a round begins (R136). -/
def State.lmStart (s : State) (t : Nat) : State :=
  (s.modTile t (fun x => { x with lm := { x.lm with
    rep := [], runSt := [], runN := [], inside := [], kept := [], recorded := [] } })).lmRound t

/-- The voltage of a source in nV (R133): the band-gap reference lies in 600 mV ± 3 mV, and source 20 is the threshold of the
channel in LM_MASK.PROBE, where `nv` gives V(VREFT) with the errors of R115; every other source has the voltage `nv`. -/
def State.sourceNv (s : State) (t k : Nat) (nv : Int) : Int :=
  if k = 17 then clampInt 597000000 603000000 nv
  else if k = 20 then s.vTh t (s.tfld t 0x844 28 24) nv
  else nv

/-- Voltage in nV of a level code, with the DAC's error (R134). -/
def levelNv (code : Nat) (err : Int) : Int := code * 1171875 + clampInt (-6000000) 6000000 err

/-- What the window comparator reports (R134). -/
def windowState (w : Nat) (nv errLo errHi : Int) : Nat :=
  if nv < levelNv (bits w 9 0) errLo then 1 else if levelNv (bits w 19 10) errHi < nv then 2 else 0

/-- A level record is offered to queue QNUM; a refusal is counted in LM_STAT (R139, R140). -/
def State.lmRecord (s : State) (t k prev new : Nat) (at_ : Kept) : State :=
  match s.lmQueue t with
  | some q =>
    let s := s.settleHeld t q none
    if s.capFits t q && (s.heldAt t q).isEmpty then
      let s := (s.capOffer t q s.tb.age (levelRecord k at_.epoch at_.time new prev)).2
      s.modTile t (fun x => { x with lm := { x.lm with recorded := mapSet (fun _ => 3) x.lm.recorded k new } })
    else
      (s.qRefuse t q 1).modTile t (fun x => { x with lm := { x.lm with refused := satAdd 65535 x.lm.refused 1 } })
  | none => s

/-- A change of reported state: the record, or while the tile is gated the count and the wake request (R139 to R142). -/
def State.lmChanged (s : State) (t k prev new : Nat) : State :=
  let kept : Kept := { time := s.now, epoch := s.tb.epoch, cs := s.cs, st := s.st }
  let s := s.modTile t (fun x => { x with lm := { x.lm with
    kept := mapSet (fun _ => none) x.lm.kept k (some kept)
    moved := x.lm.moved ||| BitVec.ofNat 21 (2 ^ k) } })
  if (s.tile t).powered then s.lmRecord t k prev new kept
  else
    let wakes := bit (s.rv (tileBase t + 0x854)) k && decide (new ≠ 0)
    let s := s.modTile t (fun x => { x with lm := { x.lm with
      dark := satAdd 65535 x.lm.dark 1
      wake := x.lm.wake || wakes } })
    { s with sup := { s.sup with wakeAsk := s.sup.wakeAsk || (wakes && s.sup.asleep) } }

/-- The LM_LATCH bit after a sample (R137). -/
def latchNext (mode : Nat) (old changed : Bool) (new inside autoclr : Nat) : Bool :=
  let sets := changed && decide (new ≠ 0)
  match mode with
  | 0 => decide (new = 1) || decide (new = 2)
  | 2 => (old && !decide (autoclr ≤ inside)) || sets
  | _ => old || sets

/-- One sample of source `k` (R136 to R138). -/
def State.lmTake (s : State) (t k x : Nat) : State :=
  let m := (s.tile t).lm
  let w := m.win k
  let n := if mapGet (fun _ => 3) m.runSt k = x then min 15 (mapGet (fun _ => 0) m.runN k + 1) else 1
  let ins := if x = 0 then min 255 (mapGet (fun _ => 0) m.inside k + 1) else 0
  let prev := m.state k
  let changed := decide (x ≠ prev) && decide (bits w 25 22 ≤ n)
  let new := if changed then x else prev
  let old := m.latch.getLsbD k
  let lat := latchNext (bits w 21 20) old changed new ins (s.tfld t 0x840 31 24)
  let s := s.modTile t (fun x' => { x' with lm := { x'.lm with
    runSt := mapSet (fun _ => 3) x'.lm.runSt k x
    runN := mapSet (fun _ => 0) x'.lm.runN k n
    inside := mapSet (fun _ => 0) x'.lm.inside k ins
    rep := mapSet (fun _ => 3) x'.lm.rep k new } })
  let s := s.setLatch t k lat
  if changed then s.lmChanged t k prev new else s

/-- The visit after the one to source `k`; a new round after the last (R135, R136). -/
def State.lmNext (s : State) (t k : Nat) : State :=
  match nextSource (s.tile t).lm.mask (k + 1) with
  | some j => s.modTile t (fun x => { x with lm := { x.lm with pos := j, since := s.tb.age } })
  | none => s.lmRound t

/-- A tile is powered again: one record for every source whose reported state differs from its last recorded one, each
behind a seconds marker of its kept instant, then a seconds marker of the present second (R141). -/
def State.lmWake (s : State) (t : Nat) : State :=
  match s.lmQueue t with
  | some q =>
    let mark := fun (w : W64) (s : State) => s.giveMarks t q [({ w := w, age := s.tb.age } : HeldMark)]
    let s := forKeys (List.range 21) (fun k s =>
      let m := (s.tile t).lm
      match mapGet (fun _ => none) m.kept k with
      | some kt =>
        let last := mapGet (fun _ => 3) m.recorded k
        if m.state k = last then s
        else (mark (secondsMarker kt.epoch kt.cs kt.st kt.time.s) s).lmRecord t k last (m.state k) kt
      | none => s) s
    mark s.secMark s
  | none => s

/-- LM_SAMPLE (R133 to R142): the visit's last slot boundary; `nv` is the voltage at its source in nV, `errLo` and `errHi`
the errors of the two DACs. -/
def execLmSample (t : Nat) (nv errLo errHi : Int) (s : State) : Host.Outcome State Fault Refusal :=
  onTile t s (fun s =>
    if bit (s.rv (tileBase t + 0x840)) 0 then
      if (s.tile t).lm.mask = 0 then s.lmRound t
      else
        let s := s.advanceTo ((s.tile t).lm.since + s.tfld t 0x840 23 16)
        let m := (s.tile t).lm
        let k := m.pos
        (s.lmTake t k (windowState (m.win k) (s.sourceNv t k nv) errLo errHi)).lmNext t k
    else s)

end Sys2Proof.Machine
end

