-- ==== Sys2Proof/Machine/Writes.lean ====
section
/-! DEFINITION. What a value in an RW or RWF field does: values refused for themselves alone (R399, R515), and the
effect of a field that takes a value, by a write or a record (R114, R116, R119, R130, R136, R393, R475). -/

namespace Sys2Proof.Machine

open Sys2Proof

/-! ### Values refused for themselves alone -/

/-- A nanosecond register takes multiples of 8 below 10^9 (R78, R358, R428). -/
def badNs (w : Nat) : Bool := decide (bits w 29 0 % 8 ≠ 0) || decide (nsPerSec ≤ bits w 29 0)

/-- A register write of this value is refused for the value alone, whatever the state (R79, R83, R108, R121, R129, R144,
R391, R392, R429, R458, R479, and the field ranges of their tables). -/
def Reg.valueBad (r : Reg) (i w : Nat) : Bool :=
  match r with
  | .tbCtrl => decide (bits w 1 0 = 3)
  | .tbSetNs | .lkSwNs | .cfgFixNs => badNs w
  | .tbRampCtrl => decide (bits w 1 0 = 3)
  | .ttAsym => decide (2 ^ 24 < (signed 32 w).natAbs)
  | .evCfg => !hostReceives (bits w 6 0)
  | .evRoute => decide (i = 8) && bit w 12
  | .mbPtr => decide (w % 8 ≠ 0) || decide (262136 < w)
  | .cfgCtrl => decide (bits w 1 0 = 3)
  | .calCtrl => decide (4 < bits w 14 12)
  | .calTimeout => decide (bits w 15 0 = 0)
  | .calTrack => decide (bits w 7 0 = 0) || decide (100 < bits w 7 0) || decide (bits w 23 16 = 0)
  | .tcXbar => decide (16 ≤ bits w 4 0) && decide (bits w 4 0 ≤ 30)
  | .tcHoCtrl => decide (bits w 31 16 = 0)
  | .chCfg => bit w 0 && decide (bits w 3 2 ≠ 0)
  | .chCheck => decide (bits w 15 8 = 0)
  | .chTrimSel => decide ((if i = 16 then 82 else 66) < bits w 6 0)
  | .lmCtrl => decide (bits w 23 16 < 4) || decide (bits w 31 24 = 0)
  | .lmMask => decide (16 < bits w 28 24)
  | .lmWin => decide (bits w 19 10 ≤ bits w 9 0) || decide (bits w 21 20 = 3) || decide (bits w 25 22 = 0)
  | _ => false

/-! ### Field effects -/

/-- Sources of a mask word whose bit goes from 1 to 0 while set: their routes act (R475). -/
def State.unmask (s : State) (first old new n : Nat) : State :=
  forKeys ((List.range n).filter (fun i => bit old i && !bit new i)) (fun i s =>
    if s.evSet (first + i) then s.routes (first + i) s.now true else s) s

/-- CH_CFG of a channel takes a value (R114, R119, R131): enabling and a change of INV break polarity continuity, for the
spare too where it taps the input; its own INV counts only while it taps none. -/
def State.setChCfg (s : State) (t c : Nat) (w : Reg32) : State :=
  let a := tileBase t + 0x400 + 64 * c
  let old := s.rv a
  let s := s.setReg a w
  let turned := bit old 1 != bit w.toNat 1
  let raised := bit w.toNat 0 && !bit old 0
  let s := if raised || (turned && (decide (c ≠ 16) || decide (s.tapSel t = 31))) then s.modChan t c Chan.oweIu else s
  if (raised || turned) && decide (c < 16) && decide (s.tapSel t = c) then s.modChan t 16 Chan.oweIu else s

/-- CH_THR takes a value; one written while a check runs waits for its end (R116, R123). -/
def State.setChThr (s : State) (t c : Nat) (w : Reg32) : State :=
  if (s.chan t c).check.busy then s.modChan t c (fun y => { y with check := { y.check with thr := some w } })
  else s.setReg (tileBase t + 0x404 + 64 * c) w

/-- LM_CTRL takes a value; sampling that starts begins with unknown states (R136). -/
def State.setLmCtrl (s : State) (t : Nat) (w : Reg32) : State :=
  let a := tileBase t + 0x840
  let was := bit (s.rv a) 0
  let s := s.setReg a w
  if bit w.toNat 0 && !was then s.lmStart t else s

/-- The RW or RWF fields of the register at `a` take the value `w` (R393, R510): the register's own effect, where it has
one. -/
def State.setField (s : State) (a : Nat) (w : Reg32) : State :=
  match regAt a with
  | some r =>
    let t := r.tile.getD 0
    match r.row.reg with
    | .mbPtr => s.setSlot r.i { s.slot r.i with ptr := w.setWidth 24 }
    | .mbTag => s.setSlot r.i { s.slot r.i with tag := w.setWidth 16 }
    | .evMask => (s.setReg a w).unmask (1024 + 32 * r.i) (s.rv a) w.toNat 32
    | .teMask => (s.setReg a w).unmask (16 * t) (s.rv a) w.toNat 16
    | .ttAsym => (s.setReg a w).endHold
    | .tcXbar => if s.tapSel t = bits w.toNat 4 0 then s else s.setTap t (bits w.toNat 4 0)
    | .chCfg => s.setChCfg t r.i w
    | .chThr => s.setChThr t r.i w
    | .lmCtrl => s.setLmCtrl t w
    | .tbCtrl =>
      let ref := s.refClk
      (s.setReg a w).refSwitch ref
    | _ => s.setReg a w
  | none => s

end Sys2Proof.Machine
end

