-- ==== Sys2Proof/Machine/Image.lean ====
section
/-! DEFINITION. The bit-stream image (R395 to R402): its header and records, the targets a record may write, the staged
configuration, and every rule that names a value as rejected at load. -/

namespace Sys2Proof.Machine

open Sys2Proof

/-! ### Places of the configuration (R398) -/

/-- A place that a record writes: a register, a program word, or a word of the context store. -/
inductive Place where
  | reg (a : Nat)
  | pm (t i : Nat)
  | cx (t w : Nat)
  deriving DecidableEq, Repr

/-- Tiles that a record names, on a part with `n` tiles (R397). -/
def Rec.tileList (r : Rec) (n : Nat) : List Nat :=
  if r.mode = 0 then [] else (List.range n).filter (fun t => decide (r.mode = 2) || r.tiles.getLsbD t)

/-- The place of word `j` of a record in one tile (R398). -/
def Rec.placeIn (r : Rec) (t j : Nat) : Place :=
  if r.block = 0 then .reg (tileBase t + r.off + 4 * j) else if r.block = 1 then .pm t (r.off + j) else .cx t (r.off + j)

/-- The places of a record with their words, in ascending order (R397, R398). -/
def Rec.writes (r : Rec) (n : Nat) : List (Place × W64) :=
  let js := r.pay.zip (List.range r.pay.length)
  if r.mode = 0 then js.map (fun p => (.reg (r.off + 4 * p.2), p.1))
  else (r.tileList n).flatMap (fun t => js.map (fun p => (r.placeIn t p.2, p.1)))

/-- The tile of a place; none for a chip register. -/
def Place.tile : Place → Option Nat
  | .reg a => tileOf a
  | .pm t _ => some t
  | .cx t _ => some t

/-! ### Targets (R399) -/

/-- The register at `a` refuses the word `w` of a record: it is unmapped or lies in the configuration block, it has no
RW or RWF field, it has a WO or W1C field, the word sets a reserved or RO bit, or a write would refuse the value. -/
def regTargetBad (a w : Nat) : Bool :=
  match regAt a with
  | some r =>
    let m := r.row.rw + r.row.rwf
    decide (m = 0) || decide (r.row.w1c ≠ 0) || decide (r.row.wo ≠ 0) || decide (0x7000 ≤ a ∧ a < 0x8000) ||
      decide (Nat.land w m ≠ w) || r.row.reg.valueBad r.i w
  | none => true

/-- Reserved bits of descriptor word `k` (R171) and of words 26 and 27 (R215). -/
def descReserved (k : Nat) : Nat :=
  match k with
  | 0 => 0xFFFFF000800000E0
  | 1 => 0xFFFFFFFF00000000
  | 4 => 0xFFFFFE0000000000
  | 6 => 0xFFFFFFF0C0000000
  | 26 => 0xFFFFFFFF00000000
  | 27 => 0xFFFFFFFFFFFFF000
  | _ => 0

/-- A place refuses the word of a record (R398, R399). -/
def Place.bad (p : Place) (w : W64) : Bool :=
  match p with
  | .reg a => regTargetBad a w.toNat
  | .pm _ i => decide (2048 ≤ i) || decide (2 ^ 48 ≤ w.toNat)
  | .cx _ k => decide (4096 ≤ k) || decide (28 ≤ k % 64) || decide (Nat.land w.toNat (descReserved (k % 64)) ≠ 0)

/-- A record of `len` payload bytes is refused for its fields or its target (R399). A record with LENGTH 0 writes
nothing, and its MODE, BLOCK and TILES still have to be ones the layout allows (DEDUCED, log entry 60). -/
def Rec.bad (r : Rec) (len n : Nat) : Bool :=
  decide (2 < r.mode) || decide (2 < r.block) || decide (len % (if r.block = 0 then 4 else 8) ≠ 0) ||
    (decide (r.mode = 0) && decide (r.block ≠ 0)) ||
    (if r.mode = 1 then decide (r.tiles.toNat = 0) || decide (2 ^ n ≤ r.tiles.toNat) else decide (r.tiles.toNat ≠ 0)) ||
    (r.block = 0 && !r.pay.isEmpty && (decide (r.off % 4 ≠ 0) ||
      decide ((if r.mode = 0 then 0x100000 else 0x4000) < r.off + 4 * r.pay.length))) ||
    (r.writes n).any (fun p => p.1.bad p.2)

/-! ### Reading an image (R395, R397, R401) -/

/-- A little-endian number at byte `o` of an image. -/
def imgNum (b : List Byte) (o n : Nat) : Nat := leNat ((b.drop o).take n)

/-- PART of the part (R395). -/
def Part.code : Part → Nat
  | .t1024 => 0x1024
  | .t256 => 0x0256

/-- Step 1 of R401: the reason that the header fails for, for an action that needs `kind` and a destination of `cap`
bytes. FORMAT 0 is an earlier version and loads (R508). -/
def headBad (b : List Byte) (kind cap part : Nat) : Option Nat :=
  let len := imgNum b 12 4
  if imgNum b 0 4 ≠ 0x474D4954 ∨ 1 < imgNum b 4 2 ∨ imgNum b 6 1 ≠ kind ∨ 1 < imgNum b 7 1 then some 1
  else if imgNum b 16 2 ≠ part then some 2
  else if len = 0 then some 16
  else if len % 4 ≠ 0 ∨ len < 64 ∨ cap < len ∨ b.length < len then some 3
  else none

/-- Step 2 of R401: TAG is right (R400). -/
def tagGood (key b : List Byte) : Bool :=
  decide ((b.drop 32).take 32 = hmacSha256 key (b.take 32 ++ (b.take (imgNum b 12 4)).drop 64))

/-- Little-endian words of `n` bytes each. -/
def wordsOf (n : Nat) : Nat → List Byte → List W64
  | 0, _ => []
  | k + 1, b => BitVec.ofNat 64 (leNat (b.take n)) :: wordsOf n k (b.drop n)

/-- The record at the front of a byte string, with its payload length. -/
def recAt (b : List Byte) : Rec × Nat :=
  let len := imgNum b 2 2
  let size := if imgNum b 1 1 = 0 then 4 else 8
  ({ mode := imgNum b 0 1
     block := imgNum b 1 1
     off := imgNum b 4 4
     tiles := BitVec.ofNat 64 (imgNum b 8 8)
     pay := wordsOf size (len / size) (b.drop 16) }, len)

/-- Step 3 of R401: the records, each with its CRC and its target checked; otherwise the reason and the record at which
it arose. -/
def parseRecs (n : Nat) : Nat → Nat → List Byte → Except (Nat × Nat) (List Rec)
  | 0, k, b => if b.isEmpty then .ok [] else .error (3, k)
  | fuel + 1, k, b =>
    if b.isEmpty then .ok []
    else
      let (r, len) := recAt b
      if b.length < 20 + len then .error (3, k)
      else if crc32c (b.take (16 + len)) ≠ imgNum b (16 + len) 4 then .error (5, k)
      else if r.bad len n then .error (6, k)
      else match parseRecs n fuel (k + 1) (b.drop (20 + len)) with
        | .ok rs => .ok (r :: rs)
        | .error e => .error e

/-- Steps 1 to 3 of R401, on the bytes of a source of `cap` bytes; otherwise the reason and the record. A record count
that differs from RECORDS names record 0. -/
def State.readImage (s : State) (b : List Byte) (kind cap : Nat) : Except (Nat × Nat) Image :=
  match headBad b kind cap s.part.code with
  | some r => .error (r, 0)
  | none =>
    if !tagGood s.key b then .error (4, 0)
    else
      let body := (b.take (imgNum b 12 4)).drop 64
      match parseRecs s.nTiles body.length 0 body with
      | .error e => .error e
      | .ok rs =>
        if rs.length ≠ imgNum b 20 4 then .error (3, 0)
        else .ok { kind := kind, profile := imgNum b 7 1, seq := imgNum b 8 4, recs := rs }

/-! ### The staged configuration (R401, R402, R417) -/

/-- Put a word at a place of a staged configuration, with no effect beyond it (R401). -/
def State.stage (s : State) (p : Place × W64) : State :=
  match p.1 with
  | .reg a => s.setReg a (p.2.setWidth 32)
  | .pm t i => s.modTile t (fun x => { x with pm := mapSet (fun _ => 0) x.pm i (p.2.setWidth 48) })
  | .cx t k => s.setCxWord t k p.2

/-- Put records into a staged configuration, in image order (R401). -/
def State.stageRecs (s : State) (rs : List Rec) : State := (rs.flatMap (·.writes s.nTiles)).foldl State.stage s

/-- The register at `a` is RWF (R393). -/
def isRwf (a : Nat) : Bool :=
  match regAt a with
  | some r => decide (r.row.rwf ≠ 0)
  | none => false

/-- A configuration with every RWF field at its reset value and no program or context word written (R402, R407). -/
def State.bare (s : State) : State :=
  let s := { s with regs := s.regs.filter (fun p => !isRwf p.1) }
  forKeys (List.range s.nTiles) (fun t s => s.modTile t (fun x => { x with pm := [], pmNew := [], cx := [], ctxs := [] })) s

/-- The staged configuration of a full image (R401, R402). -/
def State.stagedFull (s : State) (i : Image) : State :=
  let b := s.bare
  ({ b with cfg := { b.cfg with bracket := decide (i.profile = 1) } }).stageRecs i.recs

/-- The shadow that a latent update gives (R417): the registers in force with the update's, the program and descriptor
words of the fixed image with the update's. -/
def State.stagedUpd (s : State) (i : Image) : State :=
  let b := forKeys (List.range s.nTiles) (fun t s => s.modTile t (fun x => { x with pm := [], pmNew := [], cx := [], ctxs := [] })) s
  let words := (s.cfg.recs.filter (fun r => decide (r.block ≠ 0))) ++ i.recs
  b.stageRecs words

/-! ### Load-time rules (R401 step 5) -/

/-- A rule broken where `b` holds, with the places it involves. -/
def breach (b : Bool) (ps : List Place) : Option (List Place) := if b then some ps else none

/-- A field's range: register, bits, least and greatest value (R81, R82, R108, R111, R312, R360, R453, R483). -/
structure Range where
  a : Nat
  hi : Nat
  lo : Nat
  least : Nat
  most : Nat

/-- The ranges of chip fields that a bit-stream may not leave. -/
def chipRanges : List Range :=
  [⟨0x1008, 6, 0, 2, 64⟩, ⟨0x1008, 31, 16, 256, 65535⟩, ⟨0x100C, 15, 4, 8, 4000⟩, ⟨0x100C, 29, 20, 1, 1000⟩,
   ⟨0x200C, 23, 0, 8, 1000000⟩, ⟨0x2010, 15, 0, 16, 65535⟩, ⟨0x2008, 7, 4, 2, 15⟩, ⟨0x2008, 15, 8, 1, 255⟩,
   ⟨0x2008, 31, 16, 20, 10000⟩, ⟨0x6000, 3, 0, 1, 8⟩, ⟨0x3008, 4, 0, 1, 16⟩, ⟨0x300C, 15, 0, 1, 65535⟩,
   ⟨0x300C, 17, 16, 0, 2⟩, ⟨0xA008, 20, 14, 1, 88⟩, ⟨0xA008, 27, 24, 1, 15⟩, ⟨0x8040, 7, 0, 1, 255⟩,
   ⟨0x8040, 11, 8, 1, 15⟩, ⟨0x8040, 15, 12, 1, 15⟩, ⟨0x8040, 31, 16, 1, 65535⟩]

/-- A field lies in its range. -/
def Range.ok (r : Range) (s : State) : Bool := decide (r.least ≤ s.fld r.a r.hi r.lo) && decide (s.fld r.a r.hi r.lo ≤ r.most)

/-- A 64-bit mask of tiles in two registers names a tile that the part has not. -/
def State.beyondPart (s : State) (a b : Nat) : Bool := decide (2 ^ s.nTiles ≤ s.rv a + 2 ^ 32 * s.rv b)

/-- R312, chip part: topology and chip-term bits of tiles the part has not, and PR_MAP selections 264 to 510. The row on
WIDTH above 4,095 cannot arise, for WIDTH has 12 bits. -/
def State.promptRule (s : State) : Option (List Place) :=
  ((List.range 12).findSome? (fun k =>
    let a := 0x6108 + 16 * k
    breach (s.beyondPart a (a + 4)) [.reg a, .reg (a + 4)])).orElse (fun _ =>
  ((List.range 64).findSome? (fun m =>
    let a := 0x6700 + 4 * m
    breach ((List.range 32).any (fun j => bit (s.rv a) j && decide (s.nTiles ≤ (32 * (m % 8) + j) / 4))) [.reg a])).orElse (fun _ =>
  (List.range 128).findSome? (fun m =>
    let a := 0x6500 + 4 * m
    let far := fun n : Nat => decide (264 ≤ n) && decide (n ≤ 510)
    breach (far (s.fld a 8 0) || far (s.fld a 24 16)) [.reg a])))

/-- R360, the rows on flow-control inputs. -/
def State.fciRule (s : State) : Option (List Place) :=
  (List.range 4).findSome? (fun k =>
    let a := 0x3040 + 16 * k
    let maps := bit (s.rv a) 0 || decide (s.rv (a + 4) ≠ 0) || decide (s.rv (a + 8) ≠ 0)
    breach ((maps && decide (s.fld a 31 16 = 0)) || s.beyondPart (a + 4) (a + 8)) [.reg a, .reg (a + 4), .reg (a + 8)])

/-- The first rule on chip registers that a staged configuration breaks. -/
def State.chipRule (s : State) : Option (List Place) :=
  (chipRanges.findSome? (fun r => breach (!r.ok s) [.reg r.a])).orElse (fun _ => s.promptRule.orElse (fun _ => s.fciRule))

/-- A register of a tile as a place. -/
def tileReg (t o : Nat) : Place := .reg (tileBase t + o)

/-- The engine's configuration registers as places. -/
def engPlaces (t e : Nat) : List Place := [tileReg t (0x2000 + 64 * e), tileReg t (0x2004 + 64 * e), tileReg t (0x2008 + 64 * e)]

/-- A descriptor's words as places. -/
def descPlaces (t c : Nat) : List Place := (List.range 8).map (fun k => .cx t (64 * c + k))

/-- Active engines of a tile (R232). -/
def State.activeEngs (s : State) (t : Nat) : List Nat := (List.range 9).filter (fun e => bit (s.engCfg t e) 29)

/-- Functions of the engines: engine and context (R210). -/
def State.funcs (s : State) (t : Nat) : List (Nat × Nat) :=
  (List.range 9).flatMap (fun e => (s.ctxMap t e).map (fun c => (e, c)))

/-- R167: an EQ that names the latency buffer. -/
def State.destRule (s : State) (t : Nat) : Option (List Place) :=
  (List.range 16).findSome? (fun c =>
    breach (bit (s.chDest t c) 8 && decide (bits (s.chDest t c) 7 0 = s.lbq t))
      [tileReg t (0x414 + 64 * c), tileReg t 0x50])

/-- Source B of a function is used (R551). -/
def State.bUsed (s : State) (t c : Nat) : Bool := usesB (s.func t c) (s.dsc t c 43 40) (s.dsc t c 17 13)

/-- A source is a local input that the engine owns. -/
def State.ownsInput (s : State) (t e n : Nat) : Bool := decide (n < 16) && bit (bits (s.engCfg t e) 15 0) n

/-- Rows of R172 on a function's sources, polarities and gate. -/
def State.gateBad (s : State) (t e c : Nat) : Bool :=
  let f := s.func t c
  let k := s.gateKind t c
  let n := fieldOf (s.cxWord t (64 * c + 1)) 31 0
  let pol := fun p : Nat => decide (p = 0) || (decide (p = 3) && decide (f ≠ 1))
  decide (f = 0) || decide (16 ≤ f ∧ f ≤ 23) || !s.ownsInput t e (s.dsc t c 12 8) || pol (s.dsc t c 19 18) ||
    (s.bUsed t c && (!s.ownsInput t e (s.dsc t c 17 13) || pol (s.dsc t c 21 20))) ||
    (decide (k = 0) && decide (f ≠ 5 ∧ f ≠ 8) && (decide (n = 0) || decide (976562500 < n))) ||
    ((decide (k = 1) || decide (k = 2)) && (decide (f = 5) || decide (f = 8) || decide (f = 15))) ||
    (decide (k = 3) && (decide (f = 15) || decide (n % 65536 = 0))) ||
    (decide (k = 2) && (!s.ownsInput t e (s.dsc t c 28 24) || decide (s.dsc t c 30 29 = 0) || decide (s.dsc t c 30 29 = 3)))

/-- Rows of R172 on a function's own parameters. -/
def State.paramBad (s : State) (t c : Nat) : Bool :=
  let f := s.func t c
  let q := s.dsc t c 43 40
  let w := fun k => s.cxWord t (64 * c + k)
  let stat := decide (12 ≤ f ∧ f ≤ 14)
  let n := fieldOf (w 1) 31 0
  let tau0 := fieldOf (w 6) 29 0
  let tauN := fieldOf (w 6) 35 32
  ((decide (f = 9 ∨ f = 10) || (stat && decide (q = 2 ∨ q = 3))) && (decide ((w 2).toNat = 0) || decide (2 ^ 40 < (w 2).toNat))) ||
    (stat && decide (3 < q)) ||
    (decide (f = 14) && (decide (fieldOf (w 4) 31 0 = 0) || decide (fieldOf (w 4) 40 32 = 0) || decide (256 < fieldOf (w 4) 40 32))) ||
    (decide (f = 15) && (decide ((w 5).toNat = 0) || decide (tau0 = 0) || decide (tauN = 0) || decide (8 < tauN) ||
      decide (n % tau0 ≠ 0) || (List.range tauN).any (fun i => decide (fieldOf (w 7) (8 * i + 7) (8 * i) = 0))))

/-- Two functions that R172 does not allow together: one OUT_Q on two engines, or the same FUNC, SRC_A, SRC_B and OUT_Q. -/
def State.pairBad (s : State) (t : Nat) (x y : Nat × Nat) : Bool :=
  decide (s.outQ t x.2 = s.outQ t y.2) && (decide (x.1 ≠ y.1) ||
    (decide (s.func t x.2 = s.func t y.2) && decide (s.dsc t x.2 17 8 = s.dsc t y.2 17 8)))

/-- The first pair of a list, in order, for which a test holds. -/
def findPair {α : Type} (p : α → α → Bool) : List α → Option (α × α)
  | [] => none
  | x :: xs => match xs.find? (p x) with
    | some y => some (x, y)
    | none => findPair p xs

/-- R172: descriptors, each and in pairs. -/
def State.descRule (s : State) (t : Nat) : Option (List Place) :=
  ((s.funcs t).findSome? (fun f => breach (s.gateBad t f.1 f.2 || s.paramBad t f.2) (descPlaces t f.2 ++ engPlaces t f.1))).orElse (fun _ =>
    (findPair (s.pairBad t) (s.funcs t)).map (fun p => descPlaces t p.1.2 ++ descPlaces t p.2.2))

/-- An instruction word breaks R232 at its position. -/
def wordBad (pc : Nat) (w : IWord) : Bool :=
  let out := fun v : BitVec 24 => decide ((pc : Int) + v.toInt < 0) || decide (2047 < (pc : Int) + v.toInt)
  match decodeEng w with
  | none => true
  | some (.br _ _ _ v) | some (.brk _ _ _ v) | some (.bbit _ _ _ v) | some (.jmp v) | some (.jal _ v) | some (.wait v) => out v
  | some (.ext _ _ v) =>
    let n := bits v.toNat 11 6
    decide (64 < bits v.toNat 5 0 + (if n = 0 then 64 else n))
  | some (.ins _ _ k _) => decide (2 < k.toNat)
  | some _ => false

/-- R232, rows on engines, contexts and inputs. -/
def State.engineRule (s : State) (t : Nat) : Option (List Place) :=
  let act := s.activeEngs t
  (act.findSome? (fun e =>
    let b := bits (s.engCfg t e) 28 24
    let q := bits (s.engCfg t e) 23 16
    breach (decide (b = 0) || decide (16 < b) || decide (e = 8) || (s.bracket && decide (e % 2 = 1)) || decide (q = s.lbq t) ||
      (s.funcs t).any (fun f => decide (s.outQ t f.2 = q)))
      (engPlaces t e ++ tileReg t 0x50 :: ((s.funcs t).filter (fun f => s.outQ t f.2 = q)).flatMap (fun f => descPlaces t f.2)))).orElse (fun _ =>
  ((List.range 16).findSome? (fun c =>
    let own := (List.range 9).filter (fun e => s.ownsInput t e c)
    breach (decide (1 < own.length) || own.any (fun e =>
        !(bit (s.chDest t c) 8 && decide (bits (s.chDest t c) 7 0 = bits (s.engCfg t e) 23 16))))
      (tileReg t (0x414 + 64 * c) :: own.flatMap (engPlaces t)))).orElse (fun _ =>
  (List.range 64).findSome? (fun c =>
    let own := (List.range 9).filter (fun e => (s.ctxMap t e).contains c)
    breach (decide (1 < own.length)) (own.flatMap (engPlaces t)))))

/-- Local inputs that a function uses as sources. -/
def State.srcsOf (s : State) (t c : Nat) : List Nat := s.dsc t c 12 8 :: (if s.bUsed t c then [s.dsc t c 17 13] else [])

/-- R232, rows on trigger gates, programs and the checkpoint interval. -/
def State.programRule (s : State) (t : Nat) : Option (List Place) :=
  ((s.funcs t).findSome? (fun f =>
    let off := (s.srcsOf t f.2).filter (fun n => !bit (s.chDest t n) 9)
    breach (decide (s.gateKind t f.2 = 3) && !off.isEmpty) (descPlaces t f.2 ++ off.map (fun n => tileReg t (0x414 + 64 * n))))).orElse (fun _ =>
  ((findPair (fun x y : Nat × Nat => decide (s.outQ t x.2 = s.outQ t y.2) &&
      (decide (s.gateKind t x.2 = 3) != decide (s.gateKind t y.2 = 3))) (s.funcs t)).map
    (fun p => descPlaces t p.1.2 ++ descPlaces t p.2.2)).orElse (fun _ =>
  ((s.tile t).pm.findSome? (fun p => breach (wordBad p.1 p.2) [.pm t p.1])).orElse (fun _ =>
  breach (decide (s.tfld t 0x2400 8 0 < 16) || decide (256 < s.tfld t 0x2400 8 0)) [tileReg t 0x2400])))

/-- First and last-plus-one word of a queue (R248). -/
def State.qSpan (s : State) (t q : Nat) : Nat × Nat := let b := bits (s.qDesc t q) 23 12 * 8; (b, b + s.qCap t q)

/-- A queue's descriptor as a place. -/
def descReg (t q : Nat) : Place := tileReg t (0x1000 + 16 * q)

/-- Rows of R251 on one queue's own registers. -/
def State.queueBad (s : State) (t q : Nat) : Bool :=
  let d := s.qDesc t q
  let hi := bits (s.qWm t q) 11 0
  let lo := bits (s.qWm t q) 23 12
  (decide (s.qCap t q ≠ 0) && decide ((if s.bracket then 16384 else 32768) < (s.qSpan t q).2)) ||
    (decide (bits d 7 4 ≠ 0) && (decide (q ≠ s.lbq t) || decide (8 < bits d 7 4))) ||
    (bit d 8 && (decide (q = s.lbq t) || (s.activeEngs t).any (fun e => decide (bits (s.engCfg t e) 23 16 = q)))) ||
    (decide (hi ≠ 0) && (decide (hi ≤ lo) || decide (s.qCap t q < 8 * hi))) ||
    (bit (s.qWm t q) 27 && decide (hi = 0))

/-- Queues that engines name as INQ or OUT_Q, with the places that name them. -/
def State.namedQs (s : State) (t : Nat) : List (Nat × List Place) :=
  (s.activeEngs t).map (fun e => (bits (s.engCfg t e) 23 16, engPlaces t e)) ++
    (s.funcs t).map (fun f => (s.outQ t f.2, descPlaces t f.2))

/-- R251 on a tile's queues. -/
def State.queueRule (s : State) (t : Nat) : Option (List Place) :=
  let qs := (List.range 256).filter (fun q => decide (s.qDesc t q ≠ 0) || decide (s.qWm t q ≠ 0))
  (qs.findSome? (fun q => breach (s.queueBad t q) [descReg t q, tileReg t (0x1004 + 16 * q), tileReg t 0x50])).orElse (fun _ =>
  ((findPair (fun a b : Nat => decide ((s.qSpan t a).1 < (s.qSpan t b).2) && decide ((s.qSpan t b).1 < (s.qSpan t a).2))
      (qs.filter (fun q => decide (s.qCap t q ≠ 0)))).map (fun p => [descReg t p.1, descReg t p.2])).orElse (fun _ =>
  ((s.namedQs t).findSome? (fun p => breach (decide (s.qCap t p.1 = 0) || decide (p.1 = s.lbq t))
    (descReg t p.1 :: tileReg t 0x50 :: p.2))).orElse (fun _ =>
  let n := s.tfld t 0x840 15 8
  let users := (s.namedQs t).filter (fun p => p.1 = n)
  let packs := s.packOn t && decide (s.tfld t 0x80 7 0 = n)
  breach (bit (s.rv (tileBase t + 0x840)) 1 && (decide (s.qCap t n = 0) || decide (n = s.lbq t) || !users.isEmpty || packs))
    (tileReg t 0x840 :: descReg t n :: tileReg t 0x50 :: tileReg t 0x80 :: users.flatMap (·.2)))))

/-- R312, tile part: prompt terms, and topology tiles whose latency buffer is disabled. -/
def State.termRule (s : State) (t : Nat) : Option (List Place) :=
  ((List.range 4).findSome? (fun q =>
    let w := s.rv (tileBase t + 0x60 + 4 * q)
    let k := bits w 20 16
    breach (decide (bits w 15 0 = 0) || decide (k = 0) || decide ((List.range 16).countP (bit w) < k) || decide (bits w 22 21 = 0))
      [tileReg t (0x60 + 4 * q)])).orElse (fun _ =>
  (List.range 12).findSome? (fun k =>
    let a := 0x6108 + 16 * k
    breach (bit (s.rv a + 2 ^ 32 * s.rv (a + 4)) t && decide (s.qCap t (s.lbq t) = 0))
      [.reg a, .reg (a + 4), tileReg t 0x50, descReg t (s.lbq t)]))

/-- R343: the queue that a packed stream drains. A library function of one value word and no continuation records is
FUNC 0x05 alone (R169). -/
def State.packRule (s : State) (t : Nat) : Option (List Place) :=
  let n := s.tfld t 0x80 7 0
  let users := (s.funcs t).filter (fun f => s.outQ t f.2 = n)
  breach (s.packOn t && (!s.qDrain t n || decide (1 < users.length) ||
      users.any (fun f => decide (s.func t f.2 ≠ 5) && decide (s.func t f.2 < 24))))
    (tileReg t 0x80 :: descReg t n :: users.flatMap (fun f => descPlaces t f.2))

/-- The first rule on a tile that a staged configuration breaks. -/
def State.tileRule (s : State) (t : Nat) : Option (List Place) :=
  (s.destRule t).orElse (fun _ => (s.descRule t).orElse (fun _ => (s.engineRule t).orElse (fun _ =>
    (s.programRule t).orElse (fun _ => (s.queueRule t).orElse (fun _ => (s.termRule t).orElse (fun _ => s.packRule t))))))

/-- The first load-time rule that a staged configuration breaks: chip registers first, then the tiles in order; with the
tile, for a rule on a tile. -/
def State.loadRule (s : State) : Option (Option Nat × List Place) :=
  (s.chipRule.map (fun ps => (none, ps))).orElse (fun _ =>
    (List.range s.nTiles).findSome? (fun t => (s.tileRule t).map (fun ps => (some t, ps))))

/-- RECORD of CFG_RESULT for reason 7 (R429): the last record that wrote one of the places, 0xF_FFFF where none did. -/
def lastWriter (n : Nat) (rs : List Rec) (ps : List Place) : Nat :=
  let ks := (rs.zip (List.range rs.length)).filter (fun p => (p.1.writes n).any (fun w => ps.contains w.1))
  (ks.getLast?.map (·.2)).getD 0xFFFFF

/-- Steps 1 to 5 of R401 for a full image; otherwise the reason and the record. -/
def State.checkFull (s : State) (b : List Byte) (cap : Nat) : Except (Nat × Nat) Image :=
  match s.readImage b 1 cap with
  | .error e => .error e
  | .ok i =>
    match (s.stagedFull i).loadRule with
    | some (_, ps) => .error (7, lastWriter s.nTiles i.recs ps)
    | none => .ok i

end Sys2Proof.Machine
end

