-- ==== Sys2Proof/Machine/Prompt.lean ====
section
/-! DEFINITION. The prompt outputs (R303 to R309): tile terms, chip terms, the output map, and the vote of its three
copies. -/

namespace Sys2Proof.Machine

open Sys2Proof

/-! ### The three copies of the prompt configuration (R309) -/

/-- One of the three copies. -/
inductive PrCopy where
  | one
  | two
  | three
  deriving DecidableEq, Repr

/-- The configuration word at an address in a copy. -/
def State.prWord (s : State) (k : PrCopy) (a : Nat) : Nat :=
  let differing := fun (m : Map (Option Reg32)) => match mapGet (fun _ => none) m a with
    | some w => w.toNat
    | none => s.rv a
  match k with
  | .one => s.rv a
  | .two => differing s.pr.copyB
  | .three => differing s.pr.copyC

/-! ### Terms (R303 to R306) -/

/-- Local input `n` of tile `t` has a prompt edge of a polarity in POL in one of the slots `lo` to `hi` (R303, R304). -/
def State.promptEdge (s : State) (t n pol lo hi : Nat) : Bool :=
  (s.chan t n).recent.any (fun e => decide (lo ≤ e.1) && decide (e.1 ≤ hi) && selects pol e.2)

/-- Tile term `q` of tile `t` in slot `a`; those of a tile that is powered down read 0 (R304, R306). -/
def State.tileTerm (s : State) (k : PrCopy) (t q a : Nat) : Bool :=
  let w := s.prWord k (tileBase t + 0x60 + 4 * q)
  s.onPart t && s.captureRuns t &&
    decide (bits w 20 16 ≤ ((List.range 16).filter (fun n => bit w n && s.promptEdge t n (bits w 22 21) (a - bits w 24 23) a)).length)

/-- Chip term `k` in slot `a`; never true where its K is 0 (R305). -/
def State.chipTerm (s : State) (c : PrCopy) (k a : Nat) : Bool :=
  let need := bits (s.prWord c (0x6800 + 4 * k)) 7 0
  decide (need ≠ 0) && decide (need ≤ ((List.range 256).filter (fun j =>
    bit (s.prWord c (0x6700 + 32 * k + 4 * (j / 32))) (j % 32) && s.tileTerm c (j / 4) (j % 4) a)).length)

/-- The value of a source in slot `a` (R304 to R306). -/
def State.prSource (s : State) (c : PrCopy) (n a : Nat) : Bool :=
  if n < 256 then s.tileTerm c (n / 4) (n % 4) a
  else if n < 264 then s.chipTerm c (n - 256) a
  else false

/-- Bit `b` of pair `p` in slot `a`, as one copy gives it (R306). -/
def State.prBit (s : State) (c : PrCopy) (p b a : Nat) : Bool :=
  let m := s.prWord c (0x6500 + 4 * (8 * p + b / 2))
  s.prSource c (if b % 2 = 0 then bits m 8 0 else bits m 24 16) a

/-- The majority of three bits (R309). -/
def majority (x y z : Bool) : Bool := (x && y) || (x && z) || (y && z)

/-- The voted word of pair `p` in slot `a`, and whether the copies disagreed on a bit of it (R306, R309). -/
def State.prVoted (s : State) (p a : Nat) : BitVec 16 × Bool :=
  let bs := (List.range 16).map (fun b => (s.prBit .one p b a, s.prBit .two p b a, s.prBit .three p b a))
  let w := (List.range 16).foldl (fun n b =>
    match bs[b]? with
    | some (x, y, z) => n + b2n (majority x y z) * 2 ^ b
    | none => n) 0
  (BitVec.ofNat 16 w, bs.any (fun v => !(v.1 == v.2.1 && v.1 == v.2.2)))

/-- The pairs send all-zero words: in Dark state, in a freeze, in a reload, and before the timing logic runs (R308, R415,
R494). -/
def State.prDark (s : State) : Bool := decide (s.pw.st = .dark) || s.cfg.load.isSome || !s.up

/-- The word of pair `p` in slot `a`, with the vote (R306 to R309). -/
def State.prOut (s : State) (p a : Nat) : BitVec 16 × Bool :=
  let ctl := s.rv 0x6400
  let v := s.prVoted p a
  if s.prDark || !bit ctl p then (0, v.2)
  else if bit ctl 16 then (0xFF00, v.2)
  else v

/-- A disagreement of the copies at a pair: it is counted, and the prompt-vote event is raised (R309). -/
def State.prVote (s : State) (p : Nat) : State :=
  ({ s with pr := { s.pr with votes := satAdd 65535 s.pr.votes 1, lastPair := p } }).raise (chipSrc 16)

/-- The words of the present slot, and the votes they took. -/
def State.prSlot (s : State) : State :=
  let a := s.tb.age
  let outs := (List.range 16).map (fun p => (p, s.prOut p a))
  let ws : Map (BitVec 16) := outs.filterMap (fun o => if o.2.1 = 0 then none else some (o.1, o.2.1))
  let s := { s with pr := { s.pr with words := ws } }
  forKeys ((outs.filter (fun o => o.2.2)).map (·.1)) (fun p s => s.prVote p) s

/-! ### The command -/

/-- Edges that no stretch can reach any more are dropped (R304). -/
def State.prForget (s : State) : State :=
  let a := s.tb.age
  forKeys (s.tiles.map (·.1)) (fun t s =>
    forKeys ((s.tile t).chans.map (·.1)) (fun c s =>
      s.modChan t c (fun y => { y with recent := y.recent.filter (fun e => decide (a ≤ e.1 + 3)) })) s) s

/-- PROMPT_WORD (R304 to R309): every pair sends the word of the slot that ends now. -/
def execPromptWord (s : State) : Host.Outcome State Fault Refusal :=
  onChip s (fun s => (s.prSlot.advance 1).prForget)

end Sys2Proof.Machine
end

