-- ==== Sys2Proof/Machine/Configuration.lean ====
section
/-! DEFINITION. The configuration controller (R393 to R429): slots, IMAGE words, full reload, latent updates with their
effect on contexts, and scrubbing. -/

namespace Sys2Proof.Machine

open Sys2Proof

/-! ### Results (R427, R429) -/

/-- Set CFG_RESULT. -/
def State.cfgResult (s : State) (reason tile rec_ : Nat) : State :=
  { s with cfg := { s.cfg with reason := reason, resTile := tile, resRecord := rec_ } }

/-- A command refused with a reason. -/
def State.cfgRefuse (s : State) (reason : Nat) : State := s.cfgResult reason 0 0

/-- BUSY: a load, a check or a store write is in progress (R429). -/
def State.cfgBusy (s : State) : Bool := s.cfg.load.isSome || s.cfg.job.isSome || decide (s.cfg.luState = 2)

/-- DEST of CFG_CTRL. -/
def State.cfgDest (s : State) : Nat := s.fld 0x7000 1 0

/-! ### Slots (R403 to R405, R411, R412) -/

/-- First byte of slot A or B (R403). -/
def slotBase (b : Bool) : Nat := if b then 0x0F4240 else 0

/-- MAGIC of a slot (R403). -/
def slotMagic : Nat := 0x544C5354

/-- Most image bytes of a slot (R403). -/
def slotMax : Nat := 999936

/-- LENGTH in a slot's header. -/
def slotLen (nv : Memory) (b : Bool) : Nat := (readW32 nv (slotBase b + 16)).toNat

/-- A slot is valid (R371, R403, R405). -/
def slotValid (nv : Memory) (b : Bool) : Bool :=
  decide (slotLen nv b ≤ slotMax) && copyValid nv (slotBase b) slotMagic (slotLen nv b)

/-- A slot is valid and empty (R403). -/
def slotEmpty (nv : Memory) (b : Bool) : Bool := slotValid nv b && decide (slotLen nv b = 0)

/-- Candidates of a boot or a reload from the store, higher SEQ first (R405). -/
def slotCands (nv : Memory) : List Bool :=
  let a := slotValid nv false && !slotEmpty nv false
  let b := slotValid nv true && !slotEmpty nv true
  match chooseCopy a b (copySeq nv (slotBase false)) (copySeq nv (slotBase true)) with
  | some u => if a && b then [u, !u] else [u]
  | none => []

/-- The slot that a write takes (R370, R404). -/
def State.slotTarget (s : State) : Bool :=
  if !s.cfg.noImage && decide (s.cfg.source < 2) then decide (s.cfg.source = 0)
  else targetCopy (slotValid s.nv false) (slotValid s.nv true) (copySeq s.nv (slotBase false)) (copySeq s.nv (slotBase true))

/-- Step 1 of R370 on a slot. -/
def State.slotSpoil (s : State) (b : Bool) : State := { s with nv := writeByte s.nv (slotBase b + 12) 0 }

/-- Steps 3 and 4 of R370 begin on a slot of `len` image bytes. -/
def State.slotBegin (s : State) (b : Bool) (len : Nat) : State :=
  { s with
    nv := writeBytes s.nv (slotBase b + 16) (leBytes 4 len)
    cfg := { s.cfg with job := some (if b then .slotB else .slotA), slotTo := none } }

/-- The slot write ends: the slot holds its image, or is empty, with the next SEQ (R370, R403, R411, R412). -/
def State.slotFinish (s : State) (b : Bool) : State :=
  let len := slotLen s.nv b
  let body := readBytes s.nv (slotBase b + 64) len
  let u := chooseCopy (slotValid s.nv false) (slotValid s.nv true) (copySeq s.nv (slotBase false)) (copySeq s.nv (slotBase true))
  let seq := nextSeq (u.map (fun u => copySeq s.nv (slotBase u)))
  ({ s with
    nv := writeBytes s.nv (slotBase b) (copyHeader slotMagic seq len (serialBytes s.nv) body)
    cfg := { s.cfg with job := none } }).cfgRefuse 0

/-- SLOT_CLOSE (R411): the written image is checked, and its slot completed or left invalid. -/
def State.slotClose (s : State) : State :=
  if s.cfgBusy then s.cfgRefuse 14
  else match s.cfg.slotTo with
    | none => s.cfgRefuse 16
    | some b =>
      let len := min slotMax (readW32 s.nv (slotBase b + 76)).toNat
      match s.checkFull (readBytes s.nv (slotBase b + 64) (max 64 len)) slotMax with
      | .error e => ({ s with cfg := { s.cfg with slotTo := none } }).cfgResult e.1 0 e.2
      | .ok _ => s.slotBegin b len

/-- SLOT_EMPTY (R412). -/
def State.slotClear (s : State) : State :=
  if s.cfgBusy then s.cfgRefuse 14
  else
    let b := s.cfg.slotTo.getD s.slotTarget
    (s.slotSpoil b).slotBegin b 0

/-! ### Work that a reload or a Dark entry waits for (R414, R490) -/

/-- Every DRAIN queue and every engine input queue is empty (R414). -/
def State.queuesEmpty (s : State) : Bool :=
  (List.range s.nTiles).all (fun t => (s.tile t).qs.all (fun p =>
    decide (s.qLevel t p.1 = 0) || !(s.qDrain t p.1 || !(s.inqOf t p.1).isEmpty)))

/-- No frame waits to be sent, and none is unacknowledged (R414). -/
def State.linksEmpty (s : State) : Bool :=
  s.lk.streams.all (fun p => p.2.wait.isEmpty && p.2.opened.isNone) && s.lk.lanes.all (fun p => p.2.unack.isEmpty)

/-- No trigger is pending, and every accepted event has been sent and acknowledged (R414). -/
def State.eventsDone (s : State) : Bool := s.eb.pending.isEmpty && s.eb.events.isEmpty

/-- No proof run and no handover is in progress (R414, R490). -/
def State.calQuiet (s : State) : Bool :=
  s.cal.run.isNone && (List.range s.nTiles).all (fun t => !(s.tile t).ho.overlap && (s.tile t).ho.req.isNone)

/-- A latent update is prepared or armed (R414, R490). -/
def State.luHeld (s : State) : Bool := decide (s.cfg.luState = 3) || decide (s.cfg.luState = 4)

/-- The conditions of R414, but for DEST. -/
def State.reloadReady (s : State) : Bool :=
  decide (s.pw.st = .safelight) && s.eventsDone && s.queuesEmpty && s.linksEmpty && !s.luHeld && s.calQuiet

/-! ### IMAGE words (R410, R424) -/

/-- Words into the target slot; the first after a slot close spoils it (R370, R404, R410). -/
def State.imageSlot (s : State) (off : Nat) (b : List Byte) : Nat × State :=
  if slotMax < off + b.length then (3, s)
  else if 65536 < s.cfg.stagedTop + b.length then (14, s)
  else
    let u := s.cfg.slotTo.getD s.slotTarget
    let s := if s.cfg.slotTo.isNone then s.slotSpoil u else s
    (0, { s with nv := writeBytes s.nv (slotBase u + 64 + off) b, cfg := { s.cfg with slotTo := some u } })

/-- Words into the staging memory (R410, R424); those of a fixed update have left it (R420). -/
def State.imageStaged (s : State) (off : Nat) (b : List Byte) : Nat × State :=
  if s.luHeld then (14, s)
  else if 65536 < off + b.length then (3, s)
  else
    let old := decide (s.cfg.luState = 0) || decide (s.cfg.luState = 5)
    (0, { s with cfg := { s.cfg with
      luState := 1
      staged := writeBytes (if old then [] else s.cfg.staged) off b
      stagedTop := max (if old then 0 else s.cfg.stagedTop) (off + b.length) } })

/-- Words into the boot buffer (R410). -/
def State.imageBoot (s : State) (off : Nat) (b : List Byte) : Nat × State :=
  if !s.cfg.noImage && !s.reloadReady then (13, s)
  else if 2097152 < off + b.length then (3, s)
  else (0, { s with cfg := { s.cfg with
    boot := writeBytes s.cfg.boot off b
    bootTop := max s.cfg.bootTop (off + b.length) } })

/-- The words of an IMAGE frame at a word offset: the reason of a refusal, 0 where they are written (R410). -/
def State.imageWords (s : State) (off : Nat) (ws : List Reg32) : Nat × State :=
  let b := ws.flatMap (fun w => leBytes 4 w.toNat)
  let r := if s.cfgBusy then (14, s)
    else match s.cfgDest with
      | 0 => s.imageSlot (4 * off) b
      | 1 => s.imageStaged (4 * off) b
      | _ => s.imageBoot (4 * off) b
  if r.1 = 0 then r else (r.1, s.cfgRefuse r.1)

/-! ### A full image comes into force (R401, R402, R413, R415) -/

/-- A word of a record takes effect (R393, R398). -/
def State.putWrite (s : State) (p : Place × W64) : State :=
  match p.1 with
  | .reg a => if isRwf a then s.setReg a (p.2.setWidth 32) else s.setField a (p.2.setWidth 32)
  | _ => s.stage p

/-- The words that a queue holds are dropped and counted: expired in the latency buffer, flushed elsewhere (R415,
R491). -/
def State.dropWords (s : State) (t q : Nat) : State :=
  if q = s.lbq t then forKeys (List.range (s.qLevel t q)) (fun _ s => s.lbExpire t) s
  else
    let n := s.qLevel t q
    (s.modQueue t q (fun x => { x with
      rp := x.wp, rmark := x.wp, opened := false, doomed := false, flushed := false, head := none
      cFlush := satAdd (2 ^ 32 - 1) x.cFlush n })).qEval t q

/-- A queue's pointers start anew; its counters and sticky bits stay. -/
def Queue.restarted (x : Queue) : Queue :=
  { x with wp := 0, rp := 0, rmark := 0, opened := false, doomed := false, flushed := false, owner := 0, head := none }

/-- An engine as a full reload leaves it; its counters stay (R413, R440). -/
def Engine.renewed (e : Nat) (y : Engine) : Engine :=
  let f := Engine.fresh e
  { f with load := y.load, peak := y.peak, ckpts := y.ckpts, dup := y.dup, cp := y.cp, fCtx := y.fCtx, fPc := y.fPc,
           fCause := y.fCause, fCount := y.fCount }

/-- An engine starts with contexts, at the record that its input queue reads next, and takes its first checkpoint
(R176, R215, R234). -/
def State.engineStart (s : State) (t e : Nat) (ctxs : List Nat) : State :=
  (s.modEng t e (fun y => { y with
    st := 1, ctxs := ctxs, dpos := (s.queue t (bits (s.engCfg t e) 23 16)).rp, safe := decide (s.pw.st ≠ .run)
    secs := s.now.s, epoch := s.tb.epoch, ckptAge := s.tb.age, lastRun := s.tb.age })).ckptStore t e

/-- The datapath of a tile restarts under a new configuration; every function loaded anew starts with GSEQ 0 (R176, R413). -/
def State.tileStart (s : State) (t : Nat) : State :=
  let s := s.modTile t (fun x =>
    let fresh := fun (p : Nat × Engine) => (p.1, Engine.renewed p.1 p.2)
    { x with
      qmem := [], qLast := 0, marks := [], ring := [], expSlot := none, pmNew := [], ctxs := []
      cx := x.cx.filter (fun p => decide (p.1 % 64 ≠ 26))
      qs := (x.qs.map (fun p => (p.1, p.2.restarted))).filter (fun p => decide (p.2 ≠ {}))
      engs := (x.engs.map fresh).filter (fun p => decide (p.2 ≠ Engine.fresh p.1)) })
  forKeys (s.activeEngs t) (fun e s => s.engineStart t e (s.ctxMap t e)) s

/-- Lanes join in pairs, or part again, with the profile; a pair goes on from the higher LSEQ of its lanes (R336). -/
def State.regroup (s : State) : State :=
  forKeys [0, 2, 4, 6] (fun l s =>
    let a := (s.lane l).next
    let b := (s.lane (l + 1)).next
    let n := if s.bracket && decide (0 < lseqDiff b a) then b else a
    let k := (n + 0xFFFFFF) % 2 ^ 24
    (s.modLane l (fun x => { x with next := n, ack := if n = a then x.ack else k })).modLane (l + 1)
      (fun x => { x with next := n, ack := if n = b then x.ack else k })) s

/-- A checked image comes into force from a source: 0 slot A, 1 slot B, 2 link, 3 service SPI (R401, R402, R413). -/
def State.applyImage (s : State) (i : Image) (source : Nat) : State :=
  let ts := List.range s.nTiles
  let was := s.cfg.bracket
  let s := forKeys ts (fun t s => forKeys ((s.tile t).qs.map (·.1)) (fun q s => s.dropWords t q) s) s
  let s := s.bare
  let s := { s with
    cfg := { s.cfg with
      recs := i.recs, imgSeq := i.seq, bracket := decide (i.profile = 1), noImage := false, source := source, luCnt := 0
      late := [] }
    pr := { s.pr with copyB := [], copyC := [] }
    dep := { s.dep with ecc2 := s.dep.ecc2.filter (fun p => match p.1 with
      | .program _ => false
      | .context _ => false
      | _ => true) } }
  let s := (i.recs.flatMap (·.writes s.nTiles)).foldl State.putWrite s
  let s := if was = s.bracket then s else s.regroup
  let s := forKeys ts (fun t s => s.tileStart t) s
  ((s.imageRestart).cfgRefuse 0).raise (chipSrc 22)

/-- The image bytes in a slot. -/
def slotImage (nv : Memory) (b : Bool) : List Byte := readBytes nv (slotBase b + 64) (slotLen nv b)

/-- The first candidate that passes R401; otherwise the reason and record of the last one tried (R405). -/
def State.firstSlot (s : State) : List Bool → Nat × Nat → Except (Nat × Nat) (Bool × Image)
  | [], e => .error e
  | b :: bs, _ => match s.checkFull (slotImage s.nv b) slotMax with
    | .ok i => .ok (b, i)
    | .error e => s.firstSlot bs e

/-- Load from the slots (R405). -/
def State.loadSlots (s : State) : State :=
  let cs := slotCands s.nv
  match s.firstSlot cs (16, 0) with
  | .ok (b, i) =>
    let s := s.applyImage i (if b then 1 else 0)
    if cs.head? = some b then s else s.raise (chipSrc 23)
  | .error e => (s.cfgResult e.1 0 e.2).raise (chipSrc 24)

/-- Load an image from a buffer of which the first `top` bytes are written (R401, R408, R413). -/
def State.loadBytes (s : State) (m : Memory) (top cap source : Nat) : State :=
  let len := min cap (readW32 m 12).toNat
  if top = 0 then s.cfgRefuse 16
  else match s.checkFull (readBytes m 0 (max 64 len)) cap with
    | .ok i => s.applyImage i source
    | .error e => s.cfgResult e.1 0 e.2

/-- A byte string as a memory from address 0. -/
def memOf (b : List Byte) : Memory := writeBytes [] 0 b

/-- The image of the boot source (R405 to R408). -/
def State.bootImage (s : State) : State :=
  match s.bootsel.toNat with
  | 0 => s.loadSlots
  | 2 => if imgNum s.cfg.flash 12 4 = 0 then s.cfgRefuse 16
    else s.loadBytes (memOf s.cfg.flash) s.cfg.flash.length (2 ^ 32) 3
  | _ => s

/-! ### Full reload (R413 to R415) -/

/-- Hits that wait for the latency buffer of a channel are committed there. -/
def State.commitWaiting (s : State) (t c : Nat) : State :=
  forKeys (List.range 16) (fun _ s => match (s.chan t c).oldest .lb with
    | some h => (s.modTile t (fun x => x.setCommitBuf .lb {})).commitHit t c .lb h
    | none => s) s

/-- The latency buffer of a tile is emptied; the records it held (R415). -/
def State.lbEmpty (s : State) (t : Nat) : State :=
  let s := forKeys (List.range 17) (fun c s => s.commitWaiting t c) s
  let n := s.qLevel t (s.lbq t)
  let s := s.dropWords t (s.lbq t)
  { s with cfg := { s.cfg with reloadExp := satAdd (2 ^ 32 - 1) s.cfg.reloadExp n } }

/-- RELOAD (R413 to R415): refused, or started with capture and prompt outputs stopped and the latency buffers emptied. -/
def State.reloadAsk (s : State) : State :=
  if s.cfgBusy then s.cfgRefuse 14
  else if !s.reloadReady || decide (s.cfgDest = 1) then s.cfgRefuse 13
  else
    let s := { s with cfg := { s.cfg with reloadExp := 0 } }
    let s := forKeys ((List.range s.nTiles).filter (fun t => (s.tile t).powered && !(s.tile t).inReset)) (fun t s => s.lbEmpty t) s
    { s with cfg := { s.cfg with load := some s.cfgDest } }

/-- The reload ends (R405, R415). -/
def State.reloadEnd (s : State) : State :=
  match s.cfg.load with
  | some d =>
    let s := { s with cfg := { s.cfg with load := none } }
    if d = 0 then s.loadSlots else s.loadBytes s.cfg.boot s.cfg.bootTop 2097152 2
  | none => s

/-! ### Latent update: preparation (R416, R417) -/

/-- The bits of the register at `a` that a latent update may not change (R416). -/
def State.luFixed (s : State) (a : Nat) : Nat :=
  match regAt a with
  | some r =>
    let t := r.tile.getD 0
    match r.row.reg with
    | .tqDesc => if s.qCap t r.i = 0 then 0 else 0xFFFFFFFF
    | .tcCapLbq | .tcPack | .lkPll => 0xFFFFFFFF
    | .engCfg => if bit (s.rv a) 29 then 0xFF0000 else 0
    | .chDest => if bit (s.rv a) 8 then 0xFF else 0
    | _ => 0
  | none => 0

/-- A record changes a setting of R416: its staged value differs from the one in force. -/
def State.luBreaks (s : State) (n : State) (r : Rec) : Bool :=
  (r.writes s.nTiles).any (fun p => match p.1 with
    | .reg a => decide (Nat.land (s.luFixed a) (Nat.xor (n.rv a) (s.rv a)) ≠ 0)
    | _ => false)

/-- Tiles that a list of records names. -/
def State.recTiles (s : State) (rs : List Rec) : List Nat :=
  (List.range s.nTiles).filter (fun t => rs.any (fun r => (r.tileList s.nTiles).contains t))

/-- The update fails: LU_STATE 6 with the update-refused event (R417, R481). -/
def State.luFail (s : State) (reason tile rec_ : Nat) : State :=
  (({ s with cfg := { s.cfg with luState := 6, upd := none } }).cfgResult reason tile rec_).raise (chipSrc 26)

/-- PREPARE (R417): the staged update is checked and sent to its tiles, or refused. -/
def State.prepareAsk (s : State) : State :=
  if s.cfgBusy || s.luHeld then s.cfgRefuse 14
  else if s.cfg.noImage || decide (s.cfg.stagedTop = 0) || decide (s.cfg.luState = 5) then s.cfgRefuse 16
  else
    let len := min 65536 (readW32 s.cfg.staged 12).toNat
    match s.readImage (readBytes s.cfg.staged 0 (max 64 len)) 2 65536 with
    | .error e => s.luFail e.1 0 e.2
    | .ok i =>
      let n := s.stagedUpd i
      if decide (i.profile = 1) ≠ s.cfg.bracket then s.luFail 8 0 0
      else match (i.recs.zip (List.range i.recs.length)).find? (fun p => s.luBreaks n p.1) with
        | some p => s.luFail 9 0 p.2
        | none => { s with cfg := { s.cfg with luState := 2, upd := some i, noShadow := [] } }

/-- PREPARE_DONE (R417): a rule on chip registers gives reason 7 with the record, a tile that breaks a rule or cannot
take its records gives reason 10 with the tile. -/
def State.prepareEnd (s : State) : State :=
  match s.cfg.luState, s.cfg.upd with
  | 2, some i =>
    let n := s.stagedUpd i
    match n.chipRule with
    | some ps => s.luFail 7 0 (lastWriter s.nTiles i.recs ps)
    | none =>
      let out := fun t => !(s.tile t).powered || (s.tile t).inReset || s.cfg.noShadow.contains t
      match (List.range s.nTiles).find? (fun t => ((s.recTiles i.recs).contains t && out t) || (n.tileRule t).isSome) with
      | some t => s.luFail 10 t 0
      | none => ({ s with cfg := { s.cfg with luState := 3 } }).cfgRefuse 0
  | _, _ => s

/-! ### Latent update: fix (R418 to R424) -/

/-- FIX (R418): `arrived` is the instant at which the write arrived. -/
def State.fixAsk (s : State) (arrived : Time) : State :=
  let f : Time := { s := s.rv 0x7018, ns := s.fld 0x701C 29 0 }
  let d := f.diff arrived
  if s.cfg.luState = 3 ∧ f.engine % 1048576 = 0 ∧ 102400000 ≤ d ∧ d ≤ 61440000000000 then
    ({ s with cfg := { s.cfg with
      luState := 4, fixAge := s.tb.age + s.slotsTo f, fixOpen := s.tb.openAge, decided := false } }).cfgRefuse 0
  else s.cfgRefuse 11

/-- The update leaves the staging memory. -/
def CfgCtl.unstaged (c : CfgCtl) (st : Nat) : CfgCtl :=
  { c with luState := st, staged := [], stagedTop := 0, upd := none, noShadow := [], decided := false }

/-- CANCEL (R424): a staged, prepared or armed update that is not decided is dropped. -/
def State.cancelAsk (s : State) : State :=
  if s.cfg.luState = 0 ∨ s.cfg.luState = 5 ∨ s.cfg.decided then s
  else ({ s with cfg := s.cfg.unstaged 0 }).cfgRefuse 17

/-- A refused decision drops every shadow and leaves the update staged (R419). -/
def State.fixRefused (s : State) (tile : Nat) : State :=
  (({ s with cfg := { s.cfg with luState := 1, upd := none, noShadow := [] } }).cfgResult 12 tile 0).raise (chipSrc 26)

/-- FIX_DECIDE (R419): at F - 8 µs. -/
def State.fixDecideNow (s : State) : State :=
  match s.cfg.luState, s.cfg.upd with
  | 4, some i =>
    if s.cfg.decided then s
    else
      let s := s.advanceTo (s.cfg.fixAge - 1000)
      let out := fun t => !(s.tile t).powered || (s.tile t).inReset || s.cfg.noShadow.contains t
      match (s.recTiles i.recs).find? out with
      | some t => s.fixRefused t
      | none => if s.tb.openAge ≠ s.cfg.fixOpen then s.fixRefused 0
        else { s with cfg := { s.cfg with decided := true } }
  | _, _ => s

/-! ### Contexts at the fix (R422) -/

/-- A fix instant: its engine time and slot age, with the configuration that the fixed image gives. -/
structure FixAt where
  f : W64
  age : Nat
  want : State

/-- Contexts live in a configuration, with the engine that has them (R210). -/
def State.liveIn (s : State) (t : Nat) : List (Nat × Nat) := s.funcs t

/-- A record writes a block of a tile. -/
def blockWritten (ws : List (Place × W64)) (t c : Nat) : Bool :=
  ws.any (fun p => match p.1 with
    | .cx u k => decide (u = t) && decide (k / 64 = c)
    | _ => false)

/-- A record writes SLICE or BATCH of an engine. -/
def engWritten (ws : List (Place × W64)) (t e : Nat) : Bool := ws.any (fun p => decide (p.1 = tileReg t (0x2000 + 64 * e)))

/-- The words that a block takes: those of the fixed image, GSEQ 0 for a context that starts anew (R422). -/
def FixAt.words (x : FixAt) (t c : Nat) (start : Bool) : List W64 :=
  (List.range 64).map (fun k => if 28 ≤ k ∨ (start ∧ k = 26) then 0 else x.want.cxWord t (64 * c + k))

/-- Change a context in the dispatcher's state and in the engine's checkpoint, so that a restore keeps the change. -/
def State.modBoth (s : State) (t e c : Nat) (f : Ctx → Ctx) : State :=
  (s.modCtx t c f).modEng t e (fun y => { y with ckpt := { y.ckpt with
    ctxs := mapSet (fun _ => {}) y.ckpt.ctxs c (f (mapGet (fun _ => {}) y.ckpt.ctxs c)) } })

/-- A context is retired: it takes what lies before F, then a kind 1 item at F (R422). One on an engine that does not run,
or that is halted, has ended. -/
def State.retireCtx (s : State) (t e c : Nat) (x : FixAt) : State :=
  if !s.engRuns t e || s.halted t c then s.endContext t e c
  else
    let g := s.segNow t e
    (s.modBoth t e c (fun y => { y with retire := some (g, x.f, x.age) })).inject t e ⟨g, x.f, 0, 0, x.age, some c, 1, 0, 0⟩

/-- A context starts anew with its grid from F (R182, R422); key 64 + c holds one whose block is still in use. -/
def State.startCtx (s : State) (t e k : Nat) (x : FixAt) : State :=
  let s := s.modEng t e (fun y => { y with
    ctxs := y.ctxs ++ [k], ckpt := { y.ckpt with keys := y.ckpt.keys ++ [k] } })
  (s.modBoth t e k (fun y => { y with idle := true, born := x.age })).inject t e ⟨s.segNow t e, x.f, 0, 0, x.age, some k, 4, 0, 0⟩

/-- Write a block and its checkpoint shadow. -/
def State.putBlock (s : State) (t c : Nat) (ws : List W64) : State :=
  (s.setCxWords t (64 * c) ws).setCxWords t (64 * (64 + c)) ws

/-- The contexts of a tile change from the configuration `old` to the one now in force (R422). -/
def State.fixContexts (s old : State) (t : Nat) (ws : List (Place × W64)) (x : FixAt) : State :=
  let before := old.liveIn t
  let after := s.liveIn t
  let kept := fun (p : Nat × Nat) => before.contains p && after.contains p && !blockWritten ws t p.2 && !engWritten ws t p.1
  let gone := before.filter (fun p => !kept p)
  let come := after.filter (fun p => !kept p)
  let busy := fun c => gone.any (fun p => p.2 = c)
  let starts := fun c => come.any (fun p => p.2 = c)
  let fresh := (s.activeEngs t).filter (fun e => !(old.activeEngs t).contains e && decide ((s.eng t e).st = 0))
  let s := forKeys fresh (fun e s => (s.modEng t e (Engine.renewed e)).engineStart t e []) s
  let s := forKeys (((List.range 64).filter (fun c => blockWritten ws t c || starts c))) (fun c s =>
    let b := x.words t c (starts c)
    if busy c then s.modCtx t (64 + c) (fun _ => { anew := some b }) else s.putBlock t c b) s
  let s := come.foldl (fun s p =>
    let e := (s.tile t).runner p.1
    let k := if busy p.2 then 64 + p.2 else p.2
    let s := if busy p.2 then s.modBoth t e k (fun _ => { anew := some (x.words t p.2 true) }) else s.modBoth t e k (fun _ => {})
    s.startCtx t e k x) s
  let s := gone.foldl (fun s p => s.retireCtx t ((s.tile t).runner p.1) p.2 x) s
  forKeys (List.range 8) (fun e s =>
    if (s.eng t e).st = 1 ∧ !bit (s.engCfg t e) 29 ∧ (s.eng t e).ctxs.isEmpty then s.modEng t e (fun y => { y with st := 0 })
    else s) s

/-- A tile takes the words that a fixed update has for it (R420, R422): registers at once, program words when its retired
contexts have ended. -/
def State.fixTile (s : State) (t : Nat) (rs : List Rec) (x : FixAt) : State :=
  let ws := (rs.flatMap (·.writes s.nTiles)).filter (fun p => p.1.tile = some t)
  let n := ws.foldl (fun s p => match p.1 with
    | .reg _ => s.putWrite p
    | _ => s) s
  let n := n.fixContexts s t ws x
  let pws := ws.filterMap (fun p => match p.1 with
    | .pm _ i => some (i, p.2.setWidth 48)
    | _ => none)
  n.modTile t (fun y =>
    if n.retiring t then { y with pmNew := y.pmNew ++ pws }
    else { y with pm := pws.foldl (fun m p => mapSet (fun _ => 0) m p.1 p.2) y.pm })

/-- FIX_TAKE_EFFECT (R420 to R422): at F, or at once where an epoch has opened since the decision. A tile in reset takes
its words when it leaves reset. -/
def State.fixNow (s : State) : State :=
  match s.cfg.luState, s.cfg.upd with
  | 4, some i =>
    if !s.cfg.decided then s
    else
      let moved := decide (s.tb.openAge ≠ s.cfg.fixOpen)
      let s := if moved then s else s.advanceTo s.cfg.fixAge
      let age := if moved then s.tb.openAge else s.cfg.fixAge
      let at_ := if moved then s.tb.openTime else s.now.addNs (-(8 * ((s.tb.age : Int) - age)))
      let recs := s.cfg.recs ++ i.recs
      let x : FixAt := { f := BitVec.ofNat 64 at_.engine, age := age, want := (s.bare).stageRecs recs }
      let s := { s with cfg := { s.cfg with recs := recs } }
      let s := (i.recs.flatMap (·.writes s.nTiles)).foldl (fun s p => if p.1.tile.isNone then s.putWrite p else s) s
      let s := forKeys (s.recTiles i.recs) (fun t s =>
        if (s.tile t).inReset then { s with cfg := { s.cfg with late := mapSet (fun _ => []) s.cfg.late t i.recs } }
        else s.fixTile t i.recs x) s
      let c := s.cfg.unstaged 5
      (({ s with cfg := { c with luSeq := i.seq, luCnt := (c.luCnt + 1) % 2 ^ 32 } }).cfgRefuse 0).raise (chipSrc 25)
  | _, _ => s

/-- A tile that leaves reset takes the words of an update that was fixed meanwhile (R420). -/
def State.fixLate (s : State) (t : Nat) : State :=
  match mapGet (fun _ => []) s.cfg.late t with
  | [] => s
  | rs =>
    let x : FixAt := { f := BitVec.ofNat 64 s.now.engine, age := s.tb.age, want := (s.bare).stageRecs s.cfg.recs }
    ({ s with cfg := { s.cfg with late := mapSet (fun _ => []) s.cfg.late t [] } }).fixTile t rs x

/-! ### Scrubbing (R425) -/

/-- The words of a record that a tile's check value covers: RWF fields, program words, and context words 0 to 7. -/
def Place.covered : Place → Bool
  | .reg a => isRwf a
  | .pm _ _ => true
  | .cx _ k => decide (k % 64 < 8)

/-- A place holds what another configuration holds there. -/
def State.agreesAt (s want : State) : Place → Bool
  | .reg a => decide (s.rv a = want.rv a)
  | .pm t i => decide (mapGet (fun _ => 0) (s.tile t).pm i = mapGet (fun _ => 0) (want.tile t).pm i)
  | .cx t k => decide (s.cxWord t k = want.cxWord t k)

/-- Rewrite a place from another configuration. -/
def State.repairAt (s want : State) : Place → State
  | .reg a => s.setReg a (BitVec.ofNat 32 (want.rv a))
  | .pm t i => s.stage (.pm t i, (mapGet (fun _ => 0) (want.tile t).pm i).setWidth 64)
  | .cx t k => s.setCxWord t k (want.cxWord t k)

/-- A repair is counted, with its event where a tile made it (R425). -/
def State.countRepair (s : State) (t : Option Nat) : State :=
  let s := { s with cfg := { s.cfg with scrubCnt := satAdd 65535 s.cfg.scrubCnt 1, scrubTile := t.getD s.cfg.scrubTile } }
  match t with
  | some t => s.raise (tileSrc t 12)
  | none => s

/-- One record's check in one tile. -/
def State.scrubRec (s want : State) (t : Nat) (r : Rec) : State :=
  let ps := ((r.writes s.nTiles).map (·.1)).filter (fun p => p.covered && decide (p.tile = some t))
  if ps.all (s.agreesAt want) then s else (ps.foldl (fun s p => s.repairAt want p) s).countRepair (some t)

/-- The tiles and the chip recompute their check values; a tile that is gated, in reset, or still to take words of an update
has none to compare. -/
def State.scrubs (s : State) : Option Nat → Bool
  | some t => (s.tile t).powered && !(s.tile t).inReset && !s.retiring t && (mapGet (fun _ => []) s.cfg.late t).isEmpty
  | none => true

/-- The tiles recompute every check value of the records. -/
def State.scrubTiles (s : State) : State :=
  let want := (s.bare).stageRecs s.cfg.recs
  forKeys ((List.range s.nTiles).filter (fun t => s.scrubs (some t))) (fun t s => s.cfg.recs.foldl (fun s r => s.scrubRec want t r) s) s

/-- A register of the three prompt copies: tile terms, chip terms, output map (R309, R310). -/
def promptWord (a : Nat) : Bool :=
  match tileOf a with
  | some t => let o := a - tileBase t; decide (0x60 ≤ o) && decide (o < 0x70)
  | none => decide (0x6500 ≤ a) && decide (a < 0x6820)

/-- One prompt word is checked copy by copy: each copy that differs from the fixed image is rewritten and counted (R309,
R425). -/
def State.scrubPromptWord (s want : State) (a : Nat) : State :=
  let v := BitVec.ofNat 32 (want.rv a)
  let bad := [PrCopy.one, .two, .three].filter (fun k => decide (s.prWord k a ≠ v.toNat))
  if bad.isEmpty then s
  else
    let s := s.setReg a v
    let s := { s with pr := { s.pr with
      copyB := mapSet (fun _ => none) s.pr.copyB a none, copyC := mapSet (fun _ => none) s.pr.copyC a none } }
    bad.foldl (fun s _ => s.countRepair (tileOf a)) s

/-- The copies of the prompt logic take their words from the fixed image again (R309, R425). -/
def State.scrubPrompt (s : State) : State :=
  let want := (s.bare).stageRecs s.cfg.recs
  let as := (s.regs.map (·.1) ++ want.regs.map (·.1)).filter promptWord ++ s.pr.copyB.map (·.1) ++ s.pr.copyC.map (·.1)
  forKeys (as.dedup.filter (fun a => s.scrubs (tileOf a))) (fun a s => s.scrubPromptWord want a) s

/-! ### The commands that time brings -/

/-- RELOAD_DONE (R415). -/
def execReloadDone (s : State) : Host.Outcome State Fault Refusal := onChip s State.reloadEnd

/-- PREPARE_DONE (R417). -/
def execPrepareDone (s : State) : Host.Outcome State Fault Refusal := onChip s State.prepareEnd

/-- FIX_DECIDE (R419). -/
def execFixDecide (s : State) : Host.Outcome State Fault Refusal := onChip s State.fixDecideNow

/-- FIX_TAKE_EFFECT (R420 to R422). -/
def execFixTakeEffect (s : State) : Host.Outcome State Fault Refusal := onChip s State.fixNow

/-- SCRUB (R425): 10 µs after the last one. -/
def execScrub (s : State) : Host.Outcome State Fault Refusal :=
  onChip s (fun s => ((s.advance 1250).scrubTiles).scrubPrompt)

end Sys2Proof.Machine
end

