-- ==== Sys2Proof/Machine/Dependability.lean ====
section
/-! DEFINITION. Faults and their responses (R430 to R444): engine restart and failover, lockstep pairs, the return of an
engine, tile resets. -/

namespace Sys2Proof.Machine

open Sys2Proof

/-! ### Engine restart and failover (R238, R434 to R437, R440) -/

/-- The engine that runs the work of an engine's registers: in Bracket mode the pair's (R208, R239). -/
def State.pairRunner (s : State) (t e : Nat) : Nat :=
  if e = 8 then 8 else (s.tile t).runner (if s.bracket then e - e % 2 else e)

/-- Count a restart or rollback (R452). -/
def State.countRestart (s : State) : State := { s with dep := { s.dep with restarts := satAdd 65535 s.dep.restarts 1 } }

/-- Count a failover (R452). -/
def State.countFailover (s : State) : State := { s with dep := { s.dep with failovers := satAdd 65535 s.dep.failovers 1 } }

/-- An engine restart: restored from its checkpoint, with its marker on every stream (R238, R435, R497, R500). -/
def State.engRestart (s : State) (t e : Nat) : State :=
  (((s.restore t e).countRestart).noteReset 6 t e).restartAll 6 t e

/-- An engine is declared faulty: restarted, or held for its failover after a second fault within 1 s or during a replay
(R434, R435). -/
def State.engFault (s : State) (t e : Nat) : State :=
  let y := s.eng t e
  let s := (s.raise (tileSrc t 4)).rewindAll t e
  let again := decide (y.st = 2) || (match y.faultAge with
    | some a => decide (s.tb.age - a < 125000000)
    | none => false)
  let s := s.modEng t e (fun y => { y with faultAge := some s.tb.age })
  if again then s.modEng t e (fun y => { y with st := 3, loaded := false, sliceEnd := true }) else s.engRestart t e

/-- The contexts of an engine stop and no spare takes them (R437). -/
def State.unserve (s : State) (t e : Nat) : State := (s.modEng t e (fun y => { y with st := 5 })).raise (tileSrc t 6)

/-- A failover: engine 8 takes the work, restores and replays; where it is not free, the contexts stop (R435, R437). -/
def State.failover (s : State) (t e : Nat) : State :=
  if e ≠ 8 ∧ (s.eng t 8).serving = 15 then ((s.moveEngine t e 8 5).restore t 8).countFailover else s.unserve t e

/-- RESTART (R238, R243): only an engine that runs restarts. -/
def State.restartAsk (s : State) (t e : Nat) : State :=
  let r := s.pairRunner t e
  if s.engRuns t r && !s.pw.soft then s.engRestart t r else s

/-- CKPT_NOW (R243). -/
def State.ckptAsk (s : State) (t e : Nat) : State :=
  let r := s.pairRunner t e
  if s.engRuns t r then s.modEng t r (fun y => { y with ckptReq := true }) else s

/-- A failed engine starts its self-test (R440). -/
def State.testAsk (s : State) (t e : Nat) : State := s.modEng t e (fun y => { y with test := true })

/-- The self-test ends: an engine that passed takes over at engine 8's next checkpoint, or, where engine 8 never served it,
restores its own checkpoint at once; where it failed, the host's request in DEP_ENG_RET is refused, which is recorded as a
refused write (R14, R437, R440, R510; log entry 137). -/
def State.testEnd (s : State) (t e : Nat) (pass : Bool) : State :=
  if !(s.eng t e).test then s
  else
    let s := s.modEng t e (fun y => { y with test := false, passed := pass && decide ((s.eng t 8).serving = e) })
    if pass && decide ((s.eng t 8).serving ≠ e) then
      if s.bracket && decide (e % 2 = 1) then s.modEng t e (fun y => { y with st := 0 }) else s.restore t e
    else if pass then s
    else s.refuse .host 0xA00C 4

/-! ### Lockstep pairs (R239, R438, R439) -/

/-- Engine 8 becomes a member of the pair in place of the one that disagrees, which fails (R438). -/
def State.replaceMember (s : State) (t p : Nat) (odd : Bool) : State :=
  let s := if odd then
      (s.modEng t (2 * p + 1) (fun y => { y with st := 5 })).modEng t 8 (fun y => { y with serving := 2 * p + 1 })
    else s.moveEngine t (2 * p) 8 5
  (s.countFailover).raise (tileSrc t 4)

/-- The vote of a pair is over. -/
def State.voteOff (s : State) (t e : Nat) : State := s.modEng t e (fun y => { y with voting := false })

/-- A mismatch in pair `p`: a vote that one copy loses, a rollback with or without engine 8, or a second mismatch before
the next checkpoint (R239, R438, R439). -/
def State.pairMismatch (s : State) (t p : Nat) (who : LockCopy) : State :=
  let e := s.pairRunner t (2 * p)
  let y := s.eng t e
  let free := decide ((s.eng t 8).serving = 15)
  if !s.bracket || !s.engRuns t e then s
  else if y.voting then
    match who with
    | .spare => ((s.voteOff t e).modEng t 8 (fun y => { y with serving := 15 })).raise (tileSrc t 4)
    | .even => (s.voteOff t e).replaceMember t p false
    | .odd => (s.voteOff t e).replaceMember t p true
  else if who = .spare ∧ e ≠ 8 ∧ (s.eng t 8).serving ≠ 2 * p + 1 then s
  else
    let s := s.restore t e
    if y.mismatched then (if free then s.replaceMember t p (decide (who = .odd)) else s.unserve t e)
    else
      let s := s.modEng t e (fun y => { y with mismatched := true, voting := free })
      if free then s.modEng t 8 (fun y => { y with serving := 2 * p }) else s.countRestart

/-- The replay ends: a vote without a disagreement frees engine 8 and counts one rollback (R236, R438). -/
def State.replayOver (s : State) (t e : Nat) : State :=
  let y := s.eng t e
  if (y.st = 2 ∧ y.replay ≤ y.delivered) ∨ (y.st = 1 ∧ y.voting) then
    let s := s.modEng t e (fun y => { y with st := 1 })
    if y.voting then ((s.voteOff t e).modEng t 8 (fun y => { y with serving := 15 })).countRestart else s
  else s

/-! ### Tile reset (R444, R499) -/

/-- A tile reset starts: the handover is cut, a proof run of the tile stops without its handback, a prepared update loses
its shadow there (R382, R390, R419, R444). A soft reset absorbs it (R499). -/
def State.tileReset (s : State) (t : Nat) : State :=
  if (s.tile t).inReset || !(s.tile t).powered then s
  else
    let s := ((s.dropDark 8).hoCut t).proofHo t
    let s := match s.cal.run with
      | some r => if r.tile = t then s.proofStop true else s
      | none => s
    let s := s.modTile t (fun x => { x with inReset := true })
    if s.cfg.noShadow.contains t then s else { s with cfg := { s.cfg with noShadow := t :: s.cfg.noShadow } }

/-- The RWF fields and program words of a tile take the fixed image's values (R444, R502). -/
def State.rewriteTile (s : State) (t : Nat) : State :=
  let want := (s.bare).stageRecs s.cfg.recs
  let mine := fun (p : Nat × Reg32) => decide (tileOf p.1 = some t) && isRwf p.1
  let s := (s.regs.filter mine).foldl (fun s p => s.setReg p.1 (resetValue p.1)) s
  let s := (want.regs.filter mine).foldl (fun s p => s.setReg p.1 p.2) s
  if (s.tile t).pmNew.isEmpty then s.modTile t (fun x => { x with pm := (want.tile t).pm }) else s

/-- A tile leaves reset: its configuration stands as in the fixed image, its replica is loaded, its engines restart from
their checkpoints, and words of an update fixed meanwhile come into force (R420, R444, R502). -/
def State.tileOut (s : State) (t : Nat) : State :=
  let s := s.modTile t (fun x => { x.replicaLoad s.tb.age with inReset := false })
  let s := if (mapGet (fun _ => []) s.cfg.late t).isEmpty then s.rewriteTile t else s
  let s := forKeys (List.range 9) (fun e s =>
    let st := (s.eng t e).st
    if st = 1 ∨ st = 2 ∨ st = 3 then s.restore t e else s) s
  (s.fixLate t).raise (tileSrc t 14)

/-- A tile reset completes (R444, R500); during a soft reset the streams get its marker only (R499). -/
def State.tileResetEnd (s : State) (t : Nat) : State :=
  if !(s.tile t).inReset then s
  else if s.pw.soft then s.tileOut t
  else ((s.tileOut t).noteReset 5 t 0).restartAll 5 t 0

/-! ### The commands -/

/-- REPLAY_END (R236, R438). -/
def execReplayEnd (t e : Nat) (s : State) : Host.Outcome State Fault Refusal :=
  onEng t e s (fun s => if s.engRuns t (s.pairRunner t e) then s.replayOver t (s.pairRunner t e) else s)

/-- ENGINE_FAULT_DETECT (R434, R435): a concurrent check of an engine that runs in Burst mode fails. -/
def execEngineFaultDetect (t e : Nat) (s : State) : Host.Outcome State Fault Refusal :=
  onEng t e s (fun s => if s.engRuns t e && !s.bracket then s.engFault t e else s)

/-- ENGINE_STALL_WATCHDOG (R434): an engine with a released item has retired no instruction for 16 µs, counted from its
last one or from the instant of the oldest such item, whichever is later. -/
def execEngineStallWatchdog (t e : Nat) (s : State) : Host.Outcome State Fault Refusal :=
  onEng t e s (fun s =>
    let y := s.eng t e
    let ages := (s.liveCtxs t e).flatMap (fun c => ((s.ctx t c).items ++ (s.ctx t c).trig).map (·.age))
    match ages with
    | a :: rest =>
      if s.engRuns t e && !s.bracket then (s.advanceTo (max y.lastRun (rest.foldl min a) + 2000)).engFault t e else s
    | [] => s)

/-- FAILOVER (R435, R437): an engine held for it moves to engine 8. -/
def execFailover (t e : Nat) (s : State) : Host.Outcome State Fault Refusal :=
  onEng t e s (fun s => if (s.eng t e).st = 3 then s.failover t e else s)

/-- LOCKSTEP_MISMATCH (R239, R438, R439). -/
def execLockstepMismatch (t p : Nat) (who : LockCopy) (s : State) : Host.Outcome State Fault Refusal :=
  if p < 4 then onTile t s (fun s => s.pairMismatch t p who) else .fault .noSuchEngine

/-- ENGINE_SELF_TEST_DONE (R440). -/
def execEngineSelfTestDone (t e : Nat) (pass : Bool) (s : State) : Host.Outcome State Fault Refusal :=
  onEng t e s (fun s => s.testEnd t e pass)

/-- TMR_PERSISTENT_FAULT (R433, R444). -/
def execTmrPersistentFault (t : Nat) (s : State) : Host.Outcome State Fault Refusal :=
  onTile t s (fun s => if s.pw.soft then s else s.tileReset t)

/-- TILE_RESET_DONE (R444). -/
def execTileResetDone (t : Nat) (s : State) : Host.Outcome State Fault Refusal := onTile t s (fun s => s.tileResetEnd t)

end Sys2Proof.Machine
end

