-- ==== Sys2Proof/Machine/Power.lean ====
section
/-! DEFINITION. Power states, start-up and the resets of the whole device (R486 to R504, R552), the supervisor's
restart and sleep (R443, R460, R491), and tiles woken in Dark state (R492). -/

namespace Sys2Proof.Machine

open Sys2Proof

/-! ### Run and Safelight (R162, R182, R205, R487) -/

/-- Every engine that has contexts receives an item of its own now (R205). -/
def State.injectAll (s : State) (kind cls : Nat) (word : W64) : State :=
  forKeys (List.range s.nTiles) (fun t s => forKeys (List.range 9) (fun e s =>
    if (s.eng t e).ctxs.isEmpty then s
    else s.inject t e ⟨s.segNow t e, BitVec.ofNat 64 s.now.engine, cls, 0, s.tb.age, none, kind, word, s.secMark⟩) s) s

/-- A channel's state for its engine input queue at the return to Run: the next record carries IU and not LG (R162). -/
def Chan.freshEq (y : Chan) : Chan := { y with eq := {}, neq := { iu := true } }

/-- The device enters Run: the gap ends, grids start (R162, R182, R205). -/
def State.goRun (s : State) : State :=
  let s := { s with pw := { s.pw with st := .run, toRun := none } }
  let s := forKeys (List.range s.nTiles) (fun t s => forKeys (List.range 17) (fun c s => s.modChan t c Chan.freshEq) s) s
  (s.injectAll 4 0 (gapMarker true s.tb.epoch s.now)).raise (chipSrc 30)

/-- Hits that wait for an engine input queue are not committed there any more (R162). -/
def Chan.stopEq (y : Chan) : Chan :=
  { y with fifo := y.fifo.map (fun h => if h.eq = .waiting then { h with eq := .off } else h) }

/-- Every pending trigger is refused now, as the device leaves Run state: its marks go and TREF is answered (R291, R302,
R498). One that an epoch change or a freeze has ended already keeps that reason (R289). -/
def State.refuseAll (s : State) : State :=
  let gone := s.eb.pending
  gone.foldl (fun s p => (s.dropMarks p.ord).tref p.id p.code (p.doom.getD 6) p.epoch)
    { s with eb := { s.eb with pending := [] } }

/-- Every pending trigger is refused with a reason at its decision (R289, R302). -/
def State.doomAll (s : State) (reason : Nat) : State :=
  let doom := fun (p : Trig) => if p.doom.isNone then { p with doom := some reason } else p
  { s with eb := { s.eb with pending := s.eb.pending.map doom } }

/-- The device enters Safelight from Run: gates close with a gap marker, pending triggers are refused (R29, R162, R205,
R302). -/
def State.goSafelight (s : State) : State :=
  let s := { s with pw := { s.pw with st := .safelight, toSafe := none } }
  let s := forKeys (s.tiles.map (·.1)) (fun t s =>
    forKeys ((s.tile t).chans.map (·.1)) (fun c s => s.modChan t c Chan.stopEq) s) s
  ((s.refuseAll).injectAll 5 3 (gapMarker false s.tb.epoch s.now)).raise (chipSrc 30)

/-! ### Requests (R487 to R490) -/

/-- A power request is refused (R487). -/
def State.powerRefused (s : State) (reason : Nat) : State :=
  ({ s with pw := { s.pw with reason := reason } }).raise (chipSrc 30)

/-- A request waits for its instant, or a soft reset is in progress (R487, reason 8). -/
def Power.busy (p : Power) : Bool := p.soft || p.exiting || p.dark.isSome || p.toRun.isSome || p.toSafe.isSome

/-- X of LK_SW_S and LK_SW_NS (R356). -/
def State.switchTime (s : State) : Time := { s := s.rv 0x3010, ns := s.fld 0x3014 29 0 }

/-- X lies 10 µs to 60 s after the instant at which the request arrived (R356). -/
def State.switchOk (s : State) (arrived : Time) : Bool :=
  let d := s.switchTime.diff arrived
  s.switchTime.onSlot && decide (10240000 ≤ d) && decide (d ≤ 61440000000000)

/-- A Dark entry or exit is requested (R356, R488); an entry stops a proof run (R490). -/
def State.askDark (s : State) (entry : Bool) (arrived : Time) : State :=
  if !s.switchOk arrived then s.powerRefused 3
  else if s.pw.busy then s.powerRefused 8
  else
    let s := if entry then s.proofStop false else s
    let x := s.switchTime
    { s with pw := { s.pw with dark := some { entry := entry, x := x, age := s.tb.age + s.slotsTo x } } }

/-- PW_CTRL.REQ: 1 Run, 2 Safelight, 3 Dark (R487, R504); reasons in the order of their table. -/
def State.askPower (s : State) (req : Nat) (arrived : Time) : State :=
  match req, s.pw.st with
  | 1, .safelight =>
    if s.cfg.noImage then s.powerRefused 1
    else if s.pw.busy then s.powerRefused 8
    else { s with pw := { s.pw with toRun := some s.tb.age } }
  | 2, .run => if s.pw.busy then s.powerRefused 8 else { s with pw := { s.pw with toSafe := some s.tb.age } }
  | 2, .dark => s.askDark false arrived
  | 3, .safelight => if s.phase = .running then s.askDark true arrived else s.powerRefused 2
  | _, _ => s.powerRefused 2

/-- PW_CTRL.CANCEL: a pending Dark request that is not decided is withdrawn (R488). -/
def State.powerCancel (s : State) : State :=
  match s.pw.dark with
  | some d => if d.decided then s else { s with pw := { s.pw with dark := none } }
  | none => s

/-- The first reason for which a Dark entry is refused at its decision (R490). -/
def State.darkReason (s : State) : Option Nat :=
  if !(s.eventsDone && s.queuesEmpty && s.linksEmpty) then some 4
  else if !s.calQuiet then some 5
  else if s.dep.latch || s.dep.request.isSome || s.dep.frozen then some 6
  else if s.luHeld then some 7
  else none

/-! ### Gating and waking of tiles (R141, R491, R492, R552) -/

/-- What a channel loses with its power: FIFO, a running check, and its trim codes, which come up as the draw `n`. -/
def Chan.gated (y : Chan) (n : Nat) : Chan :=
  { y with fifo := [], recent := [], check := { y.check with busy := false, thr := none }, live := [], lost := some n }

/-- One channel of a tile loses its power; a threshold that waits for the end of a check takes effect (R116). -/
def State.gateChan (s : State) (t c : Nat) : State :=
  let s := match (s.chan t c).check.thr with
    | some w => s.setReg (tileBase t + 0x404 + 64 * c) w
    | none => s
  let (n, s) := s.draw
  s.modChan t c (fun y => y.gated n)

/-- An engine keeps its state on the retention rail but for its position in INQ (R552). -/
def Engine.gated (y : Engine) : Engine := { y with dpos := 0, loaded := false, sliceEnd := true, cycles := 0 }

/-- A tile is power-gated: its queues are emptied and counted, and all but the level monitor and the retention rail loses
its power (R491, R492, R552). A marker that a queue did not take stays held (R48). -/
def State.gateTile (s : State) (t : Nat) : State :=
  let s := forKeys (List.range 17) (fun c s => s.commitWaiting t c) s
  let s := forKeys ((s.tile t).engs.map (·.1)) (fun e s => (s.saveRegs t e).modEng t e Engine.gated) s
  let s := forKeys ((s.tile t).qs.map (·.1)) (fun q s => s.dropWords t q) s
  let s := forKeys (List.range 17) (fun c s => s.gateChan t c) s
  s.modTile t (fun x => { x with
    powered := false, awake := false, qmem := [], marks := [], ring := [], cbLb := {}, cbEq := {}
    qs := (x.qs.map (fun p => (p.1, p.2.restarted))).filter (fun p => decide (p.2 ≠ {})) })

/-- The supervisor loads the trim DACs of a tile with their present targets (R492). -/
def State.loadTile (s : State) (t : Nat) : State := forKeys (List.range 17) (fun c s => s.loadTrims t c) s

/-- A tile is powered again, its replica loaded with the master's time (R75, R492). -/
def State.lightTile (s : State) (t : Nat) : State :=
  s.modTile t (fun x => { x.replicaLoad s.tb.age with powered := true, lm := { x.lm with wake := false } })

/-- A tile wakes in Dark state (R492); an awake supervisor loads its trims at once, a sleeping one is woken. -/
def State.wakeTile (s : State) (t : Nat) : State :=
  let s := ((s.lightTile t).modTile t (fun x => { x with awake := true })).lmWake t
  let s := if s.sup.asleep then { s with sup := { s.sup with wakeAsk := true } } else s.loadTile t
  s.raise (tileSrc t 15)

/-- Something asks for a gated tile: its level monitor or a message on its channel (R142, R460). -/
def State.tileCalled (s : State) (t : Nat) : Bool := (s.tile t).lm.wake || (s.slot (32 + t)).full

/-- The supervisor leaves sleep: the trims of woken tiles are loaded (R460, R481, R492). -/
def State.wakeSup (s : State) : State :=
  let s := { s with sup := { s.sup with asleep := false, wakeAsk := false } }
  let s := forKeys ((List.range s.nTiles).filter (fun t => (s.tile t).awake)) (fun t s => s.loadTile t) s
  s.raise (chipSrc 31)

/-- Something asks for the sleeping supervisor: a SUP route, a wake request or a doorbell (R142, R460, R471). -/
def State.supCalled (s : State) : Bool :=
  s.sup.wakeAsk || (List.range 96).any (fun ch => hostSends ch && (s.slot ch).full)

/-- PW_REGATE: woken tiles are gated again (R492). -/
def State.regateAsk (s : State) (mask : BitVec 64) : State :=
  forKeys ((List.range s.nTiles).filter (fun t => mask.getLsbD t && (s.tile t).awake)) (fun t s => s.gateTile t) s

/-! ### Dark state (R356, R490 to R493) -/

/-- Both lanes of each pair hold the LSEQ values of the pair, which its even lane has counted (R331, R336, R502). -/
def State.levelPairs (s : State) : State :=
  if s.bracket then
    forKeys [0, 2, 4, 6] (fun l s =>
      let x := s.lane l
      s.modLane (l + 1) (fun y => { y with next := x.next, ack := x.ack })) s
  else s

/-- The links change their rate (R356): the receiver starts anew without its event, and the lanes in use train. -/
def State.switchRate (s : State) (dark : Bool) : State :=
  let s := (s.levelPairs).setDn .noSignal
  ({ s with lk := { s.lk with darkRate := dark } }).trainAll

/-- The device enters Dark state at X (R491); the supervisor sleeps once it has logged the power-state event. -/
def State.goDark (s : State) : State :=
  let s := forKeys ((List.range s.nTiles).filter (fun t => (s.tile t).powered)) (fun t s => s.gateTile t) s
  let s := s.switchRate true
  let s := { s with pw := { s.pw with st := .dark, dark := none, wentDark := some s.tb.epoch, darkCauses := 0 } }
  let s := s.raise (chipSrc 30)
  { s with sup := { s.sup with asleep := true, wakeAsk := false } }

/-- The markers that every capture destination receives at the Dark exit (R48). -/
def State.exitMarks (s : State) : List W64 :=
  match s.pw.wentDark with
  | some old =>
    (if s.pw.darkCauses = 0 then [] else [epochMarker s.tb.epoch old s.pw.darkCauses.toNat s.tb.openTime.ns]) ++ [s.secMark]
  | none => [s.secMark]

/-- One tile at the Dark exit: markers, kept level records, and a checkpoint of each engine before its first item; the
first record of each channel carries IU (R48, R141, R493, R552). -/
def State.exitTile (s : State) (t : Nat) (ws : List W64) : State :=
  let gated := !(s.tile t).powered
  let s := (s.lightTile t).modTile t (fun x => { x with awake := false })
  let s := s.markTile t 0 ws
  let s := if gated then s.lmWake t else s
  let s := forKeys (List.range 17) (fun c s => s.modChan t c Chan.oweIu) s
  forKeys (List.range 9) (fun e s => if (s.eng t e).st = 1 ∨ (s.eng t e).st = 2 then s.checkpoint t e else s) s

/-- The device leaves Dark state from X on (R493). -/
def State.leaveDark (s : State) : State :=
  let ws := s.exitMarks
  let s := { s with pw := { s.pw with dark := none, exiting := true, wentDark := none } }
  let s := forKeys (List.range s.nTiles) (fun t s => s.exitTile t ws) s
  let s := s.switchRate false
  if s.sup.asleep then s.wakeSup else s

/-- Safelight state is reached: every tile is powered and every trim DAC loaded (R493). -/
def State.darkOver (s : State) : State :=
  let s := forKeys (List.range s.nTiles) (fun t s => s.loadTile t) s
  ({ s with pw := { s.pw with st := .safelight, exiting := false } }).raise (chipSrc 30)

/-! ### POR, RESET_N and start-up (R494 to R497) -/

/-- Everything that POR or RESET_N reinitialises (R502): the non-volatile store, the device key, the pins that others
drive and the waiting commands stay; SEC_CHAL takes a new value (R473). -/
def State.wiped (s : State) (p : Phase) (cause : Nat) : State :=
  let z := State.resetFor s.part
  let pins := s.lk.fci.map (fun x => (x.1, x.2.map (fun _ => 0)))
  { z with
    key := s.key, nv := s.nv, pending := s.pending, phase := p, bootsel := s.bootsel, fresh := s.fresh + 1
    sup := { z.sup with chal := Config.random s.fresh }
    lk := { z.lk with fci := pins, restartOwed := some cause, lateRestart := some cause }
    pw := { z.pw with cause := cause }
    dep := { z.dep with snapN := s.dep.snapN }
    cfg := { z.cfg with flash := s.cfg.flash } }

/-- The supervisor computes the boot count and writes its entry before any other; the entry is never left out (R37, R496; log
entry 138). -/
def State.countBoot (s : State) : State :=
  let q := match logLast s.nv with
    | some (q, _) => (q + 1) % 2 ^ 32
    | none => 0
  ({ s with pw := { s.pw with bootCnt := bootCount s.nv, counted := true }, sup := { s.sup with logSeq := q } }).putEntry 1 0xFFFF 0

/-- Start-up begins: BOOTSEL is latched, and the boot count is computed and logged (R406, R495, R496). -/
def State.startUp (s : State) (bootsel : BitVec 2) (flash : List Byte) : State :=
  let s := { s with bootsel := bootsel, cfg := { s.cfg with flash := flash } }
  if bootsel = 3 then { s with phase := .factory } else ({ s with phase := .booting }).countBoot

/-- The contact sheet takes what the trim records say of a channel (R367). -/
def State.sheetBoot (s : State) (t c : Nat) : State :=
  let dead := s.factoryDead t c
  let out := !s.calGood t c
  s.modChan t c (fun y => { y with sheet := { y.sheet with deadF := dead, outF := out } })

/-- Start-up ends in Safelight state (R495); where it begins with State.reset, the boot count is still to be computed (R496). -/
def State.bootEnd (s : State) : State :=
  let s := if s.pw.counted then s else s.countBoot
  let s := ({ s with phase := .running }).calChoose
  let s := forKeys (List.range s.nTiles) (fun t s => forKeys (List.range 17) (fun c s => s.sheetBoot t c) s) s
  (s.bootImage).raise (chipSrc 30)

/-! ### Supervisor restart, soft reset (R443, R498, R499) -/

/-- The supervisor stops for its restart, and SUP_GEN rises (R443, R463). -/
def State.supDown (s : State) : State :=
  { s with sup := { s.sup with restarting := true, supGen := genNext s.sup.supGen } }

/-- The supervisor runs again: the empty notices held for it are delivered (R465). -/
def State.supUp (s : State) : State :=
  let s := { s with sup := { s.sup with restarting := false } }
  forKeys ((s.sup.slots.map (·.1)).filter (fun ch => !hostSends ch)) (fun ch s =>
    s.setSlot ch { s.slot ch with held := false }) s

/-- The RWF fields of the spine take the fixed image's values (R498, R502). -/
def State.rewriteSpine (s : State) : State :=
  let want := (s.bare).stageRecs s.cfg.recs
  let mine := fun (p : Nat × Reg32) => (tileOf p.1).isNone && isRwf p.1
  let s := (s.regs.filter mine).foldl (fun s p => s.setReg p.1 (resetValue p.1)) s
  (want.regs.filter mine).foldl (fun s p => s.setReg p.1 p.2) s

/-- PW_CTRL.SOFT_RST (R498, R499, R504): refused in Dark state, held during a freeze, absorbed by a soft reset or by
start-up; `h` is the head of a control frame that it cuts. The boot count is computed and logged before any other entry, and
every stream gets its restart frame, which precedes all that is sent anew (R496, R500). -/
def State.softAsk (s : State) (h : Option CtlHead) : State :=
  if s.dep.frozen then { s with dep := { s.dep with heldSoft := true } }
  else if s.pw.soft || decide (s.phase ≠ .running) then s
  else if s.pw.st = .dark then s.powerRefused 8
  else
    let s := s.countBoot
    let s := if s.pw.toRun.isSome then ({ s with pw := { s.pw with toRun := none } }).powerRefused 8 else s
    let s := s.dropDark 8
    let held := decide (s.pw.st = .run) && s.pw.toSafe.isNone
    let s := if s.pw.st = .run then s.goSafelight else s
    let s := (s.refuseAll).linkReset h
    let s := forKeys (List.range s.nTiles) (fun t s => s.tileReset t) s
    let s := (s.supDown.cancelAsk).rewriteSpine
    (({ s with pw := { s.pw with soft := true, heldRun := held } }).noteReset 4 0 0).restartAll 4 0 0

/-- The soft reset completes (R444, R498). -/
def State.softEnd (s : State) : State :=
  let s := forKeys ((List.range s.nTiles).filter (fun t => (s.tile t).inReset)) (fun t s => s.tileOut t) s
  let s := s.supUp
  let next := if s.pw.heldRun then some (s.tb.age + 1) else none
  { s with pw := { s.pw with soft := false, heldRun := false, toRun := next } }

/-- LK_CTRL.LRESET (R355, R488, R497, R499). -/
def State.linkAsk (s : State) (h : Option CtlHead) : State :=
  if s.pw.soft then s
  else (((s.linkReset h).dropDark 8).noteReset 3 0 0).restartAll 3 0 0

/-! ### The commands -/

/-- POR_ASSERT (R494). -/
def execPorAssert (s : State) : Host.Outcome State Fault Refusal := .next (s.wiped .porHeld 1)

/-- POR_END (R495). -/
def execPorEnd (bootsel : BitVec 2) (flash : List Byte) (s : State) : Host.Outcome State Fault Refusal :=
  .next (if s.phase = .porHeld then s.startUp bootsel flash else s)

/-- RESET_N_LOW (R494, R497): it acts in every state but under POR. -/
def execResetNLow (s : State) : Host.Outcome State Fault Refusal :=
  .next (if s.phase = .porHeld then s else s.wiped .rstHeld 2)

/-- RESET_N_RELEASE (R495). -/
def execResetNRelease (bootsel : BitVec 2) (flash : List Byte) (s : State) : Host.Outcome State Fault Refusal :=
  .next (if s.phase = .rstHeld then s.startUp bootsel flash else s)

/-- BOOT_COMPLETE (R495). -/
def execBootComplete (s : State) : Host.Outcome State Fault Refusal :=
  onChip s (fun s => if s.phase = .booting then s.bootEnd else s)

/-- SOFT_RESET_DONE (R498). -/
def execSoftResetDone (s : State) : Host.Outcome State Fault Refusal :=
  onChip s (fun s => if s.pw.soft then s.softEnd else s)

/-- ENTER_RUN (R487). -/
def execEnterRun (s : State) : Host.Outcome State Fault Refusal :=
  onChip s (fun s => match s.pw.toRun with
    | some a => (s.advanceTo a).goRun
    | none => s)

/-- ENTER_SAFELIGHT (R205, R487). -/
def execEnterSafelight (s : State) : Host.Outcome State Fault Refusal :=
  onChip s (fun s => match s.pw.toSafe with
    | some a => (s.advanceTo a).goSafelight
    | none => s)

/-- DARK_DECIDE (R490): at X - 8 µs. -/
def execDarkDecide (s : State) : Host.Outcome State Fault Refusal :=
  onChip s (fun s => match s.pw.dark with
    | some d =>
      if d.entry && !d.decided then
        let s := s.advanceTo (d.age - 1000)
        match s.darkReason with
        | some r => s.dropDark r
        | none => { s with pw := { s.pw with dark := some { d with decided := true } } }
      else s
    | none => s)

/-- DARK_ENTRY (R491): at X, for an entry that was decided. -/
def execDarkEntry (s : State) : Host.Outcome State Fault Refusal :=
  onChip s (fun s => match s.pw.dark with
    | some d => if d.entry && d.decided then (s.advanceTo d.age).goDark else s
    | none => s)

/-- DARK_EXIT (R493): at X. -/
def execDarkExit (s : State) : Host.Outcome State Fault Refusal :=
  onChip s (fun s => match s.pw.dark with
    | some d => if d.entry then s else (s.advanceTo d.age).leaveDark
    | none => s)

/-- DARK_EXIT_COMPLETE (R493). -/
def execDarkExitComplete (s : State) : Host.Outcome State Fault Refusal :=
  onChip s (fun s => if s.pw.exiting then s.darkOver else s)

/-- TILE_WAKE (R492): a gated tile that its level monitor or a doorbell calls is powered. -/
def execTileWake (t : Nat) (s : State) : Host.Outcome State Fault Refusal :=
  onTile t s (fun s =>
    if s.pw.st = .dark ∧ !(s.tile t).powered ∧ s.tileCalled t then s.wakeTile t else s)

/-- PW_REGATE (R492): at the next slot boundary. -/
def execPwRegate (mask : BitVec 64) (s : State) : Host.Outcome State Fault Refusal :=
  onChip s (fun s => (s.advance 1).regateAsk mask)

/-- SUPERVISOR_WAKE (R460). -/
def execSupervisorWake (s : State) : Host.Outcome State Fault Refusal :=
  onChip s (fun s => if s.sup.asleep && s.supCalled then s.wakeSup else s)

/-- SUPERVISOR_RESTART (R443): the watchdog restarts a supervisor that runs. -/
def execSupervisorRestart (s : State) : Host.Outcome State Fault Refusal :=
  onChip s (fun s =>
    if s.supRuns && decide (s.phase = .running) then
      let s := (s.supDown).dropDark 8
      ({ s with sup := { s.sup with restarts := satAdd 65535 s.sup.restarts 1 } }).raise (chipSrc 28)
    else s)

/-- SUPERVISOR_RESTART_DONE (R443, R465, R500). -/
def execSupervisorRestartDone (s : State) : Host.Outcome State Fault Refusal :=
  onChip s (fun s =>
    if s.sup.restarting && !s.pw.soft then (((s.supUp).log 1 0xFFFF 0).noteReset 7 0 0).restartAll 7 0 0 else s)

end Sys2Proof.Machine
end

