-- ==== Sys2Proof/Machine/Snapshot.lean ====
section
/-! DEFINITION. The snapshot (R445 to R451): the freeze, what can be read meanwhile, and the release. -/

namespace Sys2Proof.Machine

open Sys2Proof

/-! ### The freeze (R445, R446, R451) -/

/-- A freeze request (R445, R451): it sets the latch, stops a proof run, and refuses an armed update that is not decided
and a pending Dark entry or exit; one that arrives while another is in force has no effect. Q is the slot boundary 8 ns
after the arrival of a command; for SNAP_N (`src` false) the request is the first timing-clock edge after the fall, so that
Q comes one slot later (R542; log entry 141). -/
def State.freezeAsk (s : State) (src : Bool) : State :=
  if s.dep.request.isSome then s
  else
    let s := s.proofStop false
    let s := if s.cfg.luState = 4 ∧ !s.cfg.decided then s.fixRefused 0 else s
    let s := s.dropDark 6
    { s with dep := { s.dep with latch := true, request := some (s.tb.age + (if src then 1 else 2)), src := src } }

/-- The channel of a tile whose hit waits longest at a destination; among equal stamps the one of the lowest local input,
which for the spare is the input it serves (R158). -/
def State.oldestAt (s : State) (t : Nat) (d : Dest) : Option (Nat × Hit) :=
  ((s.tile t).chans.map (·.1)).foldl (fun best c =>
    match (s.chan t c).oldest d, best with
    | some h, some (b, g) => if h.key < g.key ∨ (h.key = g.key ∧ h.input < g.input) then some (c, h) else some (b, g)
    | some h, none => some (c, h)
    | none, b => b) none

/-- Every hit of a tile that waits at a destination is committed there, the oldest first (R154, R446). The commits reach
past the freeze, in which time the commit buffer drains. -/
def State.commitAll (s : State) (t : Nat) (d : Dest) : State :=
  let n := ((s.tile t).chans.map (fun p => p.2.fifo.countP (fun h => decide (h.at_ d = .waiting)))).sum
  forKeys (List.range n) (fun _ s => match s.oldestAt t d with
    | some (c, h) => (s.modTile t (fun x => x.setCommitBuf d {})).commitHit t c d h
    | none => s) s

/-- The device freezes at Q (R446). -/
def State.freezeNow (s : State) (q : Nat) : State :=
  let s := s.advanceTo q
  let s := forKeys (s.tiles.map (·.1)) (fun t s => (s.commitAll t .lb).commitAll t .eq) s
  let (n, s) := s.draw
  { s with
   pr := { s.pr with words := [] }
   dep := { s.dep with
    request := none, frozen := true, q := s.now, qEpoch := s.tb.epoch, dur := 0, rel := 1, chain := n
    count := (s.dep.count + 1) % 2 ^ 32 } }

/-- The latch is cleared, or SNAP_N rises: the device may release from the slot boundary on that comes `n` slots after the
present one (R448, R542; log entry 141). -/
def Depend.unlatch (d : Depend) (n : Nat) : Depend := { d with latch := false, rel := d.dur + n }

/-! ### Reading (R447) -/

/-- Bits of the segments that SNAP_SEL selects (R447). -/
def State.chainBits (s : State) : Nat :=
  let v := s.dep.sel.toNat
  if v = 0xFF then 4000000 + s.nTiles * 2437500
  else if v = 0 then 4000000
  else if v ≤ s.nTiles then 2437500
  else 0

/-- A word whose bits are free (log entry 6). -/
def freeWord (n g a : Nat) : W64 :=
  BitVec.ofNat 64 (((List.range 64).map (fun i => if Config.snapBit n g (64 * a + i) then 2 ^ i else 0)).sum)

/-- Word `a` of the memory with number `k`: the program memories and context stores of the tiles and the message memory
as they stand; the words of the event, replay and supervisor memories are free values (R447, log entry 6). -/
def State.snapWord (s : State) (k a : Nat) : W64 :=
  if k < 64 then ((mapGet (fun _ => 0) (s.tile k).pm a).setWidth 64)
  else if k < 128 then mapGet (fun _ => 0) (s.tile (k - 64)).cx a
  else if k = 128 then readW64 s.msg (8 * a)
  else freeWord s.dep.chain k a

/-! ### The release (R448, R449) -/

/-- Time at R: Q and the freeze; the old epoch's gates end at Q (R206); a wrap of the seconds is a cause of its own (R42, R448). -/
def State.thaw (s : State) : State :=
  let d := max s.dep.dur s.dep.rel
  let wraps := decide (2 ^ 32 * 125000000 ≤ s.dep.q.s * 125000000 + s.dep.q.ns / 8 + d)
  let s := { s with
    dep := { s.dep with frozen := false, dur := d % 2 ^ 32 }
    tb := { s.tb with time := s.dep.q.addNs (8 * d), frozenAt := some s.dep.q } }
  let s := s.addCause 3 s.tb.age
  if wraps then s.addCause 5 s.tb.age else s

/-- The device releases at R (R448, R449, R499). -/
def State.thawAll (s : State) : State :=
  let s := (s.thaw).doomAll 5
  let m := snapMarker s.dep.qEpoch (nextEpoch s.tb.epoch) s.dep.src s.dep.q
  let s := s.openEpoch [m]
  let s := forKeys (List.range s.nTiles) (fun t s =>
    forKeys (List.range 17) (fun c s => s.modChan t c Chan.oweIu) s) s
  let s := forKeys (s.tt.opened.map (fun _ => 0)) (fun _ s => s.ttDiscard 3) s
  let s := ({ s with tt := { s.tt with opened := [], stale := true } }).trainAll
  let s := (s.updQuality).raise (chipSrc 32)
  if s.dep.heldSoft then ({ s with dep := { s.dep with heldSoft := false } }).softAsk none else s

/-! ### The commands -/

/-- A pin or JTAG action: none while POR or RESET_N is held. -/
def onJtag (s : State) (f : State → State) : Host.Outcome State Fault Refusal :=
  .next (if s.phase = .porHeld ∨ s.phase = .rstHeld then s else f s)

/-- SNAPSHOT (R318, R445). -/
def execSnapshot (b : BitVec 52) (bad : Bool) (s : State) : Host.Outcome State Fault Refusal :=
  onChip s (fun s => s.onSlot bad (fun s => if b = 0 then s.freezeAsk true else s.refuseFast))

/-- SNAP_N_FALL (R445). -/
def execSnapNFall (s : State) : Host.Outcome State Fault Refusal :=
  let low := { s with dep := { s.dep with snapN := false } }
  .next (if s.up && s.dep.snapN && bit (s.rv 0xA008) 1 then low.freezeAsk false else low)

/-- SNAP_N_RISE (R448). -/
def execSnapNRise (s : State) : Host.Outcome State Fault Refusal :=
  .next { s with dep := { (if s.dep.snapN then s.dep else s.dep.unlatch 2) with snapN := true } }

/-- SNAP_FREEZE (R445, R447). -/
def execSnapFreeze (s : State) : Host.Outcome State Fault Refusal := onChip s (fun s => s.freezeAsk true)

/-- SNAP_RELEASE (R447, R448). -/
def execSnapRelease (s : State) : Host.Outcome State Fault Refusal :=
  onJtag s (fun s => { s with dep := if s.dep.latch then s.dep.unlatch 1 else s.dep })

/-- SNAP_SEL (R447). -/
def execSnapSel (v : BitVec 8) (s : State) : Host.Outcome State Fault Refusal :=
  onJtag s (fun s => { s with dep := { s.dep with sel := v } })

/-- SNAP_READ (R447): zeros outside a freeze. -/
def execSnapRead (s : State) : Host.Outcome State Fault Refusal :=
  onJtag s (fun s =>
    let src := if s.dep.frozen then some s.dep.chain else none
    { s with dep := { s.dep with tdo := { bits := s.chainBits, chain := src, words := [] } } })

/-- SNAP_MEM (R447): zeros outside a freeze. -/
def execSnapMem (v : BitVec 56) (s : State) : Host.Outcome State Fault Refusal :=
  onJtag s (fun s =>
    let n := bits v.toNat 23 0
    let a := bits v.toNat 47 24
    let k := Config.snapMemory (BitVec.ofNat 8 (bits v.toNat 55 48))
    let ws := (List.range n).map (fun i => if s.dep.frozen then s.snapWord k (a + i) else 0)
    { s with dep := { s.dep with tdo := { bits := 64 * n, chain := none, words := ws } } })

/-- FREEZE (R446): at Q. -/
def execFreeze (s : State) : Host.Outcome State Fault Refusal :=
  onChip s (fun s => match s.dep.request with
    | some q => s.freezeNow q
    | none => s)

/-- SNAPSHOT_RELEASE (R448): the latch is clear and SNAP_N is high. -/
def execSnapshotRelease (s : State) : Host.Outcome State Fault Refusal :=
  .next (if s.dep.frozen && !s.dep.latch && s.dep.snapN then s.thawAll else s)

end Sys2Proof.Machine
end

