-- ==== Sys2Proof/Machine/Registers.lean ====
section
/-! DEFINITION. Reading and writing registers and message memory (R505 to R522): what every register reads, when a write
is refused, what a write does; and the commands that are one write of one register. -/

namespace Sys2Proof.Machine

open Sys2Proof

/-! ### Addresses -/

/-- The offset in message memory of an address (R505). -/
def msgOffset (a : Nat) : Option Nat := if 0x800000 ≤ a ∧ a < 0x880000 then some (a - 0x800000) else none

/-- The address lies in the secure half of message memory, or in the registers of a secure mailbox channel (R323,
R457). -/
def secureAddr (a : Nat) : Bool :=
  (decide (0x840000 ≤ a) && decide (a < 0x880000)) ||
    (decide (0x5000 ≤ a) && decide (a < 0x5600) && secureBox ((a - 0x5000) / 16))

/-- The tile takes part: it is on the part, and powered unless the register is one of its level monitor (R4, R143). -/
def State.tileServes (s : State) (t : Nat) (r : Reg) : Bool :=
  s.onPart t && ((s.tile t).powered || (match r with
    | .lmCtrl | .lmMask | .lmStateLo | .lmStateHi | .lmLatch | .lmWake | .lmStat | .lmWin => true
    | _ => false))

/-! ### What the chip registers read -/

/-- The code of a timebase state (R57). -/
def TbState.code : TbState → Nat
  | .acquire => 0
  | .locked => 1
  | .holdover => 2
  | .ret => 3
  | .relock => 4
  | .waitRealign => 5

/-- The code of a receiver state (R314). -/
def DnState.code : DnState → Nat
  | .noSignal => 0
  | .cdr => 1
  | .char => 2
  | .slot => 3

/-- The code of a lane state (R329). -/
def LaneState.code : LaneState → Nat
  | .down => 0
  | .train => 1
  | .up => 2
  | .idleElec => 3

/-- The code of a power state (R486). -/
def PwState.code : PwState → Nat
  | .run => 0
  | .safelight => 1
  | .dark => 2

/-- The code of a handover state (R392). -/
def HoState.code : HoState → Nat
  | .idle => 0
  | .toSpare => 1
  | .serving => 2
  | .back => 3

/-- A number whose bit `i` says whether a property holds of `i`, for `i` below `n`. -/
def bitsOf (n : Nat) (p : Nat → Bool) : Nat := ((List.range n).map (fun i => if p i then 2 ^ i else 0)).sum

/-- DEP_STATUS.UNSERVED (R453). -/
def State.unservedAny (s : State) : Bool :=
  (List.range s.nTiles).any (fun t =>
    (List.range 9).any (fun e => decide ((s.eng t e).st = 5) && decide ((s.eng t 8).serving ≠ e)) ||
      (List.range 17).any (fun c => (s.chan t c).unserved && !s.spareServesInput t c))

/-- Tiles that meet a property, saturating at 64. -/
def State.countTiles (s : State) (p : Nat → Bool) : Nat := ((List.range s.nTiles).filter p).length

/-- The start-up has reached Safelight state, so the supervisor's registers are valid (R484, R495, R507). -/
def State.booted (s : State) : Bool := decide (s.phase = .running)

/-- GL_STATUS (R509). -/
def State.glStatus (s : State) : Nat :=
  packW [(0, 2, s.pw.st.code), (2, 3, s.tb.st.code), (5, 3, s.tt.quality), (8, 4, s.tb.epoch), (12, 1, b2n s.cfg.noImage),
    (13, 1, b2n s.cfg.bracket), (14, 1, b2n s.lk.linkDown), (15, 1, b2n s.lk.stallAge.isSome), (16, 1, b2n (s.pinLow 1)),
    (17, 1, b2n (s.pinLow 2)), (18, 1, b2n s.unservedAny)]

/-- TB_STATUS (R80). -/
def State.tbStatus (s : State) : Nat :=
  let auto := match s.tb.prof with
    | some p => p.auto
    | none => false
  packW [(0, 3, s.tb.st.code), (3, 1, b2n s.tb.refOk), (4, 1, b2n s.tb.refAct), (5, 1, b2n s.tb.loscOk), (6, 1, b2n s.st),
    (7, 1, b2n auto), (8, 4, s.tb.epoch)]

/-- LK_STATUS (R359). -/
def State.lkStatus (s : State) : Nat :=
  packW [(0, 3, s.lk.dn.code), (3, 1, b2n s.lk.pllLock), (4, 8, bitsOf 8 (fun l => decide (s.laneSt l = .up))),
    (12, 1, b2n s.lk.stallAge.isSome), (13, 1, b2n s.lk.darkRate), (14, 4, bitsOf 4 (fun k => (s.fciHigh k).isSome))]

/-- LK_LANE of a lane (R359): NEXT is that of the lane that holds the frames of a pair. -/
def State.lkLane (s : State) (l : Nat) : Nat :=
  let solo := s.pairs && decide (s.laneSt l = .up) && decide (s.laneSt (if l % 2 = 0 then l + 1 else l - 1) ≠ .up)
  packW [(0, 2, (s.laneSt l).code), (2, 1, b2n solo), (8, 24, (s.lane (s.leadOf l)).next)]

/-- CFG_STATUS (R429). -/
def State.cfgStatus (s : State) : Nat :=
  let v := fun (b : Bool) => s.booted && slotValid s.nv b
  let e := fun (b : Bool) => s.booted && slotEmpty s.nv b
  packW [(0, 3, s.cfg.luState), (3, 2, s.cfg.source), (5, 1, b2n (v false)), (6, 1, b2n (v true)), (7, 1, b2n (e false)),
    (8, 1, b2n (e true)), (9, 1, b2n s.cfgBusy), (10, 1, b2n s.cfg.noImage), (11, 2, s.bootsel.toNat), (13, 1, b2n s.cfg.bracket)]

/-- CAL_NV (R391). -/
def State.calNv (s : State) : Nat :=
  packW [(0, 1, b2n (copyValid s.nv (bankBase false) bankMagic bankLen)), (1, 1, b2n (copyValid s.nv (bankBase true) bankMagic bankLen)),
    (2, 1, b2n (decide (s.bank = some true))), (3, 1, b2n (s.ageValid false)), (4, 1, b2n (s.ageValid true)),
    (5, 1, b2n (decide (s.ageCopy = some true))), (6, 1, b2n s.bank.isNone), (7, 1, b2n s.ageCopy.isNone)]

/-- DEP_STATUS (R453). -/
def State.depStatus (s : State) : Nat :=
  packW [(0, 1, b2n s.dep.latch), (1, 1, b2n s.dep.src), (8, 7, s.countTiles (fun t => decide ((s.eng t 8).serving ≠ 15))),
    (16, 7, s.countTiles s.spareServes), (23, 1, b2n s.unservedAny)]

/-- MB_STAT of a channel (R484). -/
def Slot.stat (x : Slot) : Nat := packW [(0, 1, b2n x.full), (1, 1, b2n x.held), (8, 8, x.gen.toNat)]

/-- The proof run's phase and pass (R391). -/
def State.calStatus (s : State) : Nat :=
  match s.cal.run with
  | some r => packW [(0, 3, r.phase), (3, 3, r.pass)]
  | none => 0

/-- Some source of a tile is set and not masked (R485). -/
def State.tileEvent (s : State) (t : Nat) : Bool :=
  (List.range 16).any (fun k => s.evSet (tileSrc t k) && !s.evMasked (tileSrc t k))

/-- Low and high half of a signed 64-bit value. -/
def halfOf (hi : Bool) (v : Int) : Nat := if hi then twos 64 v / 2 ^ 32 else twos 64 v % 2 ^ 32

/-- A value that the supervisor provides once start-up has ended. -/
def State.afterBoot (s : State) (v : Nat) : Nat := if s.booted then v else 0

/-- Identity, timebase, time-transfer and link registers (R78, R108, R358, R507); none for the others. -/
def State.readChip0 (s : State) (r : Reg) (i : Nat) : Option Nat :=
  let wide := decide (s.part = .t1024)
  match r with
  | .idPart => some (if wide then 0x000A1024 else 0x000A0256)
  | .idSerialLo => some (s.afterBoot (leNat (serialBytes s.nv) % 2 ^ 32))
  | .idSerialHi => some (s.afterBoot (leNat (serialBytes s.nv) / 2 ^ 32))
  | .idVersion => some 0x00010001
  | .idTilesLo => some (if wide then 0xFFFFFFFF else 0xFFFF)
  | .idTilesHi => some (if wide then 0xFFFFFFFF else 0)
  | .glStatus => some s.glStatus
  | .glRefuse => some (packW [(0, 24, s.refAddr.toNat), (24, 4, s.refReason), (28, 2, s.refSrc)])
  | .glRefcnt => some s.refCnt
  | .tbStatus => some s.tbStatus
  | .tbCapS => some s.tb.capS.toNat
  | .tbCapNs => some s.tb.capNs.toNat
  | .tbCapFe => some s.tb.capFe.toNat
  | .tbPhase => some (twos 32 s.tb.phaseErr)
  | .tbOffset => some (twos 32 (clampInt (-2147483648) 2147483647 s.tb.moved))
  | .tbRepl => some (packW [(0, 16, s.tb.replCnt), (16, 6, s.tb.replTile)])
  | .ttStatus => some (packW [(0, 3, s.tt.quality), (3, 1, b2n s.tt.hold), (4, 3, s.tt.opened.length), (8, 8, s.tt.lastId.toNat)])
  | .ttOffsetLo => some (halfOf false s.tt.thetaBar)
  | .ttOffsetHi => some (halfOf true s.tt.thetaBar)
  | .ttRttLo => some (halfOf false (s.tt.rttRef.getD 0))
  | .ttRttHi => some (halfOf true (s.tt.rttRef.getD 0))
  | .ttDone => some s.tt.done
  | .ttDisc => some (packW [(0, 16, s.tt.disc), (16, 8, s.tt.lastReason), (24, 8, s.tt.unknown)])
  | .lkStatus => some s.lkStatus
  | .lkDnErr => some (packW [(0, 16, s.lk.dnDisc), (16, 16, s.lk.dnRefused)])
  | .lkCfStat => some (packW [(0, 16, s.lk.cfCnt), (16, 4, s.lk.cfStatus), (20, 8, s.lk.cfTag)])
  | .lkReplay => some (min (2 ^ 18 - 1) s.replayUsed)
  | .lkNak => some (packW [(0, 16, s.lk.nakCnt), (16, 16, s.lk.ignCnt)])
  | .lkStall => some (packW [(0, 16, s.lk.stalls), (16, 16, s.lk.longest)])
  | .lkLong => some (packW [(0, 16, s.lk.longCnt), (16, 6, s.lk.longTile)])
  | .lkLane => some (s.lkLane i)
  | .lkLack => some (s.lane (s.leadOf i)).ack
  | _ => none

/-- Event, mailbox, supervisor, trigger and prompt registers (R310, R484, R485); none for the others. -/
def State.readChip1 (s : State) (r : Reg) (i : Nat) : Option Nat :=
  match r with
  | .evSum => some (packW [(0, 1, b2n (s.pinLow 1)), (1, 1, b2n (s.pinLow 2))])
  | .evTileLo => some (bitsOf 32 (fun t => s.onPart t && s.tileEvent t))
  | .evTileHi => some (bitsOf 32 (fun t => s.onPart (32 + t) && s.tileEvent (32 + t)))
  | .evMblost => some s.ev.lost
  | .evStat => some (bits s.ev.chip.toNat (32 * i + 31) (32 * i))
  | .mbPtr => some (s.slot i).ptr.toNat
  | .mbTag => some (s.slot i).tag.toNat
  | .mbStat => some (s.slot i).stat
  | .mbGen => some (packW [(0, 8, s.sup.hostGen.toNat), (8, 8, s.sup.supGen.toNat)])
  | .svFw => some (s.afterBoot Config.fwVersion.toNat)
  | .svStatus => some (packW [(0, 1, b2n s.sup.asleep), (1, 1, b2n s.sup.restarting), (16, 16, s.sup.restarts)])
  | .secChalLo => some (s.sup.chal.toNat % 2 ^ 32)
  | .secChalHi => some (s.sup.chal.toNat / 2 ^ 32)
  | .secCnt => some s.sup.secCnt
  | .secFail => some s.sup.secFail
  | .ebStatus => some (packW [(0, 9, s.eb.pending.length), (9, 1, b2n s.lk.stallAge.isSome), (10, 1, b2n s.lk.linkDown)])
  | .ebFree => some s.eventFree
  | .ebBacklog => some (min (2 ^ 20 - 1) s.eb.backlog)
  | .ebTacc => some s.eb.tacc
  | .ebTref => some s.eb.tref
  | .ebReflast => some (packW [(0, 4, s.eb.lastReason), (4, 24, s.eb.lastId)])
  | .ebAbsent => some (packW [(0, 16, s.eb.absent), (16, 6, s.eb.absentTile), (22, 10, s.eb.late)])
  | .prStatus => some (packW [(0, 16, s.pr.votes), (16, 4, s.pr.lastPair)])
  | _ => none

/-- Configuration, calibration, contact-sheet, power and dependability registers (R391, R428, R452, R503, R506); none for
the others. -/
def State.readChip2 (s : State) (r : Reg) (i : Nat) : Option Nat :=
  let seq := fun (b : Bool) => if s.booted && slotValid s.nv b then copySeq s.nv (slotBase b) else 0
  match r with
  | .cfgStatus => some s.cfgStatus
  | .cfgResult => some (packW [(0, 5, s.cfg.reason), (5, 6, s.cfg.resTile), (12, 20, s.cfg.resRecord)])
  | .cfgImgSeq => some s.cfg.imgSeq
  | .cfgLuSeq => some s.cfg.luSeq
  | .cfgLuCnt => some s.cfg.luCnt
  | .cfgSlotA => some (seq false)
  | .cfgSlotB => some (seq true)
  | .cfgStaged => some s.cfg.stagedTop
  | .cfgScrub => some (packW [(0, 16, s.cfg.scrubCnt), (16, 6, s.cfg.scrubTile)])
  | .cfgReloadExp => some s.cfg.reloadExp
  | .calStatus => some s.calStatus
  | .calResult => some s.calResult
  | .calHits => some s.cal.hits
  | .calUni => some (packW [(0, 16, s.cal.uniMin), (16, 16, s.cal.uniHarm)])
  | .calNv => some (s.afterBoot s.calNv)
  | .calBankSeq => some (s.afterBoot ((s.bank.map (fun b => copySeq s.nv (bankBase b))).getD 0))
  | .calAgeSeq => some (s.afterBoot ((s.ageCopy.map (fun b => copySeq s.nv (ageBase b))).getD 0))
  | .csByte => some (packW ((List.range 4).map (fun k =>
      let n := 4 * i + k
      (8 * k, 8, if s.onPart (n / 17) then s.sheetByte (n / 17) (n % 17) else 0))))
  | .pwStatus => some (packW [(0, 2, s.pw.st.code), (2, 1, b2n s.pw.dark.isSome), (3, 1, b2n s.pw.soft), (4, 4, s.pw.reason)])
  | .pwBootcnt => some (s.afterBoot s.pw.bootCnt)
  | .pwRstcause => some (packW [(0, 4, s.pw.cause), (4, 6, s.pw.causeTile), (10, 4, s.pw.causeEng)])
  | .pwAwakeLo => some (bitsOf 32 (fun t => (s.tile t).awake))
  | .pwAwakeHi => some (bitsOf 32 (fun t => (s.tile (32 + t)).awake))
  | .depStatus => some s.depStatus
  | .depFailcnt => some (packW [(0, 16, s.dep.restarts), (16, 16, s.dep.failovers)])
  | .depMem => some (packW [(0, 16, s.dep.corr), (16, 16, s.dep.uncorr)])
  | .depSnapQS => some s.dep.q.s
  | .depSnapQNs => some s.dep.q.ns
  | .depSnapDur => some s.dep.dur
  | .depSnapCnt => some s.dep.count
  | _ => none

/-! ### What the tile registers read -/

/-- The oldest read mark of the latency buffer: its position, 0 where none is active (R276). -/
def State.oldestMark (s : State) (t : Nat) : Nat :=
  let q := s.lbq t
  let far := fun (m : Mark) => ringDist (s.qCap t q) (s.queue t q).rp m.pos
  match (s.tile t).marks with
  | [] => 0
  | m :: ms => (ms.foldl (fun b n => if far n < far b then n else b) m).pos

/-- TQ_STAT of a queue (R274). -/
def State.tqStat (s : State) (t q : Nat) : Nat :=
  let x := s.queue t q
  packW [(0, 16, x.rmark), (16, 1, b2n x.opened), (17, 1, b2n x.doomed), (18, 1, b2n (decide (s.qCommitted t q = 0))),
    (19, 1, b2n (decide (s.qCap t q ≠ 0) && decide (s.qLevel t q = s.qCap t q))), (20, 1, b2n x.hi),
    (21, 1, b2n (decide (q = s.lbq t) && s.pinned t)), (22, 1, b2n x.ovr), (23, 1, b2n x.xup), (24, 1, b2n x.xdn),
    (25, 1, b2n x.psn), (28, 1, b2n x.flref)]

/-- The queue registers of a tile and its identity (R246, R275, R310, R511, R512); none for the others. -/
def State.readTile0 (s : State) (t : Nat) (r : Reg) (i : Nat) : Option Nat :=
  let x := s.tile t
  let sel := s.queue t (s.tfld t 0x100 7 0)
  let some_ := fun (f : Queue → Bool) => b2n (x.qs.any (fun p => f p.2))
  match r with
  | .tcId => some (packW [(0, 6, t), (6, 1, b2n (s.onPart t)), (7, 1, b2n x.powered), (8, 1, b2n x.inReset)])
  | .tcXbar => some (s.tapSel t + 32 * b2n x.ho.tapped)
  | .tcCapStat => some (packW [(0, 10, x.cbLb.levelAt s.tb.age), (16, 10, x.cbEq.levelAt s.tb.age)])
  | .tcLbRm => some (packW [(0, 16, s.oldestMark t), (16, 10, min 512 x.marks.length)])
  | .tcQsum => some (packW [(0, 8, x.qLast), (8, 1, some_ (·.ovr)), (9, 1, some_ (·.xup)), (10, 1, some_ (·.xdn)), (11, 1, some_ (·.psn))])
  | .tcRoStat => some (min 2047 (s.copyBacklog t))
  | .tcRoCnt => some x.roCnt
  | .tcHoStat => some (packW [(0, 3, x.ho.st.code), (4, 4, x.ho.served), (8, 2, x.ho.result), (16, 4, x.ho.matched),
      (20, 3, x.ho.unmOut), (24, 3, x.ho.unmIn)])
  | .tcHoHS => some x.ho.hS
  | .tcHoHNs => some x.ho.hNs
  | .tcTemp => some (packW [(0, 16, twos 16 (x.temp.getD 0)), (16, 1, b2n x.temp.isSome)])
  | .tcHoDiff => some (twos 32 x.ho.diff)
  | .tqCntOvr => some sel.cOvr
  | .tqCntDrop => some sel.cDrop
  | .tqCntFlush => some sel.cFlush
  | .tqCntPoison => some sel.cPoison
  | .tqCntMfix => some sel.cMfix
  | .tqCntExp => some sel.cExp
  | .tqCntCommit => some sel.cCommit
  | .tqPtr => some (packW [(0, 16, (s.queue t i).wp), (16, 16, (s.queue t i).rp)])
  | .tqStat => some (s.tqStat t i)
  | .teStat => some x.te.toNat
  | _ => none

/-- CH_CAL_STAT of a channel (R392). -/
def State.chCalStat (s : State) (t c : Nat) : Nat :=
  let y := s.chan t c
  let runs := match s.cal.run with
    | some r => decide (r.tile = t) && decide (r.chan = c)
    | none => false
  let e := s.ageEntry t c
  packW [(0, 2, if runs then 3 else y.cal.proof), (2, 5, y.cal.reason), (7, 1, b2n (entryPresent e)), (8, 8, y.cal.dnl),
    (16, 16, entryCount e)]

/-- The channel and level-monitor registers (R127, R143, R166, R391); none for the others. -/
def State.readTile1 (s : State) (t : Nat) (r : Reg) (i : Nat) : Option Nat :=
  let y := s.chan t i
  let m := (s.tile t).lm
  let k := s.tfld t (0x424 + 64 * i) 6 0
  let states := fun (lo n : Nat) => ((List.range n).map (fun j => m.state (lo + j) * 4 ^ j)).sum
  match r with
  | .chChkres => some (packW [(0, 2, y.check.result), (2, 1, b2n y.check.busy), (3, 1, b2n y.check.kind), (4, 4, y.check.reason)])
  | .chChkval => some (packW [(0, 14, y.check.cn.toNat), (16, 14, y.check.cs.toNat)])
  | .chEdges => some y.edges
  | .chRefuse => some (packW [(0, 16, y.full), (16, 16, y.late)])
  | .chCapstat => some (packW [(0, 5, y.level s.tb.age), (8, 5, y.peak), (16, 1, b2n y.ovr)])
  | .chTrimVal => some (packW [(0, 12, twos 12 (y.liveCode k)), (16, 12, twos 12 (s.presentTarget t i k))])
  | .chCalStat => some (s.chCalStat t i)
  | .chCalInl => some y.cal.inl
  | .lmStateLo => some (states 0 16)
  | .lmStateHi => some (states 16 5)
  | .lmLatch => some m.latch.toNat
  | .lmStat => some (packW [(0, 16, m.refused), (16, 16, m.dark)])
  | _ => none

/-- The engine whose counters an engine's registers show: the odd member of a pair in Bracket mode runs as the copy of the
even one (R208). -/
def State.shownEng (s : State) (t e : Nat) : Engine :=
  s.eng t (if s.bracket && decide (e < 8) && decide ((s.eng t e).st ≠ 5) then e - e % 2 else e)

/-- ENG_STATUS (R242): engine 8 gives a state of its own only while it serves; the odd member of a pair gives what the
pair's engine does (R239). -/
def State.engStatus (s : State) (t e : Nat) : Nat :=
  let y := s.eng t e
  let z := s.shownEng t e
  let voting := decide (e = 8) && (List.range 8).any (fun f => (s.eng t f).voting)
  let st := if voting then 2 else if z.st = 1 ∧ s.pw.st ≠ .run then 4 else z.st
  packW [(0, 3, st), (4, 11, z.pc), (16, 6, z.ctx), (24, 4, if e = 8 then y.serving else 0)]

/-- The engine registers and the windows into program memory and context store (R241); none for the others. -/
def State.readTile2 (s : State) (t : Nat) (r : Reg) (i : Nat) : Option Nat :=
  let y := s.shownEng t i
  let pm := (mapGet (fun _ => (0 : IWord)) (s.tile t).pm (s.tfld t 0x2410 10 0)).toNat
  let cx := (s.cxWord t (s.tfld t 0x2420 12 0)).toNat
  match r with
  | .engStatus => some (s.engStatus t i)
  | .engLoad => some (packW [(0, 11, y.load), (16, 11, y.peak)])
  | .engCkpt => some y.ckpts
  | .engDedup => some (packW [(0, 16, y.dup), (16, 16, y.cp)])
  | .engFault => some (packW [(0, 6, y.fCtx), (8, 11, y.fPc), (20, 4, y.fCause), (24, 8, y.fCount)])
  | .pmDataLo => some (pm % 2 ^ 32)
  | .pmDataHi => some (pm / 2 ^ 32)
  | .cxDataLo => some (cx % 2 ^ 32)
  | .cxDataHi => some (cx / 2 ^ 32)
  | _ => none

/-! ### Reads (R13, R513, R514, R518) -/

/-- What a register reads: a field of the state, or the copy in force of its RW and RWF fields; WO fields read 0. -/
def State.regValue (s : State) (a : Nat) : Nat :=
  match regAt a with
  | some ⟨row, i, none⟩ =>
    ((s.readChip0 row.reg i).orElse fun _ => (s.readChip1 row.reg i).orElse fun _ => s.readChip2 row.reg i).getD (s.rv a)
  | some ⟨row, i, some t⟩ =>
    if s.tileServes t row.reg then
      ((s.readTile0 t row.reg i).orElse fun _ => (s.readTile1 t row.reg i).orElse fun _ => s.readTile2 t row.reg i).getD (s.rv a)
    else 0
  | none => 0

/-- A 32-bit word of message memory; one with an uncorrectable error reads 0 and is counted (R513). -/
def State.msgRead (s : State) (o : Nat) : Nat × State :=
  if s.bad2 .message (o / 8) 1 then (0, s.uncorrectable) else ((readW32 s.msg o).toNat, s)

/-- A read of 32 bits: a register, message memory, or 0 where the address is unmapped or no multiple of 4. -/
def State.busRead (s : State) (a : Nat) : Nat × State :=
  if a % 4 ≠ 0 then (0, s)
  else match msgOffset a with
    | some o => s.msgRead o
    | none => (s.regValue a, s)

/-- A write of a 32-bit word of message memory. -/
def State.msgWrite (s : State) (o : Nat) (w : Reg32) : State :=
  ({ s with msg := writeW32 s.msg o w }).clear2 .message (o / 8) 1

/-! ### Mailboxes (R456 to R467) -/

/-- A post: the slot records the sender's generation, and the host is told of a message for it (R456, R459). -/
def State.ringBox (s : State) (src : Src) (ch : Nat) : State :=
  let g := if src = .host then s.sup.hostGen else s.sup.supGen
  let s := s.setSlot ch { s.slot ch with gen := g, full := true }
  if hostReceives ch then s.notice ch false else s

/-- A take: the slot is empty, and its sender gets the empty notice, or has it held while it is in reset; the event
controller gets none (R456, R463, R465). -/
def State.takeBox (s : State) (ch : Nat) : State :=
  let x := s.slot ch
  let s := s.setSlot ch { x with full := false }
  if hostSends ch then
    (if s.lk.hostReset then s.setSlot ch { s.slot ch with held := true } else s.notice ch true)
  else if x.gen ≠ 0 ∧ s.sup.restarting then s.setSlot ch { s.slot ch with held := true }
  else s

/-- MB_HOSTCTL.BUMP (R463). -/
def State.bumpHost (s : State) : State := { s with sup := { s.sup with hostGen := genNext s.sup.hostGen } }

/-- The reason to refuse a write to a mailbox channel: the host's side of it (R457), a doorbell to a tile that the part has
not (R4), then the state of the slot (R456). -/
def State.boxReason (s : State) (src : Src) (r : Reg) (ch w : Nat) : Option Nat :=
  let own := match r with
    | .mbCtrl => if bit w 1 then hostReceives ch && !bit w 0 else hostSends ch || (hostReceives ch && !bit w 0)
    | _ => hostSends ch
  let full := (s.slot ch).full
  if src = .host ∧ !own then some 7
  else match r with
    | .mbCtrl =>
      if bit w 0 && decide (32 ≤ ch) && !s.onPart (ch - 32) then some 5
      else if (bit w 0 && full) || (bit w 1 && !full) then some 4 else none
    | _ => if full then some 4 else none

/-! ### When a write is refused (R13, R515) -/

/-- LM_CTRL would send level records to a queue that has another role (R144). -/
def State.lmRoleBad (s : State) (t w : Nat) : Bool :=
  let n := bits w 15 8
  bit w 1 && (decide (s.qCap t n = 0) || decide (n = s.lbq t) || (s.namedQs t).any (fun p => decide (p.1 = n)) ||
    (s.packOn t && decide (s.tfld t 0x80 7 0 = n)))

/-- A write of TC_XBAR is refused: the spare serves, an overlap window is open, or its check runs (R130). -/
def State.tapBusy (s : State) (t : Nat) : Bool :=
  s.spareServes t || (s.tile t).ho.overlap || ((s.tile t).chan 16).check.busy

/-- The source of EV_FORCE is not issued (R480, R481), or it is one of a tile that the part has not. -/
def State.forceBad (s : State) (w : Nat) : Option Nat :=
  let k := bits w 10 0
  if !bit w 11 then none
  else if 1024 + 34 ≤ k then some 3
  else if k < 1024 ∧ !s.onPart (k / 16) then some 5
  else none

/-- A tile that a chip register names is not enabled or not powered. -/
def State.tileOff (s : State) (t : Nat) : Bool := !(s.onPart t && (s.tile t).powered)

/-- DEP_ENG_RET is refused: no such engine, a tile that is off, or an engine that has not failed (R440). -/
def State.returnBad (s : State) (w : Nat) : Option Nat :=
  let t := bits w 5 0
  let e := bits w 9 6
  if !bit w 10 then none
  else if 7 < e then some 3
  else if s.tileOff t then some 5
  else if (s.eng t e).st ≠ 5 ∨ (s.eng t e).test then some 4
  else none

/-- The conditions of state under which a write is refused (R83, R122, R130, R144, R243, R392, R440, R444, R456, R457,
R485). -/
def State.stateReason (s : State) (src : Src) (r : Reg) (i t w : Nat) : Option Nat :=
  let four := fun (b : Bool) => if b then some 4 else none
  match r with
  | .tbRampRate | .tbRampDur => four s.tb.prof.isSome
  | .tbRampCtrl => four (s.tb.prof.isSome && decide (bits w 7 4 ≠ s.fld 0x1040 7 4))
  | .evForce => s.forceBad w
  | .mbPtr | .mbTag | .mbCtrl => s.boxReason src r i w
  | .calCtrl => four (s.cal.run.isSome && !bit w 21)
  | .depEngRet => s.returnBad w
  | .depTileRst => if bit w 6 && s.tileOff (bits w 5 0) then some 5 else none
  | .tcXbar => four (s.tapBusy t)
  | .chCfg => four ((s.chan t i).check.busy || s.offLine t i)
  | .lmCtrl => four (s.lmRoleBad t w)
  | .engCtrl => four (bit w 0 && decide ((s.eng t i).st = 5))
  | _ => none

/-- The writer may not reach a secure target: the supervisor out of its secure mode, or a tile (R457, R473, R515). -/
def srcBarred : Src → Nat → Bool
  | .supervisor false, a => secureAddr a
  | .tileList, a => secureAddr a
  | _, _ => false

/-- The reason to refuse a write to message memory (R458, R515). -/
def msgReason (src : Src) (a o : Nat) : Option Nat :=
  if srcBarred src a then some 6
  else if src = .host ∧ 0x38000 ≤ o % 0x40000 then some 7
  else none

/-- The reason to refuse a write (R515), none where it is applied. -/
def State.writeReason (s : State) (src : Src) (a : Nat) (w : Reg32) : Option Nat :=
  if a % 4 ≠ 0 then some 2
  else match msgOffset a, regAt a with
    | some o, _ => msgReason src a o
    | none, none => some 2
    | none, some x =>
      let t := x.tile.getD 0
      if x.row.rwf ≠ 0 then some 1
      else if x.row.rw = 0 ∧ x.row.w1c = 0 ∧ x.row.wo = 0 then some 2
      else if x.tile.isSome && !s.tileServes t x.row.reg then some 5
      else if srcBarred src a then some 6
      else if x.row.reg.valueBad x.i w.toNat then some 3
      else s.stateReason src x.row.reg x.i t w.toNat

/-! ### What a write does -/

/-- Bits of a number cleared where another has ones. -/
def clearBits (n w : Nat) : Nat := Nat.xor n (Nat.land n w)

/-- CFG_CTRL: the commands in the order of their bits (R429). -/
def State.cfgCommands (s : State) (w : Nat) : State :=
  let s := if bit w 4 then s.slotClose else s
  let s := if bit w 5 then s.slotClear else s
  let s := if bit w 6 then s.reloadAsk else s
  let s := if bit w 7 then s.prepareAsk else s
  let s := if bit w 8 then s.fixAsk (s.now.addNs (-8)) else s
  if bit w 9 then s.cancelAsk else s

/-- PW_CTRL: the request, then CANCEL, then SOFT_RST (R504). -/
def State.pwCommands (s : State) (w : Nat) (h : Option CtlHead) : State :=
  let s := if bits w 1 0 = 0 then s else s.askPower (bits w 1 0) (s.now.addNs (-8))
  let s := if bit w 2 then s.powerCancel else s
  if bit w 3 then s.softAsk h else s

/-- LK_CTRL (R329, R355, R359). -/
def State.lkCommands (s : State) (w : Nat) (h : Option CtlHead) : State :=
  let s := if bit w 0 then s.linkAsk h else s
  if bit w 1 then s.trainAll else s

/-- DEP_CTRL.CNT_CLR (R452). -/
def State.cntClear (s : State) : State := { s with dep := { s.dep with restarts := 0, failovers := 0, corr := 0, uncorr := 0 } }

/-- A W1C write to the contact sheet (R506). -/
def State.sheetClear (s : State) (i w : Nat) : State :=
  forKeys (List.range 4) (fun k s =>
    let n := 4 * i + k
    if s.onPart (n / 17) then
      s.modChan (n / 17) (n % 17) (fun y => { y with sheet := { y.sheet with
        ovr := y.sheet.ovr && !bit w (8 * k + 5), psn := y.sheet.psn && !bit w (8 * k + 7) } })
    else s) s

/-- CH_CAPSTAT (R167). -/
def State.capstatWrite (s : State) (t c w : Nat) : State :=
  let s := if bit w 16 then s.modChan t c (fun y => { y with ovr := false, peak := y.level s.tb.age }) else s
  if bit w 17 then s.modChan t c (fun y => { y with full := 0, late := 0 }) else s

/-- TQ_STAT: sticky bits, FLUSH, CLR (R268, R274). -/
def State.tqWrite (s : State) (t q w : Nat) : State :=
  let s := s.modQueue t q (fun x => { x with
    ovr := x.ovr && !bit w 22, xup := x.xup && !bit w 23, xdn := x.xdn && !bit w 24, psn := x.psn && !bit w 25 })
  let s := if bit w 26 then s.flushCmd t q else s
  if bit w 27 then s.modQueue t q Queue.cleared else s

/-- ENG_CTRL (R243). -/
def State.engWrite (s : State) (t e w : Nat) : State :=
  let s := if bit w 0 then s.restartAsk t e else s
  let s := if bit w 1 then s.ckptAsk t e else s
  if bit w 2 then s.modEng t e (fun y => { y with peak := y.load }) else s

/-- LM_LATCH: bits of sources that the round visits in mode Follow stay (R136, R137). -/
def State.latchWrite (s : State) (t w : Nat) : State :=
  let follow := bitsOf 21 (fun k => decide (bits ((s.tile t).lm.win k) 21 20 = 0))
  s.modTile t (fun x => { x with lm := { x.lm with
    latch := BitVec.ofNat 21 (clearBits x.lm.latch.toNat (clearBits w follow)) } })

/-- TC_HO_CTRL.START and ABORT (R384, R390). -/
def State.hoWrite (s : State) (t w : Nat) : State :=
  let s := if bit w 5 then s.hoRequest t (bits w 3 0) (bit w 4) (bits w 31 16) s.tb.age else s
  if bit w 6 then (s.hoCut t).proofHo t else s

/-- CAL_CTRL.START and ABORT (R377, R392). -/
def State.calWrite (s : State) (w : Nat) : State :=
  let s := if bit w 20 then s.proofStart else s
  if bit w 21 then s.proofStop false else s

/-- The action of a write on a chip register, after its RW fields have their values. -/
def State.actChip (s : State) (src : Src) (r : Reg) (i w : Nat) (h : Option CtlHead) : State :=
  match r with
  | .tbCtrl =>
    let s := if bit w 3 then s.latchTime else s
    if bit w 4 then s.setTime s.tb.age else s
  | .tbRampCtrl =>
    let s := if bit w 0 then s.rampAsk else s
    if bit w 1 then { s with tb := s.tb.rampCut } else s
  | .ttCtrl => if bit w 2 then s.endHold else s
  | .lkCtrl => s.lkCommands w h
  | .evStat => { s with ev := { s.ev with chip := BitVec.ofNat 128 (clearBits s.ev.chip.toNat (w * 2 ^ (32 * i))) } }
  | .evForce => if bit w 11 then s.raise (bits w 10 0) else s
  | .mbCtrl => if bit w 0 then s.ringBox src i else if bit w 1 then s.takeBox i else s
  | .mbHostctl => if bit w 0 then s.bumpHost else s
  | .secCtrl => if bit w 0 then s.newChal else s
  | .cfgCtrl => s.cfgCommands w
  | .calCtrl => s.calWrite w
  | .csByte => s.sheetClear i w
  | .pwCtrl => s.pwCommands w h
  | .pwRegateLo => s.regateAsk (BitVec.ofNat 64 w)
  | .pwRegateHi => s.regateAsk (BitVec.ofNat 64 (w * 2 ^ 32))
  | .depCtrl => if bit w 0 then s.cntClear else s
  | .depEngRet => if bit w 10 then s.testAsk (bits w 5 0) (bits w 9 6) else s
  | .depTileRst => if bit w 6 && !s.pw.soft then s.tileReset (bits w 5 0) else s
  | _ => s

/-- The action of a write on a register of tile `t`, after its RW fields have their values. -/
def State.actTile (s : State) (t : Nat) (r : Reg) (i w : Nat) : State :=
  match r with
  | .tcHoCtrl => s.hoWrite t w
  | .chCheck => if bit w 0 then s.checkAsk t i else s
  | .chCapstat => s.capstatWrite t i w
  | .lmLatch => s.latchWrite t w
  | .tqStat => s.tqWrite t i w
  | .engCtrl => s.engWrite t i w
  | .teStat => s.modTile t (fun x => { x with te := BitVec.ofNat 16 (clearBits x.te.toNat w) })
  | _ => s

/-- The effect of a write that is not refused (R510, R517). -/
def State.applyWrite (s : State) (src : Src) (a : Nat) (w : Reg32) (h : Option CtlHead) : State :=
  match msgOffset a, regAt a with
  | some o, _ => s.msgWrite o w
  | none, none => s
  | none, some x =>
    let v := BitVec.ofNat 32 (Nat.land w.toNat x.row.rw)
    let s := if x.row.rw = 0 then s else s.setField a v
    match x.tile with
    | some t => s.actTile t x.row.reg x.i w.toNat
    | none => s.actChip src x.row.reg x.i w.toNat h

/-- What a refused write still reports: a check or handover start to a gated tile gives RESULT 3 (R123, R384), a start of a
proof run while one runs gives reason 16 (R377). -/
def State.reportStart (s : State) (a w : Nat) : State :=
  match regAt a with
  | some ⟨row, i, some t⟩ =>
    let off := s.onPart t && !(s.tile t).powered
    match row.reg with
    | .chCheck => if off && bit w 0 then s.modChan t i (fun y => { y with check := { y.check with result := 3, reason := 11 } }) else s
    | .tcHoCtrl => if off && bit w 5 then s.modTile t (fun x => { x with ho := { x.ho with result := 3 } }) else s
    | _ => s
  | some ⟨row, _, none⟩ =>
    if row.reg = .calCtrl ∧ s.cal.run.isSome ∧ bit w 20 then
      ({ s with cal := { s.cal with reason := 16, resTile := bits w 5 0, resChan := bits w 10 6 } }).raise (chipSrc 20)
    else s
  | none => s

/-- A write of 32 bits: applied whole, or refused whole and recorded (R510, R515); whether it was applied. -/
def State.busWrite (s : State) (src : Src) (a : Nat) (w : Reg32) (h : Option CtlHead) : Bool × State :=
  match s.writeReason src a w with
  | some r => (false, (s.reportStart a w.toNat).refuse src a r)
  | none => (true, s.applyWrite src a w h)

/-- A write that arrives now and is applied at the next slot boundary (R79, R119). -/
def State.writeAt (s : State) (src : Src) (a : Nat) (w : Reg32) (h : Option CtlHead) : State :=
  ((s.advance 1).busWrite src a w h).2

/-- A write by the host of a register from its fields. -/
def State.hostSet (s : State) (a : Nat) (fs : List (Nat × Nat × Nat)) : State :=
  s.writeAt .host a (BitVec.ofNat 32 (packW fs)) none

/-- The outcome of a host's write that names a tile: on a part that has the tile not, the write is refused (R4, R515). -/
def hostTile (t : Nat) (s : State) (f : State → State) : Host.Outcome State Fault Refusal :=
  if t < 64 then onChip s f else .fault .noSuchTile

/-- The outcome of a host's write that names a channel. -/
def hostChan (t c : Nat) (s : State) (f : State → State) : Host.Outcome State Fault Refusal :=
  if c < 17 then hostTile t s f else .fault .noSuchChannel

/-- The outcome of a host's write that names an engine. -/
def hostEng (t e : Nat) (s : State) (f : State → State) : Host.Outcome State Fault Refusal :=
  if e < 9 then hostTile t s f else .fault .noSuchEngine

/-- The outcome of a host's write that names a queue. -/
def hostQueue (t q : Nat) (s : State) (f : State → State) : Host.Outcome State Fault Refusal :=
  if q < 256 then hostTile t s f else .fault .noSuchQueue

/-! ### The commands that write one chip register -/

/-- REGISTER_WRITE (R510, R515). -/
def execRegisterWrite (src : Src) (addr : BitVec 24) (w : BitVec 32) (s : State) : Host.Outcome State Fault Refusal :=
  onChip s (fun s => s.writeAt src addr.toNat w none)

/-- RAMP_START (R70, R72): the write that carries START with LAST. -/
def execRampStart (last : BitVec 4) (s : State) : Host.Outcome State Fault Refusal :=
  onChip s (fun s => s.hostSet 0x1040 [(0, 1, 1), (4, 4, last.toNat)])

/-- RAMP_ABORT (R83). -/
def execRampAbort (s : State) : Host.Outcome State Fault Refusal :=
  onChip s (fun s => s.hostSet 0x1040 [(1, 1, 1), (4, 4, s.fld 0x1040 7 4)])

/-- TB_LATCH (R79). -/
def execTbLatch (s : State) : Host.Outcome State Fault Refusal :=
  onChip s (fun s => s.hostSet 0x1000 [(0, 3, s.fld 0x1000 2 0), (3, 1, 1)])

/-- TB_SET (R79). -/
def execTbSet (s : State) : Host.Outcome State Fault Refusal :=
  onChip s (fun s => s.hostSet 0x1000 [(0, 3, s.fld 0x1000 2 0), (4, 1, 1)])

/-- TT_ASYM_WRITE (R105). -/
def execTtAsymWrite (w : BitVec 32) (s : State) : Host.Outcome State Fault Refusal :=
  onChip s (fun s => s.writeAt .host 0x2014 w none)

/-- ACCEPT_SYM (R105). -/
def execAcceptSym (s : State) : Host.Outcome State Fault Refusal :=
  onChip s (fun s => s.hostSet 0x2000 [(0, 2, s.fld 0x2000 1 0), (2, 1, 1)])

/-- LRESET (R355, R497): `h` is the head of a control frame that the reset cuts. -/
def execLreset (h : Option CtlHead) (s : State) : Host.Outcome State Fault Refusal :=
  onChip s (fun s => s.writeAt .host 0x3000 1 h)

/-- LK_RETRAIN (R359). -/
def execLkRetrain (s : State) : Host.Outcome State Fault Refusal := onChip s (fun s => s.writeAt .host 0x3000 2 none)

/-- EV_FORCE (R485). -/
def execEvForce (src : BitVec 11) (s : State) : Host.Outcome State Fault Refusal :=
  onChip s (fun s => s.hostSet 0x4100 [(0, 11, src.toNat), (11, 1, 1)])

/-- EV_MASK_WRITE (R475). -/
def execEvMaskWrite (r : MaskReg) (w : BitVec 32) (s : State) : Host.Outcome State Fault Refusal :=
  match r with
  | .chip i => onUnit i 4 s (fun s => s.writeAt .host (0x4030 + 4 * i) w none)
  | .tile t => hostTile t s (fun s => s.writeAt .host (tileBase t + 0x3004) w none)

/-- RING (R456). -/
def execRing (src : Src) (ch : Nat) (s : State) : Host.Outcome State Fault Refusal :=
  onBox ch s (fun s => s.writeAt src (0x5008 + 16 * ch) 1 none)

/-- TAKE (R456). -/
def execTake (src : Src) (ch : Nat) (s : State) : Host.Outcome State Fault Refusal :=
  onBox ch s (fun s => s.writeAt src (0x5008 + 16 * ch) 2 none)

/-- BUMP (R463). -/
def execBump (s : State) : Host.Outcome State Fault Refusal := onChip s (fun s => s.writeAt .host 0x5804 1 none)

/-- SEC_CLOSE (R473). -/
def execSecClose (s : State) : Host.Outcome State Fault Refusal := onChip s (fun s => s.writeAt .host 0x5830 1 none)

/-- PR_CTRL_WRITE (R308). -/
def execPrCtrlWrite (w : BitVec 32) (s : State) : Host.Outcome State Fault Refusal :=
  onChip s (fun s => s.writeAt .host 0x6400 w none)

/-- SLOT_CLOSE (R411). -/
def execSlotClose (s : State) : Host.Outcome State Fault Refusal :=
  onChip s (fun s => s.hostSet 0x7000 [(0, 2, s.cfgDest), (4, 1, 1)])

/-- SLOT_EMPTY (R412). -/
def execSlotEmpty (s : State) : Host.Outcome State Fault Refusal :=
  onChip s (fun s => s.hostSet 0x7000 [(0, 2, s.cfgDest), (5, 1, 1)])

/-- RELOAD (R413, R414). -/
def execReload (s : State) : Host.Outcome State Fault Refusal :=
  onChip s (fun s => s.hostSet 0x7000 [(0, 2, s.cfgDest), (6, 1, 1)])

/-- PREPARE (R417). -/
def execPrepare (s : State) : Host.Outcome State Fault Refusal :=
  onChip s (fun s => s.hostSet 0x7000 [(0, 2, s.cfgDest), (7, 1, 1)])

/-- FIX (R418). -/
def execFix (s : State) : Host.Outcome State Fault Refusal :=
  onChip s (fun s => s.hostSet 0x7000 [(0, 2, s.cfgDest), (8, 1, 1)])

/-- CANCEL (R424). -/
def execCancel (s : State) : Host.Outcome State Fault Refusal :=
  onChip s (fun s => s.hostSet 0x7000 [(0, 2, s.cfgDest), (9, 1, 1)])

/-- CAL_START (R377, R378): `w` holds CAL_CTRL [17:0]. -/
def execCalStart (w : BitVec 18) (s : State) : Host.Outcome State Fault Refusal :=
  onChip s (fun s => s.hostSet 0x8000 [(0, 18, w.toNat), (20, 1, 1)])

/-- CAL_ABORT (R382, R392). -/
def execCalAbort (s : State) : Host.Outcome State Fault Refusal :=
  onChip s (fun s => s.hostSet 0x8000 [(0, 18, s.fld 0x8000 17 0), (21, 1, 1)])

/-- REQ_RUN (R487). -/
def execReqRun (s : State) : Host.Outcome State Fault Refusal := onChip s (fun s => s.writeAt .host 0x9000 1 none)

/-- REQ_SAFELIGHT (R487). -/
def execReqSafelight (s : State) : Host.Outcome State Fault Refusal := onChip s (fun s => s.writeAt .host 0x9000 2 none)

/-- REQ_DARK (R487, R488). -/
def execReqDark (s : State) : Host.Outcome State Fault Refusal := onChip s (fun s => s.writeAt .host 0x9000 3 none)

/-- PW_CANCEL (R488). -/
def execPwCancel (s : State) : Host.Outcome State Fault Refusal := onChip s (fun s => s.writeAt .host 0x9000 4 none)

/-- SOFT_RST (R498, R499): during a snapshot freeze the request is held. -/
def execSoftRst (h : Option CtlHead) (s : State) : Host.Outcome State Fault Refusal :=
  .next (if s.dep.frozen then s.softAsk h else if s.up then s.writeAt .host 0x9000 8 h else s)

/-- CNT_CLR (R452). -/
def execCntClr (s : State) : Host.Outcome State Fault Refusal := onChip s (fun s => s.writeAt .host 0xA000 1 none)

/-- DEP_ENG_RET (R440). -/
def execDepEngRet (t e : Nat) (s : State) : Host.Outcome State Fault Refusal :=
  hostEng t e s (fun s => s.hostSet 0xA00C [(0, 6, t), (6, 4, e), (10, 1, 1)])

/-- DEP_TILE_RST (R444). -/
def execDepTileRst (t : Nat) (s : State) : Host.Outcome State Fault Refusal :=
  hostTile t s (fun s => s.hostSet 0xA018 [(0, 6, t), (6, 1, 1)])

/-! ### The commands that write one tile register -/

/-- CH_CFG_WRITE (R119, R122). -/
def execChCfgWrite (t c : Nat) (w : BitVec 32) (s : State) : Host.Outcome State Fault Refusal :=
  hostChan t c s (fun s => s.writeAt .host (tileBase t + 0x400 + 64 * c) w none)

/-- CH_THR_WRITE (R116, R123). -/
def execChThrWrite (t c : Nat) (w : BitVec 32) (s : State) : Host.Outcome State Fault Refusal :=
  hostChan t c s (fun s => s.writeAt .host (tileBase t + 0x404 + 64 * c) w none)

/-- CHECK_START (R123). -/
def execCheckStart (t c : Nat) (kind : Bool) (margin : BitVec 8) (s : State) : Host.Outcome State Fault Refusal :=
  hostChan t c s (fun s => s.hostSet (tileBase t + 0x408 + 64 * c) [(0, 1, 1), (1, 1, b2n kind), (8, 8, margin.toNat)])

/-- TC_XBAR_WRITE (R130). -/
def execTcXbarWrite (t : Nat) (w : BitVec 32) (s : State) : Host.Outcome State Fault Refusal :=
  hostTile t s (fun s => s.writeAt .host (tileBase t + 0x40) w none)

/-- CAPTURE_CLR (R167): CH_REFUSE becomes zero. -/
def execCaptureClr (t c : Nat) (s : State) : Host.Outcome State Fault Refusal :=
  hostChan t c s (fun s => s.hostSet (tileBase t + 0x420 + 64 * c) [(17, 1, 1)])

/-- HO_START (R384). -/
def execHoStart (t : Nat) (input : BitVec 4) (dir : Bool) (ovl : BitVec 16) (s : State) : Host.Outcome State Fault Refusal :=
  hostTile t s (fun s => s.hostSet (tileBase t + 0x90) [(0, 4, input.toNat), (4, 1, b2n dir), (5, 1, 1), (16, 16, ovl.toNat)])

/-- HO_ABORT (R390): the write that carries ABORT with the other fields as they stand. -/
def execHoAbort (t : Nat) (s : State) : Host.Outcome State Fault Refusal :=
  hostTile t s (fun s => s.hostSet (tileBase t + 0x90) [(0, 5, s.tfld t 0x90 4 0), (6, 1, 1), (16, 16, s.tfld t 0x90 31 16)])

/-- FLUSH (R268). -/
def execFlush (t q : Nat) (s : State) : Host.Outcome State Fault Refusal :=
  hostQueue t q s (fun s => s.hostSet (tileBase t + 0x100C + 16 * q) [(26, 1, 1)])

/-- QUEUE_CLR (R274). -/
def execQueueClr (t q : Nat) (s : State) : Host.Outcome State Fault Refusal :=
  hostQueue t q s (fun s => s.hostSet (tileBase t + 0x100C + 16 * q) [(27, 1, 1)])

/-- RESTART (R238, R243). -/
def execRestart (t e : Nat) (s : State) : Host.Outcome State Fault Refusal :=
  hostEng t e s (fun s => s.hostSet (tileBase t + 0x2020 + 64 * e) [(0, 1, 1)])

/-- CKPT_NOW (R243). -/
def execCkptNow (t e : Nat) (s : State) : Host.Outcome State Fault Refusal :=
  hostEng t e s (fun s => s.hostSet (tileBase t + 0x2020 + 64 * e) [(1, 1, 1)])

/-- PEAK_CLR (R243). -/
def execPeakClr (t e : Nat) (s : State) : Host.Outcome State Fault Refusal :=
  hostEng t e s (fun s => s.hostSet (tileBase t + 0x2020 + 64 * e) [(2, 1, 1)])

end Sys2Proof.Machine
end

