-- ==== Sys2Proof/Machine/Services.lean ====
section
/-! DEFINITION. Control frames (R320 to R326, R472) and the supervisor's firmware: taking requests, posting replies, the
services of R470, command lists, the log, event posts, and the end of a write to the non-volatile store (R370). -/

namespace Sys2Proof.Machine

open Sys2Proof

/-! ### Control frames (R320 to R326) -/

/-- The HEAD slot's bits [55:0] (R320). -/
def ctlBits (op : Nat) (f : CtlFrame) : Nat :=
  packW [(52, 4, 1), (48, 4, op), (40, 8, f.tag.toNat), (30, 10, f.len.toNat), (29, 1, b2n f.sec), (24, 5, f.rsv.toNat),
    (0, 24, f.addr.toNat)]

/-- Bytes of words, low byte first. -/
def ctlBytes (ws : List Reg32) : List Byte := ws.flatMap (fun w => leBytes 4 w.toNat)

/-- The frame's framing is right: its DATA count is the one that R321 requires; an unknown OP needs its tag words alone
(R324). A discarded DATA slot is a DATA slot of the frame. -/
def ctlFramed (op : Nat) (f : CtlFrame) : Bool :=
  let n := f.data.length + f.discarded
  let tags := 8 * b2n f.sec
  !f.broken && (if op = 1 ∨ op = 4 then decide (n = f.len.toNat + tags)
    else if op = 2 then decide (n = tags) else decide (tags ≤ n))

/-- The frame's CRC is right and none of its slots was discarded (R321, R324). -/
def ctlIntact (op : Nat) (f : CtlFrame) : Bool :=
  decide (f.discarded = 0) && decide (crc32c (leBytes 7 (ctlBits op f) ++ ctlBytes f.data) = f.crc.toNat)

/-- DATA words of a frame but its tag words (R321). -/
def ctlWords (f : CtlFrame) : List Reg32 := if f.sec then f.data.take (f.data.length - 8) else f.data

/-- The tag words of a frame match T (R472). -/
def State.tagRight (s : State) (op : Nat) (f : CtlFrame) : Bool :=
  decide (ctlBytes (f.data.drop (f.data.length - 8)) = hmacSha256 s.key
    (leBytes 8 s.sup.chal.toNat ++ leBytes 4 s.sup.secCnt ++ leBytes 7 (ctlBits op f) ++ ctlBytes (ctlWords f)))

/-- An authentication succeeds: SEC_CNT rises, and one passing 2^32 - 1 draws a new challenge (R472, R473). -/
def State.authPass (s : State) : State :=
  if s.sup.secCnt + 1 = 2 ^ 32 then s.newChal else { s with sup := { s.sup with secCnt := s.sup.secCnt + 1 } }

/-- An authentication fails (R473). -/
def State.authFail (s : State) : State :=
  (({ s with sup := { s.sup with secFail := satAdd (2 ^ 32 - 1) s.sup.secFail 1 } }).raise (chipSrc 29)).newChal

/-- The addresses that a WRITE or READ frame names (R322). -/
def ctlTargets (op : Nat) (f : CtlFrame) : List Nat :=
  if op = 1 ∨ op = 2 then (List.range f.len.toNat).map (fun j => f.addr.toNat + 4 * j) else []

/-- The words of a WRITE frame, from word `j` on: the index of the first refused one, 1,023 where none is (R322, R326). -/
def State.ctlWrite (s : State) (a j : Nat) : List Reg32 → Nat × State
  | [] => (1023, s)
  | w :: ws =>
    let (ok, s) := s.busWrite .host (a + 4 * j) w none
    let (first, s) := s.ctlWrite a (j + 1) ws
    (if ok then first else j, s)

/-- The registers of a READ frame, sampled together (R322, R519). -/
def State.ctlRead (s : State) : List Nat → List Nat × State
  | [] => ([], s)
  | a :: as =>
    let (v, s) := s.busRead a
    let (vs, s) := s.ctlRead as
    (v :: vs, s)

/-- Data words of a READ response (R326). -/
def pairWords : List Nat → List W64
  | [] => []
  | [a] => [BitVec.ofNat 64 a]
  | a :: b :: r => BitVec.ofNat 64 (a + b * 2 ^ 32) :: pairWords r

/-- Step 6 of R324, the operation itself. -/
def State.ctlOperate (s : State) (op : Nat) (f : CtlFrame) (h : CtlHead) : State :=
  let a := f.addr.toNat
  if op = 4 then
    let (r, s) := s.imageWords a (ctlWords f)
    s.respond h (if r = 0 then 0 else 6) 1023 []
  else if a % 4 ≠ 0 then (if op = 1 then s.refuse .host a 2 else s).respond h 3 0 []
  else if op = 1 then
    let (first, s) := (s.advance 1).ctlWrite a 0 (ctlWords f)
    s.respond h (if first = 1023 then 0 else 3) first []
  else
    let (vs, s) := s.ctlRead (ctlTargets op f)
    s.respond h 0 1023 (pairWords vs)

/-- Steps 3 to 6 of R324, once authentication has passed or is not asked. -/
def State.ctlChecked (s : State) (op : Nat) (f : CtlFrame) (h : CtlHead) : State :=
  match if f.sec then none else (ctlTargets op f).find? secureAddr with
  | some a => (if op = 1 then s.refuse .host a 6 else s).respond h 5 1023 []
  | none =>
    if f.len = 0 then s.respond h 0 1023 []
    else if !(op = 1 || op = 2 || op = 4) || (decide (op = 2) && decide (256 < f.len.toNat)) then s.respond h 4 1023 []
    else s.ctlOperate op f h

/-- A control frame is executed and answered once, by the first check of R324 that applies; every discarded slot of it is
counted in LK_DN_ERR (R317). -/
def State.ctlFrame (s : State) (op : Nat) (f : CtlFrame) : State :=
  let h : CtlHead := ⟨BitVec.ofNat 4 op, f.tag, f.len⟩
  let s := if f.discarded = 0 then s else { s with lk := { s.lk with dnDisc := satAdd 65535 s.lk.dnDisc f.discarded } }
  if !ctlFramed op f then s.respond h 2 1023 []
  else if !ctlIntact op f then s.respond h 1 1023 []
  else if f.sec then
    (if s.tagRight op f then (s.authPass).ctlChecked op f h else (s.authFail).respond h 5 1023 [])
  else s.ctlChecked op f h

/-- WRITE (R322). -/
def execWrite (f : CtlFrame) (s : State) : Host.Outcome State Fault Refusal :=
  onChip s (fun s => s.onSlot false (fun s => s.ctlFrame 1 f))

/-- READ (R322, R519). -/
def execRead (f : CtlFrame) (s : State) : Host.Outcome State Fault Refusal :=
  onChip s (fun s => s.onSlot false (fun s => s.ctlFrame 2 f))

/-- IMAGE (R410). -/
def execImage (f : CtlFrame) (s : State) : Host.Outcome State Fault Refusal :=
  onChip s (fun s => s.onSlot false (fun s => s.ctlFrame 4 f))

/-- UNKNOWN_OP_CONTROL_FRAME (R322, R324): an OP that the table does not list. -/
def execUnknownOpControlFrame (op : BitVec 4) (f : CtlFrame) (s : State) : Host.Outcome State Fault Refusal :=
  onChip s (fun s => s.onSlot false (fun s =>
    if op = 1 ∨ op = 2 ∨ op = 4 then s else s.ctlFrame op.toNat f))

/-- CONTROL_FRAME_TIMEOUT (R324): no END came within 64 µs of the HEAD, in whatever state the receiver then is. -/
def execControlFrameTimeout (h : CtlHead) (s : State) : Host.Outcome State Fault Refusal :=
  onChip s (fun s => s.respond h 2 1023 [])

/-! ### Messages (R458, R461, R469) -/

/-- First byte of a channel's half in message memory (R455, R458). -/
def boxHalf (ch : Nat) : Nat := if secureBox ch then 0x40000 else 0

/-- A 64-bit word of message memory; one with an uncorrectable error reads 0 and is counted (R513). -/
def State.msgWord (s : State) (o : Nat) : W64 × State :=
  if s.bad2 .message (o / 8) 1 then (0, s.uncorrectable) else (readW64 s.msg o, s)

/-- `n` words of message memory from offset `o` on. -/
def State.msgWords (s : State) : Nat → Nat → List W64 × State
  | _, 0 => ([], s)
  | o, n + 1 =>
    let (w, s) := s.msgWord o
    let (ws, s) := s.msgWords (o + 8) n
    (w :: ws, s)

/-- The supervisor serves requests: it runs, and start-up is over (R461, R484). -/
def State.serves (s : State) : Bool := s.supRuns && s.booted

/-- Replies of a request channel that wait, and requests taken on it and not answered yet (R467). -/
def State.keptReplies (s : State) (ch : Nat) : Nat :=
  (mapGet (fun _ => ([] : List Reply)) s.sup.replies (ch + 8)).length + (s.sup.reqs.filter (fun q => q.ch = ch)).length

/-- The services, with whether each is secure and the bytes of its request body (R470). -/
def services : List (Nat × Bool × Nat) :=
  [(0x01, false, 0), (0x10, false, 8), (0x20, false, 8), (0x21, true, 8), (0x30, true, 16), (0x31, true, 0), (0x40, false, 0),
    (0x41, false, 0), (0x42, false, 0), (0x50, false, 0), (0x60, false, 8)]

/-- Word `k` of a request's body. -/
def SupReq.word (q : SupReq) (k : Nat) : W64 := q.body.getD k 0

/-- The content of a request's body is right (R470): a channel that a tile has; a slot span of whole words inside message
memory; at least one log entry. -/
def SupReq.contentOk (q : SupReq) : Bool :=
  let w := q.word 0
  if q.code = 0x20 ∨ q.code = 0x21 then decide (fieldOf w 10 6 < 17)
  else if q.code = 0x30 then
    decide (fieldOf w 31 0 % 4 = 0) && decide (fieldOf w 63 32 % 4 = 0) && decide (fieldOf (q.word 1) 31 0 % 4 = 0) &&
      decide (fieldOf (q.word 1) 31 0 + fieldOf w 63 32 ≤ 0x80000)
  else if q.code = 0x60 then decide (fieldOf w 38 32 ≠ 0)
  else true

/-- The status with which a request is turned away at the take, none where its service runs (R466, R469, R470): `hd` is
the header word, `len` the body's bytes. -/
def State.turnedAway (s : State) (q : SupReq) (gen : BitVec 8) (ptr : Nat) (hd : W64) : Option Nat :=
  if gen ≠ s.sup.hostGen then some 5
  else if 0x38000 ≤ ptr then some 2
  else match services.find? (fun x => decide (x.1 = q.code)) with
    | none => some 1
    | some (_, secure, len) =>
      if secure && !secureBox q.ch then some 6
      else if fieldOf hd 31 16 ≠ len ∨ fieldOf hd 63 32 ≠ 0 ∨ !q.contentOk then some 2
      else if s.sup.reqs.any (fun r => decide (r.code = q.code)) then some 3
      else none

/-- The supervisor takes a request (R461, R466, R467): the body is copied, the slot empties, and the service waits its
turn or the request is answered at once. -/
def State.takeRequest (s : State) (ch : Nat) : State :=
  let x := s.slot ch
  let at_ := boxHalf ch + x.ptr.toNat
  let (hd, s) := s.msgWord at_
  let n := match services.find? (fun x => decide (x.1 = fieldOf hd 15 0)) with
    | some (_, _, len) => len / 8
    | none => 0
  let (ws, s) := s.msgWords (at_ + 8) n
  let q : SupReq := { ch := ch, tag := x.tag, code := fieldOf hd 15 0, body := ws }
  let s := s.takeBox ch
  match s.turnedAway q x.gen x.ptr.toNat hd with
  | some st => s.reply q st []
  | none => { s with sup := { s.sup with reqs := s.sup.reqs ++ [q] } }

/-- SUP_TAKE_REQUEST (R461, R467). -/
def execSupTakeRequest (ch : Nat) (s : State) : Host.Outcome State Fault Refusal :=
  onBox ch s (fun s =>
    if s.serves && hostSends ch && (s.slot ch).full && decide (s.keptReplies ch < 8) then s.takeRequest ch else s)

/-- Where the supervisor puts the reply of channel `ch`: a part of the reply area of its own (R458, R469). -/
def replyOffset (ch : Nat) : Nat := 0x38000 + 0x1000 * (ch % 8)

/-- Write words to message memory. -/
def State.putReply (s : State) (o : Nat) (ws : List W64) : State :=
  ({ s with msg := writeBytes s.msg o (ws.flatMap (fun (w : W64) => leBytes 8 w.toNat)) }).clear2 .message (o / 8) ws.length

/-- SUP_REPLY_POST (R467, R469): the oldest reply of a channel is posted. -/
def execSupReplyPost (ch : Nat) (s : State) : Host.Outcome State Fault Refusal :=
  onBox ch s (fun s =>
    match mapGet (fun _ => ([] : List Reply)) s.sup.replies ch with
    | r :: rest =>
      if s.serves && hostReceives ch && !(s.slot ch).full then
        let hd := rec64 [(0, 16, r.code), (16, 16, 8 * r.body.length), (32, 16, r.status)]
        let s := s.putReply (boxHalf ch + replyOffset ch) (hd :: r.body)
        let s := { s with sup := { s.sup with replies := mapSet (fun _ => ([] : List Reply)) s.sup.replies ch rest } }
        (s.setSlot ch { s.slot ch with
          ptr := BitVec.ofNat 24 (replyOffset ch)
          tag := r.tag
          gen := s.sup.supGen
          full := true }).notice ch false
      else s
    | [] => s)

/-! ### The services (R470) -/

/-- The supervisor acts on the request of a service that it has taken. -/
def State.onService (s : State) (code : Nat) (f : SupReq → State → State) : State :=
  match s.sup.reqs.find? (fun q => decide (q.code = code)) with
  | some q => if s.serves && !q.started then f q s else s
  | none => s

/-- The action of a service has begun and goes on. -/
def State.serviceBegun (s : State) (code : Nat) : State :=
  { s with sup := { s.sup with reqs := s.sup.reqs.map (fun q => if q.code = code then { q with started := true } else q) } }

/-- A reason code as a reply's body (R469). -/
def reasonBody (r : Nat) : List W64 := [BitVec.ofNat 64 r]

/-- INFO (R470). -/
def execInfo (s : State) : Host.Outcome State Fault Refusal :=
  onChip s (fun s => s.onService 0x01 (fun q s =>
    s.serviceEnd q 0 [rec64 [(0, 32, Config.fwVersion.toNat), (32, 32, s.pw.bootCnt)],
      rec64 [(0, 8, s.sup.supGen.toNat), (8, 8, s.sup.hostGen.toNat)]]))

/-- PROOF_RUN (R470): CAL_CTRL is written with START; the run's end replies. -/
def execProofRun (s : State) : Host.Outcome State Fault Refusal :=
  onChip s (fun s => s.onService 0x10 (fun q s =>
    let w := BitVec.ofNat 32 (fieldOf (q.word 0) 17 0 + 2 ^ 20)
    let running := s.cal.run.isSome
    let bad := s.writeReason (.supervisor false) 0x8000 w
    let s := if bad.isNone then s.serviceBegun 0x10 else s
    let s := s.writeAt (.supervisor false) 0x8000 w none
    match bad with
    | some r => s.serviceEnd q 4 (reasonBody (if running then 16 else r))
    | none =>
      if s.cal.run.isNone && (s.begunReq 0x10).isSome then s.serviceEnd q 4 (reasonBody s.cal.reason) else s))

/-- AGEING_READ (R470). -/
def execAgeingRead (s : State) : Host.Outcome State Fault Refusal :=
  onChip s (fun s => s.onService 0x20 (fun q s =>
    let e := s.ageEntry (fieldOf (q.word 0) 5 0) (fieldOf (q.word 0) 10 6)
    s.serviceEnd q 0 ((List.range 10).map (fun k => BitVec.ofNat 64 (leNat ((e.drop (8 * k)).take 8))))))

/-- AGEING_CLEAR (R370, R470): the write starts once the store is free. -/
def execAgeingClear (s : State) : Host.Outcome State Fault Refusal :=
  onChip s (fun s => s.onService 0x21 (fun _ s => if s.cfg.job.isSome then s else (s.ageBegin).serviceBegun 0x21))

/-- SLOT_WRITE (R470): the words go through DEST 0, then the slot closes where CLOSE is 1. -/
def execSlotWrite (s : State) : Host.Outcome State Fault Refusal :=
  onChip s (fun s => s.onService 0x30 (fun q s =>
    let n := fieldOf (q.word 0) 63 32
    let (r, s) := if s.cfgBusy then (14, s)
      else if n = 0 then (0, s)
      else s.imageSlot (fieldOf (q.word 0) 31 0) (readBytes s.msg (fieldOf (q.word 1) 31 0) n)
    if r ≠ 0 then (s.cfgRefuse r).serviceEnd q 4 (reasonBody r)
    else if !(q.word 1).getLsbD 32 then s.serviceEnd q 0 []
    else
      let s := s.slotClose
      if s.cfg.job.isSome then s.serviceBegun 0x30 else s.serviceEnd q 4 (reasonBody s.cfg.reason)))

/-- The SLOT_EMPTY service (R412, R470). -/
def execSvcSlotEmpty (s : State) : Host.Outcome State Fault Refusal :=
  onChip s (fun s => s.onService 0x31 (fun q s =>
    if s.cfgBusy then (s.cfgRefuse 14).serviceEnd q 4 (reasonBody 14) else (s.slotClear).serviceBegun 0x31))

/-- Hold or release the DAC targets. -/
def State.holdTracking (s : State) (on : Bool) : State := { s with sup := { s.sup with trackHold := on } }

/-- TRACK_HOLD (R470). -/
def execTrackHold (s : State) : Host.Outcome State Fault Refusal :=
  onChip s (fun s => s.onService 0x40 (fun q s => (s.holdTracking true).serviceEnd q 0 []))

/-- TRACK_RESUME (R470). -/
def execTrackResume (s : State) : Host.Outcome State Fault Refusal :=
  onChip s (fun s => s.onService 0x41 (fun q s => (s.holdTracking false).serviceEnd q 0 []))

/-- TEMP_READ (R470). -/
def execTempRead (s : State) : Host.Outcome State Fault Refusal :=
  onChip s (fun s => s.onService 0x42 (fun q s =>
    s.serviceEnd q 0 (pairWords ((List.range 64).map (fun t => s.regValue (tileBase t + 0xA0))))))

/-- CONTACT_REFRESH (R470, R483). -/
def execContactRefresh (s : State) : Host.Outcome State Fault Refusal :=
  onChip s (fun s => s.onService 0x50 (fun q s => (s.sheetRefresh).serviceEnd q 0 []))

/-- The log entry with a SEQ, where it is valid (R471). -/
def State.logEntry (s : State) (seq : Nat) : List W64 :=
  let i := seq % logSize
  let b := readBytes s.nv (logBase + 32 * i) 32
  if logValid s.nv i ∧ leNat (b.take 4) = seq then
    (List.range 4).map (fun k => BitVec.ofNat 64 (leNat ((b.drop (8 * k)).take 8)))
  else []

/-- LOG_READ (R470, R471). -/
def execLogRead (s : State) : Host.Outcome State Fault Refusal :=
  onChip s (fun s => s.onService 0x60 (fun q s =>
    let w := q.word 0
    s.serviceEnd q 0 ((List.range (fieldOf w 38 32)).flatMap (fun k => s.logEntry ((fieldOf w 31 0 + k) % 2 ^ 32)))))

/-! ### The end of a store write (R370) -/

/-- A service that waited for the store is answered: refused with a reason where the write failed. -/
def State.storeReply (s : State) (code reason : Nat) (ok : Bool) : State :=
  match s.begunReq code with
  | some q => if ok then s.serviceEnd q 0 [] else s.serviceEnd q 4 (reasonBody reason)
  | none => s

/-- The write of a slot ends (R370, R403); a write that fails leaves the slot invalid, with reason 15. -/
def State.slotDone (s : State) (b ok : Bool) : State :=
  let s := if ok then s.slotFinish b else ({ s with cfg := { s.cfg with job := none } }).cfgRefuse 15
  (s.storeReply 0x30 15 ok).storeReply 0x31 15 ok

/-- The write of an ageing copy for AGEING_CLEAR ends: the entry has PRESENT 0 (R370, R470). -/
def State.clearDone (s : State) (b ok : Bool) : State :=
  match s.begunReq 0x21 with
  | some q =>
    let t := fieldOf (q.word 0) 5 0
    let c := fieldOf (q.word 0) 10 6
    let e := s.ageEntry t c
    let s := if ok then s.ageFinish b t c (e.take 66 ++ [((e.drop 66).headD 0) &&& 0xFE] ++ e.drop 67)
      else s.ageGone
    s.storeReply 0x21 10 ok
  | none => s

/-- STORE_WRITE_DONE (R370, R403): a write of a slot, or of an ageing copy for AGEING_CLEAR, ends; a proof run that waits
for the store goes on. -/
def execStoreWriteDone (ok : Bool) (s : State) : Host.Outcome State Fault Refusal :=
  onChip s (fun s =>
    match s.cfg.job with
    | some .slotA => (s.slotDone false ok).proofStore
    | some .slotB => (s.slotDone true ok).proofStore
    | some .ageingA => (s.clearDone false ok).proofStore
    | some .ageingB => (s.clearDone true ok).proofStore
    | none => s)

/-! ### Command lists, the log's second, event posts -/

/-- The entries of a command list from an offset in message memory on, up to its end (R462). -/
def State.listEntries (s : State) : Nat → Nat → List W64 × State
  | _, 0 => ([], s)
  | o, n + 1 =>
    if 0x80000 ≤ o then ([], s)
    else
      let (w, s) := s.msgWord o
      if w = 0 then ([], s)
      else
        let (ws, s) := s.listEntries (o + 8) n
        (w :: ws, s)

/-- TILE_CMD_LIST (R462): the tile takes the list on its channel and applies its entries as register writes. -/
def execTileCmdList (t : Nat) (s : State) : Host.Outcome State Fault Refusal :=
  onTile t s (fun s =>
    let ch := 32 + t
    if (s.tile t).powered && !(s.tile t).inReset && (s.slot ch).full then
      let (ws, s) := s.listEntries (boxHalf ch + (s.slot ch).ptr.toNat) 512
      ws.foldl (fun s w => (s.busWrite .tileList (tileBase t + fieldOf w 13 0) (BitVec.ofNat 32 (fieldOf w 63 32)) none).2)
        ((s.takeBox ch).advance 1)
    else s)

/-- LOG_SECOND (R471): at a second boundary the limit of 16 entries starts anew, and the count of settings not logged is
logged. -/
def execLogSecond (s : State) : Host.Outcome State Fault Refusal :=
  onChip s (fun s =>
    let s := s.advance s.toSecond
    let n := s.sup.logLost
    let s := { s with sup := { s.sup with logNow := 0 } }
    if n = 0 ∨ !s.serves then s else ({ s with sup := { s.sup with logLost := 0 } }).log 3 0xFFFF n)

/-- EVENT_MBOX_POST (R479): the oldest queued post is placed once the slot of MBCH is empty. -/
def execEventMboxPost (s : State) : Host.Outcome State Fault Refusal :=
  onChip s (fun s =>
    match s.ev.posts with
    | k :: ks =>
      if (s.slot (s.fld 0x4000 6 0)).full then s
      else ({ s with ev := { s.ev with posts := ks } }).placePost k
    | [] => s)

end Sys2Proof.Machine
end

