-- ==== Sys2Proof/Machine/Dispatch.lean ====
section
/-! DEFINITION. One arm per command: each calls the command's own meaning. -/

namespace Sys2Proof.Machine

open Sys2Proof

/-- The effect of a command on everything but the queue. -/
def exec (i : Instr) (s : State) : Host.Outcome State Fault Refusal :=
  match i with
  | .porAssert => Sys2Proof.Machine.execPorAssert s
  | .porEnd bootsel flash => Sys2Proof.Machine.execPorEnd bootsel flash s
  | .resetNLow => Sys2Proof.Machine.execResetNLow s
  | .resetNRelease bootsel flash => Sys2Proof.Machine.execResetNRelease bootsel flash s
  | .bootComplete => Sys2Proof.Machine.execBootComplete s
  | .secondBoundary => Sys2Proof.Machine.execSecondBoundary s
  | .epochOpen => Sys2Proof.Machine.execEpochOpen s
  | .replicaCheck => Sys2Proof.Machine.execReplicaCheck s
  | .replicaReload t => Sys2Proof.Machine.execReplicaReload t s
  | .replicaPairMismatch t => Sys2Proof.Machine.execReplicaPairMismatch t s
  | .lockComplete => Sys2Proof.Machine.execLockComplete s
  | .unlockDeclared => Sys2Proof.Machine.execUnlockDeclared s
  | .loscMissing => Sys2Proof.Machine.execLoscMissing s
  | .referencePresent err => Sys2Proof.Machine.execReferencePresent err s
  | .referenceRemeasured err => Sys2Proof.Machine.execReferenceRemeasured err s
  | .realign => Sys2Proof.Machine.execRealign s
  | .rampProfileStart => Sys2Proof.Machine.execRampProfileStart s
  | .rampSegmentEnd => Sys2Proof.Machine.execRampSegmentEnd s
  | .rampPhaseStep => Sys2Proof.Machine.execRampPhaseStep s
  | .rampAutoReplace => Sys2Proof.Machine.execRampAutoReplace s
  | .rampStart last => Sys2Proof.Machine.execRampStart last s
  | .rampAbort => Sys2Proof.Machine.execRampAbort s
  | .tbLatch => Sys2Proof.Machine.execTbLatch s
  | .tbSet => Sys2Proof.Machine.execTbSet s
  | .ttSync bits sub bad => Sys2Proof.Machine.execTtSync bits sub bad s
  | .followUpS bits bad => Sys2Proof.Machine.execFollowUpS bits bad s
  | .followUpNf bits bad => Sys2Proof.Machine.execFollowUpNf bits bad s
  | .delayRespS bits bad => Sys2Proof.Machine.execDelayRespS bits bad s
  | .delayRespNf bits bad => Sys2Proof.Machine.execDelayRespNf bits bad s
  | .ttUnknownSlot msg bits bad => Sys2Proof.Machine.execTtUnknownSlot msg bits bad s
  | .ttReplySend sub => Sys2Proof.Machine.execTtReplySend sub s
  | .exchangeTimeout id => Sys2Proof.Machine.execExchangeTimeout id s
  | .timeStep => Sys2Proof.Machine.execTimeStep s
  | .qualityStale => Sys2Proof.Machine.execQualityStale s
  | .ttAsymWrite w => Sys2Proof.Machine.execTtAsymWrite w s
  | .acceptSym => Sys2Proof.Machine.execAcceptSym s
  | .edge t c v sub mismatch => Sys2Proof.Machine.execEdge t c v sub mismatch s
  | .hitCommit t c d => Sys2Proof.Machine.execHitCommit t c d s
  | .commitLateRefuse t c d => Sys2Proof.Machine.execCommitLateRefuse t c d s
  | .chCfgWrite t c w => Sys2Proof.Machine.execChCfgWrite t c w s
  | .chThrWrite t c w => Sys2Proof.Machine.execChThrWrite t c w s
  | .checkStart t c kind margin => Sys2Proof.Machine.execCheckStart t c kind margin s
  | .checkComplete t c o => Sys2Proof.Machine.execCheckComplete t c o s
  | .tcXbarWrite t w => Sys2Proof.Machine.execTcXbarWrite t w s
  | .captureClr t c => Sys2Proof.Machine.execCaptureClr t c s
  | .lmSample t nv errLo errHi => Sys2Proof.Machine.execLmSample t nv errLo errHi s
  | .tileWake t => Sys2Proof.Machine.execTileWake t s
  | .nop t e => Sys2Proof.Machine.execNop t e s
  | .add t e rd ra b => Sys2Proof.Machine.execAdd t e rd ra b s
  | .sub t e rd ra b => Sys2Proof.Machine.execSub t e rd ra b s
  | .and t e rd ra b => Sys2Proof.Machine.execAnd t e rd ra b s
  | .or t e rd ra b => Sys2Proof.Machine.execOr t e rd ra b s
  | .xor t e rd ra b => Sys2Proof.Machine.execXor t e rd ra b s
  | .shl t e rd ra b => Sys2Proof.Machine.execShl t e rd ra b s
  | .shr t e rd ra b => Sys2Proof.Machine.execShr t e rd ra b s
  | .sar t e rd ra b => Sys2Proof.Machine.execSar t e rd ra b s
  | .min t e rd ra b => Sys2Proof.Machine.execMin t e rd ra b s
  | .max t e rd ra b => Sys2Proof.Machine.execMax t e rd ra b s
  | .mul t e rd ra b => Sys2Proof.Machine.execMul t e rd ra b s
  | .ext t e rd ra imm => Sys2Proof.Machine.execExt t e rd ra imm s
  | .ins t e rd ra k imm => Sys2Proof.Machine.execIns t e rd ra k imm s
  | .divu t e rd ra b => Sys2Proof.Machine.execDivu t e rd ra b s
  | .divs t e rd ra b => Sys2Proof.Machine.execDivs t e rd ra b s
  | .remu t e rd ra b => Sys2Proof.Machine.execRemu t e rd ra b s
  | .macs t e ad ra b => Sys2Proof.Machine.execMacs t e ad ra b s
  | .macu t e ad ra b => Sys2Proof.Machine.execMacu t e ad ra b s
  | .aclr t e ad => Sys2Proof.Machine.execAclr t e ad s
  | .aadd t e ad ra => Sys2Proof.Machine.execAadd t e ad ra s
  | .aadda t e ad aa => Sys2Proof.Machine.execAadda t e ad aa s
  | .asuba t e ad aa => Sys2Proof.Machine.execAsuba t e ad aa s
  | .ashl t e ad aa b => Sys2Proof.Machine.execAshl t e ad aa b s
  | .asar t e ad aa b => Sys2Proof.Machine.execAsar t e ad aa b s
  | .agetl t e rd aa => Sys2Proof.Machine.execAgetl t e rd aa s
  | .ageth t e rd aa => Sys2Proof.Machine.execAgeth t e rd aa s
  | .aset t e ad ra b => Sys2Proof.Machine.execAset t e ad ra b s
  | .adiv t e rd aa b => Sys2Proof.Machine.execAdiv t e rd aa b s
  | .adivr t e rd aa b => Sys2Proof.Machine.execAdivr t e rd aa b s
  | .asqrt t e rd aa => Sys2Proof.Machine.execAsqrt t e rd aa s
  | .seq t e rd ra b => Sys2Proof.Machine.execSeq t e rd ra b s
  | .slt t e rd ra b => Sys2Proof.Machine.execSlt t e rd ra b s
  | .sltu t e rd ra b => Sys2Proof.Machine.execSltu t e rd ra b s
  | .beq t e ra rb imm => Sys2Proof.Machine.execBeq t e ra rb imm s
  | .bne t e ra rb imm => Sys2Proof.Machine.execBne t e ra rb imm s
  | .blt t e ra rb imm => Sys2Proof.Machine.execBlt t e ra rb imm s
  | .bge t e ra rb imm => Sys2Proof.Machine.execBge t e ra rb imm s
  | .bltu t e ra rb imm => Sys2Proof.Machine.execBltu t e ra rb imm s
  | .bgeu t e ra rb imm => Sys2Proof.Machine.execBgeu t e ra rb imm s
  | .beqi t e ra k imm => Sys2Proof.Machine.execBeqi t e ra k imm s
  | .bnei t e ra k imm => Sys2Proof.Machine.execBnei t e ra k imm s
  | .bbs t e ra k imm => Sys2Proof.Machine.execBbs t e ra k imm s
  | .bbc t e ra k imm => Sys2Proof.Machine.execBbc t e ra k imm s
  | .jmp t e imm => Sys2Proof.Machine.execJmp t e imm s
  | .jal t e rd imm => Sys2Proof.Machine.execJal t e rd imm s
  | .jr t e ra => Sys2Proof.Machine.execJr t e ra s
  | .ld t e rd ra imm => Sys2Proof.Machine.execLd t e rd ra imm s
  | .st t e ra rb imm => Sys2Proof.Machine.execSt t e ra rb imm s
  | .lda t e ad ra imm => Sys2Proof.Machine.execLda t e ad ra imm s
  | .sta t e ra ab imm => Sys2Proof.Machine.execSta t e ra ab imm s
  | .gnext t e rd => Sys2Proof.Machine.execGnext t e rd s
  | .gstat t e rd => Sys2Proof.Machine.execGstat t e rd s
  | .wait t e imm => Sys2Proof.Machine.execWait t e imm s
  | .checkpoint t e => Sys2Proof.Machine.execCheckpoint t e s
  | .emit t e ra b => Sys2Proof.Machine.execEmit t e ra b s
  | .emith t e ra b => Sys2Proof.Machine.execEmith t e ra b s
  | .commit t e b => Sys2Proof.Machine.execCommit t e b s
  | .rewind t e b => Sys2Proof.Machine.execRewind t e b s
  | .tmset t e ra b => Sys2Proof.Machine.execTmset t e ra b s
  | .tmclr t e => Sys2Proof.Machine.execTmclr t e s
  | .sliceCycleLimit t e => Sys2Proof.Machine.execSliceCycleLimit t e s
  | .itemRelease t e => Sys2Proof.Machine.execItemRelease t e s
  | .sliceSwitch t e => Sys2Proof.Machine.execSliceSwitch t e s
  | .timeGateBoundary t e => Sys2Proof.Machine.execTimeGateBoundary t e s
  | .contextTimer t c => Sys2Proof.Machine.execContextTimer t c s
  | .triggerSliceCopy t c => Sys2Proof.Machine.execTriggerSliceCopy t c s
  | .engineEpochMarkers t e => Sys2Proof.Machine.execEngineEpochMarkers t e s
  | .checkpointTake t e => Sys2Proof.Machine.execCheckpointTake t e s
  | .restart t e => Sys2Proof.Machine.execRestart t e s
  | .ckptNow t e => Sys2Proof.Machine.execCkptNow t e s
  | .peakClr t e => Sys2Proof.Machine.execPeakClr t e s
  | .replayEnd t e => Sys2Proof.Machine.execReplayEnd t e s
  | .engineFaultDetect t e => Sys2Proof.Machine.execEngineFaultDetect t e s
  | .engineStallWatchdog t e => Sys2Proof.Machine.execEngineStallWatchdog t e s
  | .failover t e => Sys2Proof.Machine.execFailover t e s
  | .lockstepMismatch t p who => Sys2Proof.Machine.execLockstepMismatch t p who s
  | .depEngRet t e => Sys2Proof.Machine.execDepEngRet t e s
  | .engineSelfTestDone t e pass => Sys2Proof.Machine.execEngineSelfTestDone t e pass s
  | .flush t q => Sys2Proof.Machine.execFlush t q s
  | .queueClr t q => Sys2Proof.Machine.execQueueClr t q s
  | .lbExpiry t => Sys2Proof.Machine.execLbExpiry t s
  | .fcoDeassert k => Sys2Proof.Machine.execFcoDeassert k s
  | .streamReadPacket t packed => Sys2Proof.Machine.execStreamReadPacket t packed s
  | .trigger bits bad => Sys2Proof.Machine.execTrigger bits bad s
  | .triggerDecide => Sys2Proof.Machine.execTriggerDecide s
  | .fragmentCopy t words => Sys2Proof.Machine.execFragmentCopy t words s
  | .fragmentDeadline t => Sys2Proof.Machine.execFragmentDeadline t s
  | .eventSend => Sys2Proof.Machine.execEventSend s
  | .promptWord => Sys2Proof.Machine.execPromptWord s
  | .prCtrlWrite w => Sys2Proof.Machine.execPrCtrlWrite w s
  | .dnClockRecovered => Sys2Proof.Machine.execDnClockRecovered s
  | .dnCommaLock => Sys2Proof.Machine.execDnCommaLock s
  | .dnSlotLock => Sys2Proof.Machine.execDnSlotLock s
  | .dnSlotLost => Sys2Proof.Machine.execDnSlotLost s
  | .dnSignalLost => Sys2Proof.Machine.execDnSignalLost s
  | .idleSlot bits bad => Sys2Proof.Machine.execIdleSlot bits bad s
  | .snapshot bits bad => Sys2Proof.Machine.execSnapshot bits bad s
  | .blockClose bits bad => Sys2Proof.Machine.execBlockClose bits bad s
  | .sync bits bad => Sys2Proof.Machine.execSync bits bad s
  | .ack bits bad => Sys2Proof.Machine.execAck bits bad s
  | .nak bits bad => Sys2Proof.Machine.execNak bits bad s
  | .laneUp bits bad => Sys2Proof.Machine.execLaneUp bits bad s
  | .pause bits bad => Sys2Proof.Machine.execPause bits bad s
  | .resume bits bad => Sys2Proof.Machine.execResume bits bad s
  | .retrain bits bad => Sys2Proof.Machine.execRetrain bits bad s
  | .write f => Sys2Proof.Machine.execWrite f s
  | .read f => Sys2Proof.Machine.execRead f s
  | .image f => Sys2Proof.Machine.execImage f s
  | .controlFrameTimeout h => Sys2Proof.Machine.execControlFrameTimeout h s
  | .orphanControlSlot bits bad => Sys2Proof.Machine.execOrphanControlSlot bits bad s
  | .frameTransmit l => Sys2Proof.Machine.execFrameTransmit l s
  | .resultFrameClose idx => Sys2Proof.Machine.execResultFrameClose idx s
  | .linkPllLock => Sys2Proof.Machine.execLinkPllLock s
  | .linkPllLoss => Sys2Proof.Machine.execLinkPllLoss s
  | .laneDegraded l => Sys2Proof.Machine.execLaneDegraded l s
  | .lreset h => Sys2Proof.Machine.execLreset h s
  | .lkRetrain => Sys2Proof.Machine.execLkRetrain s
  | .fciChange k level => Sys2Proof.Machine.execFciChange k level s
  | .fciHoldExpiry k => Sys2Proof.Machine.execFciHoldExpiry k s
  | .pauseExpiry cls idx => Sys2Proof.Machine.execPauseExpiry cls idx s
  | .ackTimeout l => Sys2Proof.Machine.execAckTimeout l s
  | .stallEnd => Sys2Proof.Machine.execStallEnd s
  | .trackTick temps => Sys2Proof.Machine.execTrackTick temps s
  | .dacStep => Sys2Proof.Machine.execDacStep s
  | .calStart w => Sys2Proof.Machine.execCalStart w s
  | .calAbort => Sys2Proof.Machine.execCalAbort s
  | .proofPassEnd d => Sys2Proof.Machine.execProofPassEnd d s
  | .proofPassTimeout d => Sys2Proof.Machine.execProofPassTimeout d s
  | .proofStoreDone ok => Sys2Proof.Machine.execProofStoreDone ok s
  | .hoStart t input dir ovl => Sys2Proof.Machine.execHoStart t input dir ovl s
  | .hoAbort t => Sys2Proof.Machine.execHoAbort t s
  | .handoverOpen t => Sys2Proof.Machine.execHandoverOpen t s
  | .handoverInstant t out inc diff => Sys2Proof.Machine.execHandoverInstant t out inc diff s
  | .tapRelease t => Sys2Proof.Machine.execTapRelease t s
  | .contactSheetRefresh => Sys2Proof.Machine.execContactSheetRefresh s
  | .dmmInterval => Sys2Proof.Machine.execDmmInterval s
  | .slotClose => Sys2Proof.Machine.execSlotClose s
  | .slotEmpty => Sys2Proof.Machine.execSlotEmpty s
  | .reload => Sys2Proof.Machine.execReload s
  | .reloadDone => Sys2Proof.Machine.execReloadDone s
  | .prepare => Sys2Proof.Machine.execPrepare s
  | .prepareDone => Sys2Proof.Machine.execPrepareDone s
  | .fix => Sys2Proof.Machine.execFix s
  | .cancel => Sys2Proof.Machine.execCancel s
  | .fixDecide => Sys2Proof.Machine.execFixDecide s
  | .fixTakeEffect => Sys2Proof.Machine.execFixTakeEffect s
  | .scrub => Sys2Proof.Machine.execScrub s
  | .snapNFall => Sys2Proof.Machine.execSnapNFall s
  | .snapNRise => Sys2Proof.Machine.execSnapNRise s
  | .snapFreeze => Sys2Proof.Machine.execSnapFreeze s
  | .snapRelease => Sys2Proof.Machine.execSnapRelease s
  | .snapSel v => Sys2Proof.Machine.execSnapSel v s
  | .snapRead => Sys2Proof.Machine.execSnapRead s
  | .snapMem v => Sys2Proof.Machine.execSnapMem v s
  | .freeze => Sys2Proof.Machine.execFreeze s
  | .snapshotRelease => Sys2Proof.Machine.execSnapshotRelease s
  | .depTileRst t => Sys2Proof.Machine.execDepTileRst t s
  | .tmrPersistentFault t => Sys2Proof.Machine.execTmrPersistentFault t s
  | .tileResetDone t => Sys2Proof.Machine.execTileResetDone t s
  | .cntClr => Sys2Proof.Machine.execCntClr s
  | .supervisorRestart => Sys2Proof.Machine.execSupervisorRestart s
  | .supervisorRestartDone => Sys2Proof.Machine.execSupervisorRestartDone s
  | .ring src ch => Sys2Proof.Machine.execRing src ch s
  | .take src ch => Sys2Proof.Machine.execTake src ch s
  | .bump => Sys2Proof.Machine.execBump s
  | .secClose => Sys2Proof.Machine.execSecClose s
  | .supTakeRequest ch => Sys2Proof.Machine.execSupTakeRequest ch s
  | .supReplyPost ch => Sys2Proof.Machine.execSupReplyPost ch s
  | .info => Sys2Proof.Machine.execInfo s
  | .proofRun => Sys2Proof.Machine.execProofRun s
  | .ageingRead => Sys2Proof.Machine.execAgeingRead s
  | .ageingClear => Sys2Proof.Machine.execAgeingClear s
  | .slotWrite => Sys2Proof.Machine.execSlotWrite s
  | .svcSlotEmpty => Sys2Proof.Machine.execSvcSlotEmpty s
  | .trackHold => Sys2Proof.Machine.execTrackHold s
  | .trackResume => Sys2Proof.Machine.execTrackResume s
  | .tempRead => Sys2Proof.Machine.execTempRead s
  | .contactRefresh => Sys2Proof.Machine.execContactRefresh s
  | .logRead => Sys2Proof.Machine.execLogRead s
  | .tileCmdList t => Sys2Proof.Machine.execTileCmdList t s
  | .logSecond => Sys2Proof.Machine.execLogSecond s
  | .eventMboxPost => Sys2Proof.Machine.execEventMboxPost s
  | .evMaskWrite r w => Sys2Proof.Machine.execEvMaskWrite r w s
  | .evForce src => Sys2Proof.Machine.execEvForce src s
  | .reqRun => Sys2Proof.Machine.execReqRun s
  | .reqSafelight => Sys2Proof.Machine.execReqSafelight s
  | .reqDark => Sys2Proof.Machine.execReqDark s
  | .pwCancel => Sys2Proof.Machine.execPwCancel s
  | .softRst h => Sys2Proof.Machine.execSoftRst h s
  | .softResetDone => Sys2Proof.Machine.execSoftResetDone s
  | .enterRun => Sys2Proof.Machine.execEnterRun s
  | .enterSafelight => Sys2Proof.Machine.execEnterSafelight s
  | .darkDecide => Sys2Proof.Machine.execDarkDecide s
  | .darkEntry => Sys2Proof.Machine.execDarkEntry s
  | .darkExit => Sys2Proof.Machine.execDarkExit s
  | .darkExitComplete => Sys2Proof.Machine.execDarkExitComplete s
  | .pwRegate mask => Sys2Proof.Machine.execPwRegate mask s
  | .supervisorWake => Sys2Proof.Machine.execSupervisorWake s
  | .registerWrite src addr w => Sys2Proof.Machine.execRegisterWrite src addr w s
  | .loscClockPresent => Sys2Proof.Machine.execLoscClockPresent s
  | .unknownOpControlFrame op f => Sys2Proof.Machine.execUnknownOpControlFrame op f s
  | .unknownLinkOperation op bits bad => Sys2Proof.Machine.execUnknownLinkOperation op bits bad s
  | .storeWriteDone ok => Sys2Proof.Machine.execStoreWriteDone ok s

end Sys2Proof.Machine
end

