-- ==== Sys2Proof/Safety.lean ====
section
/-! DEFINITION. What claims about runs are stated in: a command's answer, the frame of the event sources, the canonical
form of the block's memories and tables. -/

namespace Sys2Proof.Machine

open Sys2Proof

/-- The command answers a next state, of which a property holds. -/
def Answers (c : Instr) (s : State) (P : State → Prop) : Prop := ∃ t, exec c s = .next t ∧ P t

/-- A state without what setting event sources changes outside the tiles: sticky bits, queued posts, streams, mailbox
slots, the supervisor's wake request and the log (R474 to R481). -/
def State.sansEvents (s : State) : State :=
  { s with
    ev := {}
    nv := []
    tiles := []
    lk := { s.lk with streams := [] }
    sup := { s.sup with slots := [], wakeAsk := false, logSeq := 0, logNow := 0, logLost := 0 } }

/-- Two states agree but for what setting event sources changes (R474 to R481). -/
def State.EventsApart (s t : State) : Prop :=
  t.sansEvents = s.sansEvents ∧ ∀ u, { t.tile u with te := 0 } = ({ s.tile u with te := 0 } : Tile)

/-- Every byte memory of the block is in canonical form. -/
def State.memWf (s : State) : Prop :=
  Memory.wf s.nv = true ∧ Memory.wf s.msg = true ∧ Memory.wf s.cfg.staged = true ∧ Memory.wf s.cfg.boot = true

/-! ### Engines -/

/-- Engine `e` of tile `u` of a running device stands at an instruction. -/
def State.Stands (s : State) (u e : Nat) (op : EngOp) : Prop := s.up = true ∧ u < s.nTiles ∧ e < 9 ∧ s.atOp u e op = true

/-- It stands at an instruction whose successor lies in program memory. -/
def State.Ready (s : State) (u e : Nat) (op : EngOp) : Prop := s.Stands u e op ∧ (s.eng u e).pc < 2047

/-- An engine after an instruction of `n` cycles: nothing but PC, cycles and the age of its latest instruction moved. -/
def Engine.ran (y : Engine) (n pc age : Nat) : Engine :=
  { y with pc := pc, cycles := y.cycles + n, busy := y.busy + n, lastRun := age }

/-- Nothing outside tile `u` changed. -/
def State.TileOnly (s t : State) (u : Nat) : Prop := { t with tiles := s.tiles } = s ∧ ∀ v, v ≠ u → t.tile v = s.tile v

/-- Nothing changed but engine `e` of tile `u` and the tile's context store and contexts. -/
def State.EngineApart (s t : State) (u e : Nat) : Prop :=
  s.TileOnly t u ∧ (∀ f, f ≠ e → t.eng u f = s.eng u f) ∧
    { t.tile u with engs := (s.tile u).engs, cx := (s.tile u).cx, ctxs := (s.tile u).ctxs } = s.tile u

/-- Nothing changed but engine `e` of tile `u`. -/
def State.EngineOnly (s t : State) (u e : Nat) : Prop :=
  s.EngineApart t u e ∧ (∀ a, t.cxWord u a = s.cxWord u a) ∧ (∀ c, t.ctx u c = s.ctx u c)

/-- The engine did `n` cycles, moved to `pc` and wrote `v` to a general register, of which only G0 to G27 take a write
(R211). -/
def State.WroteG (s : State) (u e n pc : Nat) (rd : BitVec 5) (v : W64) (t : State) : Prop :=
  s.EngineOnly t u e ∧ { t.eng u e with g := (s.eng u e).g } = (s.eng u e).ran n pc s.tb.age ∧
    ∀ r, t.getG u e r = if r = rd ∧ r.toNat < 28 then v else s.getG u e r

/-- The engine did `n` cycles, moved on by one and wrote `v` to an accumulator. -/
def State.WroteA (s : State) (u e n : Nat) (ad : BitVec 2) (v : Acc) (t : State) : Prop :=
  s.EngineOnly t u e ∧ { t.eng u e with a := (s.eng u e).a } = (s.eng u e).ran n ((s.eng u e).pc + 1) s.tb.age ∧
    ∀ r, t.getA u e r = if r = ad then v else s.getA u e r

/-- The engine did `n` cycles and moved to `pc`, and nothing else. -/
def State.Moved (s : State) (u e n : Nat) (pc : Int) (t : State) : Prop :=
  s.EngineOnly t u e ∧ t.eng u e = (s.eng u e).ran n pc.toNat s.tb.age

/-- A program fault of engine `e` (R231): ENG_FAULT holds the context, the PC and the cause, the faults are counted up to
255, the context is halted with no item left, the event is set, and nothing outside the tile but events changed. -/
def State.Faulted (s : State) (u e cause : Nat) (t : State) : Prop :=
  (t.eng u e).fCause = cause ∧ (t.eng u e).fCtx = (s.eng u e).ctx ∧ (t.eng u e).fPc = (s.eng u e).pc ∧
    (t.eng u e).fCount = min 255 ((s.eng u e).fCount + 1) ∧ t.halted u (s.eng u e).ctx = true ∧
    (t.ctx u (s.eng u e).ctx).items = [] ∧ t.evSet (tileSrc u 5) = true ∧ t.tb = s.tb ∧ t.regs = s.regs ∧ t.msg = s.msg ∧
    ∀ v, v ≠ u → t.tile v = s.tile v

/-- Engine `dst` of tile `u` restored from the checkpoint of engine `src` (R236): its contexts, the dispatcher's position at
the oldest retained record, each context's block from its shadow; it replays the items delivered since. -/
def State.Restored (s : State) (u src dst : Nat) (t : State) : Prop :=
  (t.eng u dst).loaded = false ∧ (t.eng u dst).sliceEnd = true ∧ (t.eng u dst).ctxs = (s.eng u src).ckpt.keys ∧
    (t.eng u dst).dpos = (s.queue u (s.inq u src)).rp ∧ (t.eng u dst).seg = (s.eng u src).ckpt.seg ∧
    (t.eng u dst).epoch = (s.eng u src).ckpt.epoch ∧ (t.eng u dst).delivered = 0 ∧
    (t.eng u dst).replay = max (s.eng u src).replay (s.eng u src).delivered ∧
    (t.eng u dst).st = (if max (s.eng u src).replay (s.eng u src).delivered = 0 then 1 else 2) ∧
    ∀ c ∈ (s.eng u src).ctxs, c < 64 → ∀ k, k < 64 → t.cxWord u (64 * c + k) = s.cxWord u (64 * (64 + c) + k)

/-- The row of an ALU operation. -/
def aluRow (f : AluOp) (u e : Nat) (rd ra : BitVec 5) (b : OpB) : Instr :=
  match f with
  | .add => .add u e rd ra b
  | .sub => .sub u e rd ra b
  | .and => .and u e rd ra b
  | .or => .or u e rd ra b
  | .xor => .xor u e rd ra b
  | .shl => .shl u e rd ra b
  | .shr => .shr u e rd ra b
  | .sar => .sar u e rd ra b
  | .min => .min u e rd ra b
  | .max => .max u e rd ra b
  | .mul => .mul u e rd ra b
  | .divu => .divu u e rd ra b
  | .divs => .divs u e rd ra b
  | .remu => .remu u e rd ra b
  | .seq => .seq u e rd ra b
  | .slt => .slt u e rd ra b
  | .sltu => .sltu u e rd ra b

/-- The row of a branch on two registers. -/
def brRow (c : BrOp) (u e : Nat) (ra rb : BitVec 5) (imm : BitVec 24) : Instr :=
  match c with
  | .eq => .beq u e ra rb imm
  | .ne => .bne u e ra rb imm
  | .lt => .blt u e ra rb imm
  | .ge => .bge u e ra rb imm
  | .ltu => .bltu u e ra rb imm
  | .geu => .bgeu u e ra rb imm

/-- A word address of the context store lies in a live context of the engine (R216). -/
def State.liveWord (s : State) (u e : Nat) (a : W64) : Prop := a.toNat / 64 < 64 ∧ a.toNat / 64 ∈ (s.eng u e).ctxs

/-! ### Control frames and services -/

/-- The row of a control frame by its OP: 1 WRITE, 2 READ, otherwise IMAGE (R322). -/
def ctlRow (op : Nat) (f : CtlFrame) : Instr := if op = 1 then .write f else if op = 2 then .read f else .image f

/-- A control frame was answered (R324, R326, R358): one response at the end of its stream, and LK_CF_STAT where the status
is not 0. -/
def State.Responded (s t : State) (h : CtlHead) (status first : Nat) (data : List W64) : Prop :=
  (t.stream 4 0).wait = (s.stream 4 0).wait ++
      [{ words := responseRecord h.tag.toNat h.op.toNat status h.len.toNat first :: data }] ∧
    (if status = 0 then t.lk.cfCnt = s.lk.cfCnt ∧ t.lk.cfStatus = s.lk.cfStatus ∧ t.lk.cfTag = s.lk.cfTag
     else t.lk.cfCnt = min 65535 (s.lk.cfCnt + 1) ∧ t.lk.cfStatus = status ∧ t.lk.cfTag = h.tag.toNat)

/-- Only the uplink changed. -/
def State.LinksOnly (s t : State) : Prop := { t with lk := s.lk } = s

/-- A request of a service waits to be served. -/
def State.Waits (s : State) (code : Nat) (q : SupReq) : Prop :=
  s.up = true ∧ s.serves = true ∧ s.sup.reqs.find? (fun q => decide (q.code = code)) = some q ∧ q.started = false

/-- A request was answered: it waits no more, and its reply is the last one of its reply channel (R467, R470). -/
def State.Replied (s t : State) (q : SupReq) (status : Nat) (body : List W64) : Prop :=
  t.sup.reqs = s.sup.reqs.filter (fun r => decide (r.code ≠ q.code)) ∧
    mapGet (fun _ => []) t.sup.replies (q.ch + 8) = mapGet (fun _ => []) s.sup.replies (q.ch + 8) ++
      [{ tag := q.tag, code := q.code, status := status, body := body }] ∧
    ∀ k, k ≠ q.ch + 8 → mapGet (fun _ => []) t.sup.replies k = mapGet (fun _ => []) s.sup.replies k

/-- A service's action goes on: its request is marked as begun. -/
def State.Begun (s t : State) (code : Nat) : Prop :=
  t.sup.reqs = s.sup.reqs.map (fun q => if q.code = code then { q with started := true } else q) ∧ t.sup.replies = s.sup.replies

/-- Nothing changed but the supervisor. -/
def State.SupOnly (s t : State) : Prop := { t with sup := s.sup } = s

/-- A write was refused (R510, R515): its address, reason and source are recorded and counted, and otherwise only the slot
passed. -/
def State.WriteRefused (s t : State) (src : Src) (a reason : Nat) : Prop :=
  t.refAddr = BitVec.ofNat 24 a ∧ t.refReason = reason ∧ t.refSrc = srcCode src ∧ t.refCnt = min 65535 (s.refCnt + 1) ∧
    { t with refAddr := s.refAddr, refReason := s.refReason, refSrc := s.refSrc, refCnt := s.refCnt } = s.advance 1

end Sys2Proof.Machine
end

