-- ==== Sys2Proof/Certificates/Slice0/Obligations.lean ====
section
/-! DEFINITION. The statements for the provers: what a step does, and for every row of the table where it completes and
what it then leaves. `Answers c s P` says that command `c` in state `s` gives a next state of which P holds. -/

open Sys2Proof Sys2Proof.Machine

/-! ### The step and the queue -/

/-- A step takes the command at the front of the queue and answers what `exec` answers for it on the queue's rest. -/
def Obligations.StepRunsFrontCommand : Prop :=
  ∀ (c : Instr) (rest : List Instr) (s : State), s.pending = c :: rest → step s = exec c { s with pending := rest }

/-- With no command waiting, a step lets one slot of the timing clock pass (the model's choice, log entry 2): outside a
freeze, device time and slot age move by one slot and nothing else but the timebase changes. -/
def Obligations.EmptyQueuePassesOneSlot : Prop :=
  ∀ s : State, s.pending = [] → s.up = true →
    ∃ t, step s = .next t ∧ t.tb.time = s.tb.time.addNs 8 ∧ t.tb.age = s.tb.age + 1 ∧ { t with tb := s.tb } = s

/-- Every command whose operands are well-formed answers a next state, whatever the state is. A command on a tile that no
part has stops with noSuchTile, and one on an engine, channel, queue or mailbox channel that no tile or spine has stops by
the name of that unit. A command changes everything but the queue of the commands that wait behind it. -/
def Obligations.CommandsRunOrFault : Prop :=
  (∀ (c : Instr) (s : State), c.wf = true → ∃ t, exec c s = .next t) ∧
  ((∀ (t : Nat) (s : State), 64 ≤ t → exec (.tileWake t) s = .fault .noSuchTile ∧ exec (.lbExpiry t) s = .fault .noSuchTile ∧
    exec (.tileCmdList t) s = .fault .noSuchTile) ∧
  (∀ (t e : Nat) (s : State), 9 ≤ e → exec (.nop t e) s = .fault .noSuchEngine ∧ exec (.restart t e) s = .fault .noSuchEngine) ∧
  (∀ (t c : Nat) (d : Dest) (s : State), 17 ≤ c → exec (.hitCommit t c d) s = .fault .noSuchChannel) ∧
  (∀ (t q : Nat) (s : State), 256 ≤ q → exec (.flush t q) s = .fault .noSuchQueue) ∧
  (∀ (ch : Nat) (s : State), 96 ≤ ch → exec (.supTakeRequest ch) s = .fault .noSuchMailbox)) ∧
  (∀ (c : Instr) (s t : State), exec c s = .next t → t.pending = s.pending)

/-- Every step keeps every byte memory in canonical form: addresses strictly rising, no listed byte that an unlisted address
reads as. -/
def Obligations.StepKeepsMemories : Prop :=
  ∀ s t : State, s.memWf → step s = .next t → t.memWf

/-- The memories after reset are in canonical form. After reset: epoch 0 at device time 0, the timebase in ACQUIRE, every
counter and sticky bit at 0, both generations 1, no command waiting. -/
def Obligations.ResetState : Prop :=
  (State.reset.memWf) ∧
  (State.reset.tb.epoch = 0 ∧ State.reset.tb.time = { s := 0, ns := 0, fine := 0 } ∧ State.reset.tb.st = .acquire ∧
    State.reset.tt.quality = 0 ∧ (∀ k, State.reset.evSet k = false) ∧ State.reset.sup.hostGen = 1 ∧ State.reset.sup.supGen = 1 ∧
    (∀ ch, (State.reset.slot ch).full = false) ∧ State.reset.refCnt = 0 ∧ State.reset.pending = [])

/-! ### Engine words -/

/-- The decoder of engine words reads back every instruction from the word that the encoding tables give it, at every value
of every operand. -/
def Obligations.EngineWordRoundTrip : Prop := ∀ op : EngOp, decodeEng (encodeEng op) = some op

/-! ### Rules on the whole machine -/

/-- When an epoch opens, its number is the old one plus 1, and 1 after 15. No command but POR and RESET_N changes the number
in another way, so that only they bring epoch 0 back. -/
def Obligations.EpochNumbers : Prop :=
  (∀ (c : Instr) (s t : State), s.tb.epoch < 16 → exec c s = .next t →
    t.tb.epoch = s.tb.epoch ∨ (s.tb.epoch < 15 ∧ t.tb.epoch = s.tb.epoch + 1) ∨ (s.tb.epoch = 15 ∧ t.tb.epoch = 1) ∨
      ((c = .porAssert ∨ c = .resetNLow) ∧ t.tb.epoch = 0)) ∧
  (∀ (s : State) (ws : List W64), s.tb.epoch < 15 → (s.openEpoch ws).tb.epoch = s.tb.epoch + 1) ∧
  (∀ (s : State) (ws : List W64), s.tb.epoch = 15 → (s.openEpoch ws).tb.epoch = 1)

/-- The copy in force of a bank, of an ageing copy and of a slot: of two valid copies the one whose sequence number is ahead
by the signed difference modulo 2^32, B where they are equal, and the valid one where one is; none where neither is. A copy
whose STATE is not 0x5A, whose MAGIC, LENGTH or CRC is wrong, is not valid. -/
def Obligations.CopiesAreChosen : Prop :=
  (∀ (va vb : Bool) (a b : Nat) (d : Int), a < 2 ^ 32 → b < 2 ^ 32 →
    d = (if ((a : Int) - b) % 2 ^ 32 < 2 ^ 31 then ((a : Int) - b) % 2 ^ 32 else ((a : Int) - b) % 2 ^ 32 - 2 ^ 32) →
    (va = true → vb = true → 0 < d → chooseCopy va vb a b = some false) ∧
    (va = true → vb = true → d ≤ 0 → chooseCopy va vb a b = some true) ∧
    (va = true → vb = false → chooseCopy va vb a b = some false) ∧
    (va = false → vb = true → chooseCopy va vb a b = some true) ∧
    (va = false → vb = false → chooseCopy va vb a b = none)) ∧
  (∀ s : State, s.bank = chooseCopy (copyValid s.nv (bankBase false) bankMagic bankLen) (copyValid s.nv (bankBase true) bankMagic bankLen)
      (readW32 s.nv (bankBase false + 8)).toNat (readW32 s.nv (bankBase true + 8)).toNat ∧
    s.ageCopy = chooseCopy (copyValid s.nv (ageBase false) ageMagic ageLen) (copyValid s.nv (ageBase true) ageMagic ageLen)
      (readW32 s.nv (ageBase false + 8)).toNat (readW32 s.nv (ageBase true + 8)).toNat) ∧
  (∀ (nv : Memory) (base magic len : Nat), copyValid nv base magic len = true ↔
    readByte nv (base + 12) = 0x5A ∧ (readW32 nv base).toNat = magic ∧ (readW32 nv (base + 16)).toNat = len ∧
      (readW32 nv (base + 60)).toNat = crc32c (readBytes nv (base + 16) 44 ++ readBytes nv (base + 64) len))

/-- Tiles 16 to 63 of the NHD-T256: no edge of theirs is captured, their registers read 0, writes to their register blocks
and doorbells on their channels are refused, and their contact-sheet bytes read 0. -/
def Obligations.TilesThatThePartHasNot : Prop :=
  ∀ (s : State) (u : Nat), s.part = .t256 → 16 ≤ u → u < 64 → s.up = true →
    (∀ c rise sub m, c < 17 → exec (.edge u c rise sub m) s = .next s) ∧
    (∀ a, tileOf a = some u → s.regValue a = 0) ∧
    (∀ (src : Src) (a : Nat) (w : Reg32), tileOf a = some u → s.writeReason src a w ≠ none) ∧
    (∀ (src : Src), Answers (.ring src (32 + u)) s (fun t => t.slot (32 + u) = s.slot (32 + u) ∧
      t.refAddr = BitVec.ofNat 24 (0x5008 + 16 * (32 + u)) ∧ t.refReason ≠ 0 ∧ t.refCnt = min 65535 (s.refCnt + 1))) ∧
    (∀ i c, i < 272 → c < 17 → 4 * i ≤ 17 * u + c → 17 * u + c < 4 * i + 4 →
      s.regValue (0x8800 + 4 * i) / 2 ^ (8 * ((17 * u + c) % 4)) % 256 = 0)

/-! ### The time plane -/

/-- SECOND_BOUNDARY and EPOCH_OPEN complete. SECOND_BOUNDARY: the clock goes on to the second boundary, or stands on one that
has had no marker yet, and every capture destination is given the seconds marker of that second. EPOCH_OPEN: with a cause
recorded, the epoch opens at the boundary of the cause; its number is the old one plus 1, 15 being followed by 1; the causes
clear, profiles end, device time takes the value of one cause only, the host set before the realign before the step, and the
event stream, as every uplink stream, gets the epoch-change marker and a seconds marker. -/
def Obligations.SecondsAndEpochs : Prop :=
  (∀ s : State, s.up = true → s.now.wf = true → s.now.ns ≠ 0 →
    ∃ n, 0 < n ∧ (s.advance n).now.ns < 8 ∧
      exec .secondBoundary s = .next (({ s.advance n with tb := { (s.advance n).tb with secAge := s.tb.age + n } } : State).markAll 0
        [secondsMarker s.tb.epoch s.cs s.st (s.advance n).now.s])) ∧
  (∀ s : State, s.up = true → s.now.ns = 0 → s.tb.secAge ≠ s.tb.age →
    exec .secondBoundary s = .next (({ s with tb := { s.tb with secAge := s.tb.age } } : State).markAll 0
      [secondsMarker s.tb.epoch s.cs s.st s.now.s])) ∧
  (∀ s : State, s.up = true → s.tb.causes ≠ 0 → s.tb.epoch < 16 →
    Answers .epochOpen s (fun t => t.tb.epoch = (if s.tb.epoch = 15 then 1 else s.tb.epoch + 1) ∧ t.tb.causes = 0 ∧
      t.tb.prof = none ∧ t.tb.moved = 0 ∧ t.regs = s.regs ∧ t.msg = s.msg ∧ t.cal = s.cal ∧ t.pr = s.pr ∧
      (t.stream 1 0).wait = (s.stream 1 0).wait ++
        [{ words := [epochMarker t.tb.epoch s.tb.epoch (s.advanceTo s.tb.openDue).tb.causes.toNat t.tb.time.ns,
            secondsMarker t.tb.epoch s.cs false t.tb.time.s] }] ∧
      t.tb.time = (match s.tb.setVal, s.tb.realignVal, s.tb.stepVal with
        | some v, _, _ => v
        | none, some v, _ => v
        | none, none, some th => (s.advanceTo s.tb.openDue).now.addFine (-slotRound th)
        | none, none, none => (s.advanceTo s.tb.openDue).now)))

/-- LOCK_COMPLETE, UNLOCK_DECLARED, REFERENCE_PRESENT, REFERENCE_REMEASURED and REALIGN complete. Lock complete takes ACQUIRE
or RELOCK to LOCKED; unlock declared takes LOCKED, RETURN or RELOCK, and the loss of the reference WAIT_REALIGN, to HOLDOVER
and freezes the loop, and every entry of a capture FIFO stamped from 32 ns before on carries CS; a returned reference's error
is stored, and within the return slew limit, or under the steer policy, leads to RELOCK, otherwise to WAIT_REALIGN with the
phase-jump event. Nothing but the timebase, the time quality and event sources changes, but for CS on what the tiles hold at an
unlock. REALIGN: in WAIT_REALIGN, at the first second boundary 1 ms or more after the phase-jump event, the timebase enters
RELOCK and an epoch opens in which device time has the realign's value: the old second, 0 ns and 0 fine where time transfer has
no estimate, otherwise the old scale's reading of the boundary less the estimate, in whole slots. -/
def Obligations.LockStates : Prop :=
  ((∀ s : State, s.up = true → s.tb.st = .acquire ∨ s.tb.st = .relock →
    Answers .lockComplete s (fun t => t.tb.st = .locked ∧ t.tb.heldErr = none ∧ t.evSet (chipSrc 1) = true ∧
      ({ s with tb := t.tb, tt := t.tt } : State).EventsApart t)) ∧
  (∀ s : State, s.up = true → s.tb.st = .locked ∨ s.tb.st = .ret ∨ s.tb.st = .relock →
    Answers .unlockDeclared s (fun t => t.tb.st = .holdover ∧ t.tb.loopFrozen = true ∧ t.tb.heldErr = none ∧
      t.evSet (chipSrc 0) = true ∧ t.sansEvents = ({ s with tb := t.tb, tt := t.tt } : State).sansEvents ∧
      ∀ u c, u < s.nTiles → ∀ h ∈ (t.chan u c).fifo, s.tb.age - 4 ≤ h.age → h.cs = true)) ∧
  (∀ s : State, s.up = true → s.tb.st = .waitRealign →
    Answers .unlockDeclared s (fun t => t.tb.st = .holdover ∧ t.tb.jumpAge = none ∧
      ({ s with tb := t.tb, tt := t.tt } : State).EventsApart t)) ∧
  (∀ (s : State) (e : Int), s.up = true → s.tb.st = .holdover → -4000 ≤ e → e ≤ 3999 →
    Answers (.referencePresent e) s (fun t => t.tb.phaseErr = e ∧
      t.tb.st = (if e.natAbs ≤ s.fld 0x100C 15 4 ∨ bit (s.rv 0x100C) 0 = true then .relock else .waitRealign) ∧
      (s.fld 0x100C 15 4 < e.natAbs → t.evSet (chipSrc 3) = true) ∧
      ({ s with tb := t.tb, tt := t.tt } : State).EventsApart t)) ∧
  (∀ (s : State) (e : Int), s.up = true → s.tb.st = .waitRealign → -4000 ≤ e → e ≤ 3999 →
    s.fld 0x1008 6 0 < (e - s.tb.phaseErr).natAbs →
    Answers (.referenceRemeasured e) s (fun t => t.tb.phaseErr = e ∧
      t.tb.st = (if e.natAbs ≤ s.fld 0x100C 15 4 ∨ bit (s.rv 0x100C) 0 = true then .relock else .waitRealign) ∧
      ({ s with tb := t.tb, tt := t.tt } : State).EventsApart t))) ∧
  (∀ (s : State) (a : Nat), s.up = true → s.tb.st = .waitRealign → s.tb.jumpAge = some a →
    s.tb.setVal = none → s.tb.epoch < 16 →
    Answers .realign s (fun t => t.tb.st = .relock ∧ t.tb.epoch = (if s.tb.epoch = 15 then 1 else s.tb.epoch + 1) ∧
      t.tb.jumpAge = none ∧ t.tb.prof = none ∧ t.tb.acc = 0 ∧ t.regs = s.regs ∧ t.msg = s.msg ∧
      ∃ n, t.tb.age = s.tb.age + n ∧ a + 125000 ≤ s.tb.age + n ∧ (s.advance n).now.ns < 8 ∧
        t.tb.time = (match s.tt.lastDone with
          | none => { s := (s.advance n).now.s, ns := 0, fine := 0 }
          | some _ => (s.advance n).now.addFine
              (roundDiv (s.tb.phaseErr * 1024 - s.tt.thetaBar * 1000) 8192000 * 8192))))

/-- LOSC_MISSING, LOSC_CLOCK_PRESENT, REPLICA_CHECK, REPLICA_RELOAD, REPLICA_PAIR_MISMATCH, RAMP_START, RAMP_ABORT, TB_LATCH
and TB_SET complete. The check at a 1.024 µs boundary marks a tile whose replica differs, from then on clock-suspect, and loads
both counters of one whose pair disagreed; the reload, one slot after the check, loads the counters, counts the mismatch, raises
replica-mismatch and leaves CS on every entry stamped from the check on; a pair that disagrees is suspect at once until its load,
by which its two counters differ. RAMP_START, RAMP_ABORT, TB_LATCH and TB_SET, each one write of its register by the host: START
stores LAST and the host profile waits with the segments as they stand, or is refused with ramp-refused where a profile runs or
a rate is above STEER_MAX; LATCH stores device time in the capture registers; SET records cause bit 4 with the value of TB_SET_S
and TB_SET_NS; each at the next slot boundary. -/
def Obligations.OscillatorReplicasAndWrites : Prop :=
  ((∀ s : State, s.up = true →
    Answers .loscMissing s (fun t => t.tb.loscOk = false ∧ (bit (s.rv 0x1000) 2 = true → t.evSet (chipSrc 2) = true) ∧
      ({ s with tb := { s.tb with loscOk := false } } : State).EventsApart t)) ∧
  (∀ s : State, s.up = true → exec .loscClockPresent s = .next { s with tb := { s.tb with loscOk := true } }) ∧
  (∀ (s : State) (u : Nat), s.up = true → u < s.nTiles → (s.tile u).powered = true →
    Answers .replicaCheck s (fun t =>
      t.tb.age = s.tb.age + (if s.now.engine % (128 * 8192) = 0 then 0 else s.toBoundary 128) ∧ t.tb.checkAge = t.tb.age ∧
      ((s.tile u).pairLoad = true → (t.tile u).rep = 0 ∧ (t.tile u).repB = 0 ∧ (t.tile u).repLoad = false) ∧
      ((s.tile u).pairLoad = false → (t.tile u).rep = (s.tile u).rep ∧
        (t.tile u).repLoad = (if (s.tile u).rep = 0 then (s.tile u).repLoad else true)) ∧
      (t.tile u).pairLoad = false ∧ { t with tiles := s.tiles, tb := s.tb } = s)) ∧
  (∀ (s : State) (u : Nat), s.up = true → u < s.nTiles → (s.tile u).powered = true →
    Answers (.replicaReload u) s (fun t => (t.tile u).rep = 0 ∧ (t.tile u).repB = 0 ∧ (t.tile u).repLoad = false ∧
      t.tb.age = max s.tb.age (s.tb.checkAge + 1) ∧ t.tb.replCnt = min 65535 (s.tb.replCnt + 1) ∧ t.tb.replTile = u ∧
      t.evSet (tileSrc u 3) = true ∧ (∀ c, ∀ h ∈ (t.chan u c).fifo, s.tb.checkAge ≤ h.age → h.cs = true) ∧
      (∀ v, v ≠ u → { t.tile v with te := 0 } = ({ s.tile v with te := 0 } : Tile)))) ∧
  (∀ (s : State) (u : Nat), s.up = true → u < s.nTiles → (s.tile u).powered = true → s.bracket = true →
    Answers (.replicaPairMismatch u) s (fun t => (t.tile u).repLoad = true ∧ (t.tile u).pairLoad = true ∧
      (t.tile u).rep ≠ (t.tile u).repB ∧ t.tb.replCnt = min 65535 (s.tb.replCnt + 1) ∧ t.tb.replTile = u ∧
      t.evSet (tileSrc u 3) = true ∧ (∀ c, t.chan u c = s.chan u c) ∧
      (∀ v, v ≠ u → { t.tile v with te := 0 } = ({ s.tile v with te := 0 } : Tile))))) ∧
  ((∀ s : State, s.up = true → s.tb.prof.isSome = true →
    Answers (.rampStart (BitVec.ofNat 4 (s.fld 0x1040 7 4))) s (fun t => t.evSet (chipSrc 4) = true ∧
      ((s.advance 1).setReg 0x1040 (BitVec.ofNat 32 (16 * s.fld 0x1040 7 4))).EventsApart t)) ∧
  (∀ (s x : State) (l : BitVec 4), s.up = true → s.tb.prof = none →
    x = (s.advance 1).setReg 0x1040 (BitVec.ofNat 32 (16 * l.toNat)) →
    (x.hostTooFast = false → exec (.rampStart l) s = .next { x with tb := { x.tb with hostReq := some x.hostSegs } }) ∧
    (x.hostTooFast = true → Answers (.rampStart l) s (fun t => t.evSet (chipSrc 4) = true ∧ x.EventsApart t))) ∧
  (∀ (s : State) (g : Seg) (gs : List Seg) (st : Nat), s.up = true → s.tb.prof = some ⟨false, g :: gs, st⟩ →
    Answers .rampAbort s (fun t =>
      t.tb.prof = some ⟨false, [{ g with dur := min g.dur ((s.tb.age + 1 - st) / 128 + 1) }], st⟩ ∧
      t.tb.time = (s.advance 1).tb.time ∧ t.tb.moved = (s.advance 1).tb.moved ∧ t.tiles = s.tiles ∧ t.lk = s.lk)) ∧
  (∀ s : State, s.up = true → s.fld 0x1000 1 0 ≠ 3 →
    Answers .tbLatch s (fun t => t.tb.capS = BitVec.ofNat 32 (s.advance 1).now.s ∧
      t.tb.capNs = BitVec.ofNat 32 (s.advance 1).now.ns ∧ t.tb.time = (s.advance 1).tb.time ∧ t.tb.epoch = s.tb.epoch ∧
      t.tiles = s.tiles ∧ t.lk = s.lk)) ∧
  (∀ s : State, s.up = true → s.fld 0x1000 1 0 ≠ 3 →
    Answers .tbSet s (fun t => t.tb.setVal = some { s := s.rv 0x1020, ns := s.fld 0x1024 29 0, fine := 0 } ∧
      t.tb.causes.getLsbD 4 = true ∧ t.tb.time = (s.advance 1).tb.time ∧ t.tiles = s.tiles ∧ t.lk = s.lk)))

/-- RAMP_PROFILE_START, RAMP_SEGMENT_END, RAMP_PHASE_STEP and RAMP_AUTO_REPLACE complete. A profile that waits starts on a
1.024 µs boundary, an automatic one in place of a host one, which is preempted; the end of a segment passes to the next one or ends the profile; up to a phase step the accumulator takes 8 times the rate in each slot,
and every whole fine unit of 976,562,500 that it passes moves the clock phase; an automatic profile replaces the running one.
-/
def Obligations.RampProfiles : Prop :=
  (∀ (s : State) (gs : List Seg), s.up = true → s.tb.prof = none → s.tb.autoReq = none → s.tb.hostReq = some gs → gs ≠ [] →
    Answers .rampProfileStart s (fun t => t.tb.prof = some ⟨false, gs, s.tb.age + s.toBoundary 128⟩ ∧
      t.tb.hostReq = none ∧ { t with tb := s.tb } = s)) ∧
  (∀ (s : State) (r : AutoReq), s.up = true → s.tb.prof = none → s.tb.autoReq = some r →
    Answers .rampProfileStart s (fun t => t.tb.autoReq = none ∧ t.tb.hostReq = none ∧
      (∀ p, t.tb.prof = some p → p.auto = true ∧ p.start = s.tb.age + s.toBoundary 128) ∧
      (s.tb.hostReq.isSome = true → t.evSet (chipSrc 5) = true) ∧ ({ s with tb := t.tb } : State).EventsApart t)) ∧
  (∀ (s : State) (a : Bool) (g : Seg) (st : Nat), s.up = true → s.tb.prof = some ⟨a, [g], st⟩ →
    s.tb.age ≤ st + g.dur * 128 →
    Answers .rampSegmentEnd s (fun t => t.tb.prof = none ∧ t.tb.age = st + g.dur * 128 ∧ { t with tb := s.tb } = s)) ∧
  (∀ (s : State) (a : Bool) (g h : Seg) (gs : List Seg) (st : Nat), s.up = true → s.tb.prof = some ⟨a, g :: h :: gs, st⟩ →
    s.tb.age = st + g.dur * 128 →
    Answers .rampSegmentEnd s (fun t => t.tb.prof = some ⟨a, h :: gs, st + g.dur * 128⟩ ∧ { t with tb := s.tb } = s)) ∧
  (∀ (s : State) (a : Bool) (g : Seg) (gs : List Seg) (st n : Nat), s.up = true → s.tb.prof = some ⟨a, g :: gs, st⟩ →
    s.tb.phaseStepIn = some n → st ≤ s.tb.age → s.tb.age + n ≤ st + g.dur * 128 →
    Answers .rampPhaseStep s (fun t => t.tb.age = s.tb.age + n ∧ t.tb.prof = s.tb.prof ∧
      t.tb.acc + (t.tb.moved - s.tb.moved) * 976562500 = s.tb.acc + 8 * g.rate * n ∧ { t with tb := s.tb } = s)) ∧
  (∀ (s : State) (r : AutoReq) (a : Bool) (gs : List Seg) (st : Nat), s.up = true → s.tb.autoReq = some r →
    s.tb.prof = some ⟨a, gs, st⟩ →
    Answers .rampAutoReplace s (fun t => t.tb.autoReq = none ∧ (∀ p, t.tb.prof = some p → p.auto = true) ∧
      (a = false → t.evSet (chipSrc 5) = true) ∧ ({ s with tb := t.tb } : State).EventsApart t))

/-! ### Time transfer -/

/-- TT_SYNC, FOLLOW_UP_S, FOLLOW_UP_NF, DELAY_RESP_S, DELAY_RESP_NF, TT_UNKNOWN_SLOT, TT_ASYM_WRITE and ACCEPT_SYM complete:
the slots of an exchange, while TT_CTRL.ENABLE is 1 and the receiver is in SLOT. A SYNC slot stamps t2 and opens an
exchange; the parts of t1 and t4 are stored in the open exchange; a slot of an unknown message type is counted and otherwise
ignored; a slot with a code violation is discarded and counted, and nothing else. TT_ASYM_WRITE and ACCEPT_SYM. A value of
TT_ASYM within 2^24 fine units is stored, any other is refused with reason 3; the write, and ACCEPT_SYM, end a path hold and
start a block whose mean round trip becomes the reference. -/
def Obligations.TransferSlots : Prop :=
  ((∀ (s : State) (b : BitVec 52) (sub : BitVec 13), s.up = true → s.lk.dn = .slot → bit (s.rv 0x2000) 0 = true →
    s.exch (BitVec.ofNat 8 (bits b.toNat 51 44)) = none → s.tt.opened.length < 4 →
    exec (.ttSync b sub false) s = .next { s with tt := { s.tt with opened := s.tt.opened ++
      [{ id := BitVec.ofNat 8 (bits b.toNat 51 44), t2 := s.now.addFine sub.toNat, t2Age := s.tb.age, t2Epoch := s.tb.epoch,
         t2Opens := s.tb.opens, t2Moved := s.tb.moved, quality := s.qualityCode }] } }) ∧
  (∀ (s : State) (b : BitVec 52) (sub : BitVec 13), s.up = true → s.lk.dn = .slot →
    exec (.ttSync b sub true) s = .next { s with lk := { s.lk with dnDisc := min 65535 (s.lk.dnDisc + 1) } }) ∧
  (∀ (s : State) (b : BitVec 52) (x : Exch), s.up = true → s.lk.dn = .slot → bit (s.rv 0x2000) 0 = true →
    s.exch (BitVec.ofNat 8 (bits b.toNat 51 44)) = some x → x.t3 = none →
    exec (.followUpS b false) s = .next (s.modExch (BitVec.ofNat 8 (bits b.toNat 51 44))
      (fun y => { y with t1s := some (bits b.toNat 31 0) })) ∧
    exec (.delayRespS b false) s = .next (s.modExch (BitVec.ofNat 8 (bits b.toNat 51 44))
      (fun y => { y with t4s := some (bits b.toNat 31 0) })) ∧
    (bits b.toNat 39 10 < 1000000000 →
      exec (.followUpNf b false) s = .next (s.modExch (BitVec.ofNat 8 (bits b.toNat 51 44))
        (fun y => { y with t1nf := some (bits b.toNat 39 10, bits b.toNat 9 0) }))) ∧
    (bits b.toNat 39 10 < 1000000000 → b.getLsbD 40 = false →
      exec (.delayRespNf b false) s = .next (s.modExch (BitVec.ofNat 8 (bits b.toNat 51 44))
        (fun y => { y with t4nf := some (bits b.toNat 39 10, bits b.toNat 9 0) })))) ∧
  (∀ (s : State) (m : BitVec 4) (b : BitVec 52), s.up = true → s.lk.dn = .slot → bit (s.rv 0x2000) 0 = true →
    m = 0 ∨ 6 ≤ m.toNat →
    exec (.ttUnknownSlot m b false) s = .next { s with tt := { s.tt with unknown := min 255 (s.tt.unknown + 1) } })) ∧
  ((∀ (s : State) (w : BitVec 32), s.up = true → (signed 32 w.toNat).natAbs ≤ 2 ^ 24 →
    Answers (.ttAsymWrite w) s (fun t => t.rv 0x2014 = w.toNat ∧ t.tt.hold = false ∧
      (s.tt.hold = true → t.tt.block = [] ∧ t.tt.newRef = true) ∧
      ({ s with tb := t.tb, tt := t.tt, regs := t.regs } : State).EventsApart t)) ∧
  (∀ (s : State) (w : BitVec 32), s.up = true → 2 ^ 24 < (signed 32 w.toNat).natAbs →
    exec (.ttAsymWrite w) s = .next { s.advance 1 with
      refAddr := 0x2014, refReason := 3, refSrc := 0, refCnt := min 65535 (s.refCnt + 1) }) ∧
  (∀ s : State, s.up = true →
    Answers .acceptSym s (fun t => t.tt.hold = false ∧ (s.tt.hold = true → t.tt.block = [] ∧ t.tt.newRef = true) ∧
      t.fld 0x2000 1 0 = s.fld 0x2000 1 0 ∧ ({ s with tb := t.tb, tt := t.tt, regs := t.regs } : State).EventsApart t)))

/-- The last stamp of an exchange, in DELAY_RESP_NF, completes it where no epoch opened since its t2: with θ = ((t2 - t1) - (t4 - t3) - asymmetry) / 2 and the round trip (t2 - t1)
+ (t4 - t3), the exchange closes, the done count rises by one and the last exchange is this one. -/
def Obligations.ExchangeCompletes : Prop :=
  ∀ (s : State) (b : BitVec 52) (x : Exch) (t3 : Time) (s1 n1 f1 s4 : Nat), s.up = true → s.lk.dn = .slot →
    bit (s.rv 0x2000) 0 = true → s.exch (BitVec.ofNat 8 (bits b.toNat 51 44)) = some x → x.t2Opens = s.tb.opens →
    x.t3 = some t3 → x.t1s = some s1 → x.t1nf = some (n1, f1) → x.t4s = some s4 → b.getLsbD 40 = false →
    bits b.toNat 39 10 < 1000000000 →
    Answers (.delayRespNf b false) s (fun t =>
      t.exch (BitVec.ofNat 8 (bits b.toNat 51 44)) = none ∧ t.tt.done = (s.tt.done + 1) % 2 ^ 32 ∧
      t.tt.lastId = x.id ∧ t.tb.time = s.tb.time ∧ t.regs = s.regs ∧
      ∃ y, t.tt.last = some y ∧ y.id = x.id ∧
        y.theta = ((x.t2.diff { s := s1, ns := n1, fine := f1 } -
          Time.diff { s := s4, ns := bits b.toNat 39 10, fine := bits b.toNat 9 0 } t3 - signed 32 (s.rv 0x2014)).tdiv 2) ∧
        y.rtt = x.t2.diff { s := s1, ns := n1, fine := f1 } +
          Time.diff { s := s4, ns := bits b.toNat 39 10, fine := bits b.toNat 9 0 } t3)

/-- TT_REPLY_SEND, EXCHANGE_TIMEOUT, TIME_STEP and QUALITY_STALE complete. The oldest exchange without a reply is answered once lane 0 is UP with room in the replay
memory, with t3 stored in it; an exchange two periods old is discarded with reason 1; a confirmed step opens an epoch whose
device time is moved by the step, rounded to a slot, with the residual requested as an automatic profile, and raises the
time-step event; 16 periods without a complete exchange
make the quality stale. -/
def Obligations.TransferProgress : Prop :=
  (∀ (s : State) (sub : BitVec 13) (x : Exch), s.up = true → s.tt.opened.find? (fun y => y.t3.isNone) = some x →
    s.exch x.id = some x → x.t1s = none → s.leadUp 0 = true → s.usedLane 0 = true → s.replayUsed + 8 ≤ 131072 → (s.stream 5 0).wait = [] →
    Answers (.ttReplySend sub) s (fun t => (∃ y t3, t.exch x.id = some y ∧ y.t3 = some t3) ∧
      (t.stream 5 0).seq = ((s.stream 5 0).seq + 1) % 2 ^ 32 ∧ t.regs = s.regs ∧ t.tiles = s.tiles)) ∧
  (∀ (s : State) (id : BitVec 8) (x : Exch), s.up = true → s.exch id = some x →
    Answers (.exchangeTimeout id) s (fun t => t.exch id = none ∧ t.tt.disc = min 65535 (s.tt.disc + 1) ∧ t.tt.lastReason = 1 ∧
      t.tb.age = max s.tb.age (x.t2Age + 2 * (s.fld 0x2010 15 0 * 128)) ∧ { t with tb := s.tb, tt := s.tt } = s)) ∧
  (∀ (s : State) (th : Int), s.up = true → s.tt.stepAsk = some th → s.ttServo = true → s.tt.hold = false →
    s.tb.setVal = none → s.tb.realignVal = none → s.tb.causes = 0 → s.tb.epoch < 16 →
    Answers .timeStep s (fun t => t.tb.epoch = (if s.tb.epoch = 15 then 1 else s.tb.epoch + 1) ∧
      t.tb.time = (s.advance 1).now.addFine (-slotRound th) ∧
      t.tb.autoReq = some ⟨(th - slotRound th) * 976562500, s.steerMax, 0⟩ ∧ t.tt.stepAsk = none ∧ t.evSet (chipSrc 7) = true ∧
      t.regs = s.regs ∧ t.msg = s.msg)) ∧
  (∀ (s : State) (a : Nat), s.up = true → s.tt.lastDone = some a →
    Answers .qualityStale s (fun t => t.tt.stale = true ∧ t.tb.age = max s.tb.age (a + 16 * (s.fld 0x2010 15 0 * 128)) ∧
      t.tt.opened = s.tt.opened ∧ t.regs = s.regs ∧ t.msg = s.msg))

/-! ### Capture, channels, level monitors -/

/-- EDGE. A change of the signal or the threshold of a channel is a crossing where the comparator output changes, and nothing
otherwise. A crossing that an enabled channel captures takes an entry at the end of the capture FIFO, stamped at its instant by
the tile's replica, with the polarity after the INV setting and the present epoch, and is counted in CH_EDGES; with 16 entries
held it is refused whole, counted in CH_REFUSE.FULL, and sets the channel's overrun bit. One that ends a level shorter than 120 ps
yields no record, and the entry and the count of the crossing that began the level are taken back. No other channel, no other
tile and nothing outside the tiles changes. -/
def Obligations.EdgeIsCapturedOrRefused : Prop :=
  ∀ (s : State) (u c : Nat) (v : Swing) (sub : BitVec 13), s.up = true → u < s.nTiles → c < 16 → s.captureRuns u = true →
    s.captures u c = true → (s.tile u).ho.takesEdge c s.tb.age sub.toNat = false → (s.tile u).ho.incoming c = false →
    (v.was = s.comparator u c v → exec (.edge u c v sub false) s = .next s) ∧
    (v.was ≠ s.comparator u c v →
      (∀ x, (s.chan u c).cross = some x → 250 * 1024 ≤ (s.tb.age * 8192 + sub.toNat - x.key) * 1000) →
      Answers (.edge u c v sub false) s (fun t =>
        ((s.chan u c).level s.tb.age < 16 → ∃ h : Hit, (t.chan u c).fifo = ((s.chan u c).pruned s.tb.age).fifo ++ [h] ∧
          h.age * 8192 + h.sub = ((s.tb.age * 8192 + sub.toNat : Nat) + (s.tile u).rep * 1024).toNat ∧ h.sub < 8192 ∧
          h.rise = (s.comparator u c v != s.chInv u c) ∧ h.epoch = s.tb.epoch ∧ h.input = c ∧
          h.stamp = s.now.addFine (sub.toNat + (s.tile u).rep * 1024) ∧
          (t.chan u c).edges = ((s.chan u c).edges + 1) % 2 ^ 32) ∧
        (16 ≤ (s.chan u c).level s.tb.age → (t.chan u c).fifo = ((s.chan u c).pruned s.tb.age).fifo ∧
          (t.chan u c).full = min 65535 ((s.chan u c).full + 1) ∧ (t.chan u c).ovr = true ∧
          (t.chan u c).edges = (s.chan u c).edges) ∧
        (∀ d, d ≠ c → t.chan u d = s.chan u d) ∧ (∀ w, w ≠ u → t.tile w = s.tile w) ∧ { t with tiles := s.tiles } = s)) ∧
    (v.was ≠ s.comparator u c v →
      ∀ x, (s.chan u c).cross = some x → (s.tb.age * 8192 + sub.toNat - x.key) * 1000 < 120 * 1024 →
      Answers (.edge u c v sub false) s (fun t =>
        (t.chan u c).fifo = (if x.took = true then (s.chan u c).fifo.dropLast else (s.chan u c).fifo) ∧
        (t.chan u c).edges = x.edges ∧ (t.chan u c).full = x.full ∧ (t.chan u c).cross = none ∧
        (∀ d, d ≠ c → t.chan u d = s.chan u d) ∧ (∀ w, w ≠ u → t.tile w = s.tile w) ∧ { t with tiles := s.tiles } = s))

/-- HIT_COMMIT and COMMIT_LATE_REFUSE. The oldest entry of the channel that waits at a destination with room, no held marker
and room in the tile's commit buffer is committed no earlier than 32 ns after its stamp: its record, with the LG and IU flags
owed there, stands at the queue's WP, WP and RMARK move on by one word, and the commit buffer holds one record more. At a full,
disabled or pinned queue it is refused: the next record there owes LG and IU and the overrun bit sets. While another channel of
the tile has an entry for the same queue with an earlier stamp, it is not committed (while a full commit buffer holds entries
back that is the model's reading, log entry 131). An entry that still waits at its stamp plus 112 ns, the commit buffer being full, is refused: it
is counted in CH_REFUSE.LATE, the overrun bit sets, and the next record there owes LG and IU. -/
def Obligations.HitsCommitOrAreRefused : Prop :=
  (∀ (s : State) (u c : Nat) (d : Dest) (h : Hit), s.up = true → u < s.nTiles → c < 17 → s.captureRuns u = true →
    (s.chan u c).oldest d = some h → s.commitsFirst u c d h = true → s.tb.age < h.due 14 → s.heldAt u (s.hitQ u h d) = [] →
    (s.qCap u (s.hitQ u h d) ≠ 0 → 0 < s.qFree u (s.hitQ u h d) → (s.advanceTo (h.due 4)).commitRoom u d = true →
      Answers (.hitCommit u c d) s (fun t =>
        t.tb.age = max s.tb.age (h.due 4) ∧ h.age * 8192 + h.sub + 4 * 8192 ≤ h.due 4 * 8192 ∧
        t.qWord u (s.hitQ u h d) (s.queue u (s.hitQ u h d)).wp =
          storedWord (h.record (((s.chan u c).owed d).join (h.flags d))) true h.age none ∧
        (t.queue u (s.hitQ u h d)).wp = ringAdd (s.qCap u (s.hitQ u h d)) (s.queue u (s.hitQ u h d)).wp 1 ∧
        (t.queue u (s.hitQ u h d)).rmark = (t.queue u (s.hitQ u h d)).wp ∧
        ((t.tile u).commitBuf d).level = ((s.tile u).commitBuf d).levelAt (max s.tb.age (h.due 4)) + 1 ∧
        (t.chan u c).owed d = {} ∧ t.regs = s.regs ∧ t.msg = s.msg)) ∧
    (s.capFits u (s.hitQ u h d) = false →
      Answers (.hitCommit u c d) s (fun t =>
        t.tb.age = max s.tb.age (h.due 4) ∧ (t.queue u (s.hitQ u h d)).wp = (s.queue u (s.hitQ u h d)).wp ∧
        (t.chan u c).owed d = { lg := true, iu := true } ∧ (t.chan u c).ovr = true ∧ (t.chan u c).late = (s.chan u c).late ∧
        t.regs = s.regs ∧ t.msg = s.msg))) ∧
  (∀ (s : State) (u c k : Nat) (d : Dest) (h g : Hit), s.up = true → u < s.nTiles → c < 17 → k < 17 → k ≠ c →
    (s.chan u c).oldest d = some h → (s.chan u k).oldest d = some g → s.hitQ u g d = s.hitQ u h d →
    g.age * 8192 + g.sub < h.age * 8192 + h.sub → exec (.hitCommit u c d) s = .next s) ∧
  (∀ (s : State) (u c : Nat) (d : Dest) (h : Hit), s.up = true → u < s.nTiles → c < 17 → s.captureRuns u = true →
    (s.chan u c).oldest d = some h → h.due 14 ≤ s.tb.age ∨ (s.advanceTo (h.due 14)).commitRoom u d = false →
    Answers (.commitLateRefuse u c d) s (fun t => t.tb.age = max s.tb.age (h.due 14) ∧
      (t.chan u c).late = min 65535 ((s.chan u c).late + 1) ∧ (t.chan u c).ovr = true ∧
      (t.chan u c).owed d = { lg := true, iu := true } ∧ t.regs = s.regs ∧ t.msg = s.msg))

/-- The host's writes to a channel: CH_CFG and CH_THR take their RW fields, CH_THR at once where no check runs and at its end
otherwise; TC_XBAR.SEL moves the spare's tap where it may move, and is refused with reason 4 while the spare serves, hands over or is
checked; CH_CAPSTAT.CLR zeroes CH_REFUSE. Each takes effect at the
next slot boundary, and no other register changes. A write of CH_CFG with EN 1 and a tie other than 0b00 is refused with
reason 3, one while a check runs with reason 4, one to a gated tile with reason 5: the refusal is recorded and nothing but
time has passed. -/
def Obligations.ChannelWrites : Prop :=
  ((∀ (s : State) (u c : Nat) (w : BitVec 32), s.up = true → u < s.nTiles → c < 17 → (s.tile u).powered = true →
    (s.chan u c).check.busy = false → s.offLine u c = false → (bit w.toNat 0 = true → bits w.toNat 3 2 = 0) →
    Answers (.chCfgWrite u c w) s (fun t => t.rv (tileBase u + 0x400 + 64 * c) = w.toNat % 16 ∧
      (∀ a, a ≠ tileBase u + 0x400 + 64 * c → t.rv a = s.rv a) ∧ t.tb.age = s.tb.age + 1 ∧
      (∀ v, v ≠ u → t.tile v = s.tile v) ∧ { t with tb := s.tb, regs := s.regs, tiles := s.tiles } = s)) ∧
  (∀ (s : State) (u c : Nat) (w : BitVec 32), s.up = true → u < s.nTiles → c < 17 → (s.tile u).powered = true →
    Answers (.chThrWrite u c w) s (fun t => t.tb.age = s.tb.age + 1 ∧
      ((s.chan u c).check.busy = false → t.rv (tileBase u + 0x404 + 64 * c) = w.toNat % 1024 ∧ t.tiles = s.tiles) ∧
      ((s.chan u c).check.busy = true → (t.chan u c).check.thr = some (BitVec.ofNat 32 (w.toNat % 1024)) ∧ t.regs = s.regs) ∧
      (∀ v, v ≠ u → t.tile v = s.tile v) ∧ { t with tb := s.tb, regs := s.regs, tiles := s.tiles } = s)) ∧
  (∀ (s : State) (u : Nat) (w : BitVec 32), s.up = true → u < s.nTiles → (s.tile u).powered = true →
    bits w.toNat 4 0 < 16 ∨ bits w.toNat 4 0 = 31 → bits w.toNat 4 0 ≠ s.tapSel u → s.tapBusy u = false →
    Answers (.tcXbarWrite u w) s (fun t => t.tapSel u = bits w.toNat 4 0 ∧
      (t.tile u).ho.tapped = decide (bits w.toNat 4 0 ≠ 31) ∧ (∀ a, a ≠ tileBase u + 0x40 → t.rv a = s.rv a) ∧
      (∀ v, v ≠ u → t.tile v = s.tile v) ∧ { t with tb := s.tb, regs := s.regs, tiles := s.tiles } = s)) ∧
  (∀ (s : State) (u : Nat) (w : BitVec 32), s.up = true → u < s.nTiles → (s.tile u).powered = true →
    bits w.toNat 4 0 < 16 ∨ bits w.toNat 4 0 = 31 → s.tapBusy u = true →
    exec (.tcXbarWrite u w) s = .next ((s.advance 1).refuse .host (tileBase u + 0x40) 4)) ∧
  (∀ (s : State) (u c : Nat), s.up = true → u < s.nTiles → c < 17 → (s.tile u).powered = true →
    Answers (.captureClr u c) s (fun t => (t.chan u c).full = 0 ∧ (t.chan u c).late = 0 ∧
      (t.chan u c).fifo = (s.chan u c).fifo ∧ (t.chan u c).edges = (s.chan u c).edges ∧ t.regs = s.regs ∧
      (∀ v, v ≠ u → t.tile v = s.tile v) ∧ { t with tb := s.tb, tiles := s.tiles } = s))) ∧
  ((∀ (s : State) (u c : Nat) (w : BitVec 32), s.up = true → u < s.nTiles → c < 17 → (s.tile u).powered = true →
    bit w.toNat 0 = true → bits w.toNat 3 2 ≠ 0 →
    exec (.chCfgWrite u c w) s = .next ((s.advance 1).refuse .host (tileBase u + 0x400 + 64 * c) 3)) ∧
  (∀ (s : State) (u c : Nat) (w : BitVec 32), s.up = true → u < s.nTiles → c < 17 → (s.tile u).powered = true →
    bit w.toNat 0 = false → (s.chan u c).check.busy = true →
    exec (.chCfgWrite u c w) s = .next ((s.advance 1).refuse .host (tileBase u + 0x400 + 64 * c) 4)) ∧
  (∀ (s : State) (u c : Nat) (w : BitVec 32), s.up = true → u < 64 → c < 17 → (s.tile u).powered = false →
    exec (.chCfgWrite u c w) s = .next ((s.advance 1).refuse .host (tileBase u + 0x400 + 64 * c) 5)))

/-- CHECK_START and CHECK_COMPLETE. A check that may run sets BUSY; one that may not leaves result 3 with its reason; the end
of the running check clears BUSY with result 1, or with result 2, the reason of the first failed test and the check-failed
event. The tests of a check: a tie check looks at 256 decisions at codes 512 + M and 512 - M, normal and then swapped, and
passes with 0, 256, 256 and 0 ones in its four steps; a swap check searches the transition of the normal and of the swapped
configuration between codes 0 and 1023, and passes where both are found no more than 640 sixteenths of a code apart. -/
def Obligations.TieAndSwapChecks : Prop :=
  ((∀ (s : State) (u c : Nat) (k : Bool) (m : BitVec 8), s.up = true → u < s.nTiles → c < 17 → (s.tile u).powered = true → m ≠ 0 →
    Answers (.checkStart u c k m) s (fun t =>
      (s.checkRefusal u c = none → (t.chan u c).check.busy = true ∧ (t.chan u c).check.swap = k ∧
        (t.chan u c).check.margin = m.toNat) ∧
      (∀ r, s.checkRefusal u c = some r → (t.chan u c).check = { (s.chan u c).check with result := 3, reason := r }) ∧
      (∀ d, d ≠ c → t.chan u d = s.chan u d) ∧ (∀ v, v ≠ u → t.tile v = s.tile v) ∧
      { t with tb := s.tb, regs := s.regs, tiles := s.tiles } = s)) ∧
  (∀ (s : State) (u c : Nat) (o : CheckOutcome), s.up = true → u < s.nTiles → c < 17 → (s.chan u c).check.takes o = true →
    Answers (.checkComplete u c o) s (fun t => (t.chan u c).check.busy = false ∧
      (checkReason o = none → (t.chan u c).check.result = 1) ∧
      (∀ r, checkReason o = some r → (t.chan u c).check.result = 2 ∧ (t.chan u c).check.reason = r ∧
        t.evSet (tileSrc u 1) = true) ∧
      (∀ n w cn cs, o = .swap n w → transition false n = some (some cn) → transition true w = some (some cs) →
        (t.chan u c).check.cn = cn ∧ (t.chan u c).check.cs = cs) ∧ t.msg = s.msg ∧ t.tb = s.tb)) ∧
  (∀ (k : Check) (a b c d : Nat), k.busy = true → k.swap = false → a ≤ 256 → b ≤ 256 → c ≤ 256 → d ≤ 256 →
    k.takes (.tie [(false, 512 + k.margin, a), (false, 512 - k.margin, b), (true, 512 + k.margin, c), (true, 512 - k.margin, d)]) =
      true ∧
    (checkReason (.tie [(false, 512 + k.margin, a), (false, 512 - k.margin, b), (true, 512 + k.margin, c),
      (true, 512 - k.margin, d)]) = none ↔ a = 0 ∧ b = 256 ∧ c = 256 ∧ d = 0) ∧
    (a = 0 → b ≠ 256 → checkReason (.tie [(false, 512 + k.margin, a), (false, 512 - k.margin, b), (true, 512 + k.margin, c),
      (true, 512 - k.margin, d)]) = some (if b = 0 then 1 else 3)) ∧
    (a ≠ 0 → checkReason (.tie [(false, 512 + k.margin, a), (false, 512 - k.margin, b), (true, 512 + k.margin, c),
      (true, 512 - k.margin, d)]) = some (if a = 256 then 2 else 3)))) ∧
  (∀ (n w : List (Nat × Nat)) (cn cs : Option (BitVec 14)), transition false n = some cn → transition true w = some cs →
    checkReason (.swap n w) = (match cn, cs with
      | some a, some b => if ((a.toNat : Int) - b.toNat).natAbs ≤ 640 then none else some 5
      | _, _ => some 4)) ∧
  (∀ (sw : Bool) (cs : List (Nat × Nat)) (x : BitVec 14), transition sw cs = some (some x) →
    ∃ lo p q, decisions sw cs lo = some p ∧ decisions sw cs (lo + 1) = some q ∧ q < 128 ∧ 128 ≤ p ∧ lo < 1023 ∧
      16 * lo * (p - q) + 16 * (p - 128) < (x.toNat + 1) * (p - q) ∧
      x.toNat * (p - q) < 16 * lo * (p - q) + 16 * (p - 128) + (p - q))

/-- LM_SAMPLE: with the monitor enabled and a source in the mask, the visit ends DWELL slots after its beginning, the sample
is what the window comparator reports of the source's voltage, and the reported state takes it once it has stood for CONFIRM samples. -/
def Obligations.LevelSamples : Prop :=
  ∀ (s : State) (u : Nat) (nv e0 e1 : Int), s.up = true → u < s.nTiles → bit (s.rv (tileBase u + 0x840)) 0 = true →
    (s.tile u).lm.mask ≠ 0 →
    Answers (.lmSample u nv e0 e1) s (fun t =>
      let m := (s.tile u).lm
      let w := (mapGet (fun _ => (0x4FFC00 : Reg32)) m.wins m.pos).toNat
      let x := windowState w (s.sourceNv u m.pos nv) e0 e1
      let n := if mapGet (fun _ => 3) m.runSt m.pos = x then min 15 (mapGet (fun _ => 0) m.runN m.pos + 1) else 1
      t.tb.age = max s.tb.age (m.since + s.tfld u 0x840 23 16) ∧ mapGet (fun _ => 3) (t.tile u).lm.runSt m.pos = x ∧
      (t.tile u).lm.state m.pos = (if x ≠ m.state m.pos ∧ bits w 25 22 ≤ n then x else m.state m.pos) ∧
      t.regs = s.regs ∧ t.msg = s.msg)

/-! ### Queues -/

/-- FLUSH and QUEUE_CLR, each one write of TQ_STAT by the host. A flush that is not refused empties the queue of its
committed words and counts them in TQ_CNT_FLUSH; a refused one sets FLREF and takes no word; CLR zeroes the queue's counters
and takes no word. LB_EXPIRY, STREAM_READ_PACKET and FCO_DEASSERT. The record at RP of a latency buffer expires when its slot
age exceeds 8,192 slots and no read mark stands there: RP moves on by one word and TQ_CNT_EXP counts it. The stream reader
takes the whole packet at RP of a DRAIN queue. A flow-control output falls once no queue drives it, no earlier than 64 ns
after its rise and than the return reaches it. -/
def Obligations.QueueCommands : Prop :=
  ((∀ (s : State) (u q : Nat), s.up = true → u < s.nTiles → q < 256 → (s.tile u).powered = true → s.flushRefused u q = false →
    Answers (.flush u q) s (fun t => t.qCommitted u q = 0 ∧ (t.queue u q).rp = (s.queue u q).rmark ∧
      (t.queue u q).cFlush = min (2 ^ 32 - 1) ((s.queue u q).cFlush + s.qCommitted u q) ∧ (t.queue u q).flref = false ∧
      (∀ p, p ≠ q → t.queue u p = s.queue u p) ∧ t.regs = s.regs ∧ t.msg = s.msg)) ∧
  (∀ (s : State) (u q : Nat), s.up = true → u < s.nTiles → q < 256 → (s.tile u).powered = true → s.flushRefused u q = true →
    Answers (.flush u q) s (fun t => (t.queue u q).flref = true ∧ (t.queue u q).rp = (s.queue u q).rp ∧
      (t.queue u q).wp = (s.queue u q).wp ∧ (t.queue u q).cFlush = (s.queue u q).cFlush ∧ t.regs = s.regs)) ∧
  (∀ (s : State) (u q : Nat), s.up = true → u < s.nTiles → q < 256 → (s.tile u).powered = true →
    Answers (.queueClr u q) s (fun t => t.queue u q = { s.queue u q with
        cOvr := 0, cDrop := 0, cFlush := 0, cPoison := 0, cMfix := 0, cExp := 0, cCommit := 0 } ∧
      (∀ p, p ≠ q → t.queue u p = s.queue u p) ∧ (∀ v, v ≠ u → t.tile v = s.tile v) ∧
      { t with tb := s.tb, tiles := s.tiles } = s))) ∧
  ((∀ (s : State) (u : Nat), s.up = true → u < s.nTiles → s.lbOld u = true → s.pinned u = false →
    Answers (.lbExpiry u) s (fun t => (t.queue u (s.lbq u)).rp = ringAdd (s.qCap u (s.lbq u)) (s.queue u (s.lbq u)).rp 1 ∧
      (t.queue u (s.lbq u)).cExp = ((s.queue u (s.lbq u)).cExp + 1) % 2 ^ 32 ∧
      (t.queue u (s.lbq u)).wp = (s.queue u (s.lbq u)).wp ∧ t.tb = s.tb ∧ t.regs = s.regs ∧ t.msg = s.msg)) ∧
  (∀ (s : State) (u q : Nat), s.up = true → u < s.nTiles → (s.tile u).powered = true → s.nextDrain u = some q →
    s.takesResults u = true →
    Answers (.streamReadPacket u false) s (fun t =>
      (t.queue u q).rp = ringAdd (s.qCap u q) (s.queue u q).rp (s.packetLen u q) ∧ (t.queue u q).wp = (s.queue u q).wp ∧
      (t.stream 2 u).round = (q + 1) % 256 ∧ t.tb = s.tb ∧ t.regs = s.regs ∧ t.msg = s.msg)) ∧
  (∀ (s : State) (u : Nat), s.up = true → u < s.nTiles → (s.tile u).powered = true → s.packOn u = true →
    s.takesResults (64 + u) = true → s.qCommitted u (s.tfld u 0x80 7 0) ≠ 0 →
    Answers (.streamReadPacket u true) s (fun t =>
      (t.queue u (s.tfld u 0x80 7 0)).rp = ringAdd (s.qCap u (s.tfld u 0x80 7 0)) (s.queue u (s.tfld u 0x80 7 0)).rp
        (s.packetLen u (s.tfld u 0x80 7 0)) ∧ t.tb = s.tb ∧ t.regs = s.regs ∧ t.msg = s.msg)) ∧
  (∀ (s : State) (k : Nat), s.up = true → k < 8 → (s.pinFco k).level = true → s.fcoWanted k = false →
    Answers (.fcoDeassert k) s (fun t => (t.pinFco k).level = false ∧
      t.tb.age = max s.tb.age (max ((s.pinFco k).since + 8) (s.pinFco k).back) ∧
      (∀ j, j ≠ k → t.pinFco j = s.pinFco j) ∧ { t with tb := s.tb, fco := s.fco } = s)))

/-! ### Engine instructions -/

/-- What the operations compute, over numbers: wrapping sums and products, shifts by the count modulo 64 or 128, division
with its corners, comparisons, the field instructions, floor square root. A division by zero is no fault: the engine writes the result and
moves on, and nothing else changes. -/
def Obligations.EngineArithmetic : Prop :=
  (∀ a b : W64, (AluOp.eval .add a b).toNat = (a.toNat + b.toNat) % 2 ^ 64 ∧
    (AluOp.eval .sub a b).toInt = (a.toInt - b.toInt).bmod (2 ^ 64) ∧
    (AluOp.eval .mul a b).toNat = a.toNat * b.toNat % 2 ^ 64 ∧
    (AluOp.eval .shl a b).toNat = a.toNat * 2 ^ (b.toNat % 64) % 2 ^ 64 ∧
    (AluOp.eval .shr a b).toNat = a.toNat / 2 ^ (b.toNat % 64) ∧
    (AluOp.eval .sar a b).toInt = a.toInt / 2 ^ (b.toNat % 64) ∧
    (AluOp.eval .min a b).toInt = min a.toInt b.toInt ∧ (AluOp.eval .max a b).toInt = max a.toInt b.toInt) ∧
  (∀ a b : W64, (AluOp.eval .divu a b).toNat = (if b = 0 then 2 ^ 64 - 1 else a.toNat / b.toNat) ∧
    (AluOp.eval .divs a b).toInt = (if b = 0 then 0 else (a.toInt.tdiv b.toInt).bmod (2 ^ 64)) ∧
    (AluOp.eval .remu a b).toNat = (if b = 0 then a.toNat else a.toNat % b.toNat)) ∧
  (∀ a b : W64, AluOp.eval .seq a b = (if a = b then 1 else 0) ∧
    AluOp.eval .slt a b = (if a.toInt < b.toInt then 1 else 0) ∧ AluOp.eval .sltu a b = (if a.toNat < b.toNat then 1 else 0)) ∧
  (∀ (a b : W64) (j : Nat), (AluOp.eval .and a b).getLsbD j = (a.getLsbD j && b.getLsbD j) ∧
    (AluOp.eval .or a b).getLsbD j = (a.getLsbD j || b.getLsbD j) ∧
    (AluOp.eval .xor a b).getLsbD j = (a.getLsbD j != b.getLsbD j)) ∧
  (∀ (a : W64) (imm : BitVec 24), (extField a imm).toNat =
    a.toNat / 2 ^ (imm.toNat % 64) % 2 ^ (if imm.toNat / 64 % 64 = 0 then 64 else imm.toNat / 64 % 64)) ∧
  (∀ (a : W64) (k : BitVec 5) (imm : BitVec 24) (j : Nat), k.toNat < 3 → j < 64 → (insField a k imm).getLsbD j =
    if 24 * k.toNat ≤ j ∧ j < 24 * k.toNat + 24 then imm.getLsbD (j - 24 * k.toNat) else a.getLsbD j) ∧
  (∀ (a : Acc) (b : W64), (accDiv false a b).toNat = (if b = 0 then 2 ^ 64 - 1 else min (2 ^ 64 - 1) (a.toNat / b.toNat)) ∧
    (accDiv true a b).toNat =
      (if b = 0 then 2 ^ 64 - 1 else min (2 ^ 64 - 1) ((2 * a.toNat + b.toNat) / (2 * b.toNat)))) ∧
  (∀ a : Acc, isqrt a.toNat * isqrt a.toNat ≤ a.toNat ∧ a.toNat < (isqrt a.toNat + 1) * (isqrt a.toNat + 1)) ∧
  (∀ (sg : Bool) (a b : W64), macProduct sg a b =
    if sg then BitVec.ofInt 128 (a.toInt * b.toInt) else BitVec.ofNat 128 (a.toNat * b.toNat)) ∧
  (∀ (s : State) (u e : Nat) (rd ra : BitVec 5) (aa : BitVec 2) (b : OpB), s.getB u e b = 0 →
    (s.Ready u e (.alu .divu rd ra b) → Answers (.divu u e rd ra b) s
      (s.WroteG u e 66 ((s.eng u e).pc + 1) rd (BitVec.allOnes 64))) ∧
    (s.Ready u e (.alu .divs rd ra b) → Answers (.divs u e rd ra b) s (s.WroteG u e 66 ((s.eng u e).pc + 1) rd 0)) ∧
    (s.Ready u e (.alu .remu rd ra b) → Answers (.remu u e rd ra b) s
      (s.WroteG u e 66 ((s.eng u e).pc + 1) rd (s.getG u e ra))) ∧
    (s.Ready u e (.adiv rd aa b) → Answers (.adiv u e rd aa b) s
      (s.WroteG u e 130 ((s.eng u e).pc + 1) rd (BitVec.allOnes 64))) ∧
    (s.Ready u e (.adivr rd aa b) → Answers (.adivr u e rd aa b) s
      (s.WroteG u e 130 ((s.eng u e).pc + 1) rd (BitVec.allOnes 64))))

/-- The instructions rd := ra op B, EXT and INS: an engine that stands at one writes the result to rd, of which only G0 to
G27 take it, and moves on by one; MUL takes 3 cycles, DIVU, DIVS and REMU 66, the others 1. The accumulator instructions:
products, sums and shifts modulo 2^128 into A[rd]; halves, quotients and the square root into a general register. -/
def Obligations.AluAndAccumulatorRows : Prop :=
  ((∀ (f : AluOp) (s : State) (u e : Nat) (rd ra : BitVec 5) (b : OpB), s.Ready u e (.alu f rd ra b) →
    Answers (aluRow f u e rd ra b) s (s.WroteG u e
      (match f with | .mul => 3 | .divu => 66 | .divs => 66 | .remu => 66 | _ => 1) ((s.eng u e).pc + 1) rd
      (f.eval (s.getG u e ra) (s.getB u e b)))) ∧
  (∀ (s : State) (u e : Nat) (rd ra : BitVec 5) (imm : BitVec 24), s.Ready u e (.ext rd ra imm) →
    Answers (.ext u e rd ra imm) s (s.WroteG u e 1 ((s.eng u e).pc + 1) rd (extField (s.getG u e ra) imm))) ∧
  (∀ (s : State) (u e : Nat) (rd ra k : BitVec 5) (imm : BitVec 24), s.Ready u e (.ins rd ra k imm) →
    Answers (.ins u e rd ra k imm) s (s.WroteG u e 1 ((s.eng u e).pc + 1) rd (insField (s.getG u e ra) k imm)))) ∧
  ((∀ (s : State) (u e : Nat) (ad : BitVec 2) (ra : BitVec 5) (b : OpB),
    (s.Ready u e (.mac true ad ra b) → Answers (.macs u e ad ra b) s (s.WroteA u e 2 ad
      (s.getA u e ad + macProduct true (s.getG u e ra) (s.getB u e b)))) ∧
    (s.Ready u e (.mac false ad ra b) → Answers (.macu u e ad ra b) s (s.WroteA u e 2 ad
      (s.getA u e ad + macProduct false (s.getG u e ra) (s.getB u e b)))) ∧
    (s.Ready u e (.aset ad ra b) → Answers (.aset u e ad ra b) s (s.WroteA u e 1 ad
      (BitVec.ofNat 128 ((s.getG u e ra).toNat * 2 ^ 64 + (s.getB u e b).toNat)))) ∧
    (s.Ready u e (.aclr ad) → Answers (.aclr u e ad) s (s.WroteA u e 1 ad 0)) ∧
    (s.Ready u e (.aadd ad ra) → Answers (.aadd u e ad ra) s (s.WroteA u e 1 ad
      (s.getA u e ad + BitVec.ofInt 128 (s.getG u e ra).toInt)))) ∧
  (∀ (s : State) (u e : Nat) (ad aa : BitVec 2) (b : OpB),
    (s.Ready u e (.aadda ad aa) → Answers (.aadda u e ad aa) s (s.WroteA u e 1 ad (s.getA u e ad + s.getA u e aa))) ∧
    (s.Ready u e (.asuba ad aa) → Answers (.asuba u e ad aa) s (s.WroteA u e 1 ad (s.getA u e ad - s.getA u e aa))) ∧
    (s.Ready u e (.ashl ad aa b) → Answers (.ashl u e ad aa b) s (s.WroteA u e 1 ad
      (BitVec.ofNat 128 ((s.getA u e aa).toNat * 2 ^ ((s.getB u e b).toNat % 128))))) ∧
    (s.Ready u e (.asar ad aa b) → Answers (.asar u e ad aa b) s (s.WroteA u e 1 ad
      (BitVec.ofInt 128 ((s.getA u e aa).toInt / 2 ^ ((s.getB u e b).toNat % 128)))))) ∧
  (∀ (s : State) (u e : Nat) (rd : BitVec 5) (aa : BitVec 2) (b : OpB),
    (s.Ready u e (.agetl rd aa) → Answers (.agetl u e rd aa) s (s.WroteG u e 1 ((s.eng u e).pc + 1) rd
      (BitVec.ofNat 64 (s.getA u e aa).toNat))) ∧
    (s.Ready u e (.ageth rd aa) → Answers (.ageth u e rd aa) s (s.WroteG u e 1 ((s.eng u e).pc + 1) rd
      (BitVec.ofNat 64 ((s.getA u e aa).toNat / 2 ^ 64)))) ∧
    (s.Ready u e (.adiv rd aa b) → Answers (.adiv u e rd aa b) s (s.WroteG u e 130 ((s.eng u e).pc + 1) rd
      (accDiv false (s.getA u e aa) (s.getB u e b)))) ∧
    (s.Ready u e (.adivr rd aa b) → Answers (.adivr u e rd aa b) s (s.WroteG u e 130 ((s.eng u e).pc + 1) rd
      (accDiv true (s.getA u e aa) (s.getB u e b)))) ∧
    (s.Ready u e (.asqrt rd aa) → Answers (.asqrt u e rd aa) s (s.WroteG u e 66 ((s.eng u e).pc + 1) rd
      (BitVec.ofNat 64 (isqrt (s.getA u e aa).toNat))))))

/-- The branches and jumps, to a target inside program memory: a branch that is taken goes IMM words from its own place in 2
cycles, one that is not goes on in 1; JAL keeps PC + 1 in rd; JR goes to ra[10:0]. -/
def Obligations.BranchRows : Prop :=
  (∀ (c : BrOp) (s : State) (u e : Nat) (ra rb : BitVec 5) (imm : BitVec 24), s.Stands u e (.br c ra rb imm) →
    0 ≤ (s.eng u e).pc + imm.toInt → (s.eng u e).pc + imm.toInt < 2048 →
    Answers (brRow c u e ra rb imm) s (fun t =>
      let a := s.getG u e ra
      let b := s.getG u e rb
      let yes : Prop := match c with
        | .eq => a = b
        | .ne => a ≠ b
        | .lt => a.toInt < b.toInt
        | .ge => b.toInt ≤ a.toInt
        | .ltu => a.toNat < b.toNat
        | .geu => b.toNat ≤ a.toNat
      (yes → s.Moved u e 2 ((s.eng u e).pc + imm.toInt) t) ∧ (¬yes → (s.eng u e).pc < 2047 → s.Moved u e 1 ((s.eng u e).pc + 1) t))) ∧
  (∀ (s : State) (u e : Nat) (ra k : BitVec 5) (imm : BitVec 24), 0 ≤ (s.eng u e).pc + imm.toInt →
    (s.eng u e).pc + imm.toInt < 2048 →
    (s.Stands u e (.brk true ra k imm) → Answers (.beqi u e ra k imm) s (fun t =>
      ((s.getG u e ra).toNat = k.toNat → s.Moved u e 2 ((s.eng u e).pc + imm.toInt) t) ∧
      ((s.getG u e ra).toNat ≠ k.toNat → (s.eng u e).pc < 2047 → s.Moved u e 1 ((s.eng u e).pc + 1) t))) ∧
    (s.Stands u e (.brk false ra k imm) → Answers (.bnei u e ra k imm) s (fun t =>
      ((s.getG u e ra).toNat ≠ k.toNat → s.Moved u e 2 ((s.eng u e).pc + imm.toInt) t) ∧
      ((s.getG u e ra).toNat = k.toNat → (s.eng u e).pc < 2047 → s.Moved u e 1 ((s.eng u e).pc + 1) t))) ∧
    (s.Stands u e (.bbit true ra k imm) → Answers (.bbs u e ra k imm) s (fun t =>
      ((s.getG u e ra).getLsbD k.toNat = true → s.Moved u e 2 ((s.eng u e).pc + imm.toInt) t) ∧
      ((s.getG u e ra).getLsbD k.toNat = false → (s.eng u e).pc < 2047 → s.Moved u e 1 ((s.eng u e).pc + 1) t))) ∧
    (s.Stands u e (.bbit false ra k imm) → Answers (.bbc u e ra k imm) s (fun t =>
      ((s.getG u e ra).getLsbD k.toNat = false → s.Moved u e 2 ((s.eng u e).pc + imm.toInt) t) ∧
      ((s.getG u e ra).getLsbD k.toNat = true → (s.eng u e).pc < 2047 → s.Moved u e 1 ((s.eng u e).pc + 1) t))) ∧
    (s.Stands u e (.jmp imm) → Answers (.jmp u e imm) s (s.Moved u e 2 ((s.eng u e).pc + imm.toInt))) ∧
    (s.Stands u e (.jal ra imm) → Answers (.jal u e ra imm) s
      (s.WroteG u e 2 ((s.eng u e).pc + imm.toInt).toNat ra (BitVec.ofNat 64 ((s.eng u e).pc + 1)))) ∧
    (s.Stands u e (.jr ra) → Answers (.jr u e ra) s (s.Moved u e 2 ((s.getG u e ra).toNat % 2048 : Nat))))

/-- LD, ST, LDA, STA, GNEXT and GSTAT on words of the engine's live contexts. No other word of the context store changes, no
other context, no other engine; ST and STA write no register. -/
def Obligations.ContextStoreRows : Prop :=
  (∀ (s : State) (u e : Nat) (rd ra : BitVec 5) (imm : BitVec 24), s.Ready u e (.ld rd ra imm) →
    s.liveWord u e (s.getG u e ra + imm.signExtend 64) →
    Answers (.ld u e rd ra imm) s (s.WroteG u e 2 ((s.eng u e).pc + 1) rd (s.cxWord u (s.getG u e ra + imm.signExtend 64).toNat))) ∧
  (∀ (s : State) (u e : Nat) (ra rb : BitVec 5) (imm : BitVec 24), s.Ready u e (.st ra rb imm) →
    s.liveWord u e (s.getG u e ra + imm.signExtend 64) → 8 ≤ (s.getG u e ra + imm.signExtend 64).toNat % 64 →
    Answers (.st u e ra rb imm) s (fun t => s.EngineApart t u e ∧ (∀ c, t.ctx u c = s.ctx u c) ∧
      t.eng u e = (s.eng u e).ran 1 ((s.eng u e).pc + 1) s.tb.age ∧
      ∀ a, t.cxWord u a = if a = (s.getG u e ra + imm.signExtend 64).toNat then s.getG u e rb else s.cxWord u a)) ∧
  (∀ (s : State) (u e : Nat) (ad : BitVec 2) (ra : BitVec 5) (imm : BitVec 24), s.Ready u e (.lda ad ra imm) →
    s.liveWord u e (s.getG u e ra + imm.signExtend 64) → s.liveWord u e (s.getG u e ra + imm.signExtend 64 + 1) →
    Answers (.lda u e ad ra imm) s (s.WroteA u e 3 ad
      (s.cxWord u (s.getG u e ra + imm.signExtend 64 + 1).toNat ++ s.cxWord u (s.getG u e ra + imm.signExtend 64).toNat))) ∧
  (∀ (s : State) (u e : Nat) (ra : BitVec 5) (ab : BitVec 2) (imm : BitVec 24), s.Ready u e (.sta ra ab imm) →
    s.liveWord u e (s.getG u e ra + imm.signExtend 64) → s.liveWord u e (s.getG u e ra + imm.signExtend 64 + 1) →
    8 ≤ (s.getG u e ra + imm.signExtend 64).toNat % 64 → 8 ≤ (s.getG u e ra + imm.signExtend 64 + 1).toNat % 64 →
    Answers (.sta u e ra ab imm) s (fun t => s.EngineApart t u e ∧ (∀ c, t.ctx u c = s.ctx u c) ∧
      t.eng u e = (s.eng u e).ran 2 ((s.eng u e).pc + 1) s.tb.age ∧
      ∀ a, t.cxWord u a =
        if a = (s.getG u e ra + imm.signExtend 64).toNat then (s.getA u e ab).setWidth 64
        else if a = (s.getG u e ra + imm.signExtend 64 + 1).toNat then (s.getA u e ab >>> 64).setWidth 64
        else s.cxWord u a)) ∧
  (∀ (s : State) (u e : Nat) (rd : BitVec 5), s.Ready u e (.gnext rd) →
    Answers (.gnext u e rd) s (fun t => s.EngineApart t u e ∧ (∀ c, t.ctx u c = s.ctx u c) ∧
      { t.eng u e with g := (s.eng u e).g } = (s.eng u e).ran 1 ((s.eng u e).pc + 1) s.tb.age ∧
      (∀ r, t.getG u e r = if r = rd ∧ r.toNat < 28 then s.cxWord u (64 * (s.eng u e).ctx + 26) else s.getG u e r) ∧
      (t.cxWord u (64 * (s.eng u e).ctx + 26)).toNat =
        (s.cxWord u (64 * (s.eng u e).ctx + 26)).toNat / 2 ^ 32 * 2 ^ 32 +
          ((s.cxWord u (64 * (s.eng u e).ctx + 26)).toNat + 1) % 2 ^ 32 ∧
      ∀ a, a ≠ 64 * (s.eng u e).ctx + 26 → t.cxWord u a = s.cxWord u a)) ∧
  (∀ (s : State) (u e : Nat) (rd : BitVec 5), s.Ready u e (.gstat rd) →
    Answers (.gstat u e rd) s (fun t => s.EngineApart t u e ∧ (∀ a, t.cxWord u a = s.cxWord u a) ∧
      { t.eng u e with g := (s.eng u e).g } = (s.eng u e).ran 1 ((s.eng u e).pc + 1) s.tb.age ∧
      (∀ r, t.getG u e r = if r = rd ∧ r.toNat < 28
        then BitVec.ofNat 64 (b2n (s.ctx u (s.eng u e).ctx).gst + 2 * b2n (s.ctx u (s.eng u e).ctx).gcs) else s.getG u e r) ∧
      t.ctx u (s.eng u e).ctx = { s.ctx u (s.eng u e).ctx with gst := false, gcs := false } ∧
      ∀ c, c ≠ (s.eng u e).ctx → t.ctx u c = s.ctx u c))

/-- NOP, TMSET and TMCLR: one cycle, the timer of the running context armed at ra + B or disarmed, a timer item that it has not
taken withdrawn, nothing else. WAIT and
CHECKPOINT with no open packet. WAIT delivers the running context's next released item, on a hit PC moves by IMM and
otherwise by one; where the slice ends first it delivers nothing and stays. CHECKPOINT ends the slice and asks for a
checkpoint. -/
def Obligations.TimerAndWaitRows : Prop :=
  ((∀ (s : State) (u e : Nat), s.Ready u e .nop → Answers (.nop u e) s (s.Moved u e 1 ((s.eng u e).pc + 1))) ∧
  (∀ (s : State) (u e : Nat) (ra : BitVec 5) (b : OpB) (c : Nat) (tm : Option W64), c = (s.eng u e).ctx →
    (s.Ready u e (.tmset ra b) ∧ tm = some (s.getG u e ra + s.getB u e b) → Answers (.tmset u e ra b) s (fun t =>
      s.EngineApart t u e ∧ (∀ a, t.cxWord u a = s.cxWord u a) ∧
      t.eng u e = (s.eng u e).ran 1 ((s.eng u e).pc + 1) s.tb.age ∧ t.ctx u c = { s.ctx u c with
        timer := tm, items := (s.ctx u c).items.filter (fun i => decide (i.kind ≠ 2)) } ∧
      ∀ d, d ≠ c → t.ctx u d = s.ctx u d)) ∧
    (s.Ready u e .tmclr ∧ tm = none → Answers (.tmclr u e) s (fun t =>
      s.EngineApart t u e ∧ (∀ a, t.cxWord u a = s.cxWord u a) ∧
      t.eng u e = (s.eng u e).ran 1 ((s.eng u e).pc + 1) s.tb.age ∧ t.ctx u c = { s.ctx u c with
        timer := tm, items := (s.ctx u c).items.filter (fun i => decide (i.kind ≠ 2)) } ∧
      ∀ d, d ≠ c → t.ctx u d = s.ctx u d)))) ∧
  ((∀ (s : State) (u e c : Nat) (imm : BitVec 24) (x : Item) (rest : List Item), s.Stands u e (.wait imm) → (x.isHit = false → (s.eng u e).pc < 2047) →
    c = (s.eng u e).ctx → s.hasOpen u e c = false → (s.ctx u c).bar = 0 → (s.ctx u c).retire = none →
    (s.eng u e).inTrig = false → (s.ctx u c).items = x :: rest → 0 ≤ (s.eng u e).pc + imm.toInt →
    (s.eng u e).pc + imm.toInt < 2048 →
    Answers (.wait u e imm) s (fun t => s.EngineApart t u e ∧ (∀ a, t.cxWord u a = s.cxWord u a) ∧
      (s.sliceOver u e (some x) = false → s.headReady u e c x = true →
        (t.ctx u c).cur = some x ∧ (t.ctx u c).items = rest ∧ (t.eng u e).sliceN = (s.eng u e).sliceN + 1 ∧
        (t.eng u e).busy = (s.eng u e).busy + 2 ∧ (t.eng u e).cycles = 2 ∧
        ((t.eng u e).pc : Int) = if x.isHit then (s.eng u e).pc + imm.toInt else (s.eng u e).pc + 1) ∧
      (s.sliceOver u e (some x) = true → (t.eng u e).sliceEnd = true ∧ (t.eng u e).pc = (s.eng u e).pc ∧
        (t.ctx u c).items = x :: rest) ∧
      (t.eng u e).g = (s.eng u e).g ∧ (t.eng u e).a = (s.eng u e).a ∧ ∀ d, d ≠ c → t.ctx u d = s.ctx u d)) ∧
  (∀ (s : State) (u e : Nat), s.Ready u e .checkpoint → s.hasOpen u e (s.eng u e).ctx = false →
    Answers (.checkpoint u e) s (fun t => s.EngineOnly t u e ∧ (t.eng u e).sliceEnd = true ∧ (t.eng u e).ckptReq = true ∧
      (t.eng u e).pc = (s.eng u e).pc + 1 ∧ (t.eng u e).g = (s.eng u e).g ∧ (t.eng u e).a = (s.eng u e).a)))

/-- EMIT, EMITH, COMMIT and REWIND of an output queue of the engine. A word takes the place at WP of the open packet, with
the assigned engine in [55:52] for EMITH, or is refused where the queue is full and dooms the packet; a commit moves RMARK to
WP and marks the last word as the packet's end; a doomed packet and a rewound one go back to RMARK. No other queue and no
other tile changes. -/
def Obligations.PacketRows : Prop :=
  (∀ (s : State) (u e : Nat) (ra : BitVec 5) (b : OpB) (hd : Bool) (q : Nat), q = (s.getB u e b).toNat → q ∈ s.outQs u e →
    s.Ready u e (if hd then .emith ra b else .emit ra b) → (s.queue u q).flushed = false → (s.queue u q).doomed = false →
    Answers (if hd then .emith u e ra b else .emit u e ra b) s (fun t =>
      let w := if hd then (s.getG u e ra &&& ~~~(0x00F0000000000000 : W64)) ||| (BitVec.ofNat 64 (s.asg u e) <<< 52)
        else s.getG u e ra
      (0 < s.qFree u q → (s.qDrain u q = true → ringDist (s.qCap u q) (s.queue u q).rmark (s.queue u q).wp ≠ 1023) →
        t.qWord u q (s.queue u q).wp = storedWord w false 0 none ∧
        (t.queue u q).wp = ringAdd (s.qCap u q) (s.queue u q).wp 1 ∧ (t.queue u q).doomed = false) ∧
      (s.qFree u q = 0 → (t.queue u q).wp = (s.queue u q).wp ∧ (t.queue u q).doomed = true ∧
        (t.queue u q).cOvr = min (2 ^ 32 - 1) ((s.queue u q).cOvr + 1) ∧ (t.queue u q).ovr = true) ∧
      (t.queue u q).opened = true ∧ (t.queue u q).owner = (s.eng u e).ctx ∧ (t.queue u q).rmark = (s.queue u q).rmark ∧
      t.eng u e = (s.eng u e).ran 1 ((s.eng u e).pc + 1) s.tb.age ∧ (∀ p, p ≠ q → t.queue u p = s.queue u p) ∧
      (∀ v, v ≠ u → t.tile v = s.tile v) ∧ t.tb = s.tb ∧ t.regs = s.regs ∧ t.msg = s.msg)) ∧
  (∀ (s : State) (u e : Nat) (b : OpB) (q : Nat), q = (s.getB u e b).toNat → q ∈ s.outQs u e → s.Ready u e (.commit b) →
    (s.queue u q).head = none →
    Answers (.commit u e b) s (fun t =>
      let n := ringDist (s.qCap u q) (s.queue u q).rmark (s.queue u q).wp
      ((s.queue u q).doomed = false → 0 < n → (t.queue u q).rmark = (s.queue u q).wp ∧ (t.queue u q).wp = (s.queue u q).wp ∧
        (t.qWord u q (ringAdd (s.qCap u q) (s.queue u q).rmark (n - 1))).fin = true ∧
        (t.queue u q).cCommit = ((s.queue u q).cCommit + n) % 2 ^ 32) ∧
      ((s.queue u q).doomed = true → (s.queue u q).opened = true → (s.queue u q).flushed = false →
        (t.queue u q).wp = (s.queue u q).rmark ∧ (t.queue u q).rmark = (s.queue u q).rmark ∧
        (t.queue u q).cDrop = min (2 ^ 32 - 1) ((s.queue u q).cDrop + 1)) ∧
      ((s.queue u q).doomed = false ∨ (s.queue u q).opened = true → (t.queue u q).opened = false) ∧
      t.eng u e = (s.eng u e).ran 1 ((s.eng u e).pc + 1) s.tb.age ∧ (∀ p, p ≠ q → t.queue u p = s.queue u p) ∧
      (∀ v, v ≠ u → t.tile v = s.tile v) ∧ t.tb = s.tb ∧ t.regs = s.regs ∧ t.msg = s.msg)) ∧
  (∀ (s : State) (u e : Nat) (b : OpB) (q : Nat), q = (s.getB u e b).toNat → q ∈ s.outQs u e → s.Ready u e (.rewind b) →
    (s.queue u q).opened = true →
    Answers (.rewind u e b) s (fun t => (t.queue u q).wp = (s.queue u q).rmark ∧ (t.queue u q).rmark = (s.queue u q).rmark ∧
      (t.queue u q).opened = false ∧ (t.queue u q).doomed = false ∧
      t.eng u e = (s.eng u e).ran 1 ((s.eng u e).pc + 1) s.tb.age ∧ (∀ p, p ≠ q → t.queue u p = s.queue u p) ∧
      (∀ v, v ≠ u → t.tile v = s.tile v) ∧ t.tb = s.tb ∧ t.regs = s.regs ∧ t.msg = s.msg))

/-- The six causes of a program fault: an address outside the live contexts, a store into words 0 to 7, a queue that is no
OUT_Q of the engine, WAIT or CHECKPOINT with an open packet, a PC beyond program memory, and 65,536 cycles of one slice; a
division by zero is none. -/
def Obligations.ProgramFaults : Prop :=
  ∀ (s : State) (u e : Nat), (s.eng u e).ctx < 64 → (s.ctx u (s.eng u e).ctx).retire = none →
    (∀ (rd ra : BitVec 5) (imm : BitVec 24), s.Stands u e (.ld rd ra imm) → ¬s.liveWord u e (s.getG u e ra + imm.signExtend 64) →
      Answers (.ld u e rd ra imm) s (s.Faulted u e 1)) ∧
    (∀ (ra rb : BitVec 5) (imm : BitVec 24), s.Stands u e (.st ra rb imm) → s.liveWord u e (s.getG u e ra + imm.signExtend 64) →
      (s.getG u e ra + imm.signExtend 64).toNat % 64 < 8 → Answers (.st u e ra rb imm) s (s.Faulted u e 2)) ∧
    (∀ (ra : BitVec 5) (b : OpB), (s.getB u e b).toNat ∉ s.outQs u e →
      (s.Stands u e (.emit ra b) → Answers (.emit u e ra b) s (s.Faulted u e 3)) ∧
      (s.Stands u e (.emith ra b) → Answers (.emith u e ra b) s (s.Faulted u e 3)) ∧
      (s.Stands u e (.commit b) → Answers (.commit u e b) s (s.Faulted u e 3)) ∧
      (s.Stands u e (.rewind b) → Answers (.rewind u e b) s (s.Faulted u e 3))) ∧
    (∀ imm : BitVec 24, s.hasOpen u e (s.eng u e).ctx = true →
      (s.Stands u e (.wait imm) → Answers (.wait u e imm) s (s.Faulted u e 4)) ∧
      (s.Stands u e .checkpoint → Answers (.checkpoint u e) s (s.Faulted u e 4))) ∧
    (∀ imm : BitVec 24, s.Stands u e (.jmp imm) → 2048 ≤ (s.eng u e).pc + imm.toInt →
      Answers (.jmp u e imm) s (s.Faulted u e 5)) ∧
    (s.up = true → u < s.nTiles → e < 9 → s.engRuns u e = true → (s.eng u e).loaded = true → (s.eng u e).sliceEnd = false →
      65536 ≤ (s.eng u e).cycles → Answers (.sliceCycleLimit u e) s (s.Faulted u e 6))

/-! ### The slice dispatcher -/

/-- ITEM_RELEASE, with every word of the input queue read: the hit of least key leaves the buffer once the commit frontier
has passed it, and each context of the engine gets it with the roles it fills there and the break carried for its input, or
carries the break on where it fills none. -/
def Obligations.HitsReachTheirContexts : Prop :=
  ∀ (s : State) (u e : Nat) (d : DItem) (rest : List DItem), s.up = true → u < s.nTiles → e < 9 → s.engRuns u e = true →
    s.unread u e = 0 → (s.eng u e).buf = d :: rest → s.releasable u e d = true → d.kind = 0 → d.ctx = none →
    (s.eng u e).safe = false → (s.eng u e).ctxs.Nodup →
    Answers (.itemRelease u e) s (fun t => s.EngineApart t u e ∧ (∀ a, t.cxWord u a = s.cxWord u a) ∧
      t.eng u e = { s.eng u e with buf := rest } ∧
      (∀ c ∈ (s.eng u e).ctxs, s.gateKind u c ≠ 3 → s.takes u c d.seg d.t = true →
        let r := s.roles u c d.input (d.word.getLsbD 55)
        let x := s.ctx u c
        (r ≠ 0 → t.ctx u c = { x with
          items := insBack ⟨d.t, hitInfo d.word r (d.word.getLsbD 52 || x.brk.getLsbD d.input) false, d.age⟩ x.items
          brk := x.brk &&& ~~~(BitVec.ofNat 16 (2 ^ d.input)) }) ∧
        (r = 0 → t.ctx u c = { x with
          brk := if d.word.getLsbD 52 then x.brk ||| BitVec.ofNat 16 (2 ^ d.input) else x.brk })) ∧
      (∀ c, c ∉ (s.eng u e).ctxs ∨ s.gateKind u c = 3 ∨ s.takes u c d.seg d.t = false → t.ctx u c = s.ctx u c))

/-- SLICE_SWITCH at a slice boundary: the registers of the context that ran go to words 27 to 63 of its block, those of the
context with the next slice come from its block, and 2 cycles are counted. -/
def Obligations.SlicesSwitch : Prop :=
  ∀ (s : State) (u e c p : Nat) (trig : Bool), s.up = true → u < s.nTiles → e < 9 → s.engRuns u e = true →
    (s.eng u e).loaded = false ∨ (s.eng u e).sliceEnd = true → s.nextSlice u e = some (c, trig) →
    s.bad2 (.context u) (64 * c) 64 = false → p = (s.eng u e).ctx →
    Answers (.sliceSwitch u e) s (fun t => s.EngineApart t u e ∧ (∀ d, t.ctx u d = s.ctx u d) ∧ (t.eng u e).ctx = c ∧
      (t.eng u e).loaded = true ∧ (t.eng u e).sliceEnd = false ∧ (t.eng u e).sliceN = 0 ∧ (t.eng u e).inTrig = trig ∧
      (t.eng u e).cycles = 0 ∧ (t.eng u e).busy = (s.eng u e).busy + 2 ∧
      ((s.eng u e).loaded = false ∨ p ≠ c → (t.eng u e).pc = fieldOf (s.cxWord u (64 * c + 27)) 10 0 ∧
        (∀ k, k < 28 → mapGet (fun _ => 0) (t.eng u e).g k = s.cxWord u (64 * c + 28 + k)) ∧
        (∀ k, k < 4 → mapGet (fun _ => 0) (t.eng u e).a k =
          s.cxWord u (64 * c + 57 + 2 * k) ++ s.cxWord u (64 * c + 56 + 2 * k))) ∧
      ((s.eng u e).loaded = true → fieldOf (t.cxWord u (64 * p + 27)) 10 0 = (s.eng u e).pc % 2048 ∧
        (∀ k, k < 28 → t.cxWord u (64 * p + 28 + k) = mapGet (fun _ => 0) (s.eng u e).g k) ∧
        (∀ k, k < 4 → t.cxWord u (64 * p + 57 + 2 * k) ++ t.cxWord u (64 * p + 56 + 2 * k) =
          mapGet (fun _ => 0) (s.eng u e).a k)) ∧
      ∀ a, (s.eng u e).loaded = false ∨ a < 64 * p + 27 ∨ 64 * p + 64 ≤ a → t.cxWord u a = s.cxWord u a)

/-- TIME_GATE_BOUNDARY and CONTEXT_TIMER in the present epoch. The least grid boundary of the engine's contexts is reached: a
kind 1 item of that instant waits in the buffer for each context whose boundary it is, and its next boundary lies one gate
length on. An armed timer's instant is reached: the timer is disarmed and its item stands in key order. -/
def Obligations.GatesAndTimers : Prop :=
  (∀ (s : State) (u e c : Nat) (g : W64), s.up = true → u < s.nTiles → e < 9 → s.engRuns u e = true →
    (s.eng u e).epoch = s.tb.epoch → c ∈ s.liveCtxs u e → (s.ctx u c).grid = some g → s.takes u c (s.eng u e).rseg g = true →
    (∀ d ∈ s.liveCtxs u e, ∀ h, (s.ctx u d).grid = some h → s.takes u d (s.eng u e).rseg h = true → timeLe g h = true) →
    Answers (.timeGateBoundary u e) s (fun t => (t.ctx u c).grid = some (g + s.gateLen u c) ∧
      (∃ x ∈ (t.eng u e).buf, x.ctx = some c ∧ x.kind = 1 ∧ x.t = g ∧ x.seg = (s.eng u e).rseg) ∧
      t.tb.age = s.tb.age + ((g - BitVec.ofNat 64 s.now.engine).toInt / 8192).toNat ∧
      (∀ d, d ∉ s.liveCtxs u e → t.ctx u d = s.ctx u d) ∧ (∀ a, t.cxWord u a = s.cxWord u a) ∧
      (∀ f, f ≠ e → t.eng u f = s.eng u f) ∧ (∀ v, v ≠ u → t.tile v = s.tile v) ∧
      { t with tb := s.tb, tiles := s.tiles } = s)) ∧
  (∀ (s : State) (u e c : Nat) (tau : W64), s.up = true → u < s.nTiles → c < 64 → e < 9 → s.engRuns u e = true →
    c ∈ (s.eng u e).ctxs → (∀ f, f < 9 → f ≠ e → c ∉ (s.eng u f).ctxs) → (s.eng u e).epoch = s.tb.epoch →
    (s.eng u e).safe = false → s.halted u c = false → (s.ctx u c).timer = some tau →
    (∀ x ∈ (s.ctx u c).items, x.kind ≠ 3 ∧ x.kind ≠ 5) →
    Answers (.contextTimer u c) s (fun t => (t.ctx u c).timer = none ∧
      (∃ a, (t.ctx u c).items = insTimer ⟨tau, plainInfo 2 s.tb.epoch, a⟩ (s.ctx u c).items) ∧
      t.tb.age = s.tb.age + (((tau - BitVec.ofNat 64 s.now.engine).toInt + 8191) / 8192).toNat ∧
      (∀ d, d ≠ c → t.ctx u d = s.ctx u d) ∧ (∀ f, t.eng u f = s.eng u f) ∧ (∀ a, t.cxWord u a = s.cxWord u a) ∧
      (∀ v, v ≠ u → t.tile v = s.tile v) ∧ { t with tb := s.tb, tiles := s.tiles } = s))

/-- ENGINE_EPOCH_MARKERS, TRIGGER_SLICE_COPY, CHECKPOINT_TAKE and REPLAY_END. Once every live context has passed its barrier,
the markers stand in each output queue that has room. The slice of a context's first waiting gate goes into the input queue,
or is shrunk to its opening and closing words; a shrunk one that finds no room waits, its two words counted as refused once. A checkpoint stores a shadow of every block and the dispatcher's state, and
frees the records before its position. A replay that has delivered as many items as before ends. -/
def Obligations.EngineSteps : Prop :=
  (∀ (s : State) (u e : Nat), s.up = true → u < s.nTiles → e < 9 → s.engRuns u e = true → (s.eng u e).marks ≠ [] →
    (s.eng u e).marksSkip ≤ (s.eng u e).marksDone → (∀ c ∈ s.liveCtxs u e, (s.ctx u c).bar = 0 ∨ (s.ctx u c).bar = 3) →
    Answers (.engineEpochMarkers u e) s (fun t => (t.eng u e).marks = [] ∧ (∀ c ∈ (s.eng u e).ctxs, (t.ctx u c).bar = 0) ∧
      (∀ q ∈ s.outQs u e, s.qCap u q ≠ 0 → (s.eng u e).marks.length ≤ s.qFree u q →
        (t.queue u q).wp = ringAdd (s.qCap u q) (s.queue u q).wp (s.eng u e).marks.length ∧
        (t.queue u q).rmark = (t.queue u q).wp) ∧
      (∀ q, q ∉ s.outQs u e → t.queue u q = s.queue u q) ∧ (∀ v, v ≠ u → t.tile v = s.tile v) ∧
      t.tb = s.tb ∧ t.regs = s.regs ∧ t.msg = s.msg)) ∧
  (∀ (s : State) (u e c : Nat) (g : Gate) (gs : List Gate), s.up = true → u < s.nTiles → c < 64 → e < 9 →
    (s.tile u).powered = true → (s.tile u).inReset = false → c ∈ (s.eng u e).ctxs →
    (∀ f, f < 9 → f ≠ e → c ∉ (s.eng u f).ctxs) → (s.ctx u c).gates = g :: gs →
    Answers (.triggerSliceCopy u c) s (fun t =>
      (g.ovf = true → s.qFits u (s.inq u e) 2 = true → (t.ctx u c).gates = gs ∧
        (t.queue u (s.inq u e)).wp = ringAdd (s.qCap u (s.inq u e)) (s.queue u (s.inq u e)).wp 2 ∧
        (t.queue u (s.inq u e)).rmark = (t.queue u (s.inq u e)).wp) ∧
      (g.ovf = true → s.qFits u (s.inq u e) 2 = false → (t.ctx u c).gates = { g with held := true } :: gs ∧
        (t.queue u (s.inq u e)).wp = (s.queue u (s.inq u e)).wp ∧
        (g.held = true → t.queue u (s.inq u e) = s.queue u (s.inq u e)) ∧
        (g.held = false → (t.queue u (s.inq u e)).cOvr = min (2 ^ 32 - 1) ((s.queue u (s.inq u e)).cOvr + 2) ∧
          (t.queue u (s.inq u e)).ovr = true)) ∧
      (g.ovf = false → (t.ctx u c).gates = gs ∨ (t.ctx u c).gates = { g with ovf := true, held := true } :: gs) ∧
      (∀ d, d ≠ c → t.ctx u d = s.ctx u d) ∧ (∀ v, v ≠ u → t.tile v = s.tile v) ∧ t.tb = s.tb ∧ t.regs = s.regs ∧
      t.msg = s.msg)) ∧
  (∀ (s : State) (u e : Nat), s.up = true → u < s.nTiles → e < 9 → s.engRuns u e = true → s.atBoundary u e = true →
    s.ckptDue u e = true → (s.eng u 8).serving = 15 →
    Answers (.checkpointTake u e) s (fun t => (t.eng u e).ckpts = ((s.eng u e).ckpts + 1) % 2 ^ 32 ∧
      (t.eng u e).ckptReq = false ∧ (t.eng u e).ckptAge = s.tb.age ∧
      (t.eng u e).busy = 16 + 16 * (s.eng u e).ctxs.length ∧ (t.eng u e).ckpt.keys = (s.eng u e).ctxs ∧
      (t.eng u e).ckpt.buf = (s.eng u e).buf ∧ (t.queue u (s.inq u e)).rp = (s.eng u e).dpos ∧
      (∀ c ∈ (s.eng u e).ctxs, c < 64 → ∀ k, k < 64 → t.cxWord u (64 * (64 + c) + k) = t.cxWord u (64 * c + k)) ∧
      (∀ f, f ≠ e → t.eng u f = s.eng u f) ∧ (∀ d, t.ctx u d = s.ctx u d) ∧ (∀ v, v ≠ u → t.tile v = s.tile v) ∧
      t.tb = s.tb ∧ t.regs = s.regs ∧ t.msg = s.msg)) ∧
  (∀ (s : State) (u e : Nat), s.up = true → u < s.nTiles → e < 9 → s.bracket = false → s.engRuns u e = true →
    (s.eng u e).st = 2 → (s.eng u e).replay ≤ (s.eng u e).delivered → (s.eng u e).voting = false →
    Answers (.replayEnd u e) s (fun t => s.EngineOnly t u e ∧ t.eng u e = { s.eng u e with st := 1 }))

/-! ### Engine control, faults and failover -/

/-- The host's RESTART, CKPT_NOW, PEAK_CLR and DEP_ENG_RET, each one register write. A restart restores the engine that runs
the work and is counted and recorded as the last reset; CKPT_NOW asks for a checkpoint; PEAK_CLR sets the peak to the present
load; the return of a failed engine starts its self-test. -/
def Obligations.EngineControl : Prop :=
  (∀ (s : State) (u e r : Nat), s.up = true → u < s.nTiles → e < 9 → (s.tile u).powered = true → (s.eng u e).st ≠ 5 →
    s.pw.soft = false → r = s.pairRunner u e → s.engRuns u r = true →
    Answers (.restart u e) s (fun t => s.Restored u r r t ∧ t.dep.restarts = min 65535 (s.dep.restarts + 1) ∧ t.pw.cause = 6 ∧
      t.pw.causeTile = u ∧ t.pw.causeEng = r ∧ (∀ f, f ≠ r → t.eng u f = s.eng u f) ∧ t.tb.age = s.tb.age + 1 ∧
      (∀ v, v ≠ u → t.tile v = s.tile v) ∧ t.regs = s.regs ∧ t.msg = s.msg)) ∧
  (∀ (s : State) (u e r : Nat), s.up = true → u < s.nTiles → e < 9 → (s.tile u).powered = true → r = s.pairRunner u e →
    s.engRuns u r = true →
    Answers (.ckptNow u e) s (fun t => t.eng u r = { s.eng u r with ckptReq := true } ∧ (∀ f, f ≠ r → t.eng u f = s.eng u f) ∧
      { t.tile u with engs := (s.tile u).engs } = s.tile u ∧ t.tb.age = s.tb.age + 1 ∧ (∀ v, v ≠ u → t.tile v = s.tile v) ∧
      { t with tb := s.tb, tiles := s.tiles } = s)) ∧
  (∀ (s : State) (u e : Nat), s.up = true → u < s.nTiles → e < 9 → (s.tile u).powered = true →
    Answers (.peakClr u e) s (fun t => t.eng u e = { s.eng u e with peak := (s.eng u e).load } ∧
      (∀ f, f ≠ e → t.eng u f = s.eng u f) ∧ { t.tile u with engs := (s.tile u).engs } = s.tile u ∧ t.tb.age = s.tb.age + 1 ∧
      (∀ v, v ≠ u → t.tile v = s.tile v) ∧ { t with tb := s.tb, tiles := s.tiles } = s)) ∧
  (∀ (s : State) (u e : Nat), s.up = true → u < s.nTiles → e < 8 → (s.tile u).powered = true → (s.eng u e).st = 5 →
    (s.eng u e).test = false →
    Answers (.depEngRet u e) s (fun t => t.eng u e = { s.eng u e with test := true } ∧ (∀ f, f ≠ e → t.eng u f = s.eng u f) ∧
      { t.tile u with engs := (s.tile u).engs } = s.tile u ∧ t.tb.age = s.tb.age + 1 ∧ (∀ v, v ≠ u → t.tile v = s.tile v) ∧
      { t with tb := s.tb, tiles := s.tiles } = s)) ∧
  (∀ (s : State) (u e : Nat), s.up = true → u < s.nTiles → e < 9 → (s.tile u).powered = true → (s.eng u e).st = 5 →
    exec (.restart u e) s = .next ((s.advance 1).refuse .host (tileBase u + 0x2020 + 64 * e) 4)) ∧
  (∀ (s : State) (u e : Nat), s.up = true → u < s.nTiles → e < 8 → (s.tile u).powered = true → (s.eng u e).st ≠ 5 →
    exec (.depEngRet u e) s = .next ((s.advance 1).refuse .host 0xA00C 4))

/-- An engine fault in Burst mode, found by a concurrent check or by the watchdog 16 µs after the engine's last instruction:
the engine-fault event sets; the first one restarts the engine from its checkpoint, one in a replay or within 1 s of the last
holds it for its failover. FAILOVER and ENGINE_SELF_TEST_DONE. Engine 8, where it serves no engine, takes over the work of
the held engine from its checkpoint, which is counted; otherwise the engine's contexts stop with the engine-unserved event.
An engine that passes its self-test takes its work back at engine 8's checkpoint, or at once where engine 8 never took it;
one that fails stays failed, and the host's request is recorded as refused (with reason 4, the model's choice, log entry 137). -/
def Obligations.EngineFaults : Prop :=
  ((∀ (s : State) (u e : Nat), s.up = true → u < s.nTiles → e < 9 → s.engRuns u e = true → s.bracket = false →
    Answers (.engineFaultDetect u e) s (fun t => t.evSet (tileSrc u 4) = true ∧ (t.eng u e).faultAge = some s.tb.age ∧
      ((s.eng u e).st = 1 → (∀ a, (s.eng u e).faultAge = some a → 125000000 ≤ s.tb.age - a) →
        s.Restored u e e t ∧ t.dep.restarts = min 65535 (s.dep.restarts + 1) ∧ t.pw.cause = 6 ∧ t.pw.causeTile = u ∧
        t.pw.causeEng = e) ∧
      ((s.eng u e).st = 2 ∨ (∃ a, (s.eng u e).faultAge = some a ∧ s.tb.age - a < 125000000) →
        (t.eng u e).st = 3 ∧ (t.eng u e).loaded = false ∧ t.dep = s.dep ∧ t.pw = s.pw) ∧
      (∀ f, f ≠ e → t.eng u f = s.eng u f) ∧ (∀ v, v ≠ u → t.tile v = s.tile v) ∧ t.tb = s.tb ∧ t.regs = s.regs ∧
      t.msg = s.msg)) ∧
  (∀ (s : State) (u e c : Nat) (x : Item), s.up = true → u < s.nTiles → e < 9 → s.engRuns u e = true → s.bracket = false →
    c ∈ s.liveCtxs u e → x ∈ (s.ctx u c).items ∨ x ∈ (s.ctx u c).trig →
    Answers (.engineStallWatchdog u e) s (fun t => t.evSet (tileSrc u 4) = true ∧ (t.eng u e).faultAge = some t.tb.age ∧
      s.tb.age ≤ t.tb.age ∧ (s.eng u e).lastRun + 2000 ≤ t.tb.age ∧
      ((s.eng u e).st = 1 → (s.eng u e).faultAge = none → s.Restored u e e t) ∧ ((s.eng u e).st = 2 → (t.eng u e).st = 3) ∧
      (∀ v, v ≠ u → t.tile v = s.tile v) ∧ t.regs = s.regs ∧ t.msg = s.msg))) ∧
  ((∀ (s : State) (u e : Nat), s.up = true → u < s.nTiles → e < 8 → (s.eng u e).st = 3 →
    Answers (.failover u e) s (fun t => (t.eng u e).st = 5 ∧
      ((s.eng u 8).serving = 15 → s.Restored u e 8 t ∧ (t.eng u 8).serving = e ∧
        t.dep.failovers = min 65535 (s.dep.failovers + 1)) ∧
      ((s.eng u 8).serving ≠ 15 → t.eng u 8 = s.eng u 8 ∧ t.evSet (tileSrc u 6) = true ∧ t.dep = s.dep) ∧
      (∀ f, f ≠ e → f ≠ 8 → t.eng u f = s.eng u f) ∧ (∀ v, v ≠ u → t.tile v = s.tile v) ∧ t.tb = s.tb ∧ t.regs = s.regs ∧
      t.msg = s.msg)) ∧
  (∀ (s : State) (u e : Nat), s.up = true → u < s.nTiles → e < 8 → (s.eng u e).test = true →
    Answers (.engineSelfTestDone u e false) s (fun t => t.eng u e = { s.eng u e with test := false, passed := false } ∧
      t.refAddr = 0xA00C ∧ t.refReason = 4 ∧ t.refSrc = 0 ∧ t.refCnt = min 65535 (s.refCnt + 1) ∧
      (∀ f, f ≠ e → t.eng u f = s.eng u f) ∧ { t.tile u with engs := (s.tile u).engs } = s.tile u ∧
      s.TileOnly { t with refAddr := s.refAddr, refReason := s.refReason, refSrc := s.refSrc, refCnt := s.refCnt } u) ∧
    ((s.eng u 8).serving = e → Answers (.engineSelfTestDone u e true) s (fun t =>
      t.eng u e = { s.eng u e with test := false, passed := true } ∧ (∀ f, f ≠ e → t.eng u f = s.eng u f) ∧
      { t.tile u with engs := (s.tile u).engs } = s.tile u ∧ s.TileOnly t u)) ∧
    ((s.eng u 8).serving ≠ e → s.bracket = false → Answers (.engineSelfTestDone u e true) s (fun t => s.Restored u e e t ∧
      (t.eng u e).test = false ∧ (∀ f, f ≠ e → t.eng u f = s.eng u f) ∧ (∀ v, v ≠ u → t.tile v = s.tile v) ∧ t.tb = s.tb ∧
      t.regs = s.regs ∧ t.msg = s.msg))))

/-- LOCKSTEP_MISMATCH of a running pair in Bracket mode. The first one since a checkpoint rolls the pair back; where engine 8
is free it joins a vote. A second one, or a vote that a copy loses, replaces that copy by engine 8, or stops the pair's
contexts where engine 8 is not free. -/
def Obligations.LockstepPairs : Prop :=
  ∀ (s : State) (u p : Nat) (who : LockCopy), s.up = true → u < s.nTiles → p < 4 → s.bracket = true →
    s.engRuns u (2 * p) = true →
    ((s.eng u (2 * p)).voting = false → (s.eng u (2 * p)).mismatched = false → who ≠ .spare →
      Answers (.lockstepMismatch u p who) s (fun t => s.Restored u (2 * p) (2 * p) t ∧ (t.eng u (2 * p)).mismatched = true ∧
        ((s.eng u 8).serving = 15 → (t.eng u (2 * p)).voting = true ∧ (t.eng u 8).serving = 2 * p ∧ t.dep = s.dep) ∧
        ((s.eng u 8).serving ≠ 15 → (t.eng u (2 * p)).voting = false ∧ t.eng u 8 = s.eng u 8 ∧
          t.dep.restarts = min 65535 (s.dep.restarts + 1)) ∧
        (∀ v, v ≠ u → t.tile v = s.tile v) ∧ t.tb = s.tb ∧ t.regs = s.regs ∧ t.msg = s.msg)) ∧
    ((s.eng u (2 * p)).voting = false → (s.eng u (2 * p)).mismatched = true → who = .odd →
      Answers (.lockstepMismatch u p who) s (fun t =>
        ((s.eng u 8).serving = 15 → (t.eng u (2 * p + 1)).st = 5 ∧ (t.eng u 8).serving = 2 * p + 1 ∧
          t.dep.failovers = min 65535 (s.dep.failovers + 1) ∧ t.evSet (tileSrc u 4) = true ∧ s.Restored u (2 * p) (2 * p) t) ∧
        ((s.eng u 8).serving ≠ 15 → (t.eng u (2 * p)).st = 5 ∧ t.evSet (tileSrc u 6) = true ∧ t.eng u 8 = s.eng u 8) ∧
        (∀ v, v ≠ u → t.tile v = s.tile v) ∧ t.tb = s.tb ∧ t.regs = s.regs ∧ t.msg = s.msg)) ∧
    ((s.eng u (2 * p)).voting = true → who = .odd →
      Answers (.lockstepMismatch u p who) s (fun t => (t.eng u (2 * p + 1)).st = 5 ∧ (t.eng u 8).serving = 2 * p + 1 ∧
        (t.eng u (2 * p)).voting = false ∧ (t.eng u (2 * p)).pc = (s.eng u (2 * p)).pc ∧
        t.dep.failovers = min 65535 (s.dep.failovers + 1) ∧ t.evSet (tileSrc u 4) = true ∧
        (∀ v, v ≠ u → t.tile v = s.tile v) ∧ t.tb = s.tb ∧ t.regs = s.regs ∧ t.msg = s.msg)) ∧
    ((s.eng u (2 * p)).voting = true → who = .spare →
      Answers (.lockstepMismatch u p who) s (fun t => (t.eng u 8).serving = 15 ∧ (t.eng u (2 * p)).voting = false ∧
        (t.eng u (2 * p)).pc = (s.eng u (2 * p)).pc ∧ t.evSet (tileSrc u 4) = true ∧ t.dep = s.dep ∧
        (∀ v, v ≠ u → t.tile v = s.tile v) ∧ t.tb = s.tb ∧ t.regs = s.regs ∧ t.msg = s.msg))

/-! ### Triggered read-out, prompt outputs -/

/-- TRIGGER. The trigger time is the latest instant not after the arrival whose nanoseconds end in TLOW; the window starts
OFFSET after it and lasts WIDTH. The first reason that applies, in the order of the table, refuses the trigger, which is
counted, answered with TREF and raises the refused-trigger event; one that is not refused waits for its decision in the order
of D, with a read mark in each tile that it needs. -/
def Obligations.TriggersArrive : Prop :=
  (∀ a low : Nat, a < 10 ^ 9 → low < 2 ^ 24 →
    (low ≤ a → trigLatency a low ≤ a ∧ trigLatency a low < 2 ^ 24 ∧ (a - trigLatency a low) % 2 ^ 24 = low) ∧
    (a < low → a < trigLatency a low ∧ (a + 10 ^ 9 - trigLatency a low) % 2 ^ 24 = low ∧
      trigLatency a low ≤ a + 2 ^ 24)) ∧
  (∀ (s : State) (b : BitVec 56), s.up = true → s.lk.dn = .slot → bits b.toNat 55 52 < 12 →
    let p := s.trigOf b.toNat
    let l := trigLatency s.now.ns (bits b.toNat 23 0)
    (p.w0 = (s.tb.age : Int) * 8 - l + signed 16 (s.trgWin p.code) ∧ p.w1 = p.w0 + bits (s.trgWin p.code) 27 16 ∧
      p.d = max ((s.tb.age : Int) * 8) (p.w1 + 128)) ∧
    (bits b.toNat 51 50 ≠ 0 → s.arrivalReason p l = some 1) ∧
    (bits b.toNat 51 50 = 0 → bit (s.trgCap p.code) 16 = false → s.arrivalReason p l = some 2) ∧
    (bits b.toNat 51 50 = 0 → bit (s.trgCap p.code) 16 = true → 65528 < l → s.arrivalReason p l = some 3) ∧
    (∀ r, s.arrivalReason p l = some r → Answers (.trigger b false) s (fun t => t.eb.tref = (s.eb.tref + 1) % 2 ^ 32 ∧
      t.eb.lastReason = r ∧ t.eb.lastId = p.id ∧ t.evSet (chipSrc 14) = true ∧ t.eb.pending = s.eb.pending ∧
      t.eb.events = s.eb.events ∧ (∀ v, (t.tile v).marks = (s.tile v).marks) ∧ t.tb = s.tb ∧ t.regs = s.regs ∧ t.msg = s.msg)) ∧
    (s.arrivalReason p l = none → Answers (.trigger b false) s (fun t => t.eb.pending = insPending p s.eb.pending ∧
      t.eb.nextOrd = s.eb.nextOrd + 1 ∧ t.eb.events = s.eb.events ∧
      (∀ v, (∃ n f, (v, n, f) ∈ s.markTiles p) → ∃ m : Mark, (t.tile v).marks = (s.tile v).marks ++ [m] ∧ m.owner = p.ord ∧
        m.pos = (s.winSpan v p.w0 p.w1).1) ∧
      (∀ v, (∀ n f, (v, n, f) ∉ s.markTiles p) → t.tile v = s.tile v) ∧
      { t with eb := s.eb, tiles := s.tiles } = s)))

/-- TRIGGER_DECIDE: the pending trigger of least D is decided no earlier than its D and 250 ns after the decision before, on the
hit counts of its tiles, whose scan reads the latency buffers with their parity check. One
that is refused gives its marks up; one that is accepted is counted and keeps its event, with one fragment per tile of its
topology, none where WIDTH is 0, and its link words join the backlog. -/
def Obligations.TriggersAreDecided : Prop :=
  ∀ (s : State) (p : Trig) (rest : List Trig), s.up = true → s.eb.pending = p :: rest →
    Answers .triggerDecide s (fun t =>
      let at_ := max (max s.eb.clock p.d) (s.tb.age * 8 : Nat)
      let z := forKeys (topoTiles p.topo) (fun v (z : State) => z.scanReads v p) ({ s.advanceTo ((at_ + 7) / 8).toNat with
        eb := { s.eb with pending := rest, clock := at_ + 250 } })
      t.eb.pending = rest ∧ t.eb.clock = at_ + 250 ∧
      t.tb.age = max s.tb.age ((at_ + 7) / 8).toNat ∧
      (∀ r, z.decideReason p (eventSize (z.newFrags p)) = some r → t.eb.tref = (s.eb.tref + 1) % 2 ^ 32 ∧
        t.eb.lastReason = r ∧ t.evSet (chipSrc 14) = true ∧ t.eb.events = s.eb.events ∧ t.eb.backlog = s.eb.backlog ∧
        ∀ v, v < 64 → ∀ m ∈ (t.tile v).marks, m.owner ≠ p.ord) ∧
      (z.decideReason p (eventSize (z.newFrags p)) = none → t.eb.tacc = (s.eb.tacc + 1) % 2 ^ 32 ∧
        t.eb.backlog = s.eb.backlog + linkWords (eventSize (z.newFrags p)) ∧
        t.eb.events = s.eb.events ++ [({ trig := p, size := eventSize (z.newFrags p), frags := z.newFrags p, tacc := t.tb.age } : Event)] ∧
        (z.newFrags p).map (·.tile) = (if p.width = 0 then [] else topoTiles p.topo)) ∧
      (∀ v, (z.tile v).marks = (s.tile v).marks) ∧ t.regs = s.regs ∧ t.msg = s.msg)

/-- FRAGMENT_COPY of one buffer position, FRAGMENT_DEADLINE and EVENT_SEND. A fragment with all its words, or at the end of its range, is done and
counted (poisoned words take a place only where the count is above the cap, the model's reading, log entry 133); an intact record of the window joins the fragment and one outside it is passed over. A fragment that is not done 8
µs after TACC is reported so and raises its event. An event whose fragments are done goes to the event stream in frames of at
most 1,024 words. -/
def Obligations.EventsAreBuilt : Prop :=
  (∀ (s : State) (u : Nat) (e : Event) (f : Frag), s.up = true → u < s.nTiles → (s.tile u).powered = true →
    (s.tile u).inReset = false → f.done = false →
    findFrag u (fun f => (f.done && decide (2 ≤ f.status) && !f.late) || !f.done) s.eb.events = some (e, f) →
    Answers (.fragmentCopy u 1) s (fun t =>
      let x := s.qWord u (s.lbq u) f.pos
      let g : Frag := { f with
        pos := ringAdd (s.qCap u (s.lbq u)) f.pos 1
        words := if inWindow e.trig.w0 e.trig.w1 x.age x.w then f.words ++ [x.w] else f.words }
      (f.full = true →
        t.eb.events = updFrag u (fun f => !f.done)
          (fun f => { f with done := true, status := if f.poison = 0 then 0 else 1 }) s.eb.events ∧
        (t.tile u).roCnt = ((s.tile u).roCnt + 1) % 2 ^ 32) ∧
      (f.full = false → parity x.w = x.par → g.full = false →
        findFrag u (fun f => !f.done) t.eb.events = some ({ e with frags := e.frags.map (fun h => if h.tile = u ∧ !h.done then g else h) }, g) ∨
        1 < (e.frags.filter (fun h => decide (h.tile = u) && !h.done)).length) ∧
      (∀ v, v ≠ u → t.tile v = s.tile v) ∧ t.tb = s.tb ∧ t.regs = s.regs ∧ t.msg = s.msg)) ∧
  (∀ (s : State) (u : Nat) (e : Event) (f : Frag), s.up = true → u < s.nTiles →
    findFrag u (fun f => !f.done) s.eb.events = some (e, f) →
    Answers (.fragmentDeadline u) s (fun t => t.tb.age = max s.tb.age (e.tacc + 1000) ∧
      t.eb.events = updFrag u (fun f => !f.done) (fun g => { g with
        done := true, status := if (s.tile u).inReset then 4 else if f.words.isEmpty then 3 else 2 }) s.eb.events ∧
      t.eb.absent = min 65535 (s.eb.absent + 1) ∧ t.eb.absentTile = u ∧ t.evSet (chipSrc 15) = true ∧
      (∀ v, v ≠ u → t.tile v = s.tile v) ∧ t.regs = s.regs ∧ t.msg = s.msg)) ∧
  (∀ (s : State) (e : Event), s.up = true → s.eb.events.find? (fun e => !e.sent) = some e → (∀ f ∈ e.frags, f.done = true) →
    (∀ k, s.bad2 .event k 1 = false) →
    Answers .eventSend s (fun t => ∃ fs : List (List W64), fs.flatten = eventWords e ∧ (∀ w ∈ fs, w.length ≤ 1024) ∧
      (t.stream 1 0).wait = (s.stream 1 0).wait ++ fs.map (fun w => { words := w, ev := e.trig.ord }) ∧
      t.eb.events = s.eb.events.map (fun y => if y.trig.ord = e.trig.ord then { y with sent := true, unacked := fs.length } else y) ∧
      t.tiles = s.tiles ∧ t.tb = s.tb ∧ t.regs = s.regs ∧ t.msg = s.msg))

/-- PROMPT_WORD: each pair sends its word in every slot, all zeros where it is off or the outputs are dark, 0xFF00 in the
test mode, otherwise the majority of the three copies, bit by bit; pairs whose copies disagree are counted. PR_CTRL takes its
RW fields at the next slot boundary. -/
def Obligations.PromptOutputs : Prop :=
  (∀ s : State, s.up = true → Answers .promptWord s (fun t =>
    (∀ p, p < 16 → mapGet (fun _ => 0) t.pr.words p =
      if s.prDark = true ∨ bit (s.rv 0x6400) p = false then 0
      else if bit (s.rv 0x6400) 16 then 0xFF00
      else (s.prVoted p s.tb.age).1) ∧
    (∀ n, n = ((List.range 16).filter (fun p => (s.prVoted p s.tb.age).2)).length →
      t.pr.votes = if n = 0 then s.pr.votes else min 65535 (s.pr.votes + n)) ∧
    t.tb.age = s.tb.age + 1 ∧ t.regs = s.regs ∧ t.msg = s.msg ∧ t.eb = s.eb)) ∧
  (∀ (s : State) (p a b : Nat), p < 16 → b < 16 → (s.prVoted p a).1.getLsbD b =
    majority (s.prBit .one p b a) (s.prBit .two p b a) (s.prBit .three p b a)) ∧
  (∀ (s : State) (w : BitVec 32), s.up = true → Answers (.prCtrlWrite w) s (fun t => t.rv 0x6400 = w.toNat % 2 ^ 17 ∧
    (∀ a, a ≠ 0x6400 → t.rv a = s.rv a) ∧ t.tb.age = s.tb.age + 1 ∧ { t with tb := s.tb, regs := s.regs } = s))

/-! ### Links -/

/-- The receiver's states: clock, comma, slot lock, each from the one before; the loss of slot lock or signal, which in SLOT
raises slot-lost. In automatic selection the reference follows slot lock, and its change acts as the loss of the reference (at
once, the model's choice, log entry 124). An idle slot has no effect; a slot that arrives damaged, or a control slot outside a frame, is discarded
and counted; an operation that the table does not list is refused and counted. A fast command or LINK operation with a
reserved bit set, and an operation on a lane that is not in use or is the odd lane of a pair, is refused: it is counted and
has no other effect. -/
def Obligations.ReceiverAndRefusals : Prop :=
  ((∀ s : State, s.up = true →
    (s.lk.dn = .noSignal → exec .dnClockRecovered s = .next { s with lk := { s.lk with dn := .cdr } }) ∧
    (s.lk.dn = .cdr → exec .dnCommaLock s = .next { s with lk := { s.lk with dn := .char } }) ∧
    (s.lk.dn = .char → s.fld 0x1000 1 0 ≠ 0 → exec .dnSlotLock s = .next { s with lk := { s.lk with dn := .slot } }) ∧
    (s.lk.dn = .char → s.fld 0x1000 1 0 = 0 → Answers .dnSlotLock s (fun t => t.lk.dn = .slot ∧ t.tb.refOk = false ∧
      t.tb.refAct = false ∧ (s.tb.st = .locked → t.tb.st = .holdover ∧ t.evSet (chipSrc 0) = true))) ∧
    (s.lk.dn = .slot → Answers .dnSlotLost s (fun t => t.lk.dn = .char ∧ t.evSet (chipSrc 10) = true ∧
      (s.fld 0x1000 1 0 ≠ 0 → ({ s with lk := { s.lk with dn := .char } } : State).EventsApart t) ∧
      (s.fld 0x1000 1 0 = 0 → t.tb.refOk = false ∧ t.tb.refAct = true ∧
        (s.tb.st = .locked → t.tb.st = .holdover ∧ t.evSet (chipSrc 0) = true)))) ∧
    Answers .dnSignalLost s (fun t => t.lk.dn = .noSignal ∧ (s.lk.dn = .slot → t.evSet (chipSrc 10) = true) ∧
      (s.lk.dn ≠ .slot ∨ s.fld 0x1000 1 0 ≠ 0 → ({ s with lk := { s.lk with dn := .noSignal } } : State).EventsApart t) ∧
      (s.lk.dn = .slot → s.fld 0x1000 1 0 = 0 → t.tb.refOk = false ∧ t.tb.refAct = true ∧
        (s.tb.st = .locked → t.tb.st = .holdover ∧ t.evSet (chipSrc 0) = true)))) ∧
  (∀ (s : State) (b : BitVec 56) (op : BitVec 4) (c : BitVec 48), s.up = true → s.lk.dn = .slot →
    exec (.idleSlot b false) s = .next s ∧
    exec (.idleSlot b true) s = .next { s with lk := { s.lk with dnDisc := min 65535 (s.lk.dnDisc + 1) } } ∧
    exec (.orphanControlSlot b false) s = .next { s with lk := { s.lk with dnDisc := min 65535 (s.lk.dnDisc + 1) } } ∧
    (6 ≤ op.toNat → exec (.unknownLinkOperation op c false) s =
      .next { s with lk := { s.lk with dnRefused := min 65535 (s.lk.dnRefused + 1) } }))) ∧
  (∀ s : State, s.up = true → s.lk.dn = .slot →
    let no : State := { s with lk := { s.lk with dnRefused := min 65535 (s.lk.dnRefused + 1) } }
    (∀ b : BitVec 52, Nat.land b.toNat 0xF000000FFFFFF ≠ 0 → exec (.blockClose b false) s = .next no ∧ exec (.sync b false) s = .next no) ∧
    (∀ b : BitVec 52, b ≠ 0 → exec (.snapshot b false) s = .next no) ∧
    (∀ b : BitVec 48, Nat.land b.toNat 0x1F000000FFFF ≠ 0 ∨ s.usedLane (bits b.toNat 47 45) = false ∨
        s.leadOf (bits b.toNat 47 45) ≠ bits b.toNat 47 45 → exec (.ack b false) s = .next no ∧ exec (.nak b false) s = .next no) ∧
    (∀ b : BitVec 48, Nat.land b.toNat 0x1FFFFFFFFFFF ≠ 0 ∨ s.usedLane (bits b.toNat 47 45) = false ∨
        s.leadOf (bits b.toNat 47 45) ≠ bits b.toNat 47 45 → exec (.laneUp b false) s = .next no ∧ exec (.retrain b false) s = .next no) ∧
    (∀ b : BitVec 48, s.issued (bits b.toNat 47 40) (bits b.toNat 39 32) = false →
      exec (.pause b false) s = .next no ∧ exec (.resume b false) s = .next no))

/-- The fast commands and LINK operations that an intact slot carries: BLOCK_CLOSE closes every open result frame and ends
each result stream in use with its record; SYNC answers with its record; ACK frees the frames up to its LSEQ and NAK has
those from its LSEQ on resent behind one IDLE block; LANE_UP takes the training lanes UP, which then send an IDLE block, RETRAIN takes the lane back; PAUSE and RESUME set and end
a stream's pause. -/
def Obligations.FastCommands : Prop :=
  (∀ (s : State) (b : BitVec 52), s.up = true → s.lk.dn = .slot → Nat.land b.toNat 0xF000000FFFFFF = 0 →
    Answers (.blockClose b false) s (fun t => (∀ j, j < 128 → (t.stream 2 j).opened = none) ∧
      (∀ j ∈ s.resultIndices, (t.stream 2 j).wait.getLast? = some { words := [blockCloseRecord (bits b.toNat 47 24)] }) ∧
      { t with lk := { t.lk with streams := s.lk.streams } } = s) ∧
    Answers (.sync b false) s (fun t =>
      (t.stream 4 0).wait = (s.stream 4 0).wait ++ [{ words := [syncRecord (bits b.toNat 47 24)] }] ∧
      { t with lk := { t.lk with streams := s.lk.streams } } = s)) ∧
  (∀ (s : State) (b : BitVec 48) (l q : Nat), s.up = true → s.lk.dn = .slot → l = bits b.toNat 47 45 →
    q = bits b.toNat 39 16 → Nat.land b.toNat 0x1F000000FFFF = 0 → s.usedLane l = true → s.leadOf l = l → s.awaits l q = true →
    Answers (.ack b false) s (fun t => (t.lane l).ack = q ∧
      (t.lane l).unack = (s.lane l).unack.filter (fun u => decide (0 < lseqDiff u.lseq q)) ∧
      (∀ k, k ≠ l → t.lane k = s.lane k) ∧ t.tb = s.tb ∧ t.tiles = s.tiles ∧ t.regs = s.regs ∧ t.msg = s.msg) ∧
    Answers (.nak b false) s (fun t => t.lk.nakCnt = min 65535 (s.lk.nakCnt + 1) ∧ (t.lane l).ack = (s.lane l).ack ∧
      (t.lane l).unack = (s.lane l).unack.map (fun u => if 0 ≤ lseqDiff u.lseq q then { u with waiting := true } else u) ∧
      (t.lane l).idle = true ∧
      (∀ k, k ≠ l → t.lane k = s.lane k) ∧ t.eb = s.eb ∧ t.tb = s.tb ∧ t.tiles = s.tiles ∧ t.regs = s.regs ∧ t.msg = s.msg)) ∧
  (∀ (s : State) (b : BitVec 48) (l : Nat), s.up = true → s.lk.dn = .slot → l = bits b.toNat 47 45 →
    Nat.land b.toNat 0x1FFFFFFFFFFF = 0 → s.usedLane l = true → s.leadOf l = l →
    ((∃ k ∈ s.members l, s.laneSt k = .train) → Answers (.laneUp b false) s (fun t =>
      (∀ k ∈ s.members l, s.laneSt k = .train → t.laneSt k = .up) ∧ t.lk.linkDown = false ∧ t.lk.hostReset = false ∧
      (s.leadUp l = false → (t.lane l).idle = true ∧ ∀ u ∈ (t.lane l).unack, u.waiting = true ∧ u.exempt = true) ∧ (∀ k, k ∉ s.members l → t.lane k = s.lane k) ∧
      t.tb = s.tb ∧ t.tiles = s.tiles ∧ t.regs = s.regs ∧ t.msg = s.msg)) ∧
    (s.lk.pllLock = true → Answers (.retrain b false) s (fun t => (∀ k ∈ s.members l, (t.lane k).st = .train) ∧
      (∀ k, k ∉ s.members l → t.lane k = s.lane k) ∧ { t with lk := s.lk } = s))) ∧
  (∀ (s : State) (b : BitVec 48) (c j : Nat), s.up = true → s.lk.dn = .slot → c = bits b.toNat 47 40 →
    j = bits b.toNat 39 32 → s.issued c j = true →
    (bits b.toNat 15 0 = 0 → bits b.toNat 31 16 ≠ 0 → Answers (.pause b false) s (fun t =>
      t.pauseOf c j = some (s.tb.age + bits b.toNat 31 16 * 125) ∧ (c = 2 → (t.stream 2 j).opened = none) ∧
      (∀ d k, streamKey d k ≠ streamKey c j → t.pauseOf d k = s.pauseOf d k ∧ t.stream d k = s.stream d k) ∧
      { t with lk := s.lk } = s)) ∧
    (bits b.toNat 31 0 = 0 → Answers (.resume b false) s (fun t => t.pauseOf c j = none ∧
      (∀ d k, streamKey d k ≠ streamKey c j → t.pauseOf d k = s.pauseOf d k) ∧
      { t with lk := { t.lk with paused := s.lk.paused } } = s)))

/-- FRAME_TRANSMIT on a lane that is UP: when the transmitter is free, a frame that waits to be resent, of a stream that is
not paused, goes first with its LSEQ, behind the IDLE block that the lane owes; otherwise a new frame, the lowest class of 0x03
to 0x07 first while the first tier stays within its bound (what yields beyond it is the model's choice, log entry 113), takes the
lane's next LSEQ and its stream's next SEQ, and is held until it is acknowledged. A new frame goes on the lane whose transmitter
is free first; on another lane none starts but class 0x05 on lane 0. -/
def Obligations.FramesAreSent : Prop :=
  ∀ (s z : State) (l : Nat), s.up = true → l < 8 → s.leads.contains l = true → s.leadUp l = true → z = s.advanceTo (s.lane l).free →
    (∀ u, s.resendNext l = some u → (∀ a, s.bad2 .replay a 1 = false) →
      Answers (.frameTransmit l) s (fun t => t.tb.age = max s.tb.age (s.lane l).free ∧
        (t.lane l).unack = (s.lane l).unack.map (fun v => if v.lseq = u.lseq
          then { v with waiting := false, exempt := false,
                        sent := t.tb.age + s.txSlots (u.frame.words.length + 2 + b2n (s.lane l).idle) } else v) ∧
        (t.lane l).idle = false ∧ (t.lane l).next = (s.lane l).next ∧ t.lk.streams = s.lk.streams ∧ t.tiles = s.tiles ∧
        t.regs = s.regs ∧ t.msg = s.msg)) ∧
    (∀ c f rest, s.resendNext l = none → s.nextLane = some l → s.stranded l = none →
      [3, 4, 5, 6, 7].find? (fun c => z.canSend l c 0 && z.tier1Goes l c) = some c → s.nextFrame c 0 = some (f, rest) →
      Answers (.frameTransmit l) s (fun t => t.tb.age = max s.tb.age (s.lane l).free ∧
        (t.lane l).next = ((s.lane l).next + 1) % 2 ^ 24 ∧
        (t.lane l).unack = (s.lane l).unack ++
          [{ lseq := (s.lane l).next, frame := f,
             sent := t.tb.age + s.txSlots (f.words.length + 2 + b2n (s.lane l).idle) }] ∧
        f.seq = (s.stream c 0).seq ∧ (t.stream c 0).seq = ((s.stream c 0).seq + 1) % 2 ^ 32 ∧ (t.stream c 0).wait = rest ∧
        (∀ d k, streamKey d k ≠ streamKey c 0 → t.stream d k = s.stream d k) ∧ (∀ k, k ≠ l → t.lane k = s.lane k) ∧
        t.eb = s.eb ∧ t.tiles = s.tiles ∧ t.regs = s.regs ∧ t.msg = s.msg)) ∧
    (∀ f rest, s.resendNext l = none → s.nextLane = some l → s.stranded l = none →
      (∀ c ∈ [3, 4, 5, 6, 7], z.canSend l c 0 = false ∨ z.tier1Goes l c = false) → s.canSend l 1 0 = true →
      (∀ j, j < 128 → s.canSend l 2 j = false) → s.nextFrame 1 0 = some (f, rest) →
      Answers (.frameTransmit l) s (fun t => (t.stream 1 0).wait = rest ∧
        (t.stream 1 0).seq = ((s.stream 1 0).seq + 1) % 2 ^ 32 ∧
        t.eb.backlog = (if f.ev = 0 then s.eb.backlog else s.eb.backlog - (f.words.length + 2)) ∧
        t.tiles = s.tiles ∧ t.regs = s.regs ∧ t.msg = s.msg)) ∧
    (∀ k, s.resendNext l = none → s.nextLane = some k → k ≠ l → l ≠ 0 ∨ s.canSend 0 5 0 = false →
      exec (.frameTransmit l) s = .next s)

/-- RESULT_FRAME_CLOSE, the link PLL, LANE_DEGRADED, LRESET and RETRAIN of LK_CTRL. An open result frame closes FCLOSE
microseconds after its opening, at once when it is full. Lock takes the used lanes from DOWN to TRAIN; loss takes them DOWN
with its event. A link reset starts the receiver and the lanes anew, ends the secure session, and is recorded as the last
reset. -/
def Obligations.UplinkChanges : Prop :=
  (∀ (s : State) (j : Nat) (f : OpenFrame), s.up = true → j < 128 → (s.stream 2 j).opened = some f →
    Answers (.resultFrameClose j) s (fun t => (t.stream 2 j).opened = none ∧
      (t.stream 2 j).wait = (s.stream 2 j).wait ++ [{ words := f.payload }] ∧ (t.stream 2 j).seq = (s.stream 2 j).seq ∧
      t.tb.age = (if f.payload.length < 1024 then max s.tb.age (f.since + s.fld 0x3008 4 0 * 125) else s.tb.age) ∧
      (∀ d k, streamKey d k ≠ streamKey 2 j → t.stream d k = s.stream d k) ∧
      { t with tb := s.tb, lk := { t.lk with streams := s.lk.streams } } = s)) ∧
  (∀ s : State, s.up = true → Answers .linkPllLock s (fun t => t.lk.pllLock = true ∧
    (∀ l, l < 8 → s.usedLane l = true → (s.lane l).st = .down → (t.lane l).st = .train) ∧
    (∀ l, (s.lane l).st ≠ .down → t.lane l = s.lane l) ∧ { t with lk := s.lk } = s)) ∧
  (∀ s : State, s.up = true → s.lk.pllLock = true → Answers .linkPllLoss s (fun t => t.lk.pllLock = false ∧
    t.lk.linkDown = true ∧ (∀ l, l < 8 → s.usedLane l = true → (t.lane l).st = .down) ∧ t.evSet (chipSrc 11) = true ∧
    ({ s with lk := t.lk } : State).EventsApart t)) ∧
  (∀ (s : State) (l m : Nat), s.up = true → l < 8 → m = (if l % 2 = 0 then l + 1 else l - 1) → s.pairs = true →
    s.laneSt l = .up → s.laneSt m = .up →
    Answers (.laneDegraded l) s (fun t => (t.lane l).st = .down ∧ t.laneSt m = .up ∧ (t.lane l).unack = (s.lane l).unack ∧
      t.evSet (chipSrc 12) = true ∧ (∀ k, k ≠ l → t.lane k = s.lane k) ∧ ({ s with lk := t.lk } : State).EventsApart t)) ∧
  (∀ (s : State) (h : Option CtlHead), s.up = true → s.pw.soft = false →
    Answers (.lreset h) s (fun t => t.lk.dn = .noSignal ∧ t.lk.hostReset = true ∧ t.sup.hostGen = genNext s.sup.hostGen ∧
      t.sup.secCnt = 0 ∧ t.pw.cause = 3 ∧
      (∀ l, l < 8 → s.usedLane l = true → (t.lane l).st = if s.lk.pllLock then .train else .down) ∧
      (s.lk.dn = .slot → t.evSet (chipSrc 10) = true) ∧ t.tb.age = s.tb.age + 1 ∧ t.eb = s.eb ∧ t.regs = s.regs ∧ t.msg = s.msg)) ∧
  (∀ s : State, s.up = true → Answers .lkRetrain s (fun t =>
    (∀ l, l < 8 → s.usedLane l = true → (t.lane l).st = if s.lk.pllLock then .train else .down) ∧
    t.tb.age = s.tb.age + 1 ∧ { t with tb := s.tb, lk := s.lk } = s))

/-- FCI inputs, pauses and stalls. A rising input pauses the streams it maps and closes their open frames, a falling one
releases them. An input high past its HOLD, a pause past its duration and a frame unacknowledged for more than 50 µs start a
stall, which is counted with its event; it ends when no such condition holds, and the longest one is kept in µs. -/
def Obligations.PausesAndStalls : Prop :=
  (∀ (s : State) (k : Nat), s.up = true → k < 4 →
    (s.fciHigh k = none → Answers (.fciChange k true) s (fun t => t.fciHigh k = some s.tb.age ∧
      (∀ j, j < 128 → s.fciMaps k 2 j = true → (t.stream 2 j).opened = none ∧ t.isPaused 2 j = true) ∧
      (∀ j, j ≠ k → t.fciHigh j = s.fciHigh j) ∧ { t with lk := s.lk } = s)) ∧
    (∀ a, s.fciHigh k = some a → Answers (.fciChange k false) s (fun t => t.fciHigh k = none ∧
      (∀ j, j ≠ k → t.fciHigh j = s.fciHigh j) ∧ t.lk.streams = s.lk.streams ∧ { t with lk := s.lk } = s)) ∧
    (∀ a, s.fciHigh k = some a → s.fciMapsAny k = true → s.lk.stallAge = none →
      Answers (.fciHoldExpiry k) s (fun t => t.tb.age = max s.tb.age (a + s.fld (0x3040 + 16 * k) 31 16 * 125 + 1) ∧
        t.lk.stallAge = some t.tb.age ∧ t.lk.stalls = min 65535 (s.lk.stalls + 1) ∧ t.evSet (chipSrc 13) = true ∧
        ({ s with tb := t.tb, lk := t.lk } : State).EventsApart t))) ∧
  (∀ (s : State) (c j a : Nat), s.up = true → streamKey c j < 1024 → s.pauseOf c j = some a → s.lk.stallAge = none →
    Answers (.pauseExpiry c j) s (fun t => t.tb.age = max s.tb.age (a + 1) ∧ t.lk.stallAge = some t.tb.age ∧
      t.lk.stalls = min 65535 (s.lk.stalls + 1) ∧ t.evSet (chipSrc 13) = true ∧
      ({ s with tb := t.tb, lk := t.lk } : State).EventsApart t)) ∧
  (∀ (s : State) (l : Nat) (u : Unacked), s.up = true → l < 8 → s.leads.contains l = true → s.leadUp l = true →
    u ∈ (s.lane l).unack → u.exempt = false → (∀ v ∈ (s.lane l).unack, v.exempt = false → u.sent ≤ v.sent) →
    s.lk.stallAge = none →
    Answers (.ackTimeout l) s (fun t => t.tb.age = max s.tb.age (u.sent + 6251) ∧ t.lk.stallAge = some t.tb.age ∧
      t.lk.stalls = min 65535 (s.lk.stalls + 1) ∧ t.evSet (chipSrc 13) = true ∧
      ({ s with tb := t.tb, lk := t.lk } : State).EventsApart t)) ∧
  (∀ (s : State) (a : Nat), s.up = true → s.lk.stallAge = some a → s.stallNow = false →
    exec .stallEnd s = .next { s with lk := { s.lk with
      stallAge := none, longest := max s.lk.longest (min 65535 ((s.tb.age - a + 124) / 125)) } })

/-! ### Calibration, checks of the spare, contact sheet -/

/-- TRACK_TICK, DAC_STEP, CONTACT_SHEET_REFRESH and DMM_INTERVAL. The tracking tick takes each tile's temperature (its sensor's reading less
TEMP_OFS, the model's reading, log entry 139) as its new target's, unless the targets are held, and flags channels outside the range; a DAC step moves every live code of a powered
tile by at most one toward its target; a refresh notes each channel's counts; every count of decode mismatches restarts each
128,000 slots. -/
def Obligations.TrackingAndRefresh : Prop :=
  (∀ (s : State) (temps : List (Option Int)), s.up = true → s.supRuns = true → bit (s.rv 0x8018) 8 = true →
    Answers (.trackTick temps) s (fun t => t.tb.age = max s.tb.age (s.sup.trackAge + s.fld 0x8018 7 0 * 1250000) ∧
      t.sup.trackAge = t.tb.age ∧
      (∀ u, u < s.nTiles →
        let v := ((temps[u]?).getD none).map (s.tempOf u)
        (t.tile u).temp = v ∧ (t.tile u).trackT = (if s.sup.trackHold = true ∨ v = none then (s.tile u).trackT else v) ∧
        (∀ c, c < 17 → ((t.chan u c).sheet.outT = false ↔ ∃ x, v = some x ∧ -640 ≤ x ∧ x ≤ 1360)) ∧
        ((∀ x, v = some x → x < -640 ∨ 1360 < x) → t.evSet (chipSrc 21) = true)) ∧
      t.regs = s.regs ∧ t.msg = s.msg ∧ t.cal = s.cal)) ∧
  (∀ s : State, s.up = true → s.sup.restarting = false → s.sup.trackHold = false →
    Answers .dacStep s (fun t => t.tb.age = s.tb.age + 125 ∧
      (∀ u c k, u < s.nTiles → (s.tile u).powered = true → c < 17 → (s.chan u c).trimHeld = false → (s.chan u c).lost = none →
        k < (if c = 16 then 83 else 67) →
        let v := (s.chan u c).liveCode k
        (v < s.presentTarget u c k → (t.chan u c).liveCode k = v + 1) ∧
        (s.presentTarget u c k < v → (t.chan u c).liveCode k = v - 1) ∧
        (v = s.presentTarget u c k → (t.chan u c).liveCode k = v)) ∧
      (∀ u c, (s.tile u).powered = false ∨ (s.chan u c).trimHeld = true → t.chan u c = s.chan u c) ∧
      { t with tb := s.tb, tiles := s.tiles } = s)) ∧
  (∀ s : State, s.up = true → s.supRuns = true → s.phase = .running →
    Answers .contactSheetRefresh s (fun t => t.tb.age = max s.tb.age (s.sup.sheetAge + s.fld 0x8040 7 0 * 1250000) ∧
      t.sup.sheetAge = t.tb.age ∧
      (∀ u c, u < s.nTiles → (s.tile u).powered = true → c < 16 → s.chEn u c = true → s.spareServesInput u c = false →
        (t.chan u c).sheet.lastEdges = (s.chan u c).edges ∧ (t.chan u c).sheet.lastFull = (s.chan u c).full ∧
        ((s.chan u c).edges ≠ (s.chan u c).sheet.lastEdges → (s.chan u c).edges < 2 ^ 32 →
          (s.chan u c).sheet.lastEdges < 2 ^ 32 → (t.chan u c).sheet.deadRun = 0)) ∧
      t.regs = s.regs ∧ t.msg = s.msg ∧ t.cal = s.cal)) ∧
  (∀ s : State, s.up = true →
    Answers .dmmInterval s (fun t => t.tb.age = (s.tb.age / 128000 + 1) * 128000 ∧ (∀ u c, (t.chan u c).dmm = 0) ∧
      (∀ u c, { t.chan u c with dmm := (s.chan u c).dmm } = s.chan u c) ∧ { t with tb := s.tb, tiles := s.tiles } = s))

/-- Proof runs. A start with none of the reasons of the table begins with the handover of a serving channel, or at once
off-line with the swap check; a refused one reports its reason with its event; an abort restores the old codes and ends the
run with reason 8. Each pass ends with its crossings or at CAL_TIMEOUT and stores its
count; the last one that fails a test ends the run with that test's reason. The end
of the ageing copy's write ends the run without a reason, or with reason 10 where the write failed. -/
def Obligations.ProofRuns : Prop :=
  (∀ (s : State) (w : BitVec 18) (u c : Nat), s.up = true → s.cal.run = none → bits w.toNat 14 12 ≤ 4 →
    u = bits w.toNat 5 0 → c = bits w.toNat 10 6 →
    Answers (.calStart w) s (fun t =>
      (∀ k, s.proofRefusal u c (bit w.toNat 11) = some k → t.cal.run = none ∧ t.cal.reason = k ∧ t.cal.resTile = u ∧
        t.cal.resChan = c ∧ t.evSet (chipSrc 20) = true) ∧
      (s.proofRefusal u c (bit w.toNat 11) = none → ∃ r, t.cal.run = some r ∧ r.tile = u ∧ r.chan = c ∧
        r.internal = bit w.toNat 11 ∧ r.hits = bits w.toNat 14 12 ∧ r.passes = bits w.toNat 17 16 + 1 ∧
        (s.chEn u c = true → c < 16 → s.spareServesInput u c = false → r.phase = 1) ∧
        (s.chEn u c = false ∨ c = 16 ∨ s.spareServesInput u c = true →
          r.phase = 2 ∧ (t.chan u c).check.busy = true ∧ (t.chan u c).check.swap = true ∧ (t.chan u c).trimHeld = true ∧
          r.codes = (s.chan u c).live)) ∧
      (∀ a, a ≠ 0x8000 → t.rv a = s.rv a) ∧ t.tb.age = s.tb.age + 1 ∧ t.msg = s.msg)) ∧
  (∀ (s : State) (w : BitVec 18), s.up = true → s.cal.run.isSome = true → bits w.toNat 14 12 ≤ 4 →
    Answers (.calStart w) s (fun t => t.refReason = 4 ∧ t.cal.run = s.cal.run ∧ t.cal.reason = 16 ∧
      t.evSet (chipSrc 20) = true ∧ t.regs = s.regs)) ∧
  (∀ (s : State) (r : ProofRun), s.up = true → s.cal.run = some r → r.phase = 2 ∨ r.phase = 3 → r.handed = false →
    s.fld 0x8000 14 12 ≤ 4 →
    Answers .calAbort s (fun t => t.cal.run = none ∧ t.cal.reason = 8 ∧ t.cal.resTile = r.tile ∧ t.cal.resChan = r.chan ∧
      (t.chan r.tile r.chan).live = r.codes ∧ (t.chan r.tile r.chan).trimHeld = false ∧
      (t.chan r.tile r.chan).cal.proof = 2 ∧ t.evSet (chipSrc 20) = true ∧ t.msg = s.msg)) ∧
  (∀ (s : State) (r : ProofRun) (d : PassData) (c : Instr), s.up = true → s.cal.run = some r → r.phase = 3 →
    d.hist.length = 1024 → (c = .proofPassEnd d ∧ d.hist.sum = 2 ^ (20 + r.hits)) ∨
      (c = .proofPassTimeout d ∧ r.internal = false ∧ d.hist.sum < 2 ^ (20 + r.hits)) →
    Answers c s (fun t => t.cal.hits = d.hist.sum ∧
      (r.pass < r.passes → ∃ q, t.cal.run = some q ∧ q.pass = r.pass + 1 ∧ q.phase = 3 ∧ q.passAge = t.tb.age ∧
        q.temps = r.temps ++ [s.tempOf r.tile d.temp]) ∧
      (∀ k, r.passes ≤ r.pass → r.handed = false → passFault d r.internal r.swapOk = some k →
        t.cal.run = none ∧ t.cal.reason = k ∧ (t.chan r.tile r.chan).live = r.codes ∧ t.evSet (chipSrc 20) = true) ∧
      (c = .proofPassEnd d → t.tb = s.tb) ∧
      (c = .proofPassTimeout d → t.tb.age = max s.tb.age (r.passAge + s.fld 0x8014 15 0 * 1250000)) ∧
      t.regs = s.regs ∧ t.msg = s.msg)) ∧
  (∀ (s : State) (r : ProofRun) (ok : Bool), s.up = true → s.cal.run = some r → r.phase = 5 → r.handed = false →
    r.failed = none → s.storeOwn = true →
    Answers (.proofStoreDone ok) s (fun t => t.cal.run = none ∧ t.cfg.job = none ∧ t.cal.reason = (if ok then 0 else 10) ∧
      (t.chan r.tile r.chan).cal.proof = (if ok then 1 else 2) ∧ (t.chan r.tile r.chan).trimHeld = false ∧
      t.evSet (chipSrc 20) = true ∧ t.tb = s.tb ∧ t.regs = s.regs ∧ t.msg = s.msg))

/-- Handovers. A request that is not refused waits for its slot boundary, where the overlap window opens; at H the matcher's
edges are captured, the serving channel changes and the counts are reported with the handover event; an abort before H leaves
the outgoing channel serving; after a handback the tap opens. -/
def Obligations.Handovers : Prop :=
  (∀ (s : State) (u : Nat) (n : BitVec 4) (dir : Bool) (ovl : BitVec 16), s.up = true → u < s.nTiles →
    (s.tile u).powered = true → ovl ≠ 0 →
    Answers (.hoStart u n dir ovl) s (fun t =>
      (s.hoRefused u n.toNat dir = false → (t.tile u).ho.req = some (n.toNat, dir, ovl.toNat) ∧
        (t.tile u).ho.reqAge = s.tb.age + 1 ∧ (t.tile u).ho.st = (s.tile u).ho.st) ∧
      (s.hoRefused u n.toNat dir = true → (t.tile u).ho = { (s.tile u).ho with result := 3 }) ∧
      t.tb.age = s.tb.age + 1 ∧ (∀ v, v ≠ u → t.tile v = s.tile v) ∧
      { t with tb := s.tb, tiles := s.tiles, regs := s.regs } = s)) ∧
  (∀ (s : State) (u : Nat), s.up = true → u < s.nTiles → (s.tile u).powered = true → s.tfld u 0x90 31 16 ≠ 0 →
    (s.tile u).ho.overlap = true ∨ (s.tile u).ho.req.isSome = true → s.cal.run = none →
    Answers (.hoAbort u) s (fun t => (t.tile u).ho.result = 2 ∧ (t.tile u).ho.req = none ∧
      (t.tile u).ho.st = (match (s.tile u).ho.st with | .toSpare => .idle | .back => .serving | x => x) ∧
      t.evSet (tileSrc u 13) = true ∧ t.tb.age = s.tb.age + 1 ∧ (∀ v, v ≠ u → t.tile v = s.tile v) ∧ t.msg = s.msg)) ∧
  (∀ (s : State) (u n ovl : Nat) (dir : Bool), s.up = true → u < s.nTiles → (s.tile u).powered = true →
    (s.tile u).ho.req = some (n, dir, ovl) →
    Answers (.handoverOpen u) s (fun t => t.tb.age = max s.tb.age (s.tile u).ho.reqAge ∧ (t.tile u).ho.req = none ∧
      (t.tile u).ho.st = (if dir then .back else .toSpare) ∧ (t.tile u).ho.served = n ∧ (t.tile u).ho.dir = dir ∧
      (dir = false → n < 31 → t.tapSel u = n ∧ (t.tile u).ho.tapped = true) ∧ (∀ v, v ≠ u → t.tile v = s.tile v) ∧
      { t with tb := s.tb, tiles := s.tiles, regs := s.regs } = s)) ∧
  (∀ (s : State) (u : Nat) (out inc : List HoEdge) (d : Int), s.up = true → u < s.nTiles → (s.tile u).ho.overlap = true →
    hoEdgesOk out = true → hoEdgesOk inc = true → s.cal.run = none →
    Answers (.handoverInstant u out inc d) s (fun t => t.tb.age = max s.tb.age (s.tile u).ho.hAge ∧ (t.tile u).ho.result = 1 ∧
      (t.tile u).ho.st = (if (s.tile u).ho.dir then .idle else .serving) ∧
      (t.tile u).ho.matched = min 15 (matchEdges out inc).2.1 ∧ (t.tile u).ho.unmOut = min 7 (matchEdges out inc).2.2.1 ∧
      (t.tile u).ho.unmIn = min 7 (matchEdges out inc).2.2.2 ∧ t.evSet (tileSrc u 13) = true ∧
      (∀ v, v ≠ u → t.tile v = s.tile v) ∧ t.regs = s.regs ∧ t.msg = s.msg)) ∧
  (∀ (out inc : List HoEdge), (matchEdges out inc).2.1 + (matchEdges out inc).2.2.1 = out.length ∧
    (matchEdges out inc).2.1 + (matchEdges out inc).2.2.2 = inc.length ∧
    (matchEdges out inc).1.length + (matchEdges out inc).2.1 = out.length + inc.length) ∧
  (∀ (s : State) (u : Nat), s.up = true → u < s.nTiles → (s.tile u).ho.release = true →
    Answers (.tapRelease u) s (fun t => t.tapSel u = 31 ∧ (t.tile u).ho.tapped = false ∧ (t.tile u).ho.release = false ∧
      t.tb.age = max s.tb.age ((s.tile u).ho.hAge + 1) ∧ (∀ v, v ≠ u → t.tile v = s.tile v) ∧
      (∀ a, a ≠ tileBase u + 0x40 → t.rv a = s.rv a) ∧ { t with tb := s.tb, tiles := s.tiles, regs := s.regs } = s))

/-! ### Configuration -/

/-- The commands of CFG_CTRL, each one host write with DEST at its present value. SLOT_CLOSE starts the write of a checked
image and SLOT_EMPTY that of an empty slot; RELOAD starts a reload; PREPARE checks the staged update; FIX arms it for an
instant on the 1.024 µs grid, 100 µs to 60 s on; CANCEL drops it. Each is refused with its reason where it cannot be done. -/
def Obligations.ConfigurationCommands : Prop :=
  ∀ s : State, s.up = true → s.cfgDest ≠ 3 →
    (s.cfgBusy = true → ∀ c ∈ [Instr.slotClose, .slotEmpty, .reload, .prepare], Answers c s (fun t => t.cfg.reason = 14 ∧
      t.cfg.job = s.cfg.job ∧ t.cfg.load = s.cfg.load ∧ t.cfg.luState = s.cfg.luState ∧ t.nv = s.nv ∧ t.tiles = s.tiles)) ∧
    (∀ b, s.cfgBusy = false → s.cfg.slotTo = some b → Answers .slotClose s (fun t =>
      let len := min slotMax (readW32 s.nv (slotBase b + 76)).toNat
      let r := ((s.advance 1).setField 0x7000 (BitVec.ofNat 32 s.cfgDest)).checkFull
        (readBytes s.nv (slotBase b + 64) (max 64 len)) slotMax
      (∀ m, r = .ok m → t.cfg.job = some (if b then .slotB else .slotA) ∧ slotLen t.nv b = len ∧ t.cfg.slotTo = none) ∧
      (∀ e, r = .error e → t.cfg.reason = e.1 ∧ t.cfg.resRecord = e.2 ∧ t.nv = s.nv ∧ t.cfg.job = s.cfg.job) ∧
      t.tb.age = s.tb.age + 1 ∧ t.tiles = s.tiles ∧ t.msg = s.msg)) ∧
    (s.cfgBusy = false → s.cfg.slotTo = none → Answers .slotClose s (fun t => t.cfg.reason = 16 ∧ t.nv = s.nv)) ∧
    (∀ b, s.cfgBusy = false → b = s.cfg.slotTo.getD s.slotTarget → Answers .slotEmpty s (fun t =>
      t.cfg.job = some (if b then .slotB else .slotA) ∧ slotLen t.nv b = 0 ∧ readByte t.nv (slotBase b + 12) = 0 ∧
      t.tb.age = s.tb.age + 1 ∧ t.tiles = s.tiles ∧ t.msg = s.msg)) ∧
    (s.cfgBusy = false → Answers .reload s (fun t =>
      (s.reloadReady = true → s.cfgDest ≠ 1 → t.cfg.load = some s.cfgDest ∧
        (∀ u, u < s.nTiles → (s.tile u).powered = true → (s.tile u).inReset = false → t.qLevel u (s.lbq u) = 0)) ∧
      (s.reloadReady = false ∨ s.cfgDest = 1 → t.cfg.reason = 13 ∧ t.cfg.load = none ∧ t.tiles = s.tiles) ∧ t.msg = s.msg)) ∧
    (s.cfgBusy = false → s.luHeld = false → s.cfg.noImage = true ∨ s.cfg.stagedTop = 0 ∨ s.cfg.luState = 5 →
      Answers .prepare s (fun t => t.cfg.reason = 16 ∧ t.cfg.luState = s.cfg.luState ∧ t.tiles = s.tiles)) ∧
    (∀ (m : Image) (u : State), u = (s.advance 1).setField 0x7000 (BitVec.ofNat 32 s.cfgDest) →
      s.cfgBusy = false → s.luHeld = false → s.cfg.noImage = false → s.cfg.stagedTop ≠ 0 → s.cfg.luState ≠ 5 →
      u.readImage (readBytes s.cfg.staged 0 (max 64 (min 65536 (readW32 s.cfg.staged 12).toNat))) 2 65536 = .ok m →
      Answers .prepare s (fun t =>
        (decide (m.profile = 1) = s.cfg.bracket → (∀ r ∈ m.recs, u.luBreaks (u.stagedUpd m) r = false) →
          t.cfg.luState = 2 ∧ t.cfg.upd = some m ∧ t.tiles = s.tiles) ∧
        (decide (m.profile = 1) = s.cfg.bracket → (∃ r ∈ m.recs, u.luBreaks (u.stagedUpd m) r = true) →
          t.cfg.luState = 6 ∧ t.cfg.reason = 9 ∧ t.evSet (chipSrc 26) = true) ∧
        (decide (m.profile = 1) ≠ s.cfg.bracket → t.cfg.luState = 6 ∧ t.cfg.reason = 8 ∧ t.evSet (chipSrc 26) = true))) ∧
    (let f : Time := { s := s.rv 0x7018, ns := s.fld 0x701C 29 0 }
     let d := f.diff ((s.advance 1).now.addNs (-8))
     Answers .fix s (fun t =>
      (s.cfg.luState = 3 → f.engine % 1048576 = 0 → 102400000 ≤ d → d ≤ 61440000000000 →
        t.cfg.luState = 4 ∧ t.cfg.decided = false ∧ t.cfg.fixAge = s.tb.age + 1 + (s.advance 1).slotsTo f ∧ t.cfg.reason = 0) ∧
      (s.cfg.luState ≠ 3 ∨ f.engine % 1048576 ≠ 0 ∨ d < 102400000 ∨ 61440000000000 < d →
        t.cfg.reason = 11 ∧ t.cfg.luState = s.cfg.luState) ∧ t.tiles = s.tiles ∧ t.nv = s.nv)) ∧
    Answers .cancel s (fun t =>
      (s.cfg.luState ≠ 0 → s.cfg.luState ≠ 5 → s.cfg.decided = false → t.cfg.luState = 0 ∧ t.cfg.reason = 17 ∧
        t.cfg.staged = [] ∧ t.cfg.upd = none) ∧
      (s.cfg.luState = 0 ∨ s.cfg.luState = 5 ∨ s.cfg.decided = true → t.cfg = s.cfg) ∧ t.tiles = s.tiles ∧ t.nv = s.nv)

/-- The ends of a reload, a preparation, a fix and a store write, and the scrubbing. A reload without a candidate reports it;
a prepared update breaks no rule and every tile it names can take it; a fix is decided 8 µs before F, where no epoch opened
and no tile lost its shadow, and takes effect at F: the update's records join the image and its chip registers hold their new
values. A completed slot is valid with the next sequence number. A scrub leaves every word of the image that a tile's check
covers as the image has it. -/
def Obligations.ConfigurationSteps : Prop :=
  (∀ s : State, s.up = true → s.cfg.load = some 0 → slotCands s.nv = [] →
    Answers .reloadDone s (fun t => t.cfg.load = none ∧ t.cfg.reason = 16 ∧ t.evSet (chipSrc 24) = true ∧
      t.cfg.recs = s.cfg.recs ∧ t.regs = s.regs ∧ t.tb = s.tb ∧ t.msg = s.msg)) ∧
  (∀ (s : State) (m : Image), s.up = true → s.cfg.load = some 2 → s.cfg.bootTop ≠ 0 →
    ({ s with cfg := { s.cfg with load := none } } : State).checkFull
      (readBytes s.cfg.boot 0 (max 64 (min 2097152 (readW32 s.cfg.boot 12).toNat))) 2097152 = .ok m →
    Answers .reloadDone s (fun t => t.cfg.load = none ∧ t.cfg.recs = m.recs ∧ t.cfg.imgSeq = m.seq ∧
      t.cfg.bracket = decide (m.profile = 1) ∧ t.cfg.noImage = false ∧ t.cfg.source = 2 ∧ t.cfg.reason = 0 ∧
      t.evSet (chipSrc 22) = true ∧ t.tb = s.tb ∧ t.msg = s.msg)) ∧
  (∀ (s : State) (m : Image), s.up = true → s.cfg.luState = 2 → s.cfg.upd = some m →
    Answers .prepareDone s (fun t =>
      ((s.stagedUpd m).chipRule = none → (∀ u, u < s.nTiles → (s.stagedUpd m).tileRule u = none) →
        (∀ u ∈ s.recTiles m.recs, (s.tile u).powered = true ∧ (s.tile u).inReset = false ∧ u ∉ s.cfg.noShadow) →
        t.cfg.luState = 3 ∧ t.cfg.reason = 0) ∧
      ((s.stagedUpd m).chipRule ≠ none → t.cfg.luState = 6 ∧ t.cfg.reason = 7 ∧ t.evSet (chipSrc 26) = true) ∧
      ((s.stagedUpd m).chipRule = none → (∃ u, u < s.nTiles ∧ (s.stagedUpd m).tileRule u ≠ none) →
        t.cfg.luState = 6 ∧ t.cfg.reason = 10 ∧ t.evSet (chipSrc 26) = true) ∧
      t.tb = s.tb ∧ t.regs = s.regs ∧ t.msg = s.msg)) ∧
  (∀ (s : State) (m : Image), s.up = true → s.cfg.luState = 4 → s.cfg.upd = some m → s.cfg.decided = false →
    Answers .fixDecide s (fun t => t.tb.age = max s.tb.age (s.cfg.fixAge - 1000) ∧
      (s.tb.openAge = s.cfg.fixOpen →
        (∀ u ∈ s.recTiles m.recs, (s.tile u).powered = true ∧ (s.tile u).inReset = false ∧ u ∉ s.cfg.noShadow) →
        t.cfg.decided = true ∧ t.cfg.luState = 4) ∧
      (s.tb.openAge ≠ s.cfg.fixOpen ∨ (∃ u ∈ s.recTiles m.recs, (s.tile u).powered = false ∨ (s.tile u).inReset = true) →
        t.cfg.luState = 1 ∧ t.cfg.upd = none ∧ t.cfg.reason = 12 ∧ t.evSet (chipSrc 26) = true) ∧
      t.regs = s.regs ∧ t.msg = s.msg)) ∧
  (∀ (s : State) (m : Image), s.up = true → s.cfg.luState = 4 → s.cfg.upd = some m → s.cfg.decided = true →
    Answers .fixTakeEffect s (fun t => t.cfg.luState = 5 ∧ t.cfg.luSeq = m.seq ∧ t.cfg.luCnt = (s.cfg.luCnt + 1) % 2 ^ 32 ∧
      t.cfg.recs = s.cfg.recs ++ m.recs ∧ t.cfg.staged = [] ∧ t.cfg.reason = 0 ∧ t.evSet (chipSrc 25) = true ∧
      t.tb.age = (if s.tb.openAge = s.cfg.fixOpen then max s.tb.age s.cfg.fixAge else s.tb.age) ∧
      (∀ a, tileOf a = none → isRwf a = true → t.rv a = (m.recs.flatMap (·.writes s.nTiles)).foldl
        (fun v p => if p.1 = .reg a then (p.2.setWidth 32 : Reg32).toNat else v) (s.rv a)) ∧ t.msg = s.msg)) ∧
  (∀ (s : State) (b : Bool), s.up = true → s.cfg.job = some (if b then .slotB else .slotA) → slotLen s.nv b ≤ slotMax →
    Answers (.storeWriteDone true) s (fun t => slotValid t.nv b = true ∧ slotLen t.nv b = slotLen s.nv b ∧
      readBytes t.nv (slotBase b + 64) (slotLen s.nv b) = readBytes s.nv (slotBase b + 64) (slotLen s.nv b) ∧
      t.cfg.reason = 0 ∧ t.tb = s.tb ∧ t.regs = s.regs ∧ t.msg = s.msg) ∧
    Answers (.storeWriteDone false) s (fun t => t.cfg.reason = 15 ∧ t.tb = s.tb ∧ t.regs = s.regs ∧ t.msg = s.msg)) ∧
  (∀ s : State, s.up = true → Answers .scrub s (fun t => t.tb.age = s.tb.age + 1250 ∧ t.pr.copyB = [] ∧ t.pr.copyC = [] ∧
    (∀ u, u < s.nTiles → (s.tile u).powered = true → (s.tile u).inReset = false → s.retiring u = false →
      mapGet (fun _ => []) s.cfg.late u = [] → ∀ r ∈ s.cfg.recs, ∀ p ∈ r.writes s.nTiles, p.1.covered = true →
        p.1.tile = some u → t.agreesAt (((s.advance 1250).bare).stageRecs s.cfg.recs) p.1 = true) ∧
    t.cfg.recs = s.cfg.recs ∧ t.msg = s.msg))

/-! ### Control frames -/

/-- The slots of a control frame spell it: HEAD, its DATA, END. It is answered once, by the first check that applies: framing (status 2), a discarded slot or the CRC (1),
authentication (5, with the failure counted and a new challenge), a secure target (5), LENGTH 0 (0), an unlisted OP or a READ
of more than 256 registers (4), an address that is no multiple of 4 (3); an unknown OP and a frame without its END likewise,
this one also where the receiver has left SLOT.
What a checked frame without authentication does. WRITE applies its words in order as register writes one slot on, and names
the first refused one with status 3; READ returns its registers, sampled together, two in a word; IMAGE puts its words where
CFG_CTRL.DEST says and answers 0, or 6 with the reason in CFG_RESULT. -/
def Obligations.ControlFrames : Prop :=
  (∀ (op : BitVec 4) (f : CtlFrame), f.discarded = 0 → f.broken = false →
    controlSlots none (BitVec.ofNat 56 (ctlBits op.toNat f) :: (f.data.map (fun d => BitVec.ofNat 56 (2 * 2 ^ 52 + d.toNat)) ++
      [BitVec.ofNat 56 (3 * 2 ^ 52 + f.crc.toNat)])) = ([({ op := op, frame := f } : OpenCtl).command], none)) ∧
  ((∀ (s : State) (op : Nat) (f : CtlFrame) (h : CtlHead), op ∈ [1, 2, 4] → h = ⟨BitVec.ofNat 4 op, f.tag, f.len⟩ →
    s.up = true → s.lk.dn = .slot →
    (ctlFramed op f = false → Answers (ctlRow op f) s (fun t => s.Responded t h 2 1023 [] ∧ s.LinksOnly t)) ∧
    (ctlFramed op f = true → ctlIntact op f = false →
      Answers (ctlRow op f) s (fun t => s.Responded t h 1 1023 [] ∧ s.LinksOnly t)) ∧
    (ctlFramed op f = true → ctlIntact op f = true → f.sec = true → s.tagRight op f = false →
      Answers (ctlRow op f) s (fun t => s.Responded t h 5 1023 [] ∧ t.sup.secFail = min (2 ^ 32 - 1) (s.sup.secFail + 1) ∧
        t.sup.secCnt = 0 ∧ t.sup.chal = Config.random s.fresh ∧ t.evSet (chipSrc 29) = true ∧ t.regs = s.regs ∧ t.msg = s.msg ∧
        t.cfg = s.cfg)) ∧
    (ctlFramed op f = true → ctlIntact op f = true → f.sec = true → s.tagRight op f = true → f.len = 0 →
      Answers (ctlRow op f) s (fun t => s.Responded t h 0 1023 [] ∧
        t.sup.secCnt = (if s.sup.secCnt + 1 = 2 ^ 32 then 0 else s.sup.secCnt + 1) ∧ t.regs = s.regs ∧ t.msg = s.msg)) ∧
    (ctlFramed op f = true → ctlIntact op f = true → f.sec = false → (∃ a ∈ ctlTargets op f, secureAddr a = true) →
      Answers (ctlRow op f) s (fun t => s.Responded t h 5 1023 [] ∧ t.regs = s.regs ∧ t.msg = s.msg ∧ t.tb = s.tb)) ∧
    (ctlFramed op f = true → ctlIntact op f = true → f.sec = false → (∀ a ∈ ctlTargets op f, secureAddr a = false) →
      (f.len = 0 → Answers (ctlRow op f) s (fun t => s.Responded t h 0 1023 [] ∧ s.LinksOnly t)) ∧
      (op = 2 → 256 < f.len.toNat → Answers (ctlRow op f) s (fun t => s.Responded t h 4 1023 [] ∧ s.LinksOnly t)) ∧
      (op = 1 ∨ op = 2 → f.len ≠ 0 → f.len.toNat ≤ 256 → f.addr.toNat % 4 ≠ 0 →
        Answers (ctlRow op f) s (fun t => s.Responded t h 3 0 [] ∧ t.regs = s.regs ∧ t.msg = s.msg)))) ∧
  (∀ (s : State) (op : BitVec 4) (f : CtlFrame), op ≠ 1 → op ≠ 2 → op ≠ 4 → s.up = true → s.lk.dn = .slot →
    ctlFramed op.toNat f = true → ctlIntact op.toNat f = true → f.sec = false →
    Answers (.unknownOpControlFrame op f) s (fun t =>
      s.Responded t ⟨op, f.tag, f.len⟩ (if f.len = 0 then 0 else 4) 1023 [] ∧ s.LinksOnly t)) ∧
  (∀ (s : State) (h : CtlHead), s.up = true →
    Answers (.controlFrameTimeout h) s (fun t => s.Responded t h 2 1023 [] ∧ s.LinksOnly t))) ∧
  (∀ (s : State) (f : CtlFrame), s.up = true → s.lk.dn = .slot → f.sec = false → f.len ≠ 0 →
    (ctlFramed 1 f = true → ctlIntact 1 f = true → (∀ a ∈ ctlTargets 1 f, secureAddr a = false) → f.addr.toNat % 4 = 0 →
      Answers (.write f) s (fun t =>
        let r := (s.advance 1).ctlWrite f.addr.toNat 0 f.data
        r.2.Responded t ⟨1, f.tag, f.len⟩ (if r.1 = 1023 then 0 else 3) r.1 [] ∧ r.2.LinksOnly t)) ∧
    (ctlFramed 2 f = true → ctlIntact 2 f = true → (∀ a ∈ ctlTargets 2 f, secureAddr a = false) → f.addr.toNat % 4 = 0 →
      f.len.toNat ≤ 256 → s.dep.ecc2 = [] → Answers (.read f) s (fun t =>
        s.Responded t ⟨2, f.tag, f.len⟩ 0 1023 (pairWords ((ctlTargets 2 f).map (fun a => (s.busRead a).1))) ∧ s.LinksOnly t)) ∧
    (ctlFramed 4 f = true → ctlIntact 4 f = true →
      (s.cfgBusy = true → Answers (.image f) s (fun t => s.Responded t ⟨4, f.tag, f.len⟩ 6 1023 [] ∧ t.cfg.reason = 14 ∧
        t.cfg.staged = s.cfg.staged ∧ t.cfg.boot = s.cfg.boot ∧ t.nv = s.nv)) ∧
      (s.cfgBusy = false → s.cfgDest = 1 → s.luHeld = true → Answers (.image f) s (fun t =>
        s.Responded t ⟨4, f.tag, f.len⟩ 6 1023 [] ∧ t.cfg.reason = 14 ∧ t.cfg.staged = s.cfg.staged ∧ t.nv = s.nv)) ∧
      (s.cfgBusy = false → s.cfgDest = 1 → s.luHeld = false → 4 * f.addr.toNat + 4 * f.data.length ≤ 65536 →
        Answers (.image f) s (fun t => s.Responded t ⟨4, f.tag, f.len⟩ 0 1023 [] ∧ t.cfg.luState = 1 ∧
          readBytes t.cfg.staged (4 * f.addr.toNat) (4 * f.data.length) = ctlBytes f.data ∧
          4 * f.addr.toNat + 4 * f.data.length ≤ t.cfg.stagedTop ∧ t.nv = s.nv ∧ t.cfg.boot = s.cfg.boot ∧ t.regs = s.regs)) ∧
      (s.cfgBusy = false → s.cfgDest = 0 → 4 * f.addr.toNat + 4 * f.data.length ≤ slotMax →
        s.cfg.stagedTop + 4 * f.data.length ≤ 65536 → Answers (.image f) s (fun t =>
          s.Responded t ⟨4, f.tag, f.len⟩ 0 1023 [] ∧ t.cfg.slotTo = some (s.cfg.slotTo.getD s.slotTarget) ∧
          readBytes t.nv (slotBase (s.cfg.slotTo.getD s.slotTarget) + 64 + 4 * f.addr.toNat) (4 * f.data.length) =
            ctlBytes f.data ∧ t.cfg.staged = s.cfg.staged ∧ t.regs = s.regs)) ∧
      (s.cfgBusy = false → 2 ≤ s.cfgDest → s.cfg.noImage = true ∨ s.reloadReady = true →
        4 * f.addr.toNat + 4 * f.data.length ≤ 2097152 → Answers (.image f) s (fun t =>
          s.Responded t ⟨4, f.tag, f.len⟩ 0 1023 [] ∧
          readBytes t.cfg.boot (4 * f.addr.toNat) (4 * f.data.length) = ctlBytes f.data ∧ t.nv = s.nv ∧ t.regs = s.regs))))

/-! ### Mailboxes -/

/-- A mailbox slot, from the writer's own side of its channel. PTR and TAG are written while it is empty; RING fills it with
the sender's generation, and the host is told of a message for it; TAKE empties it, and its sender is told, or the notice is
held while the sender is in reset. A full slot refuses PTR, TAG and RING and an empty one TAKE with reason 4, a register of
the other side refuses the host with 7, and a doorbell to a tile that the part has not is refused with 5. -/
def Obligations.RingAndTake : Prop :=
  ∀ (src : Src) (ch : Nat) (s : State), ch < 96 → s.up = true → srcBarred src (0x5008 + 16 * ch) = false →
    ((src = .host → hostSends ch = true) → (s.slot ch).full = false → ch < 32 ∨ s.onPart (ch - 32) = true →
      Answers (.ring src ch) s (fun t =>
      t.slot ch = { s.slot ch with full := true, gen := if src = .host then s.sup.hostGen else s.sup.supGen } ∧
      (∀ k, k ≠ ch → t.slot k = s.slot k) ∧
      (t.stream 6 0).wait = (s.stream 6 0).wait ++ (if hostReceives ch = true then [{
        words := [noticeRecord ch false (t.slot ch).gen.toNat (s.slot ch).tag.toNat (s.slot ch).ptr.toNat]
        ready := some (s.tb.age + 1) }] else []) ∧
      { t with lk := s.lk, sup := s.sup } = s.advance 1)) ∧
    ((src = .host → hostReceives ch = true) → (s.slot ch).full = true → Answers (.take src ch) s (fun t =>
      t.slot ch = { s.slot ch with
        full := false
        held := (s.slot ch).held || (if hostSends ch = true then s.lk.hostReset
          else decide ((s.slot ch).gen ≠ 0) && s.sup.restarting) } ∧
      (∀ k, k ≠ ch → t.slot k = s.slot k) ∧
      (t.stream 6 0).wait = (s.stream 6 0).wait ++ (if hostSends ch = true ∧ s.lk.hostReset = false then [{
        words := [noticeRecord ch true (s.slot ch).gen.toNat (s.slot ch).tag.toNat (s.slot ch).ptr.toNat]
        ready := some (s.tb.age + 1) }] else []) ∧
      { t with lk := s.lk, sup := s.sup } = s.advance 1)) ∧
    ((src = .host → hostSends ch = true) → (s.slot ch).full = true → ch < 32 ∨ s.onPart (ch - 32) = true →
      Answers (.ring src ch) s (fun t => s.WriteRefused t src (0x5008 + 16 * ch) 4)) ∧
    (src ≠ .host → 32 ≤ ch → s.onPart (ch - 32) = false →
      Answers (.ring src ch) s (fun t => s.WriteRefused t src (0x5008 + 16 * ch) 5)) ∧
    (∀ (w : BitVec 32) (o : Nat), o = 0 ∨ o = 4 → (src = .host → hostSends ch = true) → (o = 0 → w.toNat % 8 = 0 ∧ w.toNat ≤ 262136) →
      ((s.slot ch).full = true → Answers (.registerWrite src (BitVec.ofNat 24 (0x5000 + 16 * ch + o)) w) s
        (fun t => s.WriteRefused t src (0x5000 + 16 * ch + o) 4)) ∧
      ((s.slot ch).full = false → Answers (.registerWrite src (BitVec.ofNat 24 (0x5000 + 16 * ch + o)) w) s (fun t =>
        t.slot ch = (if o = 0 then { s.slot ch with ptr := w.setWidth 24 } else { s.slot ch with tag := w.setWidth 16 }) ∧
        (∀ k, k ≠ ch → t.slot k = s.slot k) ∧ { t with sup := s.sup } = s.advance 1))) ∧
    ((src = .host → hostReceives ch = true) → (s.slot ch).full = false →
      Answers (.take src ch) s (fun t => s.WriteRefused t src (0x5008 + 16 * ch) 4)) ∧
    (src = .host → hostSends ch = false → Answers (.ring src ch) s (fun t => s.WriteRefused t src (0x5008 + 16 * ch) 7)) ∧
    (src = .host → hostReceives ch = false → Answers (.take src ch) s (fun t => s.WriteRefused t src (0x5008 + 16 * ch) 7))

/-- The other mailbox commands. BUMP raises the host's generation, 1 after 255; SEC_CLOSE draws a new challenge. The
supervisor takes a request of a channel with fewer than 8 kept replies: it waits for its service, or it is answered at once
with the first status that turns it away. The oldest reply of a channel is posted to its empty slot. -/
def Obligations.MailboxServices : Prop :=
  ∀ s : State, s.up = true →
    Answers .bump s (fun t => t = { s.advance 1 with
      sup := { s.sup with hostGen := if s.sup.hostGen = 255 then 1 else s.sup.hostGen + 1 } }) ∧
    Answers .secClose s (fun t => t = { s.advance 1 with
      fresh := s.fresh + 1, sup := { s.sup with chal := Config.random s.fresh, secCnt := 0 } }) ∧
    (∀ ch, ch < 96 → s.serves = false ∨ hostSends ch = false ∨ (s.slot ch).full = false ∨ 8 ≤ s.keptReplies ch →
      exec (.supTakeRequest ch) s = .next s) ∧
    (∀ (ch at_ code n : Nat) (hd : W64), ch < 96 → s.serves = true → hostSends ch = true → (s.slot ch).full = true →
      s.keptReplies ch < 8 → s.dep.ecc2 = [] → at_ = boxHalf ch + (s.slot ch).ptr.toNat → hd = readW64 s.msg at_ →
      code = fieldOf hd 15 0 →
      n = ((services.find? (fun x => decide (x.1 = code))).map (fun x => x.2.2 / 8)).getD 0 →
      ∀ q : SupReq, q = { ch := ch, tag := (s.slot ch).tag, code := code,
                          body := (List.range n).map (fun k => readW64 s.msg (at_ + 8 + 8 * k)) } →
      Answers (.supTakeRequest ch) s (fun t =>
        (t.slot ch).full = false ∧ t.msg = s.msg ∧ t.regs = s.regs ∧ t.tb = s.tb ∧ t.tiles = s.tiles ∧
        (s.turnedAway q (s.slot ch).gen (s.slot ch).ptr.toNat hd = none →
          t.sup.reqs = s.sup.reqs ++ [q] ∧ t.sup.replies = s.sup.replies) ∧
        (∀ st, s.turnedAway q (s.slot ch).gen (s.slot ch).ptr.toNat hd = some st → t.sup.reqs = s.sup.reqs ∧
          mapGet (fun _ => []) t.sup.replies (ch + 8) = mapGet (fun _ => []) s.sup.replies (ch + 8) ++
            [{ tag := q.tag, code := code, status := st, body := [] }]))) ∧
    (∀ ch, ch < 96 → s.serves = false ∨ hostReceives ch = false ∨ (s.slot ch).full = true ∨
      mapGet (fun _ => []) s.sup.replies ch = [] → exec (.supReplyPost ch) s = .next s) ∧
    (∀ (ch o : Nat) (r : Reply) (rest : List Reply), ch < 96 → s.serves = true → hostReceives ch = true →
      (s.slot ch).full = false → mapGet (fun _ => []) s.sup.replies ch = r :: rest → o = boxHalf ch + 0x38000 + 0x1000 * (ch % 8) →
      Answers (.supReplyPost ch) s (fun t =>
        mapGet (fun _ => []) t.sup.replies ch = rest ∧
        t.slot ch = { s.slot ch with ptr := BitVec.ofNat 24 (0x38000 + 0x1000 * (ch % 8)), tag := r.tag, gen := s.sup.supGen, full := true } ∧
        readW64 t.msg o = rec64 [(0, 16, r.code), (16, 16, 8 * r.body.length), (32, 16, r.status)] ∧
        (∀ k, k < r.body.length → readW64 t.msg (o + 8 + 8 * k) = r.body.getD k 0) ∧
        (∀ a, a < o ∨ o + 8 + 8 * r.body.length ≤ a → readByte t.msg a = readByte s.msg a) ∧
        t.regs = s.regs ∧ t.tb = s.tb ∧ t.tiles = s.tiles ∧ t.nv = s.nv))

/-! ### Services -/

/-- The services that read or hold. A waiting request is answered with status 0 and its body: INFO with firmware version,
boot count and both generations; AGEING_READ with the channel's entry; TRACK_HOLD and TRACK_RESUME hold and release the DAC
targets; TEMP_READ with the 64 temperature registers; CONTACT_REFRESH refreshes the contact sheet; LOG_READ with the valid
entries asked for. With no request of its code a service row changes nothing. The services that write. AGEING_CLEAR starts
its store write once the store is free; SLOT_WRITE puts bytes of message memory into the image area of its slot, with status
4 and the reason where DEST 0 would refuse them, and closes the slot where CLOSE is 1; SLOT_EMPTY starts the write of an
empty slot; PROOF_RUN writes CAL_CTRL with START, and is answered with status 4 where that is refused. -/
def Obligations.SupervisorServices : Prop :=
  ((∀ (s : State) (q : SupReq), s.Waits 0x01 q → Answers .info s (fun t => s.SupOnly t ∧ s.Replied t q 0
    [rec64 [(0, 32, Config.fwVersion.toNat), (32, 32, s.pw.bootCnt)],
     rec64 [(0, 8, s.sup.supGen.toNat), (8, 8, s.sup.hostGen.toNat)]])) ∧
  (∀ (s : State) (q : SupReq), s.Waits 0x20 q → Answers .ageingRead s (fun t => s.SupOnly t ∧ s.Replied t q 0
    ((List.range 10).map (fun k => BitVec.ofNat 64 (leNat
      (((s.ageEntry (fieldOf (q.word 0) 5 0) (fieldOf (q.word 0) 10 6)).drop (8 * k)).take 8)))))) ∧
  (∀ (s : State) (q : SupReq), s.Waits 0x40 q → Answers .trackHold s (fun t => s.SupOnly t ∧ s.Replied t q 0 [] ∧
    t.sup.trackHold = true ∧ t.sup.slots = s.sup.slots)) ∧
  (∀ (s : State) (q : SupReq), s.Waits 0x41 q → Answers .trackResume s (fun t => s.SupOnly t ∧ s.Replied t q 0 [] ∧
    t.sup.trackHold = false ∧ t.sup.slots = s.sup.slots)) ∧
  (∀ (s : State) (q : SupReq), s.Waits 0x42 q → Answers .tempRead s (fun t => s.SupOnly t ∧ s.Replied t q 0
    ((List.range 32).map (fun k => BitVec.ofNat 64 (s.regValue (tileBase (2 * k) + 0xA0) +
      s.regValue (tileBase (2 * k + 1) + 0xA0) * 2 ^ 32))))) ∧
  (∀ (s : State) (q : SupReq), s.Waits 0x50 q → Answers .contactRefresh s (fun t => s.Replied t q 0 [] ∧
    t.sup.sheetAge = s.tb.age ∧ t.tb = s.tb ∧ t.regs = s.regs ∧ t.msg = s.msg)) ∧
  (∀ (s : State) (q : SupReq), s.Waits 0x60 q → Answers .logRead s (fun t => s.SupOnly t ∧ s.Replied t q 0
    ((List.range (fieldOf (q.word 0) 38 32)).flatMap (fun k => s.logEntry ((fieldOf (q.word 0) 31 0 + k) % 2 ^ 32))))) ∧
  (∀ s : State, s.sup.reqs = [] → ∀ c ∈ [Instr.info, .ageingRead, .trackHold, .trackResume, .tempRead, .contactRefresh, .logRead,
    .proofRun, .ageingClear, .slotWrite, .svcSlotEmpty], exec c s = .next s)) ∧
  ((∀ (s : State) (q : SupReq), s.Waits 0x21 q →
    (s.cfg.job = none → Answers .ageingClear s (fun t => s.Begun t 0x21 ∧
      t.cfg.job = some (if s.ageTarget then .ageingB else .ageingA) ∧ readByte t.nv (ageBase s.ageTarget + 12) = 0 ∧
      t.tb = s.tb ∧ t.regs = s.regs ∧ t.msg = s.msg ∧ t.tiles = s.tiles)) ∧
    (s.cfg.job ≠ none → exec .ageingClear s = .next s)) ∧
  (∀ (s : State) (q : SupReq) (n off : Nat) (b : List Byte) (u : Bool), s.Waits 0x30 q → n = fieldOf (q.word 0) 63 32 →
    off = fieldOf (q.word 0) 31 0 → b = readBytes s.msg (fieldOf (q.word 1) 31 0) n → u = s.cfg.slotTo.getD s.slotTarget →
    (s.cfgBusy = true → Answers .slotWrite s (fun t => s.Replied t q 4 [14] ∧ t.cfg.reason = 14 ∧ t.nv = s.nv)) ∧
    (s.cfgBusy = false → n ≠ 0 → slotMax < off + n →
      Answers .slotWrite s (fun t => s.Replied t q 4 [3] ∧ t.cfg.reason = 3 ∧ t.nv = s.nv)) ∧
    (s.cfgBusy = false → n ≠ 0 → off + n ≤ slotMax → s.cfg.stagedTop + n ≤ 65536 → (q.word 1).getLsbD 32 = false →
      Answers .slotWrite s (fun t => s.Replied t q 0 [] ∧ t.cfg.slotTo = some u ∧ readBytes t.nv (slotBase u + 64 + off) n = b ∧
        t.msg = s.msg ∧ t.regs = s.regs ∧ t.tb = s.tb)) ∧
    (s.cfgBusy = false → n = 0 → s.cfg.slotTo = none → (q.word 1).getLsbD 32 = true →
      Answers .slotWrite s (fun t => s.Replied t q 4 [16] ∧ t.cfg.reason = 16 ∧ t.nv = s.nv)) ∧
    (∀ m, s.cfgBusy = false → n = 0 → s.cfg.slotTo = some u → (q.word 1).getLsbD 32 = true →
      s.checkFull (readBytes s.nv (slotBase u + 64) (max 64 (min slotMax (readW32 s.nv (slotBase u + 76)).toNat))) slotMax = .ok m →
      Answers .slotWrite s (fun t => s.Begun t 0x30 ∧ t.cfg.job = some (if u then .slotB else .slotA) ∧ t.cfg.slotTo = none))) ∧
  (∀ (s : State) (q : SupReq) (u : Bool), s.Waits 0x31 q → u = s.cfg.slotTo.getD s.slotTarget →
    (s.cfgBusy = true → Answers .svcSlotEmpty s (fun t => s.Replied t q 4 [14] ∧ t.nv = s.nv)) ∧
    (s.cfgBusy = false → Answers .svcSlotEmpty s (fun t => s.Begun t 0x31 ∧
      t.cfg.job = some (if u then .slotB else .slotA) ∧ slotLen t.nv u = 0 ∧ readByte t.nv (slotBase u + 12) = 0))) ∧
  (∀ (s : State) (q : SupReq) (w : Reg32), s.Waits 0x10 q → w = BitVec.ofNat 32 (fieldOf (q.word 0) 17 0 + 2 ^ 20) →
    (∀ r, s.writeReason (.supervisor false) 0x8000 w = some r → Answers .proofRun s (fun t =>
      s.Replied t q 4 [if s.cal.run.isSome then 16 else BitVec.ofNat 64 r] ∧ t.cal.run = s.cal.run ∧ t.regs = s.regs ∧
      t.tb.age = s.tb.age + 1)) ∧
    (s.writeReason (.supervisor false) 0x8000 w = none → Answers .proofRun s (fun t =>
      t.tb.age = s.tb.age + 1 ∧ t.rv 0x8000 = Nat.land (fieldOf (q.word 0) 17 0) 0x37FFF ∧
      (t.cal.run.isSome = true → ∃ p ∈ t.sup.reqs, p.code = 0x10 ∧ p.started = true) ∧
      (t.cal.run = none → t.cal.reason ≠ 0 ∧ mapGet (fun _ => []) t.sup.replies (q.ch + 8) =
        mapGet (fun _ => []) s.sup.replies (q.ch + 8) ++
          [{ tag := q.tag, code := 0x10, status := 4, body := [BitVec.ofNat 64 t.cal.reason] }])))))

/-! ### Events, posts and lists -/

/-- EV_FORCE sets the source that it names. A source that was clear sets its sticky bit, and while it is not masked its
routes act: ALERT puts an alert on stream class 0x03, MBOX posts on MBCH or queues the post. A masked source sets its bit
only, a set source does nothing. A number that is no source is refused with reason 3, one of a tile the part has not with 5.
A write of a mask register takes its bits; clearing the mask of a source that is set lets its routes act, as an unmask. The
tile's register is refused with reason 5 while the tile is off. A queued post is placed once the slot of MBCH is empty. The
tile takes a command list on its channel and applies its entries in order as writes one slot on. At a second the log's limit
starts anew, and the settings not logged are logged. -/
def Obligations.EventsAndPosts : Prop :=
  (∀ (s : State) (k : BitVec 11), s.up = true →
    (k.toNat < 1024 + 34 → (1024 ≤ k.toNat ∨ s.onPart (k.toNat / 16) = true) → Answers (.evForce k) s (fun t =>
      t.evSet k.toNat = true ∧ ({ s with tb := t.tb } : State).EventsApart t ∧ t.tb.age = s.tb.age + 1 ∧
      (s.evSet k.toNat = true → t = s.advance 1) ∧
      (s.evMasked k.toNat = true → t.lk = s.lk ∧ t.sup = s.sup ∧ t.nv = s.nv ∧ ∀ j, j ≠ k.toNat → t.evSet j = s.evSet j) ∧
      (s.evSet k.toNat = false → s.evMasked k.toNat = false → s.evRoute k.toNat = 1 →
        (t.stream 3 0).wait = (s.stream 3 0).wait ++ [{
          words := [alertRecord k.toNat s.tb.epoch false, alertTime (s.advance 1).now], ready := some (s.tb.age + 1) }] ∧
        t.sup = s.sup ∧ t.nv = s.nv) ∧
      (s.evSet k.toNat = false → s.evMasked k.toNat = false → s.evRoute k.toNat = 16 → k.toNat ≠ chipSrc 33 →
        ((s.slot (s.fld 0x4000 6 0)).full = false → s.ev.posts = [] →
          t.slot (s.fld 0x4000 6 0) = { ptr := BitVec.ofNat 24 k.toNat, tag := 0xFFFF, gen := 0, full := true, held := false } ∧
          t.ev.posts = []) ∧
        ((s.slot (s.fld 0x4000 6 0)).full = true ∨ s.ev.posts ≠ [] → s.ev.posts.length < 32 →
          t.ev.posts = s.ev.posts ++ [k.toNat] ∧ t.sup = s.sup)))) ∧
    (1024 + 34 ≤ k.toNat → Answers (.evForce k) s (fun t => s.WriteRefused t .host 0x4100 3)) ∧
    (k.toNat < 1024 → s.onPart (k.toNat / 16) = false → Answers (.evForce k) s (fun t => s.WriteRefused t .host 0x4100 5))) ∧
  ((∀ (s : State) (i : Nat) (w : BitVec 32), s.up = true → i < 4 → Answers (.evMaskWrite (.chip i) w) s (fun t =>
    t.rv (0x4030 + 4 * i) = w.toNat ∧ (∀ a, a ≠ 0x4030 + 4 * i → t.rv a = s.rv a) ∧ t.tb.age = s.tb.age + 1 ∧
    ({ s with tb := t.tb, regs := t.regs } : State).EventsApart t ∧
    ((∀ k, s.evSet k = false) → { t with regs := s.regs } = s.advance 1))) ∧
  (∀ (s : State) (u : Nat) (w : BitVec 32), s.up = true → u < 64 →
    (u < s.nTiles → (s.tile u).powered = true → Answers (.evMaskWrite (.tile u) w) s (fun t =>
      t.rv (tileBase u + 0x3004) = w.toNat % 65536 ∧ (∀ a, a ≠ tileBase u + 0x3004 → t.rv a = s.rv a) ∧
      ({ s with tb := t.tb, regs := t.regs } : State).EventsApart t)) ∧
    (s.nTiles ≤ u ∨ (s.tile u).powered = false →
      Answers (.evMaskWrite (.tile u) w) s (fun t => s.WriteRefused t .host (tileBase u + 0x3004) 5))) ∧
  (∀ s : State, s.up = true →
    (s.ev.posts = [] ∨ (s.slot (s.fld 0x4000 6 0)).full = true → exec .eventMboxPost s = .next s) ∧
    (∀ k ks, s.ev.posts = k :: ks → (s.slot (s.fld 0x4000 6 0)).full = false → Answers .eventMboxPost s (fun t =>
      t.ev.posts = ks ∧
      t.slot (s.fld 0x4000 6 0) = { ptr := BitVec.ofNat 24 k, tag := 0xFFFF, gen := 0, full := true, held := false } ∧
      t.regs = s.regs ∧ t.tiles = s.tiles ∧ t.tb = s.tb))) ∧
  (∀ (s : State) (u : Nat), s.up = true → u < s.nTiles →
    ((s.tile u).powered = false ∨ (s.tile u).inReset = true ∨ (s.slot (32 + u)).full = false →
      exec (.tileCmdList u) s = .next s) ∧
    (∀ (w : W64) (a : Nat), (s.tile u).powered = true → (s.tile u).inReset = false → (s.slot (32 + u)).full = true →
      s.dep.ecc2 = [] → a = 0x40000 + (s.slot (32 + u)).ptr.toNat → a + 16 ≤ 0x80000 → readW64 s.msg a = w → w ≠ 0 →
      readW64 s.msg (a + 8) = 0 → exec (.tileCmdList u) s = .next (((s.takeBox (32 + u)).advance 1).busWrite .tileList
        (tileBase u + fieldOf w 13 0) (BitVec.ofNat 32 (fieldOf w 63 32)) none).2)) ∧
  (∀ s : State, s.up = true → Answers .logSecond s (fun t => t.tb.age = s.tb.age + s.toSecond ∧ t.tiles = s.tiles ∧
    t.regs = s.regs ∧ t.msg = s.msg ∧
    (s.sup.logLost = 0 → t.sup.logNow = 0 ∧ t.nv = s.nv ∧ t.sup.logSeq = s.sup.logSeq) ∧
    (s.sup.logLost ≠ 0 → s.serves = true → t.sup.logNow = 1 ∧ t.sup.logLost = 0 ∧
      t.sup.logSeq = (s.sup.logSeq + 1) % 2 ^ 32 ∧
      readByte t.nv (logBase + 32 * (s.sup.logSeq % logSize) + 17) = 3 ∧
      readW64 t.nv (logBase + 32 * (s.sup.logSeq % logSize) + 20) = BitVec.ofNat 64 s.sup.logLost))))

/-! ### Snapshot -/

/-- A freeze request (the SNAPSHOT command, SNAP_FREEZE, a falling SNAP_N where it is enabled) sets the latch, names Q one
slot on, for SNAP_N two (log entry 141), refuses an armed update that is not decided and a pending Dark entry or exit; while
one is in force another does nothing. FREEZE stands the device still at Q: Q is kept, the freeze's duration starts at 0 and its count rises. Reading and
release. SNAP_SEL takes its code; SNAP_READ shifts the selected segments out, zeros outside a freeze; SNAP_MEM shifts words
of a memory, zeros outside a freeze, the program memories, context stores and the message memory as they stand. SNAP_RELEASE
clears the latch and a rising SNAP_N allows the release, one and two slots later (log entry 141). SNAPSHOT_RELEASE opens an epoch at Q and the freeze's
duration, with every channel's next record marked, every exchange dropped, and the snapshot event. -/
def Obligations.Snapshots : Prop :=
  ((∀ (s : State) (c : Instr) (src : Bool) (r : State), s.up = true →
    (c = .snapshot 0 false ∧ s.lk.dn = .slot ∧ src = true ∧ r = s) ∨ (c = .snapFreeze ∧ src = true ∧ r = s) ∨
      (c = .snapNFall ∧ s.dep.snapN = true ∧ bit (s.rv 0xA008) 1 = true ∧ src = false ∧
        r = { s with dep := { s.dep with snapN := false } }) →
    (s.dep.request ≠ none → exec c s = .next r) ∧
    (s.dep.request = none → s.cal.run = none → Answers c s (fun t =>
      t.dep = { r.dep with latch := true, request := some (s.tb.age + (if src = true then 1 else 2)), src := src } ∧
      (s.cfg.luState = 4 ∧ s.cfg.decided = false → t.cfg.luState = 1 ∧ t.cfg.upd = none ∧ t.cfg.reason = 12 ∧
        t.evSet (chipSrc 26) = true) ∧
      (s.pw.dark.isSome = true → t.pw = { s.pw with dark := none, reason := 6 } ∧ t.evSet (chipSrc 30) = true) ∧
      (s.cfg.luState ≠ 4 ∨ s.cfg.decided = true → s.pw.dark = none → { t with dep := s.dep } = s)))) ∧
  (∀ (s : State) (b : BitVec 52) (bad : Bool), s.up = true → s.lk.dn = .slot →
    (bad = true → exec (.snapshot b bad) s = .next { s with lk := { s.lk with dnDisc := min 65535 (s.lk.dnDisc + 1) } }) ∧
    (bad = false → b ≠ 0 →
      exec (.snapshot b bad) s = .next { s with lk := { s.lk with dnRefused := min 65535 (s.lk.dnRefused + 1) } })) ∧
  (∀ s : State, s.up = false ∨ s.dep.snapN = false ∨ bit (s.rv 0xA008) 1 = false →
    exec .snapNFall s = .next { s with dep := { s.dep with snapN := false } }) ∧
  (∀ (s : State) (q : Nat), s.up = true → s.dep.request = some q → Answers .freeze s (fun t =>
    t.dep.frozen = true ∧ t.dep.request = none ∧ t.dep.q = (s.advanceTo q).now ∧ t.dep.qEpoch = s.tb.epoch ∧ t.dep.dur = 0 ∧
    t.dep.count = (s.dep.count + 1) % 2 ^ 32 ∧ t.tb.age = max s.tb.age q ∧ t.pr.words = [] ∧ t.regs = s.regs ∧ t.msg = s.msg ∧
    t.dep.latch = s.dep.latch)) ∧
  (∀ s : State, s.dep.request = none → exec .freeze s = .next s)) ∧
  ((∀ (s : State) (v : BitVec 8) (w : BitVec 56), s.phase ≠ .porHeld → s.phase ≠ .rstHeld →
    exec (.snapSel v) s = .next { s with dep := { s.dep with sel := v } } ∧
    exec .snapRead s = .next { s with dep := { s.dep with tdo := { bits := s.chainBits
                                                                   chain := if s.dep.frozen = true then some s.dep.chain else none
                                                                   words := [] } } } ∧
    Answers (.snapMem w) s (fun t => { t with dep := { t.dep with tdo := s.dep.tdo } } = s ∧
      t.dep.tdo.bits = 64 * (w.toNat % 2 ^ 24) ∧ t.dep.tdo.words.length = w.toNat % 2 ^ 24 ∧
      ∀ (i k : Nat), i < w.toNat % 2 ^ 24 → k = Config.snapMemory (BitVec.ofNat 8 (w.toNat / 2 ^ 48)) →
        (s.dep.frozen = false → t.dep.tdo.words.getD i 0 = 0) ∧
        (s.dep.frozen = true → k < 64 → t.dep.tdo.words.getD i 0 =
          ((mapGet (fun _ => 0) (s.tile k).pm (w.toNat / 2 ^ 24 % 2 ^ 24 + i)).setWidth 64)) ∧
        (s.dep.frozen = true → 64 ≤ k → k < 128 → t.dep.tdo.words.getD i 0 =
          mapGet (fun _ => 0) (s.tile (k - 64)).cx (w.toNat / 2 ^ 24 % 2 ^ 24 + i)) ∧
        (s.dep.frozen = true → k = 128 → t.dep.tdo.words.getD i 0 = readW64 s.msg (8 * (w.toNat / 2 ^ 24 % 2 ^ 24 + i)))) ∧
    (s.dep.latch = true → exec .snapRelease s = .next { s with dep := { s.dep with latch := false, rel := s.dep.dur + 1 } }) ∧
    (s.dep.latch = false → exec .snapRelease s = .next s)) ∧
  (∀ s : State, (s.dep.snapN = false →
      exec .snapNRise s = .next { s with dep := { s.dep with latch := false, rel := s.dep.dur + 2, snapN := true } }) ∧
    (s.dep.snapN = true → exec .snapNRise s = .next s)) ∧
  (∀ s : State, s.dep.frozen = false ∨ s.dep.latch = true ∨ s.dep.snapN = false → exec .snapshotRelease s = .next s) ∧
  (∀ s : State, s.dep.frozen = true → s.dep.latch = false → s.dep.snapN = true → s.dep.heldSoft = false →
    s.tb.setVal = none → s.tb.realignVal = none → s.tb.stepVal = none →
    Answers .snapshotRelease s (fun t => t.dep.frozen = false ∧ t.dep.dur = max s.dep.dur s.dep.rel % 2 ^ 32 ∧
      t.tb.epoch = nextEpoch s.tb.epoch ∧ t.tb.time = s.dep.q.addNs (8 * max s.dep.dur s.dep.rel) ∧
      t.tb.openTime = t.tb.time ∧ t.tb.causes = 0 ∧ t.tt.opened = [] ∧ t.evSet (chipSrc 32) = true ∧
      (∀ u c, u < s.nTiles → c < 17 → (t.chan u c).nlb.iu = true ∧ (t.chan u c).neq.iu = true) ∧
      t.regs = s.regs ∧ t.msg = s.msg)))

/-! ### Tile resets, supervisor restarts -/

/-- A tile reset, asked for by DEP_TILE_RST or by a persistent voting fault: a powered tile goes into reset and loses the
shadow of a prepared update; one in reset stays in it. TILE_RESET_DONE takes it out, its RWF fields as the fixed image has
them, with its event, the last reset's cause 5, and engines that run again from their checkpoints. CNT_CLR clears the
counters. The watchdog restarts a supervisor that runs: it stops, its generation rises, a pending Dark request is refused
with reason 8, the restart is counted with its event. At the end it runs again, the notices held for it are delivered, the
last reset's cause is 7, and the restart is logged. -/
def Obligations.TileAndSupervisorResets : Prop :=
  ((∀ (s : State) (u : Nat), s.up = true → u < s.nTiles → (s.tile u).powered = true → s.pw.soft = false →
    ((s.tile u).inReset = false →
      Answers (.depTileRst u) s (fun t => (t.tile u).inReset = true ∧ u ∈ t.cfg.noShadow ∧ t.pw.dark = none ∧
        t.tb.age = s.tb.age + 1 ∧ t.msg = s.msg) ∧
      Answers (.tmrPersistentFault u) s (fun t => (t.tile u).inReset = true ∧ u ∈ t.cfg.noShadow ∧ t.pw.dark = none ∧
        t.tb = s.tb ∧ t.msg = s.msg)) ∧
    ((s.tile u).inReset = true →
      exec (.depTileRst u) s = .next (s.advance 1) ∧ exec (.tmrPersistentFault u) s = .next s)) ∧
  (∀ (s : State) (u : Nat), s.up = true → u < 64 → s.nTiles ≤ u ∨ (s.tile u).powered = false →
    Answers (.depTileRst u) s (fun t => s.WriteRefused t .host 0xA018 5)) ∧
  (∀ (s : State) (u : Nat), s.up = true → u < s.nTiles →
    ((s.tile u).inReset = false → exec (.tileResetDone u) s = .next s) ∧
    ((s.tile u).inReset = true → s.pw.soft = false → s.cfg.late = [] → Answers (.tileResetDone u) s (fun t =>
      (t.tile u).inReset = false ∧ (t.tile u).rep = 0 ∧ t.evSet (tileSrc u 14) = true ∧ t.pw.cause = 5 ∧ t.pw.causeTile = u ∧
      (∀ a, tileOf a = some u → isRwf a = true → t.rv a = ((s.bare).stageRecs s.cfg.recs).rv a) ∧
      (∀ a, tileOf a ≠ some u ∨ isRwf a = false → t.rv a = s.rv a) ∧
      (∀ v, v ≠ u → (t.tile v).inReset = (s.tile v).inReset) ∧ t.tb = s.tb ∧ t.msg = s.msg ∧ t.cfg = s.cfg))) ∧
  (∀ s : State, s.up = true → exec .cntClr s = .next { s.advance 1 with
    dep := { s.dep with restarts := 0, failovers := 0, corr := 0, uncorr := 0 } })) ∧
  (∀ s : State, s.up = true →
    (s.supRuns = true → s.phase = .running → Answers .supervisorRestart s (fun t => t.sup.restarting = true ∧
      t.sup.supGen = (if s.sup.supGen = 255 then 1 else s.sup.supGen + 1) ∧ t.sup.restarts = min 65535 (s.sup.restarts + 1) ∧
      t.pw.dark = none ∧ (s.pw.dark.isSome = true → t.pw.reason = 8) ∧ t.evSet (chipSrc 28) = true ∧ t.sup.reqs = s.sup.reqs ∧
      t.sup.replies = s.sup.replies ∧ t.regs = s.regs ∧ t.msg = s.msg ∧ t.tb = s.tb ∧ t.cfg = s.cfg)) ∧
    (s.supRuns = false → exec .supervisorRestart s = .next s) ∧
    (s.sup.restarting = true → s.pw.soft = false → Answers .supervisorRestartDone s (fun t => t.sup.restarting = false ∧
      t.pw = { s.pw with cause := 7, causeTile := 0, causeEng := 0 } ∧
      (∀ ch, ch < 96 → hostSends ch = false → (t.slot ch).held = false ∧ (t.slot ch).full = (s.slot ch).full) ∧
      (∀ ch, ch < 96 → hostSends ch = true → t.slot ch = s.slot ch) ∧
      (s.phase = .running → s.sup.logNow < 16 → t.sup.logSeq = (s.sup.logSeq + 1) % 2 ^ 32 ∧
        readByte t.nv (logBase + 32 * (s.sup.logSeq % logSize) + 17) = 1) ∧
      t.sup.reqs = s.sup.reqs ∧ t.regs = s.regs ∧ t.msg = s.msg ∧ t.tb = s.tb)) ∧
    (s.sup.restarting = false ∨ s.pw.soft = true → exec .supervisorRestartDone s = .next s))

/-! ### Power states -/

/-- The requests of PW_CTRL, refused with their reasons by the table's order and the power event: Run without an image (1),
what the state does not allow (2), Dark entry or exit whose X is off the slot grid or outside 10 µs to 60 s (3), a change
that is pending (8). Otherwise Run and Safelight wait for the slot boundary and a Dark change for X. CANCEL withdraws a Dark
change that is not decided. PW_REGATE gates the tiles it names that had been woken. The changes between Run, Safelight and
Dark. Each takes place at its instant and raises the power event. Safelight refuses the pending triggers at once with
reason 6, and their marks go. A Dark entry is decided 8 µs before X, or refused with its reason; at X every tile is gated and the supervisor sleeps. At a
Dark exit every tile is powered and the supervisor wakes; Safelight follows. -/
def Obligations.PowerStates : Prop :=
  (∀ s : State, s.up = true → ∀ (r : Nat → State → Prop),
    r = (fun n t => t.pw = { s.pw with reason := n } ∧ t.evSet (chipSrc 30) = true ∧ t.tb.age = s.tb.age + 1 ∧
      ({ s with tb := t.tb, pw := t.pw } : State).EventsApart t) →
    ∀ ok : Bool, ok = (s.advance 1).switchOk ((s.advance 1).now.addNs (-8)) →
    (s.pw.st = .safelight → s.cfg.noImage = true → Answers .reqRun s (r 1)) ∧
    (s.pw.st = .safelight → s.cfg.noImage = false → s.pw.busy = true → Answers .reqRun s (r 8)) ∧
    (s.pw.st = .safelight → s.cfg.noImage = false → s.pw.busy = false → exec .reqRun s = .next { s.advance 1 with
      pw := { s.pw with toRun := some (s.tb.age + 1) } }) ∧
    (s.pw.st ≠ .safelight → Answers .reqRun s (r 2)) ∧
    (s.pw.st = .run → s.pw.busy = true → Answers .reqSafelight s (r 8)) ∧
    (s.pw.st = .run → s.pw.busy = false → exec .reqSafelight s = .next { s.advance 1 with
      pw := { s.pw with toSafe := some (s.tb.age + 1) } }) ∧
    (s.pw.st = .safelight → Answers .reqSafelight s (r 2)) ∧
    (s.pw.st = .dark → ok = false → Answers .reqSafelight s (r 3)) ∧
    (s.pw.st = .dark → ok = true → s.pw.busy = true → Answers .reqSafelight s (r 8)) ∧
    (s.pw.st = .dark → ok = true → s.pw.busy = false → exec .reqSafelight s = .next { s.advance 1 with
      pw := { s.pw with dark := some ⟨false, s.switchTime, s.tb.age + 1 + (s.advance 1).slotsTo s.switchTime, false⟩ } }) ∧
    (s.pw.st ≠ .safelight → Answers .reqDark s (r 2)) ∧
    (s.pw.st = .safelight → s.phase = .running → ok = false → Answers .reqDark s (r 3)) ∧
    (s.pw.st = .safelight → s.phase = .running → ok = true → s.pw.busy = true → Answers .reqDark s (r 8)) ∧
    (s.pw.st = .safelight → s.phase = .running → ok = true → s.pw.busy = false → s.cal.run = none →
      exec .reqDark s = .next { s.advance 1 with
        pw := { s.pw with dark := some ⟨true, s.switchTime, s.tb.age + 1 + (s.advance 1).slotsTo s.switchTime, false⟩ } }) ∧
    (∀ d, s.pw.dark = some d → exec .pwCancel s = .next { s.advance 1 with
      pw := { s.pw with dark := if d.decided = true then some d else none } }) ∧
    (s.pw.dark = none → exec .pwCancel s = .next (s.advance 1)) ∧
    (∀ m, Answers (.pwRegate m) s (fun t => t.tb.age = s.tb.age + 1 ∧ t.pw = s.pw ∧ ∀ u, u < s.nTiles →
      (t.tile u).powered = ((s.tile u).powered && !(m.getLsbD u && (s.tile u).awake)) ∧
      (t.tile u).awake = ((s.tile u).awake && !m.getLsbD u)))) ∧
  (∀ s : State, s.up = true →
    (∀ a, s.pw.toRun = some a → Answers .enterRun s (fun t => t.pw = { s.pw with st := .run, toRun := none } ∧
      t.tb.age = max s.tb.age a ∧ t.evSet (chipSrc 30) = true ∧ t.regs = s.regs ∧ t.msg = s.msg ∧
      (∀ u c, u < s.nTiles → c < 17 → (t.chan u c).neq = { lg := false, iu := true } ∧ (t.chan u c).eq = {}))) ∧
    (∀ a, s.pw.toSafe = some a → Answers .enterSafelight s (fun t => t.pw = { s.pw with st := .safelight, toSafe := none } ∧
      t.tb.age = max s.tb.age a ∧ t.evSet (chipSrc 30) = true ∧ t.regs = s.regs ∧ t.msg = s.msg ∧
      t.eb.pending = [] ∧ (s.eb.pending ≠ [] → t.eb.tref = (s.eb.tref + s.eb.pending.length) % 2 ^ 32) ∧
      (∀ u p, u < 64 → p ∈ s.eb.pending → ∀ m ∈ (t.tile u).marks, m.owner ≠ p.ord) ∧
      (s.eb.pending ≠ [] → s.eb.pending.all (fun p => p.doom.isNone) = true → t.eb.lastReason = 6 ∧
        t.evSet (chipSrc 14) = true))) ∧
    (∀ d, s.pw.dark = some d → d.entry = true → d.decided = false → Answers .darkDecide s (fun t =>
      t.tb.age = max s.tb.age (d.age - 1000) ∧
      ((s.advanceTo (d.age - 1000)).darkReason = none → t.pw = { s.pw with dark := some { d with decided := true } }) ∧
      (∀ n, (s.advanceTo (d.age - 1000)).darkReason = some n → t.pw = { s.pw with dark := none, reason := n } ∧
        t.evSet (chipSrc 30) = true))) ∧
    (∀ d, s.pw.dark = some d → d.entry = true → d.decided = true → Answers .darkEntry s (fun t =>
      t.pw.st = .dark ∧ t.pw.dark = none ∧ t.tb.age = max s.tb.age d.age ∧ t.lk.darkRate = true ∧ t.sup.asleep = true ∧
      t.evSet (chipSrc 30) = true ∧ (∀ u, u < s.nTiles → (t.tile u).powered = false) ∧ t.msg = s.msg)) ∧
    (∀ d, s.pw.dark = some d → d.entry = true → d.decided = false → exec .darkEntry s = .next s ∧ exec .darkExit s = .next s) ∧
    (∀ d, s.pw.dark = some d → d.entry = false → Answers .darkExit s (fun t => t.pw.exiting = true ∧ t.pw.dark = none ∧
      t.pw.st = s.pw.st ∧ t.tb.age = max s.tb.age d.age ∧ t.lk.darkRate = false ∧ t.sup.asleep = false ∧
      (∀ u, u < s.nTiles → (t.tile u).powered = true ∧ (t.tile u).awake = false) ∧ t.regs = s.regs ∧ t.msg = s.msg)) ∧
    (s.pw.exiting = true → Answers .darkExitComplete s (fun t => t.pw = { s.pw with st := .safelight, exiting := false } ∧
      t.evSet (chipSrc 30) = true ∧ t.tb = s.tb ∧ t.regs = s.regs ∧ t.msg = s.msg)) ∧
    (∀ u, u < s.nTiles → s.pw.st = .dark → (s.tile u).powered = false → s.tileCalled u = true →
      Answers (.tileWake u) s (fun t => (t.tile u).powered = true ∧ (t.tile u).awake = true ∧ t.evSet (tileSrc u 15) = true ∧
        (s.sup.asleep = true → t.sup.wakeAsk = true) ∧ (∀ v, v ≠ u → (t.tile v).powered = (s.tile v).powered) ∧
        t.regs = s.regs ∧ t.tb = s.tb)) ∧
    (s.sup.asleep = true → s.supCalled = true → Answers .supervisorWake s (fun t => t.sup.asleep = false ∧
      t.evSet (chipSrc 31) = true ∧ t.regs = s.regs ∧ t.tb = s.tb ∧ t.msg = s.msg ∧ t.pw = s.pw)) ∧
    (s.sup.asleep = false ∨ s.supCalled = false → exec .supervisorWake s = .next s))

/-! ### Resets -/

/-- POR and RESET_N put everything but the non-volatile store, the device key, the pins that others drive and the waiting
commands at its reset value, with the last reset's cause 1 or 2 and a new challenge. Start-up latches BOOTSEL; 3 is factory
test. Otherwise the boot count is the one that follows the log's last entry, and an entry of KIND 1 is written under it
(in every case, log entry 138). Start-up ends in Safelight state. A soft reset: during a snapshot freeze it is held, in Dark
state refused with reason 8, and during start-up or another one absorbed. Otherwise the boot count rises with its entry, the
cause is 4, capture goes to Safelight, the pending triggers are refused, every powered tile goes into reset, the links
reset, both generations rise. At its end the tiles leave reset, the supervisor runs, and Run follows where the device was in
Run. -/
def Obligations.DeviceResets : Prop :=
  ((∀ s : State, exec .porAssert s = .next (s.wiped .porHeld 1) ∧
    (s.phase ≠ .porHeld → exec .resetNLow s = .next (s.wiped .rstHeld 2)) ∧
    (s.phase = .porHeld → exec .resetNLow s = .next s)) ∧
  (∀ (s t : State) (p : Phase) (n : Nat), t = s.wiped p n → t.phase = p ∧ t.pw.cause = n ∧ t.nv = s.nv ∧ t.key = s.key ∧
    t.part = s.part ∧ t.pending = s.pending ∧ t.dep.snapN = s.dep.snapN ∧ t.sup.chal = Config.random s.fresh ∧
    t.regs = [] ∧ t.tiles = [] ∧ t.msg = [] ∧ t.tb = State.reset.tb ∧ t.tt = State.reset.tt ∧ t.eb = State.reset.eb ∧
    t.ev = State.reset.ev ∧ t.pr = State.reset.pr ∧ t.cal = State.reset.cal ∧ t.sup.hostGen = 1 ∧ t.sup.supGen = 1 ∧
    t.pw.st = .safelight ∧ t.dep.frozen = false ∧ t.cfg.noImage = true ∧ t.cfg.recs = [] ∧ t.refCnt = 0) ∧
  (∀ (s : State) (b : BitVec 2) (f : List Byte),
    (s.phase ≠ .porHeld → exec (.porEnd b f) s = .next s) ∧
    (s.phase ≠ .rstHeld → exec (.resetNRelease b f) s = .next s) ∧
    ∀ c, (c = .porEnd b f ∧ s.phase = .porHeld) ∨ (c = .resetNRelease b f ∧ s.phase = .rstHeld) →
      (b = 3 → exec c s = .next { s with bootsel := b, phase := .factory, cfg := { s.cfg with flash := f } }) ∧
      (b ≠ 3 → Answers c s (fun t => { t with nv := s.nv, sup := s.sup } = { s with
          bootsel := b, phase := .booting, cfg := { s.cfg with flash := f },
          pw := { s.pw with bootCnt := bootCount s.nv, counted := true } } ∧
        ∀ q : Nat, (logLast s.nv = none ∧ q = 0) ∨ (∃ p n, logLast s.nv = some (p, n) ∧ q = (p + 1) % 2 ^ 32) →
          t.sup = { s.sup with logSeq := (q + 1) % 2 ^ 32, logNow := s.sup.logNow + 1 } ∧
          readByte t.nv (logBase + 32 * (q % logSize) + 17) = 1 ∧
          leNat (readBytes t.nv (logBase + 32 * (q % logSize) + 4) 4) = bootCount s.nv))) ∧
  (∀ s : State, s.phase = .booting → s.dep.frozen = false → Answers .bootComplete s (fun t =>
    t.phase = .running ∧
    t.pw = { s.pw with bootCnt := if s.pw.counted = true then s.pw.bootCnt else bootCount s.nv, counted := true } ∧ t.evSet (chipSrc 30) = true ∧ t.tb = s.tb ∧
    t.msg = s.msg ∧ (s.bootsel = 1 → t.cfg = s.cfg ∧ t.regs = s.regs))) ∧
  (∀ s : State, s.phase ≠ .booting → exec .bootComplete s = .next s)) ∧
  ((∀ (s : State) (h : Option CtlHead),
    (s.dep.frozen = true → exec (.softRst h) s = .next { s with dep := { s.dep with heldSoft := true } }) ∧
    (s.up = true → s.pw.soft = true ∨ s.phase ≠ .running → exec (.softRst h) s = .next (s.advance 1)) ∧
    (s.up = true → s.pw.soft = false → s.phase = .running → s.pw.st = .dark → Answers (.softRst h) s (fun t =>
      t.pw = { s.pw with reason := 8 } ∧ t.evSet (chipSrc 30) = true ∧
      ({ s with tb := t.tb, pw := t.pw } : State).EventsApart t)) ∧
    (s.up = true → s.pw.soft = false → s.phase = .running → s.pw.st ≠ .dark → Answers (.softRst h) s (fun t =>
      t.pw.soft = true ∧ t.pw.st = .safelight ∧ t.pw.dark = none ∧ t.pw.toRun = none ∧ t.pw.cause = 4 ∧
      t.pw.bootCnt = bootCount s.nv ∧ t.eb.pending = [] ∧
      (s.eb.pending ≠ [] → t.eb.tref = (s.eb.tref + s.eb.pending.length) % 2 ^ 32) ∧
      t.pw.heldRun = (decide (s.pw.st = .run) && s.pw.toSafe.isNone) ∧ t.sup.restarting = true ∧
      t.sup.supGen = genNext s.sup.supGen ∧ t.sup.hostGen = genNext s.sup.hostGen ∧ t.lk.dn = .noSignal ∧
      t.lk.hostReset = true ∧ t.tb.age = s.tb.age + 1 ∧ t.msg = s.msg ∧
      (∀ u, u < s.nTiles → (s.tile u).powered = true → (t.tile u).inReset = true)))) ∧
  (∀ s : State, s.up = true →
    (s.pw.soft = true → Answers .softResetDone s (fun t => t.pw = { s.pw with
        soft := false, heldRun := false, toRun := if s.pw.heldRun = true then some (s.tb.age + 1) else none } ∧
      t.sup.restarting = false ∧ (∀ u, u < s.nTiles → (t.tile u).inReset = false) ∧ t.tb = s.tb ∧ t.msg = s.msg)) ∧
    (s.pw.soft = false → exec .softResetDone s = .next s)))

/-! ### Register writes -/

/-- A write is applied whole one slot on, or refused whole and recorded: an address that is unaligned or maps no register
gives reason 2, an RWF field 1, a register with nothing to write 2, a tile that is off 5, a secure target 6, the reply area
7. A word of message memory takes all 32 bits. The RW field of a register without commands takes its bits of the value and
leaves every other register; W1C bits clear where ones are written. -/
def Obligations.RegisterWrites : Prop :=
  ∀ (s : State) (src : Src) (a : BitVec 24) (w : BitVec 32), s.up = true →
    (∀ r, (s.advance 1).writeReason src a.toNat w = some r → (s.cal.run = none ∨ a.toNat ≠ 0x8000) →
      (∀ x, regAt a.toNat = some x → x.row.reg ≠ .chCheck ∧ x.row.reg ≠ .tcHoCtrl) →
      Answers (.registerWrite src a w) s (fun t => s.WriteRefused t src a.toNat r)) ∧
    (a.toNat % 4 ≠ 0 → s.writeReason src a.toNat w = some 2) ∧
    (a.toNat % 4 = 0 → msgOffset a.toNat = none → regAt a.toNat = none → s.writeReason src a.toNat w = some 2) ∧
    (∀ x, a.toNat % 4 = 0 → regAt a.toNat = some x →
      (x.row.rwf ≠ 0 → s.writeReason src a.toNat w = some 1) ∧
      (x.row.rwf = 0 → x.row.rw = 0 → x.row.w1c = 0 → x.row.wo = 0 → s.writeReason src a.toNat w = some 2) ∧
      (∀ u, x.tile = some u → x.row.rwf = 0 → ¬ (x.row.rw = 0 ∧ x.row.w1c = 0 ∧ x.row.wo = 0) →
        s.tileServes u x.row.reg = false → s.writeReason src a.toNat w = some 5)) ∧
    (∀ o, a.toNat % 4 = 0 → msgOffset a.toNat = some o →
      (srcBarred src a.toNat = true → s.writeReason src a.toNat w = some 6) ∧
      (src = .host → 0x38000 ≤ o % 0x40000 → s.writeReason src a.toNat w = some 7) ∧
      (srcBarred src a.toNat = false → (src = .host → o % 0x40000 < 0x38000) →
        Answers (.registerWrite src a w) s (fun t => readW32 t.msg o = w ∧
          (∀ b, b < o ∨ o + 4 ≤ b → readByte t.msg b = readByte s.msg b) ∧
          { t with msg := s.msg, dep := s.dep } = s.advance 1))) ∧
    (∀ x, a.toNat % 4 = 0 → msgOffset a.toNat = none → regAt a.toNat = some x →
      (s.advance 1).writeReason src a.toNat w = none → x.row.w1c = 0 → x.row.wo = 0 →
      x.row.reg ∉ [.mbPtr, .mbTag, .tcXbar, .chThr] →
      Answers (.registerWrite src a w) s (fun t => t.rv a.toNat = Nat.land w.toNat x.row.rw ∧
        (∀ b, b ≠ a.toNat → t.rv b = s.rv b) ∧ t.tb.age = s.tb.age + 1 ∧ t.msg = s.msg ∧ t.refCnt = s.refCnt)) ∧
    (∀ i, i < 4 → a.toNat = 0x4020 + 4 * i → Answers (.registerWrite src a w) s (fun t =>
      (∀ k, k < 128 → t.ev.chip.getLsbD k = (s.ev.chip.getLsbD k && !(decide (k / 32 = i) && w.getLsbD (k % 32)))) ∧
      { t with ev := s.ev } = s.advance 1))
end

