-- ==== Sys2Proof/Laws/Map.lean ====
section
/-! SUPPORT. What the one read and the one write of a sparse table or byte memory do: a read after a write, and the
canonical form kept. -/

namespace Sys2Proof.Machine

open Sys2Proof

variable {α : Type} (d : Nat → α)

@[simp] theorem mapGet_erase_same (m : Map α) (k : Nat) : mapGet d (mapErase m k) k = d k := by
  induction m with
  | nil => rfl
  | cons p m ih =>
    obtain ⟨j, v⟩ := p
    by_cases h : j = k <;> simp [mapErase, mapGet, h, ih]

theorem mapGet_erase_ne (m : Map α) {k j : Nat} (h : j ≠ k) : mapGet d (mapErase m k) j = mapGet d m j := by
  induction m with
  | nil => rfl
  | cons p m ih =>
    obtain ⟨i, v⟩ := p
    by_cases hik : i = k
    · subst hik
      simp [mapErase, mapGet, ih, Ne.symm h]
    · by_cases hij : i = j
      · subst hij
        simp [mapErase, mapGet, hik]
      · simp [mapErase, mapGet, hik, hij, ih]

theorem mapErase_no_key (m : Map α) (k : Nat) : ∀ p ∈ mapErase m k, p.1 ≠ k := by
  induction m with
  | nil => simp [mapErase]
  | cons p m ih =>
    obtain ⟨j, v⟩ := p
    by_cases h : j = k
    · simpa [mapErase, h] using ih
    · intro q hq
      simp only [mapErase, h, if_false, List.mem_cons] at hq
      rcases hq with rfl | hq
      · exact h
      · exact ih q hq

theorem mapGet_insert_same (m : Map α) (k : Nat) (v : α) (h : ∀ p ∈ m, p.1 ≠ k) :
    mapGet d (mapInsert m k v) k = v := by
  induction m with
  | nil => simp [mapInsert, mapGet]
  | cons p m ih =>
    obtain ⟨j, w⟩ := p
    have hj : j ≠ k := h (j, w) (by simp)
    by_cases hlt : k < j
    · simp [mapInsert, mapGet, hlt]
    · simp [mapInsert, mapGet, hlt, hj, ih (fun p hp => h p (by simp [hp]))]

theorem mapGet_insert_ne (m : Map α) {k j : Nat} (v : α) (h : j ≠ k) :
    mapGet d (mapInsert m k v) j = mapGet d m j := by
  induction m with
  | nil => simp [mapInsert, mapGet, Ne.symm h]
  | cons p m ih =>
    obtain ⟨i, w⟩ := p
    by_cases hlt : k < i
    · simp [mapInsert, mapGet, hlt, Ne.symm h]
    · simp [mapInsert, mapGet, hlt, ih]

theorem mapErase_subset (m : Map α) (k : Nat) : ∀ p ∈ mapErase m k, p ∈ m := by
  induction m with
  | nil => simp [mapErase]
  | cons q m ih =>
    obtain ⟨j, v⟩ := q
    intro p hp
    by_cases h : j = k
    · simp only [mapErase, h, if_true] at hp
      exact List.mem_cons_of_mem _ (ih p hp)
    · simp only [mapErase, h, if_false, List.mem_cons] at hp
      rcases hp with rfl | hp
      · simp
      · exact List.mem_cons_of_mem _ (ih p hp)

theorem mapInsert_mem (m : Map α) (k : Nat) (v : α) : ∀ p ∈ mapInsert m k v, p = (k, v) ∨ p ∈ m := by
  induction m with
  | nil => simp [mapInsert]
  | cons q m ih =>
    obtain ⟨j, w⟩ := q
    intro p hp
    by_cases h : k < j
    · simpa [mapInsert, h] using hp
    · simp only [mapInsert, h, if_false, List.mem_cons] at hp
      rcases hp with rfl | hp
      · simp
      · rcases ih p hp with h | h <;> simp [h]

variable [DecidableEq α]

/-- A read after a write to the same key gives the value written. -/
@[simp] theorem mapGet_set_same (m : Map α) (k : Nat) (v : α) : mapGet d (mapSet d m k v) k = v := by
  unfold mapSet
  split
  · rename_i h; simp [h]
  · exact mapGet_insert_same d _ _ _ (mapErase_no_key m k)

/-- A write leaves every other key alone. -/
theorem mapGet_set_ne (m : Map α) {k j : Nat} (v : α) (h : j ≠ k) :
    mapGet d (mapSet d m k v) j = mapGet d m j := by
  unfold mapSet
  split
  · exact mapGet_erase_ne d m h
  · rw [mapGet_insert_ne d _ v h, mapGet_erase_ne d m h]

theorem mapGet_set (m : Map α) (k j : Nat) (v : α) :
    mapGet d (mapSet d m k v) j = if j = k then v else mapGet d m j := by
  by_cases h : j = k
  · subst h; simp
  · simp [mapGet_set_ne d m v h, h]

theorem mapWf_cons (j : Nat) (v : α) (m : Map α) :
    mapWf d ((j, v) :: m) = true ↔ v ≠ d j ∧ (∀ p ∈ m, j < p.1) ∧ mapWf d m = true := by
  simp [mapWf, and_assoc]

theorem mapWf_erase (m : Map α) (k : Nat) (h : mapWf d m = true) : mapWf d (mapErase m k) = true := by
  induction m with
  | nil => rfl
  | cons q m ih =>
    obtain ⟨j, v⟩ := q
    rw [mapWf_cons] at h
    by_cases hj : j = k
    · simpa [mapErase, hj] using ih h.2.2
    · simp only [mapErase, hj, if_false]
      rw [mapWf_cons]
      exact ⟨h.1, fun p hp => h.2.1 p (mapErase_subset m k p hp), ih h.2.2⟩

theorem mapWf_insert (m : Map α) (k : Nat) (v : α) (h : mapWf d m = true) (hk : ∀ p ∈ m, p.1 ≠ k) (hv : v ≠ d k) :
    mapWf d (mapInsert m k v) = true := by
  induction m with
  | nil => simp [mapInsert, mapWf, hv]
  | cons q m ih =>
    obtain ⟨j, w⟩ := q
    have hw := (mapWf_cons d j w m).1 h
    by_cases hlt : k < j
    · simp only [mapInsert, hlt, if_true]
      rw [mapWf_cons]
      refine ⟨hv, ?_, h⟩
      intro p hp
      rcases List.mem_cons.1 hp with rfl | hp
      · exact hlt
      · exact Nat.lt_trans hlt (hw.2.1 p hp)
    · simp only [mapInsert, hlt, if_false]
      rw [mapWf_cons]
      refine ⟨hw.1, ?_, ih hw.2.2 (fun p hp => hk p (by simp [hp]))⟩
      intro p hp
      have hjk : j ≠ k := hk (j, w) (by simp)
      rcases mapInsert_mem m k v p hp with rfl | hp
      · simp only; omega
      · exact hw.2.1 p hp

/-- Every table write keeps the canonical form. -/
theorem mapWf_set (m : Map α) (k : Nat) (v : α) (h : mapWf d m = true) : mapWf d (mapSet d m k v) = true := by
  unfold mapSet
  split
  · exact mapWf_erase d m k h
  · exact mapWf_insert d _ k v (mapWf_erase d m k h) (mapErase_no_key m k) (by assumption)

/-! ### Byte memory -/

theorem readByte_writeByte (m : Memory) (a b : Nat) (v : Byte) :
    readByte (writeByte m a v) b = if b = a then v else readByte m b :=
  mapGet_set _ m a b v

theorem writeByte_wf (m : Memory) (a : Nat) (b : Byte) (h : Memory.wf m = true) : Memory.wf (writeByte m a b) = true :=
  mapWf_set _ m a b h

theorem writeBytes_wf (bs : List Byte) (m : Memory) (a : Nat) (h : Memory.wf m = true) :
    Memory.wf (writeBytes m a bs) = true := by
  induction bs generalizing m a with
  | nil => exact h
  | cons b bs ih => exact ih _ _ (writeByte_wf m a b h)

/-- Bytes outside the run written are unchanged. -/
theorem readByte_writeBytes_outside (bs : List Byte) (m : Memory) (a b : Nat) (h : b < a ∨ a + bs.length ≤ b) :
    readByte (writeBytes m a bs) b = readByte m b := by
  induction bs generalizing m a with
  | nil => rfl
  | cons x bs ih =>
    simp only [List.length_cons] at h
    rw [writeBytes, ih _ _ (by omega), readByte_writeByte, if_neg (by omega)]

theorem writeW32_wf (m : Memory) (a : Nat) (w : Reg32) (h : Memory.wf m = true) : Memory.wf (writeW32 m a w) = true :=
  writeBytes_wf _ m a h

theorem writeW64_wf (m : Memory) (a : Nat) (w : W64) (h : Memory.wf m = true) : Memory.wf (writeW64 m a w) = true :=
  writeBytes_wf _ m a h

theorem writeW64s_wf (ws : List W64) (m : Memory) (a : Nat) (h : Memory.wf m = true) :
    Memory.wf (writeW64s m a ws) = true := by
  induction ws generalizing m a with
  | nil => exact h
  | cons w ws ih => exact ih _ _ (writeW64_wf m a w h)

end Sys2Proof.Machine
end

