-- ==== Sys2Proof/Laws/Events.lean ====
section
/-! SUPPORT. What setting an event source changes: the frame of State.raise, and the sticky bit it leaves. -/

namespace Sys2Proof.Machine

open Sys2Proof

theorem State.EventsApart.refl (s : State) : s.EventsApart s := ⟨rfl, fun _ => rfl⟩

theorem State.EventsApart.trans {s t u : State} (h : s.EventsApart t) (k : t.EventsApart u) : s.EventsApart u :=
  ⟨k.1.trans h.1, fun n => (k.2 n).trans (h.2 n)⟩

/-- A tile read after a tile written. -/
theorem State.tile_setTile (s : State) (t u : Nat) (x : Tile) : (s.setTile t x).tile u = if u = t then x else s.tile u :=
  mapGet_set _ s.tiles t u x

/-- Tiles are kept by an update that keeps the table of tiles. -/
theorem State.tile_congr {s t : State} (h : t.tiles = s.tiles) (u : Nat) : t.tile u = s.tile u := by
  simp [State.tile, h]

theorem State.EventsApart.of_tiles {s t : State} (h : t.sansEvents = s.sansEvents) (k : t.tiles = s.tiles) :
    s.EventsApart t := ⟨h, fun u => by rw [State.tile_congr k]⟩

theorem State.apart_setSticky (s : State) (k : Nat) : s.EventsApart (s.setSticky k) := by
  unfold State.setSticky
  split
  · refine ⟨rfl, fun u => ?_⟩
    simp only [State.modTile, State.tile_setTile]
    split
    · rename_i h; subst h; rfl
    · rfl
  · exact .of_tiles rfl rfl

theorem State.apart_send (s : State) (c i : Nat) (ws : List W64) : s.EventsApart (s.send c i ws) := .of_tiles rfl rfl

theorem State.apart_setSlot (s : State) (ch : Nat) (x : Slot) : s.EventsApart (s.setSlot ch x) := .of_tiles rfl rfl

theorem State.apart_notice (s : State) (ch : Nat) (b : Bool) : s.EventsApart (s.notice ch b) := s.apart_send ..

theorem State.apart_log (s : State) (k src d : Nat) : s.EventsApart (s.log k src d) := by
  unfold State.log
  split
  · exact .refl s
  · split <;> exact .of_tiles rfl rfl

theorem State.apart_routeAlert (s : State) (k : Nat) (at_ : Time) (b : Bool) : s.EventsApart (s.routeAlert k at_ b) := by
  have h : s.EventsApart (if bit (s.evRoute k) 0 then s.send 3 0 [alertRecord k s.tb.epoch b, alertTime at_] else s) := by
    split
    · exact s.apart_send ..
    · exact .refl s
  simp only [State.routeAlert]
  split
  · exact (h.trans (State.apart_log ..)).trans (.of_tiles rfl rfl)
  · exact h

theorem State.apart_raiseQuiet (s : State) (k : Nat) : s.EventsApart (s.raiseQuiet k) := by
  simp only [State.raiseQuiet]
  split
  · exact .refl s
  · split
    · exact s.apart_setSticky k
    · exact (s.apart_setSticky k).trans (State.apart_routeAlert ..)

theorem State.apart_placePost (s : State) (k : Nat) : s.EventsApart (s.placePost k) := by
  simp only [State.placePost]
  exact (State.apart_setSlot ..).trans (State.apart_notice ..)

theorem State.apart_routeBox (s : State) (k : Nat) : s.EventsApart (s.routeBox k) := by
  unfold State.routeBox
  split
  · split
    · split
      · exact .of_tiles rfl rfl
      · exact State.EventsApart.trans (t := { s with ev := { s.ev with lost := satAdd (2 ^ 32 - 1) s.ev.lost 1 } })
          (.of_tiles rfl rfl) (State.apart_raiseQuiet ..)
    · exact s.apart_placePost k
  · exact .refl s

theorem State.apart_routes (s : State) (k : Nat) (at_ : Time) (b : Bool) : s.EventsApart (s.routes k at_ b) :=
  (s.apart_routeAlert k at_ b).trans (State.apart_routeBox ..)

/-- Setting an event source changes nothing but the state of event sources and their routes. -/
theorem State.apart_raiseAt (s : State) (k : Nat) (at_ : Time) : s.EventsApart (s.raiseAt k at_) := by
  unfold State.raiseAt
  split
  · exact .refl s
  · split
    · exact s.apart_setSticky k
    · exact (s.apart_setSticky k).trans (State.apart_routes ..)

theorem State.apart_raise (s : State) (k : Nat) : s.EventsApart (s.raise k) := s.apart_raiseAt k s.now

/-! ### Sticky bits -/

/-- A sticky bit depends on the tiles and the chip's sticky bits alone. -/
theorem State.evSet_congr {s t : State} (h : t.tiles = s.tiles) (e : t.ev.chip = s.ev.chip) (k : Nat) :
    t.evSet k = s.evSet k := by
  simp [State.evSet, State.tile_congr h, e]

/-- Setting a sticky bit keeps every sticky bit that is set. -/
theorem State.evSet_setSticky_mono (s : State) (k j : Nat) (h : s.evSet j = true) : (s.setSticky k).evSet j = true := by
  unfold State.setSticky
  split
  · unfold State.evSet at h ⊢
    split
    · simp only [State.modTile, State.tile_setTile]
      simp_all only [if_true]
      split
      · rename_i e; rw [e] at h; simp [h]
      · exact h
    · rename_i hj; simpa [hj, State.modTile, State.setTile] using h
  · unfold State.evSet at h ⊢
    split
    · rename_i hj; simpa [hj, State.tile] using h
    · rename_i hj; simp_all

/-- Bit `n` of a power of two. -/
theorem getLsbD_two_pow (w n : Nat) (h : n < w) : (BitVec.ofNat w (2 ^ n)).getLsbD n = true := by
  rw [BitVec.getLsbD_ofNat, Nat.testBit_two_pow_self]
  simpa using h

/-- A source that exists: of a tile, or one of the 128 chip sources. -/
theorem State.evSet_setSticky (s : State) (k : Nat) (h : k < 1152) : (s.setSticky k).evSet k = true := by
  unfold State.setSticky
  split
  · rename_i hk
    rw [State.evSet, if_pos hk, State.modTile, State.tile_setTile, if_pos rfl]
    show ((s.tile (k / 16)).te ||| BitVec.ofNat 16 (2 ^ (k % 16))).getLsbD (k % 16) = true
    rw [BitVec.getLsbD_or, getLsbD_two_pow 16 (k % 16) (by omega), Bool.or_true]
  · rename_i hk
    rw [State.evSet, if_neg hk]
    show (s.ev.chip ||| BitVec.ofNat 128 (2 ^ (k - 1024))).getLsbD (k - 1024) = true
    rw [BitVec.getLsbD_or, getLsbD_two_pow 128 (k - 1024) (by omega), Bool.or_true]

theorem State.evSet_log (s : State) (a b c k : Nat) : (s.log a b c).evSet k = s.evSet k := by
  unfold State.log
  split
  · rfl
  · split <;> exact State.evSet_congr rfl rfl k

theorem State.evSet_routeAlert (s : State) (k : Nat) (at_ : Time) (b : Bool) (j : Nat) :
    (s.routeAlert k at_ b).evSet j = s.evSet j := by
  have h : (if bit (s.evRoute k) 0 then s.send 3 0 [alertRecord k s.tb.epoch b, alertTime at_] else s).evSet j = s.evSet j := by
    split
    · exact State.evSet_congr rfl rfl j
    · rfl
  simp only [State.routeAlert]
  split
  · exact ((State.evSet_congr rfl rfl j).trans (State.evSet_log ..)).trans h
  · exact h

theorem State.evSet_raiseQuiet_mono (s : State) (k j : Nat) (h : s.evSet j = true) : (s.raiseQuiet k).evSet j = true := by
  simp only [State.raiseQuiet]
  split
  · exact h
  · split
    · exact s.evSet_setSticky_mono k j h
    · rw [State.evSet_routeAlert]; exact s.evSet_setSticky_mono k j h

theorem State.evSet_routes_mono (s : State) (k : Nat) (at_ : Time) (b : Bool) (j : Nat) (h : s.evSet j = true) :
    (s.routes k at_ b).evSet j = true := by
  have h : (s.routeAlert k at_ b).evSet j = true := by rw [State.evSet_routeAlert]; exact h
  unfold State.routes State.routeBox
  split
  · split
    · split
      · exact (State.evSet_congr rfl rfl j).trans h
      · exact State.evSet_raiseQuiet_mono _ _ _ ((State.evSet_congr rfl rfl j).trans h)
    · exact (State.evSet_congr rfl rfl j).trans h
  · exact h

/-- Setting a source keeps every sticky bit that is set. -/
theorem State.evSet_raise_mono (s : State) (k j : Nat) (h : s.evSet j = true) : (s.raise k).evSet j = true := by
  unfold State.raise State.raiseAt
  split
  · exact h
  · split
    · exact s.evSet_setSticky_mono k j h
    · exact State.evSet_routes_mono _ _ _ _ _ (s.evSet_setSticky_mono k j h)

/-- Setting a source leaves its sticky bit at 1. -/
theorem State.evSet_raise (s : State) (k : Nat) (h : k < 1152) : (s.raise k).evSet k = true := by
  unfold State.raise State.raiseAt
  split
  · assumption
  · split
    · exact s.evSet_setSticky k h
    · exact State.evSet_routes_mono _ _ _ _ _ (s.evSet_setSticky k h)

end Sys2Proof.Machine
end

