-- ==== Sys2Proof/Laws/Image.lean ====
section
/-! SUPPORT. The load-time rules on a configuration at its reset values: it breaks none (R401, R402). -/

namespace Sys2Proof.Machine

open Sys2Proof

/-- A tile's registers have the same reset values in every tile (R511). -/
theorem resetValue_tile {t o : Nat} (ht : t < 64) (ho : o < 0x4000) : resetValue (tileBase t + o) = resetValue (tileBase 0 + o) := by
  have e : ∀ u, u < 64 → tileOf (tileBase u + o) = some u ∧ (tileBase u + o - 0x100000) % 0x4000 = o := by
    intro u hu
    unfold tileOf tileBase
    rw [if_pos ⟨by omega, by omega⟩]
    exact ⟨congrArg some (by omega), by omega⟩
  unfold resetValue regAt
  simp only [(e t ht).1, (e t ht).2, (e 0 (by omega)).1, (e 0 (by omega)).2]
  cases findRow tileRows o <;> rfl

theorem reset_queues : ∀ q < 256, (resetValue (tileBase 0 + (0x1000 + 16 * q))).toNat = 0 ∧
    (resetValue (tileBase 0 + (0x1004 + 16 * q))).toNat = 0 := by decide +kernel

theorem reset_engines : ∀ e < 9, (resetValue (tileBase 0 + (0x2000 + 64 * e))).toNat = 0 ∧
    (resetValue (tileBase 0 + (0x2004 + 64 * e))).toNat = 0 ∧ (resetValue (tileBase 0 + (0x2008 + 64 * e))).toNat = 0 := by decide +kernel

theorem reset_channels : ∀ c < 16, (resetValue (tileBase 0 + (0x414 + 64 * c))).toNat = 0x200 := by decide +kernel

theorem reset_terms : ∀ q < 4, (let w := (resetValue (tileBase 0 + (0x60 + 4 * q))).toNat
    decide (bits w 15 0 = 0) || decide (bits w 20 16 = 0) || decide ((List.range 16).countP (bit w) < bits w 20 16) ||
      decide (bits w 22 21 = 0)) = false := by decide +kernel

theorem reset_topology : ∀ k < 12, (resetValue (0x6108 + 16 * k)).toNat = 0 ∧ (resetValue (0x6108 + 16 * k + 4)).toNat = 0 := by
  decide +kernel

/-- A state whose registers stand at their reset values. -/
theorem State.rv_reset {s : State} (h : s.regs = []) (a : Nat) : s.rv a = (resetValue a).toNat := by
  unfold State.rv; rw [h]; rfl

theorem findSome?_none {α β : Type} {f : α → Option β} {l : List α} (h : ∀ x ∈ l, f x = none) : l.findSome? f = none := by
  simpa [List.findSome?_eq_none_iff] using h

section
variable {s : State} (h : s.regs = []) {t : Nat} (ht : t < 64)
include h ht

theorem State.rvt_reset {o : Nat} (ho : o < 0x4000) : s.rv (tileBase t + o) = (resetValue (tileBase 0 + o)).toNat := by
  rw [s.rv_reset h, resetValue_tile ht ho]

theorem State.engCfg_reset (e : Nat) : s.engCfg t e = 0 := by
  unfold State.engCfg
  split
  · rename_i he
    rw [Nat.add_assoc, s.rvt_reset h ht (by omega), (reset_engines e he).1]
  · rfl

theorem State.activeEngs_reset : s.activeEngs t = [] := by
  unfold State.activeEngs
  rw [List.filter_eq_nil_iff]
  intro e _
  rw [s.engCfg_reset h ht]; decide

theorem State.ctxMap_reset {e : Nat} (he : e < 9) : s.ctxMap t e = [] := by
  unfold State.ctxMap
  rw [List.filter_eq_nil_iff]
  intro c _
  rw [Nat.add_assoc, Nat.add_assoc, s.rvt_reset h ht (by omega), s.rvt_reset h ht (by omega), (reset_engines e he).2.1,
    (reset_engines e he).2.2]
  simp [bit]

theorem State.funcs_reset : s.funcs t = [] := by
  unfold State.funcs
  rw [List.flatMap_eq_nil_iff]
  intro e he
  rw [s.ctxMap_reset h ht (by simpa using he)]; rfl

theorem State.ownsInput_reset (e n : Nat) : s.ownsInput t e n = false := by
  unfold State.ownsInput
  rw [s.engCfg_reset h ht]; simp [bit, bits]

theorem State.chDest_reset {c : Nat} (hc : c < 16) : s.chDest t c = 0x200 := by
  unfold State.chDest
  rw [Nat.add_assoc, s.rvt_reset h ht (by omega), reset_channels c hc]

theorem State.qDesc_reset {q : Nat} (hq : q < 256) : s.qDesc t q = 0 ∧ s.qWm t q = 0 := by
  unfold State.qDesc State.qWm
  rw [Nat.add_assoc, Nat.add_assoc, s.rvt_reset h ht (by omega), s.rvt_reset h ht (by omega)]
  exact reset_queues q hq

theorem State.destRule_reset : s.destRule t = none := by
  refine findSome?_none fun c hc => ?_
  rw [s.chDest_reset h ht (by simpa using hc)]
  simp [breach, bit]

theorem State.descRule_reset : s.descRule t = none := by
  unfold State.descRule
  rw [s.funcs_reset h ht]; rfl

theorem State.engineRule_reset : s.engineRule t = none := by
  unfold State.engineRule
  simp only [s.activeEngs_reset h ht]
  have a : ∀ c, (List.range 9).filter (fun e => (s.ctxMap t e).contains c) = [] := by
    intro c
    rw [List.filter_eq_nil_iff]
    intro e he
    rw [s.ctxMap_reset h ht (by simpa using he)]; simp
  simp only [a]
  simp [breach, s.ownsInput_reset h ht]

theorem State.programRule_reset (hp : (s.tile t).pm = []) : s.programRule t = none := by
  unfold State.programRule
  have a : s.tfld t 0x2400 8 0 = 64 := by
    unfold State.tfld
    rw [s.rvt_reset h ht (by omega)]; decide +kernel
  simp [s.funcs_reset h ht, hp, a, breach, findPair]

theorem State.queueRule_reset : s.queueRule t = none := by
  unfold State.queueRule
  have a : (List.range 256).filter (fun q => decide (s.qDesc t q ≠ 0) || decide (s.qWm t q ≠ 0)) = [] := by
    rw [List.filter_eq_nil_iff]
    intro q hq
    have := s.qDesc_reset h ht (q := q) (by simpa using hq)
    simp [this.1, this.2]
  have b : s.namedQs t = [] := by
    unfold State.namedQs
    rw [s.activeEngs_reset h ht, s.funcs_reset h ht]; rfl
  have c : bit (s.rv (tileBase t + 0x840)) 1 = false := by
    rw [s.rvt_reset h ht (by omega)]; decide +kernel
  simp only [a, b, c]
  simp [breach, findPair]

theorem State.termRule_reset : s.termRule t = none := by
  have a : ∀ q < 4, s.rv (tileBase t + 0x60 + 4 * q) = (resetValue (tileBase 0 + (0x60 + 4 * q))).toNat := by
    intro q hq
    rw [Nat.add_assoc, s.rvt_reset h ht (by omega)]
  unfold State.termRule
  rw [findSome?_none, findSome?_none]
  · rfl
  · intro k hk
    have hk : k < 12 := by simpa using hk
    simp only [s.rv_reset h, (reset_topology k hk).1, (reset_topology k hk).2]
    simp [breach, bit]
  · intro q hq
    have hq : q < 4 := by simpa using hq
    have := reset_terms q hq
    simp only [a q hq]
    simp only [] at this
    rw [this]; rfl

theorem State.packRule_reset : s.packRule t = none := by
  unfold State.packRule State.packOn
  have c : bit (s.rv (tileBase t + 0x80)) 8 = false := by
    rw [s.rvt_reset h ht (by omega)]; decide +kernel
  simp [c, breach]

/-- A tile at its reset values breaks no rule. -/
theorem State.tileRule_reset (hp : (s.tile t).pm = []) : s.tileRule t = none := by
  unfold State.tileRule
  rw [s.destRule_reset h ht, s.descRule_reset h ht, s.engineRule_reset h ht, s.programRule_reset h ht hp, s.queueRule_reset h ht,
    s.termRule_reset h ht, s.packRule_reset h ht]
  rfl

end

theorem reset_chipRule : State.chipRule { regs := [], key := [] } = none := by decide +kernel

/-- Chip registers at their reset values break no rule. -/
theorem State.chipRule_reset {s : State} (h : s.regs = []) (hp : s.part = .t1024) : s.chipRule = none := by
  have e : s.chipRule = State.chipRule { regs := [], key := [] } := by
    obtain ⟨⟩ := s
    subst h; subst hp
    rfl
  rw [e]; exact reset_chipRule

/-- A device at its reset values has no configuration to clear. -/
theorem State.bare_reset {s : State} (h : s.regs = []) (ht : s.tiles = []) : s.bare = s := by
  have k : ∀ u, s.modTile u (fun x => { x with pm := [], pmNew := [], cx := [], ctxs := [] }) = s := by
    intro u
    unfold State.modTile State.setTile State.tile
    rw [ht]
    obtain ⟨⟩ := s
    subst ht
    rfl
  have f : ∀ us : List Nat, forKeys us (fun t s => s.modTile t (fun x => { x with pm := [], pmNew := [], cx := [], ctxs := [] })) s = s := by
    intro us
    induction us with
    | nil => rfl
    | cons u us ih =>
      unfold forKeys at ih ⊢
      rw [List.foldl_cons]
      simp only [k u]
      exact ih
  unfold State.bare
  have e : ({ s with regs := s.regs.filter (fun p => !isRwf p.1) } : State) = s := by rw [h]; obtain ⟨⟩ := s; subst h; rfl
  simp only [e]
  exact f _

/-- A configuration at its reset values breaks no load-time rule. -/
theorem State.loadRule_reset {s : State} (h : s.regs = []) (hp : s.part = .t1024) (ht : s.tiles = []) : s.loadRule = none := by
  have n : s.nTiles = 64 := by unfold State.nTiles; rw [hp]
  unfold State.loadRule
  rw [s.chipRule_reset h hp, findSome?_none]
  · rfl
  · intro t m
    rw [n] at m
    have p : (s.tile t).pm = [] := by unfold State.tile; rw [ht]; rfl
    rw [s.tileRule_reset h (by simpa using m) p]; rfl

end Sys2Proof.Machine
end

