-- ==== Sys2Proof/Laws/State.lean ====
section
/-! SUPPORT. What the shared updates of State keep, one lemma per field and update, and what a read after a write gives; what
the outcomes of a command and the passing of time can be. -/

namespace Sys2Proof.Machine

open Sys2Proof

variable (s : State)

/-! ### setTile -/

@[simp] theorem State.setTile_part (t : Nat) (x : Tile) : (s.setTile t x).part = s.part := rfl
@[simp] theorem State.setTile_key (t : Nat) (x : Tile) : (s.setTile t x).key = s.key := rfl
@[simp] theorem State.setTile_phase (t : Nat) (x : Tile) : (s.setTile t x).phase = s.phase := rfl
@[simp] theorem State.setTile_bootsel (t : Nat) (x : Tile) : (s.setTile t x).bootsel = s.bootsel := rfl
@[simp] theorem State.setTile_regs (t : Nat) (x : Tile) : (s.setTile t x).regs = s.regs := rfl
@[simp] theorem State.setTile_refAddr (t : Nat) (x : Tile) : (s.setTile t x).refAddr = s.refAddr := rfl
@[simp] theorem State.setTile_refReason (t : Nat) (x : Tile) : (s.setTile t x).refReason = s.refReason := rfl
@[simp] theorem State.setTile_refSrc (t : Nat) (x : Tile) : (s.setTile t x).refSrc = s.refSrc := rfl
@[simp] theorem State.setTile_refCnt (t : Nat) (x : Tile) : (s.setTile t x).refCnt = s.refCnt := rfl
@[simp] theorem State.setTile_fresh (t : Nat) (x : Tile) : (s.setTile t x).fresh = s.fresh := rfl
@[simp] theorem State.setTile_tb (t : Nat) (x : Tile) : (s.setTile t x).tb = s.tb := rfl
@[simp] theorem State.setTile_tt (t : Nat) (x : Tile) : (s.setTile t x).tt = s.tt := rfl
@[simp] theorem State.setTile_lk (t : Nat) (x : Tile) : (s.setTile t x).lk = s.lk := rfl
@[simp] theorem State.setTile_ev (t : Nat) (x : Tile) : (s.setTile t x).ev = s.ev := rfl
@[simp] theorem State.setTile_sup (t : Nat) (x : Tile) : (s.setTile t x).sup = s.sup := rfl
@[simp] theorem State.setTile_eb (t : Nat) (x : Tile) : (s.setTile t x).eb = s.eb := rfl
@[simp] theorem State.setTile_pr (t : Nat) (x : Tile) : (s.setTile t x).pr = s.pr := rfl
@[simp] theorem State.setTile_cfg (t : Nat) (x : Tile) : (s.setTile t x).cfg = s.cfg := rfl
@[simp] theorem State.setTile_cal (t : Nat) (x : Tile) : (s.setTile t x).cal = s.cal := rfl
@[simp] theorem State.setTile_pw (t : Nat) (x : Tile) : (s.setTile t x).pw = s.pw := rfl
@[simp] theorem State.setTile_dep (t : Nat) (x : Tile) : (s.setTile t x).dep = s.dep := rfl
@[simp] theorem State.setTile_fco (t : Nat) (x : Tile) : (s.setTile t x).fco = s.fco := rfl
@[simp] theorem State.setTile_nv (t : Nat) (x : Tile) : (s.setTile t x).nv = s.nv := rfl
@[simp] theorem State.setTile_msg (t : Nat) (x : Tile) : (s.setTile t x).msg = s.msg := rfl
@[simp] theorem State.setTile_pending (t : Nat) (x : Tile) : (s.setTile t x).pending = s.pending := rfl
@[simp] theorem State.setTile_nTiles (t : Nat) (x : Tile) : (s.setTile t x).nTiles = s.nTiles := rfl
@[simp] theorem State.setTile_up (t : Nat) (x : Tile) : (s.setTile t x).up = s.up := rfl
@[simp] theorem State.setTile_rv (t : Nat) (x : Tile) (j : Nat) : (s.setTile t x).rv j = s.rv j := rfl
@[simp] theorem State.setTile_slot (t : Nat) (x : Tile) (k : Nat) : (s.setTile t x).slot k = s.slot k := rfl

/-! ### modTile -/

@[simp] theorem State.modTile_part (t : Nat) (f : Tile → Tile) : (s.modTile t f).part = s.part := rfl
@[simp] theorem State.modTile_key (t : Nat) (f : Tile → Tile) : (s.modTile t f).key = s.key := rfl
@[simp] theorem State.modTile_phase (t : Nat) (f : Tile → Tile) : (s.modTile t f).phase = s.phase := rfl
@[simp] theorem State.modTile_bootsel (t : Nat) (f : Tile → Tile) : (s.modTile t f).bootsel = s.bootsel := rfl
@[simp] theorem State.modTile_regs (t : Nat) (f : Tile → Tile) : (s.modTile t f).regs = s.regs := rfl
@[simp] theorem State.modTile_refAddr (t : Nat) (f : Tile → Tile) : (s.modTile t f).refAddr = s.refAddr := rfl
@[simp] theorem State.modTile_refReason (t : Nat) (f : Tile → Tile) : (s.modTile t f).refReason = s.refReason := rfl
@[simp] theorem State.modTile_refSrc (t : Nat) (f : Tile → Tile) : (s.modTile t f).refSrc = s.refSrc := rfl
@[simp] theorem State.modTile_refCnt (t : Nat) (f : Tile → Tile) : (s.modTile t f).refCnt = s.refCnt := rfl
@[simp] theorem State.modTile_fresh (t : Nat) (f : Tile → Tile) : (s.modTile t f).fresh = s.fresh := rfl
@[simp] theorem State.modTile_tb (t : Nat) (f : Tile → Tile) : (s.modTile t f).tb = s.tb := rfl
@[simp] theorem State.modTile_tt (t : Nat) (f : Tile → Tile) : (s.modTile t f).tt = s.tt := rfl
@[simp] theorem State.modTile_lk (t : Nat) (f : Tile → Tile) : (s.modTile t f).lk = s.lk := rfl
@[simp] theorem State.modTile_ev (t : Nat) (f : Tile → Tile) : (s.modTile t f).ev = s.ev := rfl
@[simp] theorem State.modTile_sup (t : Nat) (f : Tile → Tile) : (s.modTile t f).sup = s.sup := rfl
@[simp] theorem State.modTile_eb (t : Nat) (f : Tile → Tile) : (s.modTile t f).eb = s.eb := rfl
@[simp] theorem State.modTile_pr (t : Nat) (f : Tile → Tile) : (s.modTile t f).pr = s.pr := rfl
@[simp] theorem State.modTile_cfg (t : Nat) (f : Tile → Tile) : (s.modTile t f).cfg = s.cfg := rfl
@[simp] theorem State.modTile_cal (t : Nat) (f : Tile → Tile) : (s.modTile t f).cal = s.cal := rfl
@[simp] theorem State.modTile_pw (t : Nat) (f : Tile → Tile) : (s.modTile t f).pw = s.pw := rfl
@[simp] theorem State.modTile_dep (t : Nat) (f : Tile → Tile) : (s.modTile t f).dep = s.dep := rfl
@[simp] theorem State.modTile_fco (t : Nat) (f : Tile → Tile) : (s.modTile t f).fco = s.fco := rfl
@[simp] theorem State.modTile_nv (t : Nat) (f : Tile → Tile) : (s.modTile t f).nv = s.nv := rfl
@[simp] theorem State.modTile_msg (t : Nat) (f : Tile → Tile) : (s.modTile t f).msg = s.msg := rfl
@[simp] theorem State.modTile_pending (t : Nat) (f : Tile → Tile) : (s.modTile t f).pending = s.pending := rfl
@[simp] theorem State.modTile_nTiles (t : Nat) (f : Tile → Tile) : (s.modTile t f).nTiles = s.nTiles := rfl
@[simp] theorem State.modTile_up (t : Nat) (f : Tile → Tile) : (s.modTile t f).up = s.up := rfl
@[simp] theorem State.modTile_rv (t : Nat) (f : Tile → Tile) (j : Nat) : (s.modTile t f).rv j = s.rv j := rfl
@[simp] theorem State.modTile_slot (t : Nat) (f : Tile → Tile) (k : Nat) : (s.modTile t f).slot k = s.slot k := rfl

/-! ### modChan -/

@[simp] theorem State.modChan_part (t c : Nat) (f : Chan → Chan) : (s.modChan t c f).part = s.part := rfl
@[simp] theorem State.modChan_key (t c : Nat) (f : Chan → Chan) : (s.modChan t c f).key = s.key := rfl
@[simp] theorem State.modChan_phase (t c : Nat) (f : Chan → Chan) : (s.modChan t c f).phase = s.phase := rfl
@[simp] theorem State.modChan_bootsel (t c : Nat) (f : Chan → Chan) : (s.modChan t c f).bootsel = s.bootsel := rfl
@[simp] theorem State.modChan_regs (t c : Nat) (f : Chan → Chan) : (s.modChan t c f).regs = s.regs := rfl
@[simp] theorem State.modChan_refAddr (t c : Nat) (f : Chan → Chan) : (s.modChan t c f).refAddr = s.refAddr := rfl
@[simp] theorem State.modChan_refReason (t c : Nat) (f : Chan → Chan) : (s.modChan t c f).refReason = s.refReason := rfl
@[simp] theorem State.modChan_refSrc (t c : Nat) (f : Chan → Chan) : (s.modChan t c f).refSrc = s.refSrc := rfl
@[simp] theorem State.modChan_refCnt (t c : Nat) (f : Chan → Chan) : (s.modChan t c f).refCnt = s.refCnt := rfl
@[simp] theorem State.modChan_fresh (t c : Nat) (f : Chan → Chan) : (s.modChan t c f).fresh = s.fresh := rfl
@[simp] theorem State.modChan_tb (t c : Nat) (f : Chan → Chan) : (s.modChan t c f).tb = s.tb := rfl
@[simp] theorem State.modChan_tt (t c : Nat) (f : Chan → Chan) : (s.modChan t c f).tt = s.tt := rfl
@[simp] theorem State.modChan_lk (t c : Nat) (f : Chan → Chan) : (s.modChan t c f).lk = s.lk := rfl
@[simp] theorem State.modChan_ev (t c : Nat) (f : Chan → Chan) : (s.modChan t c f).ev = s.ev := rfl
@[simp] theorem State.modChan_sup (t c : Nat) (f : Chan → Chan) : (s.modChan t c f).sup = s.sup := rfl
@[simp] theorem State.modChan_eb (t c : Nat) (f : Chan → Chan) : (s.modChan t c f).eb = s.eb := rfl
@[simp] theorem State.modChan_pr (t c : Nat) (f : Chan → Chan) : (s.modChan t c f).pr = s.pr := rfl
@[simp] theorem State.modChan_cfg (t c : Nat) (f : Chan → Chan) : (s.modChan t c f).cfg = s.cfg := rfl
@[simp] theorem State.modChan_cal (t c : Nat) (f : Chan → Chan) : (s.modChan t c f).cal = s.cal := rfl
@[simp] theorem State.modChan_pw (t c : Nat) (f : Chan → Chan) : (s.modChan t c f).pw = s.pw := rfl
@[simp] theorem State.modChan_dep (t c : Nat) (f : Chan → Chan) : (s.modChan t c f).dep = s.dep := rfl
@[simp] theorem State.modChan_fco (t c : Nat) (f : Chan → Chan) : (s.modChan t c f).fco = s.fco := rfl
@[simp] theorem State.modChan_nv (t c : Nat) (f : Chan → Chan) : (s.modChan t c f).nv = s.nv := rfl
@[simp] theorem State.modChan_msg (t c : Nat) (f : Chan → Chan) : (s.modChan t c f).msg = s.msg := rfl
@[simp] theorem State.modChan_pending (t c : Nat) (f : Chan → Chan) : (s.modChan t c f).pending = s.pending := rfl
@[simp] theorem State.modChan_nTiles (t c : Nat) (f : Chan → Chan) : (s.modChan t c f).nTiles = s.nTiles := rfl
@[simp] theorem State.modChan_up (t c : Nat) (f : Chan → Chan) : (s.modChan t c f).up = s.up := rfl
@[simp] theorem State.modChan_rv (t c : Nat) (f : Chan → Chan) (j : Nat) : (s.modChan t c f).rv j = s.rv j := rfl
@[simp] theorem State.modChan_slot (t c : Nat) (f : Chan → Chan) (k : Nat) : (s.modChan t c f).slot k = s.slot k := rfl

/-! ### modQueue -/

@[simp] theorem State.modQueue_part (t q : Nat) (f : Queue → Queue) : (s.modQueue t q f).part = s.part := rfl
@[simp] theorem State.modQueue_key (t q : Nat) (f : Queue → Queue) : (s.modQueue t q f).key = s.key := rfl
@[simp] theorem State.modQueue_phase (t q : Nat) (f : Queue → Queue) : (s.modQueue t q f).phase = s.phase := rfl
@[simp] theorem State.modQueue_bootsel (t q : Nat) (f : Queue → Queue) : (s.modQueue t q f).bootsel = s.bootsel := rfl
@[simp] theorem State.modQueue_regs (t q : Nat) (f : Queue → Queue) : (s.modQueue t q f).regs = s.regs := rfl
@[simp] theorem State.modQueue_refAddr (t q : Nat) (f : Queue → Queue) : (s.modQueue t q f).refAddr = s.refAddr := rfl
@[simp] theorem State.modQueue_refReason (t q : Nat) (f : Queue → Queue) : (s.modQueue t q f).refReason = s.refReason := rfl
@[simp] theorem State.modQueue_refSrc (t q : Nat) (f : Queue → Queue) : (s.modQueue t q f).refSrc = s.refSrc := rfl
@[simp] theorem State.modQueue_refCnt (t q : Nat) (f : Queue → Queue) : (s.modQueue t q f).refCnt = s.refCnt := rfl
@[simp] theorem State.modQueue_fresh (t q : Nat) (f : Queue → Queue) : (s.modQueue t q f).fresh = s.fresh := rfl
@[simp] theorem State.modQueue_tb (t q : Nat) (f : Queue → Queue) : (s.modQueue t q f).tb = s.tb := rfl
@[simp] theorem State.modQueue_tt (t q : Nat) (f : Queue → Queue) : (s.modQueue t q f).tt = s.tt := rfl
@[simp] theorem State.modQueue_lk (t q : Nat) (f : Queue → Queue) : (s.modQueue t q f).lk = s.lk := rfl
@[simp] theorem State.modQueue_ev (t q : Nat) (f : Queue → Queue) : (s.modQueue t q f).ev = s.ev := rfl
@[simp] theorem State.modQueue_sup (t q : Nat) (f : Queue → Queue) : (s.modQueue t q f).sup = s.sup := rfl
@[simp] theorem State.modQueue_eb (t q : Nat) (f : Queue → Queue) : (s.modQueue t q f).eb = s.eb := rfl
@[simp] theorem State.modQueue_pr (t q : Nat) (f : Queue → Queue) : (s.modQueue t q f).pr = s.pr := rfl
@[simp] theorem State.modQueue_cfg (t q : Nat) (f : Queue → Queue) : (s.modQueue t q f).cfg = s.cfg := rfl
@[simp] theorem State.modQueue_cal (t q : Nat) (f : Queue → Queue) : (s.modQueue t q f).cal = s.cal := rfl
@[simp] theorem State.modQueue_pw (t q : Nat) (f : Queue → Queue) : (s.modQueue t q f).pw = s.pw := rfl
@[simp] theorem State.modQueue_dep (t q : Nat) (f : Queue → Queue) : (s.modQueue t q f).dep = s.dep := rfl
@[simp] theorem State.modQueue_fco (t q : Nat) (f : Queue → Queue) : (s.modQueue t q f).fco = s.fco := rfl
@[simp] theorem State.modQueue_nv (t q : Nat) (f : Queue → Queue) : (s.modQueue t q f).nv = s.nv := rfl
@[simp] theorem State.modQueue_msg (t q : Nat) (f : Queue → Queue) : (s.modQueue t q f).msg = s.msg := rfl
@[simp] theorem State.modQueue_pending (t q : Nat) (f : Queue → Queue) : (s.modQueue t q f).pending = s.pending := rfl
@[simp] theorem State.modQueue_nTiles (t q : Nat) (f : Queue → Queue) : (s.modQueue t q f).nTiles = s.nTiles := rfl
@[simp] theorem State.modQueue_up (t q : Nat) (f : Queue → Queue) : (s.modQueue t q f).up = s.up := rfl
@[simp] theorem State.modQueue_rv (t q : Nat) (f : Queue → Queue) (j : Nat) : (s.modQueue t q f).rv j = s.rv j := rfl
@[simp] theorem State.modQueue_slot (t q : Nat) (f : Queue → Queue) (k : Nat) : (s.modQueue t q f).slot k = s.slot k := rfl

/-! ### modEng -/

@[simp] theorem State.modEng_part (t e : Nat) (f : Engine → Engine) : (s.modEng t e f).part = s.part := rfl
@[simp] theorem State.modEng_key (t e : Nat) (f : Engine → Engine) : (s.modEng t e f).key = s.key := rfl
@[simp] theorem State.modEng_phase (t e : Nat) (f : Engine → Engine) : (s.modEng t e f).phase = s.phase := rfl
@[simp] theorem State.modEng_bootsel (t e : Nat) (f : Engine → Engine) : (s.modEng t e f).bootsel = s.bootsel := rfl
@[simp] theorem State.modEng_regs (t e : Nat) (f : Engine → Engine) : (s.modEng t e f).regs = s.regs := rfl
@[simp] theorem State.modEng_refAddr (t e : Nat) (f : Engine → Engine) : (s.modEng t e f).refAddr = s.refAddr := rfl
@[simp] theorem State.modEng_refReason (t e : Nat) (f : Engine → Engine) : (s.modEng t e f).refReason = s.refReason := rfl
@[simp] theorem State.modEng_refSrc (t e : Nat) (f : Engine → Engine) : (s.modEng t e f).refSrc = s.refSrc := rfl
@[simp] theorem State.modEng_refCnt (t e : Nat) (f : Engine → Engine) : (s.modEng t e f).refCnt = s.refCnt := rfl
@[simp] theorem State.modEng_fresh (t e : Nat) (f : Engine → Engine) : (s.modEng t e f).fresh = s.fresh := rfl
@[simp] theorem State.modEng_tb (t e : Nat) (f : Engine → Engine) : (s.modEng t e f).tb = s.tb := rfl
@[simp] theorem State.modEng_tt (t e : Nat) (f : Engine → Engine) : (s.modEng t e f).tt = s.tt := rfl
@[simp] theorem State.modEng_lk (t e : Nat) (f : Engine → Engine) : (s.modEng t e f).lk = s.lk := rfl
@[simp] theorem State.modEng_ev (t e : Nat) (f : Engine → Engine) : (s.modEng t e f).ev = s.ev := rfl
@[simp] theorem State.modEng_sup (t e : Nat) (f : Engine → Engine) : (s.modEng t e f).sup = s.sup := rfl
@[simp] theorem State.modEng_eb (t e : Nat) (f : Engine → Engine) : (s.modEng t e f).eb = s.eb := rfl
@[simp] theorem State.modEng_pr (t e : Nat) (f : Engine → Engine) : (s.modEng t e f).pr = s.pr := rfl
@[simp] theorem State.modEng_cfg (t e : Nat) (f : Engine → Engine) : (s.modEng t e f).cfg = s.cfg := rfl
@[simp] theorem State.modEng_cal (t e : Nat) (f : Engine → Engine) : (s.modEng t e f).cal = s.cal := rfl
@[simp] theorem State.modEng_pw (t e : Nat) (f : Engine → Engine) : (s.modEng t e f).pw = s.pw := rfl
@[simp] theorem State.modEng_dep (t e : Nat) (f : Engine → Engine) : (s.modEng t e f).dep = s.dep := rfl
@[simp] theorem State.modEng_fco (t e : Nat) (f : Engine → Engine) : (s.modEng t e f).fco = s.fco := rfl
@[simp] theorem State.modEng_nv (t e : Nat) (f : Engine → Engine) : (s.modEng t e f).nv = s.nv := rfl
@[simp] theorem State.modEng_msg (t e : Nat) (f : Engine → Engine) : (s.modEng t e f).msg = s.msg := rfl
@[simp] theorem State.modEng_pending (t e : Nat) (f : Engine → Engine) : (s.modEng t e f).pending = s.pending := rfl
@[simp] theorem State.modEng_nTiles (t e : Nat) (f : Engine → Engine) : (s.modEng t e f).nTiles = s.nTiles := rfl
@[simp] theorem State.modEng_up (t e : Nat) (f : Engine → Engine) : (s.modEng t e f).up = s.up := rfl
@[simp] theorem State.modEng_rv (t e : Nat) (f : Engine → Engine) (j : Nat) : (s.modEng t e f).rv j = s.rv j := rfl
@[simp] theorem State.modEng_slot (t e : Nat) (f : Engine → Engine) (k : Nat) : (s.modEng t e f).slot k = s.slot k := rfl

/-! ### modCtx -/

@[simp] theorem State.modCtx_part (t c : Nat) (f : Ctx → Ctx) : (s.modCtx t c f).part = s.part := rfl
@[simp] theorem State.modCtx_key (t c : Nat) (f : Ctx → Ctx) : (s.modCtx t c f).key = s.key := rfl
@[simp] theorem State.modCtx_phase (t c : Nat) (f : Ctx → Ctx) : (s.modCtx t c f).phase = s.phase := rfl
@[simp] theorem State.modCtx_bootsel (t c : Nat) (f : Ctx → Ctx) : (s.modCtx t c f).bootsel = s.bootsel := rfl
@[simp] theorem State.modCtx_regs (t c : Nat) (f : Ctx → Ctx) : (s.modCtx t c f).regs = s.regs := rfl
@[simp] theorem State.modCtx_refAddr (t c : Nat) (f : Ctx → Ctx) : (s.modCtx t c f).refAddr = s.refAddr := rfl
@[simp] theorem State.modCtx_refReason (t c : Nat) (f : Ctx → Ctx) : (s.modCtx t c f).refReason = s.refReason := rfl
@[simp] theorem State.modCtx_refSrc (t c : Nat) (f : Ctx → Ctx) : (s.modCtx t c f).refSrc = s.refSrc := rfl
@[simp] theorem State.modCtx_refCnt (t c : Nat) (f : Ctx → Ctx) : (s.modCtx t c f).refCnt = s.refCnt := rfl
@[simp] theorem State.modCtx_fresh (t c : Nat) (f : Ctx → Ctx) : (s.modCtx t c f).fresh = s.fresh := rfl
@[simp] theorem State.modCtx_tb (t c : Nat) (f : Ctx → Ctx) : (s.modCtx t c f).tb = s.tb := rfl
@[simp] theorem State.modCtx_tt (t c : Nat) (f : Ctx → Ctx) : (s.modCtx t c f).tt = s.tt := rfl
@[simp] theorem State.modCtx_lk (t c : Nat) (f : Ctx → Ctx) : (s.modCtx t c f).lk = s.lk := rfl
@[simp] theorem State.modCtx_ev (t c : Nat) (f : Ctx → Ctx) : (s.modCtx t c f).ev = s.ev := rfl
@[simp] theorem State.modCtx_sup (t c : Nat) (f : Ctx → Ctx) : (s.modCtx t c f).sup = s.sup := rfl
@[simp] theorem State.modCtx_eb (t c : Nat) (f : Ctx → Ctx) : (s.modCtx t c f).eb = s.eb := rfl
@[simp] theorem State.modCtx_pr (t c : Nat) (f : Ctx → Ctx) : (s.modCtx t c f).pr = s.pr := rfl
@[simp] theorem State.modCtx_cfg (t c : Nat) (f : Ctx → Ctx) : (s.modCtx t c f).cfg = s.cfg := rfl
@[simp] theorem State.modCtx_cal (t c : Nat) (f : Ctx → Ctx) : (s.modCtx t c f).cal = s.cal := rfl
@[simp] theorem State.modCtx_pw (t c : Nat) (f : Ctx → Ctx) : (s.modCtx t c f).pw = s.pw := rfl
@[simp] theorem State.modCtx_dep (t c : Nat) (f : Ctx → Ctx) : (s.modCtx t c f).dep = s.dep := rfl
@[simp] theorem State.modCtx_fco (t c : Nat) (f : Ctx → Ctx) : (s.modCtx t c f).fco = s.fco := rfl
@[simp] theorem State.modCtx_nv (t c : Nat) (f : Ctx → Ctx) : (s.modCtx t c f).nv = s.nv := rfl
@[simp] theorem State.modCtx_msg (t c : Nat) (f : Ctx → Ctx) : (s.modCtx t c f).msg = s.msg := rfl
@[simp] theorem State.modCtx_pending (t c : Nat) (f : Ctx → Ctx) : (s.modCtx t c f).pending = s.pending := rfl
@[simp] theorem State.modCtx_nTiles (t c : Nat) (f : Ctx → Ctx) : (s.modCtx t c f).nTiles = s.nTiles := rfl
@[simp] theorem State.modCtx_up (t c : Nat) (f : Ctx → Ctx) : (s.modCtx t c f).up = s.up := rfl
@[simp] theorem State.modCtx_rv (t c : Nat) (f : Ctx → Ctx) (j : Nat) : (s.modCtx t c f).rv j = s.rv j := rfl
@[simp] theorem State.modCtx_slot (t c : Nat) (f : Ctx → Ctx) (k : Nat) : (s.modCtx t c f).slot k = s.slot k := rfl

/-! ### setStream -/

@[simp] theorem State.setStream_part (c i : Nat) (x : Stream) : (s.setStream c i x).part = s.part := rfl
@[simp] theorem State.setStream_key (c i : Nat) (x : Stream) : (s.setStream c i x).key = s.key := rfl
@[simp] theorem State.setStream_phase (c i : Nat) (x : Stream) : (s.setStream c i x).phase = s.phase := rfl
@[simp] theorem State.setStream_bootsel (c i : Nat) (x : Stream) : (s.setStream c i x).bootsel = s.bootsel := rfl
@[simp] theorem State.setStream_regs (c i : Nat) (x : Stream) : (s.setStream c i x).regs = s.regs := rfl
@[simp] theorem State.setStream_refAddr (c i : Nat) (x : Stream) : (s.setStream c i x).refAddr = s.refAddr := rfl
@[simp] theorem State.setStream_refReason (c i : Nat) (x : Stream) : (s.setStream c i x).refReason = s.refReason := rfl
@[simp] theorem State.setStream_refSrc (c i : Nat) (x : Stream) : (s.setStream c i x).refSrc = s.refSrc := rfl
@[simp] theorem State.setStream_refCnt (c i : Nat) (x : Stream) : (s.setStream c i x).refCnt = s.refCnt := rfl
@[simp] theorem State.setStream_fresh (c i : Nat) (x : Stream) : (s.setStream c i x).fresh = s.fresh := rfl
@[simp] theorem State.setStream_tb (c i : Nat) (x : Stream) : (s.setStream c i x).tb = s.tb := rfl
@[simp] theorem State.setStream_tt (c i : Nat) (x : Stream) : (s.setStream c i x).tt = s.tt := rfl
@[simp] theorem State.setStream_ev (c i : Nat) (x : Stream) : (s.setStream c i x).ev = s.ev := rfl
@[simp] theorem State.setStream_sup (c i : Nat) (x : Stream) : (s.setStream c i x).sup = s.sup := rfl
@[simp] theorem State.setStream_eb (c i : Nat) (x : Stream) : (s.setStream c i x).eb = s.eb := rfl
@[simp] theorem State.setStream_pr (c i : Nat) (x : Stream) : (s.setStream c i x).pr = s.pr := rfl
@[simp] theorem State.setStream_cfg (c i : Nat) (x : Stream) : (s.setStream c i x).cfg = s.cfg := rfl
@[simp] theorem State.setStream_cal (c i : Nat) (x : Stream) : (s.setStream c i x).cal = s.cal := rfl
@[simp] theorem State.setStream_pw (c i : Nat) (x : Stream) : (s.setStream c i x).pw = s.pw := rfl
@[simp] theorem State.setStream_dep (c i : Nat) (x : Stream) : (s.setStream c i x).dep = s.dep := rfl
@[simp] theorem State.setStream_fco (c i : Nat) (x : Stream) : (s.setStream c i x).fco = s.fco := rfl
@[simp] theorem State.setStream_tiles (c i : Nat) (x : Stream) : (s.setStream c i x).tiles = s.tiles := rfl
@[simp] theorem State.setStream_nv (c i : Nat) (x : Stream) : (s.setStream c i x).nv = s.nv := rfl
@[simp] theorem State.setStream_msg (c i : Nat) (x : Stream) : (s.setStream c i x).msg = s.msg := rfl
@[simp] theorem State.setStream_pending (c i : Nat) (x : Stream) : (s.setStream c i x).pending = s.pending := rfl
@[simp] theorem State.setStream_nTiles (c i : Nat) (x : Stream) : (s.setStream c i x).nTiles = s.nTiles := rfl
@[simp] theorem State.setStream_up (c i : Nat) (x : Stream) : (s.setStream c i x).up = s.up := rfl
@[simp] theorem State.setStream_rv (c i : Nat) (x : Stream) (j : Nat) : (s.setStream c i x).rv j = s.rv j := rfl
@[simp] theorem State.setStream_tile (c i : Nat) (x : Stream) (u : Nat) : (s.setStream c i x).tile u = s.tile u := rfl
@[simp] theorem State.setStream_slot (c i : Nat) (x : Stream) (k : Nat) : (s.setStream c i x).slot k = s.slot k := rfl

/-! ### send -/

@[simp] theorem State.send_part (c i : Nat) (ws : List W64) : (s.send c i ws).part = s.part := rfl
@[simp] theorem State.send_key (c i : Nat) (ws : List W64) : (s.send c i ws).key = s.key := rfl
@[simp] theorem State.send_phase (c i : Nat) (ws : List W64) : (s.send c i ws).phase = s.phase := rfl
@[simp] theorem State.send_bootsel (c i : Nat) (ws : List W64) : (s.send c i ws).bootsel = s.bootsel := rfl
@[simp] theorem State.send_regs (c i : Nat) (ws : List W64) : (s.send c i ws).regs = s.regs := rfl
@[simp] theorem State.send_refAddr (c i : Nat) (ws : List W64) : (s.send c i ws).refAddr = s.refAddr := rfl
@[simp] theorem State.send_refReason (c i : Nat) (ws : List W64) : (s.send c i ws).refReason = s.refReason := rfl
@[simp] theorem State.send_refSrc (c i : Nat) (ws : List W64) : (s.send c i ws).refSrc = s.refSrc := rfl
@[simp] theorem State.send_refCnt (c i : Nat) (ws : List W64) : (s.send c i ws).refCnt = s.refCnt := rfl
@[simp] theorem State.send_fresh (c i : Nat) (ws : List W64) : (s.send c i ws).fresh = s.fresh := rfl
@[simp] theorem State.send_tb (c i : Nat) (ws : List W64) : (s.send c i ws).tb = s.tb := rfl
@[simp] theorem State.send_tt (c i : Nat) (ws : List W64) : (s.send c i ws).tt = s.tt := rfl
@[simp] theorem State.send_ev (c i : Nat) (ws : List W64) : (s.send c i ws).ev = s.ev := rfl
@[simp] theorem State.send_sup (c i : Nat) (ws : List W64) : (s.send c i ws).sup = s.sup := rfl
@[simp] theorem State.send_eb (c i : Nat) (ws : List W64) : (s.send c i ws).eb = s.eb := rfl
@[simp] theorem State.send_pr (c i : Nat) (ws : List W64) : (s.send c i ws).pr = s.pr := rfl
@[simp] theorem State.send_cfg (c i : Nat) (ws : List W64) : (s.send c i ws).cfg = s.cfg := rfl
@[simp] theorem State.send_cal (c i : Nat) (ws : List W64) : (s.send c i ws).cal = s.cal := rfl
@[simp] theorem State.send_pw (c i : Nat) (ws : List W64) : (s.send c i ws).pw = s.pw := rfl
@[simp] theorem State.send_dep (c i : Nat) (ws : List W64) : (s.send c i ws).dep = s.dep := rfl
@[simp] theorem State.send_fco (c i : Nat) (ws : List W64) : (s.send c i ws).fco = s.fco := rfl
@[simp] theorem State.send_tiles (c i : Nat) (ws : List W64) : (s.send c i ws).tiles = s.tiles := rfl
@[simp] theorem State.send_nv (c i : Nat) (ws : List W64) : (s.send c i ws).nv = s.nv := rfl
@[simp] theorem State.send_msg (c i : Nat) (ws : List W64) : (s.send c i ws).msg = s.msg := rfl
@[simp] theorem State.send_pending (c i : Nat) (ws : List W64) : (s.send c i ws).pending = s.pending := rfl
@[simp] theorem State.send_nTiles (c i : Nat) (ws : List W64) : (s.send c i ws).nTiles = s.nTiles := rfl
@[simp] theorem State.send_up (c i : Nat) (ws : List W64) : (s.send c i ws).up = s.up := rfl
@[simp] theorem State.send_rv (c i : Nat) (ws : List W64) (j : Nat) : (s.send c i ws).rv j = s.rv j := rfl
@[simp] theorem State.send_tile (c i : Nat) (ws : List W64) (u : Nat) : (s.send c i ws).tile u = s.tile u := rfl
@[simp] theorem State.send_slot (c i : Nat) (ws : List W64) (k : Nat) : (s.send c i ws).slot k = s.slot k := rfl

/-! ### sendOwn -/

@[simp] theorem State.sendOwn_part (c i : Nat) (ws : List W64) : (s.sendOwn c i ws).part = s.part := rfl
@[simp] theorem State.sendOwn_key (c i : Nat) (ws : List W64) : (s.sendOwn c i ws).key = s.key := rfl
@[simp] theorem State.sendOwn_phase (c i : Nat) (ws : List W64) : (s.sendOwn c i ws).phase = s.phase := rfl
@[simp] theorem State.sendOwn_bootsel (c i : Nat) (ws : List W64) : (s.sendOwn c i ws).bootsel = s.bootsel := rfl
@[simp] theorem State.sendOwn_regs (c i : Nat) (ws : List W64) : (s.sendOwn c i ws).regs = s.regs := rfl
@[simp] theorem State.sendOwn_refAddr (c i : Nat) (ws : List W64) : (s.sendOwn c i ws).refAddr = s.refAddr := rfl
@[simp] theorem State.sendOwn_refReason (c i : Nat) (ws : List W64) : (s.sendOwn c i ws).refReason = s.refReason := rfl
@[simp] theorem State.sendOwn_refSrc (c i : Nat) (ws : List W64) : (s.sendOwn c i ws).refSrc = s.refSrc := rfl
@[simp] theorem State.sendOwn_refCnt (c i : Nat) (ws : List W64) : (s.sendOwn c i ws).refCnt = s.refCnt := rfl
@[simp] theorem State.sendOwn_fresh (c i : Nat) (ws : List W64) : (s.sendOwn c i ws).fresh = s.fresh := rfl
@[simp] theorem State.sendOwn_tb (c i : Nat) (ws : List W64) : (s.sendOwn c i ws).tb = s.tb := rfl
@[simp] theorem State.sendOwn_tt (c i : Nat) (ws : List W64) : (s.sendOwn c i ws).tt = s.tt := rfl
@[simp] theorem State.sendOwn_ev (c i : Nat) (ws : List W64) : (s.sendOwn c i ws).ev = s.ev := rfl
@[simp] theorem State.sendOwn_sup (c i : Nat) (ws : List W64) : (s.sendOwn c i ws).sup = s.sup := rfl
@[simp] theorem State.sendOwn_eb (c i : Nat) (ws : List W64) : (s.sendOwn c i ws).eb = s.eb := rfl
@[simp] theorem State.sendOwn_pr (c i : Nat) (ws : List W64) : (s.sendOwn c i ws).pr = s.pr := rfl
@[simp] theorem State.sendOwn_cfg (c i : Nat) (ws : List W64) : (s.sendOwn c i ws).cfg = s.cfg := rfl
@[simp] theorem State.sendOwn_cal (c i : Nat) (ws : List W64) : (s.sendOwn c i ws).cal = s.cal := rfl
@[simp] theorem State.sendOwn_pw (c i : Nat) (ws : List W64) : (s.sendOwn c i ws).pw = s.pw := rfl
@[simp] theorem State.sendOwn_dep (c i : Nat) (ws : List W64) : (s.sendOwn c i ws).dep = s.dep := rfl
@[simp] theorem State.sendOwn_fco (c i : Nat) (ws : List W64) : (s.sendOwn c i ws).fco = s.fco := rfl
@[simp] theorem State.sendOwn_tiles (c i : Nat) (ws : List W64) : (s.sendOwn c i ws).tiles = s.tiles := rfl
@[simp] theorem State.sendOwn_nv (c i : Nat) (ws : List W64) : (s.sendOwn c i ws).nv = s.nv := rfl
@[simp] theorem State.sendOwn_msg (c i : Nat) (ws : List W64) : (s.sendOwn c i ws).msg = s.msg := rfl
@[simp] theorem State.sendOwn_pending (c i : Nat) (ws : List W64) : (s.sendOwn c i ws).pending = s.pending := rfl
@[simp] theorem State.sendOwn_nTiles (c i : Nat) (ws : List W64) : (s.sendOwn c i ws).nTiles = s.nTiles := rfl
@[simp] theorem State.sendOwn_up (c i : Nat) (ws : List W64) : (s.sendOwn c i ws).up = s.up := rfl
@[simp] theorem State.sendOwn_rv (c i : Nat) (ws : List W64) (j : Nat) : (s.sendOwn c i ws).rv j = s.rv j := rfl
@[simp] theorem State.sendOwn_tile (c i : Nat) (ws : List W64) (u : Nat) : (s.sendOwn c i ws).tile u = s.tile u := rfl
@[simp] theorem State.sendOwn_slot (c i : Nat) (ws : List W64) (k : Nat) : (s.sendOwn c i ws).slot k = s.slot k := rfl

/-! ### notice -/

@[simp] theorem State.notice_part (ch : Nat) (b : Bool) : (s.notice ch b).part = s.part := rfl
@[simp] theorem State.notice_key (ch : Nat) (b : Bool) : (s.notice ch b).key = s.key := rfl
@[simp] theorem State.notice_phase (ch : Nat) (b : Bool) : (s.notice ch b).phase = s.phase := rfl
@[simp] theorem State.notice_bootsel (ch : Nat) (b : Bool) : (s.notice ch b).bootsel = s.bootsel := rfl
@[simp] theorem State.notice_regs (ch : Nat) (b : Bool) : (s.notice ch b).regs = s.regs := rfl
@[simp] theorem State.notice_refAddr (ch : Nat) (b : Bool) : (s.notice ch b).refAddr = s.refAddr := rfl
@[simp] theorem State.notice_refReason (ch : Nat) (b : Bool) : (s.notice ch b).refReason = s.refReason := rfl
@[simp] theorem State.notice_refSrc (ch : Nat) (b : Bool) : (s.notice ch b).refSrc = s.refSrc := rfl
@[simp] theorem State.notice_refCnt (ch : Nat) (b : Bool) : (s.notice ch b).refCnt = s.refCnt := rfl
@[simp] theorem State.notice_fresh (ch : Nat) (b : Bool) : (s.notice ch b).fresh = s.fresh := rfl
@[simp] theorem State.notice_tb (ch : Nat) (b : Bool) : (s.notice ch b).tb = s.tb := rfl
@[simp] theorem State.notice_tt (ch : Nat) (b : Bool) : (s.notice ch b).tt = s.tt := rfl
@[simp] theorem State.notice_ev (ch : Nat) (b : Bool) : (s.notice ch b).ev = s.ev := rfl
@[simp] theorem State.notice_sup (ch : Nat) (b : Bool) : (s.notice ch b).sup = s.sup := rfl
@[simp] theorem State.notice_eb (ch : Nat) (b : Bool) : (s.notice ch b).eb = s.eb := rfl
@[simp] theorem State.notice_pr (ch : Nat) (b : Bool) : (s.notice ch b).pr = s.pr := rfl
@[simp] theorem State.notice_cfg (ch : Nat) (b : Bool) : (s.notice ch b).cfg = s.cfg := rfl
@[simp] theorem State.notice_cal (ch : Nat) (b : Bool) : (s.notice ch b).cal = s.cal := rfl
@[simp] theorem State.notice_pw (ch : Nat) (b : Bool) : (s.notice ch b).pw = s.pw := rfl
@[simp] theorem State.notice_dep (ch : Nat) (b : Bool) : (s.notice ch b).dep = s.dep := rfl
@[simp] theorem State.notice_fco (ch : Nat) (b : Bool) : (s.notice ch b).fco = s.fco := rfl
@[simp] theorem State.notice_tiles (ch : Nat) (b : Bool) : (s.notice ch b).tiles = s.tiles := rfl
@[simp] theorem State.notice_nv (ch : Nat) (b : Bool) : (s.notice ch b).nv = s.nv := rfl
@[simp] theorem State.notice_msg (ch : Nat) (b : Bool) : (s.notice ch b).msg = s.msg := rfl
@[simp] theorem State.notice_pending (ch : Nat) (b : Bool) : (s.notice ch b).pending = s.pending := rfl
@[simp] theorem State.notice_nTiles (ch : Nat) (b : Bool) : (s.notice ch b).nTiles = s.nTiles := rfl
@[simp] theorem State.notice_up (ch : Nat) (b : Bool) : (s.notice ch b).up = s.up := rfl
@[simp] theorem State.notice_rv (ch : Nat) (b : Bool) (j : Nat) : (s.notice ch b).rv j = s.rv j := rfl
@[simp] theorem State.notice_tile (ch : Nat) (b : Bool) (u : Nat) : (s.notice ch b).tile u = s.tile u := rfl
@[simp] theorem State.notice_slot (ch : Nat) (b : Bool) (k : Nat) : (s.notice ch b).slot k = s.slot k := rfl

/-! ### setSlot -/

@[simp] theorem State.setSlot_part (ch : Nat) (x : Slot) : (s.setSlot ch x).part = s.part := rfl
@[simp] theorem State.setSlot_key (ch : Nat) (x : Slot) : (s.setSlot ch x).key = s.key := rfl
@[simp] theorem State.setSlot_phase (ch : Nat) (x : Slot) : (s.setSlot ch x).phase = s.phase := rfl
@[simp] theorem State.setSlot_bootsel (ch : Nat) (x : Slot) : (s.setSlot ch x).bootsel = s.bootsel := rfl
@[simp] theorem State.setSlot_regs (ch : Nat) (x : Slot) : (s.setSlot ch x).regs = s.regs := rfl
@[simp] theorem State.setSlot_refAddr (ch : Nat) (x : Slot) : (s.setSlot ch x).refAddr = s.refAddr := rfl
@[simp] theorem State.setSlot_refReason (ch : Nat) (x : Slot) : (s.setSlot ch x).refReason = s.refReason := rfl
@[simp] theorem State.setSlot_refSrc (ch : Nat) (x : Slot) : (s.setSlot ch x).refSrc = s.refSrc := rfl
@[simp] theorem State.setSlot_refCnt (ch : Nat) (x : Slot) : (s.setSlot ch x).refCnt = s.refCnt := rfl
@[simp] theorem State.setSlot_fresh (ch : Nat) (x : Slot) : (s.setSlot ch x).fresh = s.fresh := rfl
@[simp] theorem State.setSlot_tb (ch : Nat) (x : Slot) : (s.setSlot ch x).tb = s.tb := rfl
@[simp] theorem State.setSlot_tt (ch : Nat) (x : Slot) : (s.setSlot ch x).tt = s.tt := rfl
@[simp] theorem State.setSlot_lk (ch : Nat) (x : Slot) : (s.setSlot ch x).lk = s.lk := rfl
@[simp] theorem State.setSlot_ev (ch : Nat) (x : Slot) : (s.setSlot ch x).ev = s.ev := rfl
@[simp] theorem State.setSlot_eb (ch : Nat) (x : Slot) : (s.setSlot ch x).eb = s.eb := rfl
@[simp] theorem State.setSlot_pr (ch : Nat) (x : Slot) : (s.setSlot ch x).pr = s.pr := rfl
@[simp] theorem State.setSlot_cfg (ch : Nat) (x : Slot) : (s.setSlot ch x).cfg = s.cfg := rfl
@[simp] theorem State.setSlot_cal (ch : Nat) (x : Slot) : (s.setSlot ch x).cal = s.cal := rfl
@[simp] theorem State.setSlot_pw (ch : Nat) (x : Slot) : (s.setSlot ch x).pw = s.pw := rfl
@[simp] theorem State.setSlot_dep (ch : Nat) (x : Slot) : (s.setSlot ch x).dep = s.dep := rfl
@[simp] theorem State.setSlot_fco (ch : Nat) (x : Slot) : (s.setSlot ch x).fco = s.fco := rfl
@[simp] theorem State.setSlot_tiles (ch : Nat) (x : Slot) : (s.setSlot ch x).tiles = s.tiles := rfl
@[simp] theorem State.setSlot_nv (ch : Nat) (x : Slot) : (s.setSlot ch x).nv = s.nv := rfl
@[simp] theorem State.setSlot_msg (ch : Nat) (x : Slot) : (s.setSlot ch x).msg = s.msg := rfl
@[simp] theorem State.setSlot_pending (ch : Nat) (x : Slot) : (s.setSlot ch x).pending = s.pending := rfl
@[simp] theorem State.setSlot_nTiles (ch : Nat) (x : Slot) : (s.setSlot ch x).nTiles = s.nTiles := rfl
@[simp] theorem State.setSlot_up (ch : Nat) (x : Slot) : (s.setSlot ch x).up = s.up := rfl
@[simp] theorem State.setSlot_rv (ch : Nat) (x : Slot) (j : Nat) : (s.setSlot ch x).rv j = s.rv j := rfl
@[simp] theorem State.setSlot_tile (ch : Nat) (x : Slot) (u : Nat) : (s.setSlot ch x).tile u = s.tile u := rfl

/-! ### setReg -/

@[simp] theorem State.setReg_part (a : Nat) (w : Reg32) : (s.setReg a w).part = s.part := rfl
@[simp] theorem State.setReg_key (a : Nat) (w : Reg32) : (s.setReg a w).key = s.key := rfl
@[simp] theorem State.setReg_phase (a : Nat) (w : Reg32) : (s.setReg a w).phase = s.phase := rfl
@[simp] theorem State.setReg_bootsel (a : Nat) (w : Reg32) : (s.setReg a w).bootsel = s.bootsel := rfl
@[simp] theorem State.setReg_refAddr (a : Nat) (w : Reg32) : (s.setReg a w).refAddr = s.refAddr := rfl
@[simp] theorem State.setReg_refReason (a : Nat) (w : Reg32) : (s.setReg a w).refReason = s.refReason := rfl
@[simp] theorem State.setReg_refSrc (a : Nat) (w : Reg32) : (s.setReg a w).refSrc = s.refSrc := rfl
@[simp] theorem State.setReg_refCnt (a : Nat) (w : Reg32) : (s.setReg a w).refCnt = s.refCnt := rfl
@[simp] theorem State.setReg_fresh (a : Nat) (w : Reg32) : (s.setReg a w).fresh = s.fresh := rfl
@[simp] theorem State.setReg_tb (a : Nat) (w : Reg32) : (s.setReg a w).tb = s.tb := rfl
@[simp] theorem State.setReg_tt (a : Nat) (w : Reg32) : (s.setReg a w).tt = s.tt := rfl
@[simp] theorem State.setReg_lk (a : Nat) (w : Reg32) : (s.setReg a w).lk = s.lk := rfl
@[simp] theorem State.setReg_ev (a : Nat) (w : Reg32) : (s.setReg a w).ev = s.ev := rfl
@[simp] theorem State.setReg_sup (a : Nat) (w : Reg32) : (s.setReg a w).sup = s.sup := rfl
@[simp] theorem State.setReg_eb (a : Nat) (w : Reg32) : (s.setReg a w).eb = s.eb := rfl
@[simp] theorem State.setReg_pr (a : Nat) (w : Reg32) : (s.setReg a w).pr = s.pr := rfl
@[simp] theorem State.setReg_cfg (a : Nat) (w : Reg32) : (s.setReg a w).cfg = s.cfg := rfl
@[simp] theorem State.setReg_cal (a : Nat) (w : Reg32) : (s.setReg a w).cal = s.cal := rfl
@[simp] theorem State.setReg_pw (a : Nat) (w : Reg32) : (s.setReg a w).pw = s.pw := rfl
@[simp] theorem State.setReg_dep (a : Nat) (w : Reg32) : (s.setReg a w).dep = s.dep := rfl
@[simp] theorem State.setReg_fco (a : Nat) (w : Reg32) : (s.setReg a w).fco = s.fco := rfl
@[simp] theorem State.setReg_tiles (a : Nat) (w : Reg32) : (s.setReg a w).tiles = s.tiles := rfl
@[simp] theorem State.setReg_nv (a : Nat) (w : Reg32) : (s.setReg a w).nv = s.nv := rfl
@[simp] theorem State.setReg_msg (a : Nat) (w : Reg32) : (s.setReg a w).msg = s.msg := rfl
@[simp] theorem State.setReg_pending (a : Nat) (w : Reg32) : (s.setReg a w).pending = s.pending := rfl
@[simp] theorem State.setReg_nTiles (a : Nat) (w : Reg32) : (s.setReg a w).nTiles = s.nTiles := rfl
@[simp] theorem State.setReg_up (a : Nat) (w : Reg32) : (s.setReg a w).up = s.up := rfl
@[simp] theorem State.setReg_tile (a : Nat) (w : Reg32) (u : Nat) : (s.setReg a w).tile u = s.tile u := rfl
@[simp] theorem State.setReg_slot (a : Nat) (w : Reg32) (k : Nat) : (s.setReg a w).slot k = s.slot k := rfl

/-! ### refuse -/

@[simp] theorem State.refuse_part (src : Src) (a r : Nat) : (s.refuse src a r).part = s.part := rfl
@[simp] theorem State.refuse_key (src : Src) (a r : Nat) : (s.refuse src a r).key = s.key := rfl
@[simp] theorem State.refuse_phase (src : Src) (a r : Nat) : (s.refuse src a r).phase = s.phase := rfl
@[simp] theorem State.refuse_bootsel (src : Src) (a r : Nat) : (s.refuse src a r).bootsel = s.bootsel := rfl
@[simp] theorem State.refuse_regs (src : Src) (a r : Nat) : (s.refuse src a r).regs = s.regs := rfl
@[simp] theorem State.refuse_fresh (src : Src) (a r : Nat) : (s.refuse src a r).fresh = s.fresh := rfl
@[simp] theorem State.refuse_tb (src : Src) (a r : Nat) : (s.refuse src a r).tb = s.tb := rfl
@[simp] theorem State.refuse_tt (src : Src) (a r : Nat) : (s.refuse src a r).tt = s.tt := rfl
@[simp] theorem State.refuse_lk (src : Src) (a r : Nat) : (s.refuse src a r).lk = s.lk := rfl
@[simp] theorem State.refuse_ev (src : Src) (a r : Nat) : (s.refuse src a r).ev = s.ev := rfl
@[simp] theorem State.refuse_sup (src : Src) (a r : Nat) : (s.refuse src a r).sup = s.sup := rfl
@[simp] theorem State.refuse_eb (src : Src) (a r : Nat) : (s.refuse src a r).eb = s.eb := rfl
@[simp] theorem State.refuse_pr (src : Src) (a r : Nat) : (s.refuse src a r).pr = s.pr := rfl
@[simp] theorem State.refuse_cfg (src : Src) (a r : Nat) : (s.refuse src a r).cfg = s.cfg := rfl
@[simp] theorem State.refuse_cal (src : Src) (a r : Nat) : (s.refuse src a r).cal = s.cal := rfl
@[simp] theorem State.refuse_pw (src : Src) (a r : Nat) : (s.refuse src a r).pw = s.pw := rfl
@[simp] theorem State.refuse_dep (src : Src) (a r : Nat) : (s.refuse src a r).dep = s.dep := rfl
@[simp] theorem State.refuse_fco (src : Src) (a r : Nat) : (s.refuse src a r).fco = s.fco := rfl
@[simp] theorem State.refuse_tiles (src : Src) (a r : Nat) : (s.refuse src a r).tiles = s.tiles := rfl
@[simp] theorem State.refuse_nv (src : Src) (a r : Nat) : (s.refuse src a r).nv = s.nv := rfl
@[simp] theorem State.refuse_msg (src : Src) (a r : Nat) : (s.refuse src a r).msg = s.msg := rfl
@[simp] theorem State.refuse_pending (src : Src) (a r : Nat) : (s.refuse src a r).pending = s.pending := rfl
@[simp] theorem State.refuse_nTiles (src : Src) (a r : Nat) : (s.refuse src a r).nTiles = s.nTiles := rfl
@[simp] theorem State.refuse_up (src : Src) (a r : Nat) : (s.refuse src a r).up = s.up := rfl
@[simp] theorem State.refuse_rv (src : Src) (a r : Nat) (j : Nat) : (s.refuse src a r).rv j = s.rv j := rfl
@[simp] theorem State.refuse_tile (src : Src) (a r : Nat) (u : Nat) : (s.refuse src a r).tile u = s.tile u := rfl
@[simp] theorem State.refuse_slot (src : Src) (a r : Nat) (k : Nat) : (s.refuse src a r).slot k = s.slot k := rfl

/-! ### Reads after writes -/

theorem State.tile_modTile (t u : Nat) (f : Tile → Tile) : (s.modTile t f).tile u = if u = t then f (s.tile t) else s.tile u :=
  s.tile_setTile t u _

@[simp] theorem State.tile_modTile_same (t : Nat) (f : Tile → Tile) : (s.modTile t f).tile t = f (s.tile t) := by
  simp [State.tile_modTile]

theorem State.tile_modTile_ne (t : Nat) (f : Tile → Tile) {u : Nat} (h : u ≠ t) : (s.modTile t f).tile u = s.tile u := by
  simp [State.tile_modTile, h]

theorem Tile.chan_setChan (x : Tile) (c k : Nat) (y : Chan) : (x.setChan c y).chan k = if k = c then y else x.chan k :=
  mapGet_set _ x.chans c k y

theorem Tile.queue_setQueue (x : Tile) (q k : Nat) (y : Queue) : (x.setQueue q y).queue k = if k = q then y else x.queue k :=
  mapGet_set _ x.qs q k y

theorem Tile.eng_setEng (x : Tile) (e k : Nat) (y : Engine) : (x.setEng e y).eng k = if k = e then y else x.eng k :=
  mapGet_set _ x.engs e k y

theorem Tile.ctx_setCtx (x : Tile) (c k : Nat) (y : Ctx) : (x.setCtx c y).ctx k = if k = c then y else x.ctx k :=
  mapGet_set _ x.ctxs c k y

theorem State.chan_modChan (t c u k : Nat) (f : Chan → Chan) :
    (s.modChan t c f).chan u k = if u = t ∧ k = c then f (s.chan t c) else s.chan u k := by
  simp only [State.chan, State.modChan, State.tile_modTile]
  by_cases h : u = t
  · subst h; simp [Tile.chan_setChan]
  · simp [h]

theorem State.queue_modQueue (t q u k : Nat) (f : Queue → Queue) :
    (s.modQueue t q f).queue u k = if u = t ∧ k = q then f (s.queue t q) else s.queue u k := by
  simp only [State.queue, State.modQueue, State.tile_modTile]
  by_cases h : u = t
  · subst h; simp [Tile.queue_setQueue]
  · simp [h]

theorem State.eng_modEng (t e u k : Nat) (f : Engine → Engine) :
    (s.modEng t e f).eng u k = if u = t ∧ k = e then f (s.eng t e) else s.eng u k := by
  simp only [State.eng, State.modEng, State.tile_modTile]
  by_cases h : u = t
  · subst h; simp [Tile.eng_setEng]
  · simp [h]

theorem State.ctx_modCtx (t c u k : Nat) (f : Ctx → Ctx) :
    (s.modCtx t c f).ctx u k = if u = t ∧ k = c then f (s.ctx t c) else s.ctx u k := by
  simp only [State.ctx, State.modCtx, State.tile_modTile]
  by_cases h : u = t
  · subst h; simp [Tile.ctx_setCtx]
  · simp [h]

theorem State.slot_setSlot (ch k : Nat) (x : Slot) : (s.setSlot ch x).slot k = if k = ch then x else s.slot k :=
  mapGet_set _ s.sup.slots ch k x

theorem State.stream_setStream (c i d j : Nat) (x : Stream) :
    (s.setStream c i x).stream d j = if streamKey d j = streamKey c i then x else s.stream d j :=
  mapGet_set _ s.lk.streams (streamKey c i) (streamKey d j) x

@[simp] theorem State.stream_send_same (c i : Nat) (ws : List W64) :
    ((s.send c i ws).stream c i).wait = (s.stream c i).wait ++ [{ words := ws, ready := some s.tb.age }] := by
  simp [State.send, State.sendWait, State.stream_setStream]

@[simp] theorem State.stream_sendOwn_same (c i : Nat) (ws : List W64) :
    ((s.sendOwn c i ws).stream c i).wait = (s.stream c i).wait ++ [{ words := ws }] := by
  simp [State.sendOwn, State.sendWait, State.stream_setStream]

theorem State.rv_setReg (a b : Nat) (w : Reg32) : (s.setReg a w).rv b = if b = a then w.toNat else s.rv b := by
  simp only [State.rv, State.setReg, mapGet_set]
  split <;> rfl

/-! ### Outcomes -/

/-- What a command on the chip answers. -/
theorem onChip_eq (f : State → State) : onChip s f = .next (if s.up then f s else s) := rfl

theorem onChip_up (f : State → State) (h : s.up = true) : onChip s f = .next (f s) := by simp [onChip, h]

/-- What a command on a tile can answer. -/
theorem onTile_next {t : Nat} {f : State → State} {u : State} (h : onTile t s f = .next u) :
    t < 64 ∧ (u = f s ∧ s.up = true ∧ t < s.nTiles ∨ u = s) := by
  unfold onTile at h
  split at h
  · rename_i ht
    refine ⟨ht, ?_⟩
    simp only [Host.Outcome.next.injEq] at h
    by_cases k : (s.up && s.onPart t) = true
    · rw [if_pos k] at h
      simp only [Bool.and_eq_true, State.onPart, decide_eq_true_eq] at k
      exact .inl ⟨h.symm, k.1, k.2⟩
    · rw [if_neg k] at h; exact .inr h.symm
  · cases h

theorem State.nTiles_le : s.nTiles ≤ 64 := by unfold State.nTiles; split <;> omega

theorem onTile_up (t : Nat) (f : State → State) (h : s.up = true) (k : t < s.nTiles) : onTile t s f = .next (f s) := by
  have := s.nTiles_le
  simp [onTile, h, State.onPart, k, show t < 64 by omega]

theorem onChan_up (t c : Nat) (f : State → State) (hc : c < 17) (h : s.up = true) (k : t < s.nTiles) :
    onChan t c s f = .next (f s) := by simp [onChan, hc, onTile_up, h, k]

theorem onEng_up (t e : Nat) (f : State → State) (he : e < 9) (h : s.up = true) (k : t < s.nTiles) :
    onEng t e s f = .next (f s) := by simp [onEng, he, onTile_up, h, k]

theorem onCtx_up (t c : Nat) (f : State → State) (hc : c < 64) (h : s.up = true) (k : t < s.nTiles) :
    onCtx t c s f = .next (f s) := by simp [onCtx, hc, onTile_up, h, k]

theorem onUnit_up (k n : Nat) (f : State → State) (hk : k < n) (h : s.up = true) : onUnit k n s f = .next (f s) := by
  simp [onUnit, hk, onChip_up, h]

theorem onBox_up (ch : Nat) (f : State → State) (hc : ch < 96) (h : s.up = true) : onBox ch s f = .next (f s) := by
  simp [onBox, hc, onChip_up, h]

/-! ### The passing of time -/

/-- Outside resets and freezes only the timebase moves. -/
theorem State.advance_up (n : Nat) (h : s.up = true) : s.advance n = { s with tb := s.tb.run n } := by
  simp only [State.up, Bool.not_eq_true', Bool.or_eq_false_iff, decide_eq_false_iff_not] at h
  simp [State.advance, h.1.1, h.2]

/-- Whatever holds the device, time moves only the timebase and the duration of a freeze. -/
theorem State.advance_frame (n : Nat) : { s.advance n with tb := s.tb, dep := s.dep } = s := by
  unfold State.advance
  split
  · rfl
  · split <;> rfl

@[simp] theorem Timebase.rampTo_age (b : Timebase) (a : Nat) : (b.rampTo a).age = b.age := by
  unfold Timebase.rampTo; split <;> rfl

@[simp] theorem Timebase.run_age (b : Timebase) (n : Nat) : (b.run n).age = b.age + n := rfl

@[simp] theorem Timebase.run_time (b : Timebase) (n : Nat) : (b.run n).time = b.time.addNs (8 * n) := rfl

theorem Timebase.note_epoch (b : Timebase) (a : Nat) : (b.note a).epoch = b.epoch := by
  simp only [Timebase.note]
  split
  · split <;> rfl
  · rfl

theorem Timebase.rampTo_epoch (b : Timebase) (a : Nat) : (b.rampTo a).epoch = b.epoch := by
  unfold Timebase.rampTo; split <;> rfl

@[simp] theorem Timebase.run_epoch (b : Timebase) (n : Nat) : (b.run n).epoch = b.epoch := by
  simp only [Timebase.run, Timebase.rampTo_epoch, Timebase.note_epoch]

@[simp] theorem State.advance_epoch (n : Nat) : (s.advance n).tb.epoch = s.tb.epoch := by
  unfold State.advance
  split
  · rfl
  · split
    · rfl
    · exact Timebase.run_epoch _ _

@[simp] theorem State.advance_part (n : Nat) : (s.advance n).part = s.part := by
  have h := congrArg State.part (s.advance_frame n)
  exact h

@[simp] theorem State.advance_key (n : Nat) : (s.advance n).key = s.key := by
  have h := congrArg State.key (s.advance_frame n)
  exact h

@[simp] theorem State.advance_phase (n : Nat) : (s.advance n).phase = s.phase := by
  have h := congrArg State.phase (s.advance_frame n)
  exact h

@[simp] theorem State.advance_bootsel (n : Nat) : (s.advance n).bootsel = s.bootsel := by
  have h := congrArg State.bootsel (s.advance_frame n)
  exact h

@[simp] theorem State.advance_regs (n : Nat) : (s.advance n).regs = s.regs := by
  have h := congrArg State.regs (s.advance_frame n)
  exact h

@[simp] theorem State.advance_refAddr (n : Nat) : (s.advance n).refAddr = s.refAddr := by
  have h := congrArg State.refAddr (s.advance_frame n)
  exact h

@[simp] theorem State.advance_refReason (n : Nat) : (s.advance n).refReason = s.refReason := by
  have h := congrArg State.refReason (s.advance_frame n)
  exact h

@[simp] theorem State.advance_refSrc (n : Nat) : (s.advance n).refSrc = s.refSrc := by
  have h := congrArg State.refSrc (s.advance_frame n)
  exact h

@[simp] theorem State.advance_refCnt (n : Nat) : (s.advance n).refCnt = s.refCnt := by
  have h := congrArg State.refCnt (s.advance_frame n)
  exact h

@[simp] theorem State.advance_fresh (n : Nat) : (s.advance n).fresh = s.fresh := by
  have h := congrArg State.fresh (s.advance_frame n)
  exact h

@[simp] theorem State.advance_tt (n : Nat) : (s.advance n).tt = s.tt := by
  have h := congrArg State.tt (s.advance_frame n)
  exact h

@[simp] theorem State.advance_lk (n : Nat) : (s.advance n).lk = s.lk := by
  have h := congrArg State.lk (s.advance_frame n)
  exact h

@[simp] theorem State.advance_ev (n : Nat) : (s.advance n).ev = s.ev := by
  have h := congrArg State.ev (s.advance_frame n)
  exact h

@[simp] theorem State.advance_sup (n : Nat) : (s.advance n).sup = s.sup := by
  have h := congrArg State.sup (s.advance_frame n)
  exact h

@[simp] theorem State.advance_eb (n : Nat) : (s.advance n).eb = s.eb := by
  have h := congrArg State.eb (s.advance_frame n)
  exact h

@[simp] theorem State.advance_pr (n : Nat) : (s.advance n).pr = s.pr := by
  have h := congrArg State.pr (s.advance_frame n)
  exact h

@[simp] theorem State.advance_cfg (n : Nat) : (s.advance n).cfg = s.cfg := by
  have h := congrArg State.cfg (s.advance_frame n)
  exact h

@[simp] theorem State.advance_cal (n : Nat) : (s.advance n).cal = s.cal := by
  have h := congrArg State.cal (s.advance_frame n)
  exact h

@[simp] theorem State.advance_pw (n : Nat) : (s.advance n).pw = s.pw := by
  have h := congrArg State.pw (s.advance_frame n)
  exact h

@[simp] theorem State.advance_fco (n : Nat) : (s.advance n).fco = s.fco := by
  have h := congrArg State.fco (s.advance_frame n)
  exact h

@[simp] theorem State.advance_tiles (n : Nat) : (s.advance n).tiles = s.tiles := by
  have h := congrArg State.tiles (s.advance_frame n)
  exact h

@[simp] theorem State.advance_nv (n : Nat) : (s.advance n).nv = s.nv := by
  have h := congrArg State.nv (s.advance_frame n)
  exact h

@[simp] theorem State.advance_msg (n : Nat) : (s.advance n).msg = s.msg := by
  have h := congrArg State.msg (s.advance_frame n)
  exact h

@[simp] theorem State.advance_pending (n : Nat) : (s.advance n).pending = s.pending := by
  have h := congrArg State.pending (s.advance_frame n)
  exact h

/-! ### Register writes -/

/-- A refused write leaves its record, and otherwise what its own start left. -/
theorem State.busWrite_refused {src : Src} {a r : Nat} {w : Reg32} {h : Option CtlHead} (k : s.writeReason src a w = some r) :
    s.busWrite src a w h = (false, (s.reportStart a w.toNat).refuse src a r) := by simp [State.busWrite, k]

theorem State.busWrite_applied {src : Src} {a : Nat} {w : Reg32} {h : Option CtlHead} (k : s.writeReason src a w = none) :
    s.busWrite src a w h = (true, s.applyWrite src a w h) := by simp [State.busWrite, k]

end Sys2Proof.Machine
end

