-- ==== Sys2Proof/Machine/Measurement.lean ====
section
/-! DEFINITION. What a result item of a function code 0x01 to 0x0F holds (R169 to R202), whichever engine program emits it
(R170). Programs are data of an image; the engines of Machine/Engines.lean run whatever an image loads (log entry 115). -/

namespace Sys2Proof.Machine

open Sys2Proof

/-! ### Descriptors and the records of a source (R171, R186) -/

/-- A function descriptor (R171). -/
structure FnDesc where
  func : Nat
  srcA : Nat
  srcB : Nat
  polA : Nat
  polB : Nat
  kind : Nat
  gateSrc : Nat
  gatePol : Nat
  outQ : Nat
  qty : Nat
  param : Nat
  imax : Nat
  histLo : Int
  histW : Nat
  histB : Nat
  fNom : Nat
  tau0 : Nat
  mults : List Nat
  deriving DecidableEq, Repr

/-- The descriptor in words 0 to 7 of a context block (R171). -/
def fnDesc (w : Nat → W64) : FnDesc :=
  { func := fieldOf (w 0) 4 0, srcA := fieldOf (w 0) 12 8, srcB := fieldOf (w 0) 17 13, polA := fieldOf (w 0) 19 18
    polB := fieldOf (w 0) 21 20, kind := fieldOf (w 0) 23 22, gateSrc := fieldOf (w 0) 28 24, gatePol := fieldOf (w 0) 30 29
    outQ := fieldOf (w 0) 39 32, qty := fieldOf (w 0) 43 40, param := fieldOf (w 1) 31 0, imax := (w 2).toNat
    histLo := (w 3).toInt, histW := fieldOf (w 4) 31 0, histB := fieldOf (w 4) 40 32, fNom := (w 5).toNat
    tau0 := fieldOf (w 6) 29 0
    mults := (List.range (fieldOf (w 6) 35 32)).map (fun i => fieldOf (w 7) (8 * i + 7) (8 * i)) }

/-- The descriptor of a context of a tile. -/
def State.fnDesc (s : State) (t c : Nat) : FnDesc := Sys2Proof.Machine.fnDesc (s.dword t c)

/-- A grid of gates: its ordinal since the function started, its epoch, its start in fine units, the engine time of slot age
0 in it, and the instant that ends it, with whether an epoch change does (R182, R204, R206). -/
structure FnGrid where
  no : Nat := 0
  epoch : Nat := 0
  start : Int := 0
  base : Int := 0
  close : Option (Int × Bool) := none
  deriving DecidableEq, Repr

/-- A hit record as a function receives it, in dispatcher order: its time in fine units, its polarity and flags, whether it is
the first one after a poisoned word of its input (R217), the first one of an epoch or of a grid (R186), and the ordinal of its
grid. -/
structure FnRec where
  input : Nat
  t : Int
  rise : Bool
  iu : Bool := false
  poisoned : Bool := false
  first : Bool := false
  cs : Bool := false
  st : Bool := false
  grid : Nat := 0
  deriving DecidableEq, Repr

/-- IU as the engine sees it (R217). -/
def FnRec.unpaired (r : FnRec) : Bool := r.iu || r.poisoned

/-- A new segment starts at the record (R186). -/
def FnRec.breaks (r : FnRec) : Bool := r.unpaired || r.first

/-- A selected edge of a source: its record, its place in dispatcher order, and whether a segment starts with it. -/
structure FnEdge where
  pos : Nat
  r : FnRec
  starts : Bool
  deriving DecidableEq, Repr

/-- An edge selection, coded as POL_A (R171). -/
def polTakes (pol : Nat) (rise : Bool) : Bool := if rise then bit pol 0 else bit pol 1

/-- The edges of a source that a selection takes, numbered from `k` on; a break on an edge that it leaves out falls to the
next one it takes (R186). -/
def fnEdges (input pol : Nat) : Nat → Bool → List FnRec → List FnEdge
  | _, _, [] => []
  | k, c, r :: rs =>
    if r.input ≠ input then fnEdges input pol (k + 1) c rs
    else if polTakes pol r.rise then ⟨k, r, c || r.breaks⟩ :: fnEdges input pol (k + 1) false rs
    else fnEdges input pol (k + 1) (c || r.breaks) rs

/-- The selected edges of source A. -/
def FnDesc.edgesA (d : FnDesc) (rs : List FnRec) : List FnEdge := fnEdges d.srcA d.polA 0 false rs

/-- The selected edges of source B. -/
def FnDesc.edgesB (d : FnDesc) (rs : List FnRec) : List FnEdge := fnEdges d.srcB d.polB 0 false rs

/-- Every edge of source A. -/
def FnDesc.every (d : FnDesc) (rs : List FnRec) : List FnEdge := fnEdges d.srcA 3 0 false rs

/-- Segments: runs of edges without a break (R186). -/
def segments : List FnEdge → List (List FnEdge)
  | [] => []
  | e :: es =>
    match segments es with
    | [] => [[e]]
    | g :: gs => if (g.headD e).starts then [e] :: g :: gs else (e :: g) :: gs

/-! ### Gates (R181 to R185) -/

/-- A gate: its grid, its kind, its bounds, whether it is an edge-count gate of 0, a trigger window that opened while 4 were
open (R185), or closed by an epoch change (R175). Gates of kind 1 hold their end and not their beginning (R183), the others
their beginning and not their end (R181, R184, R185). -/
structure FnGate where
  grid : FnGrid := {}
  kind : Nat
  lo : Int
  hi : Int
  empty : Bool := false
  fifth : Bool := false
  eg : Bool := false
  deriving DecidableEq, Repr

/-- The record lies before the gate. -/
def FnGate.before (g : FnGate) (r : FnRec) : Bool :=
  decide (r.grid < g.grid.no) || (decide (r.grid = g.grid.no) && (if g.kind = 1 then decide (r.t ≤ g.lo) else decide (r.t < g.lo)))

/-- The record lies after the gate. -/
def FnGate.after (g : FnGate) (r : FnRec) : Bool :=
  decide (g.grid.no < r.grid) || (decide (r.grid = g.grid.no) && (if g.kind = 1 then decide (g.hi < r.t) else decide (g.hi ≤ r.t)))

/-- The gate takes no edge: an edge-count gate of 0, or one window more than an engine holds (R183, R185). -/
def FnGate.none_ (g : FnGate) : Bool := g.empty || g.fifth

/-- The record belongs to the gate. -/
def FnGate.holds (g : FnGate) (r : FnRec) : Bool := !g.none_ && !g.before r && !g.after r

/-- A gate from `lo` to an end, where its closing has come, or to the end of its grid; none while it is open (R204, R206). -/
def FnGrid.gate (q : FnGrid) (kind : Nat) (lo : Int) (hi : Option Int) (empty : Bool) : Option FnGate :=
  match hi, q.close with
  | some h, some (z, eg) =>
    if z ≤ lo ∧ kind ≠ 1 then none
    else some { grid := q, kind := kind, lo := lo, hi := min h z, empty := empty && decide (h ≤ z), eg := eg && decide (z < h) }
  | some h, none => some { grid := q, kind := kind, lo := lo, hi := h, empty := empty }
  | none, some (z, eg) => some { grid := q, kind := kind, lo := lo, hi := z, eg := eg }
  | none, none => none

/-- Time gate `k` of a grid, for a gate length of `param` times 1.024 µs (R181). -/
def FnDesc.timeGate (d : FnDesc) (q : FnGrid) (k : Nat) : Option FnGate :=
  let o := (q.start + 1048575) / 1048576 * 1048576
  let l : Int := d.param * 1048576
  q.gate 0 (if k = 0 then q.start else o + k * l) (some (o + (k + 1) * l)) false

/-- The occurrences that an edge-count gate counts: selected edges of source A, for code 0x0B those of source B (R183,
R197). -/
def FnDesc.counted (d : FnDesc) (q : FnGrid) (rs : List FnRec) : List FnEdge :=
  (if d.func = 0x0B then d.edgesB rs else d.edgesA rs).filter (fun e => decide (e.r.grid = q.no))

/-- Instant of the edge numbered `k`. -/
def edgeTime (es : List FnEdge) (k : Nat) : Option Int := (es[k]?).map (·.r.t)

/-- Edge-count gate `k` of a grid; with a parameter of 0 each counted occurrence closes an empty gate (R183). -/
def FnDesc.countGate (d : FnDesc) (q : FnGrid) (rs : List FnRec) (k : Nat) : Option FnGate :=
  let m := if d.param = 0 then 1 else d.param
  let es := d.counted q rs
  if es.length < k * m then none
  else q.gate 1 (if k = 0 then q.start - 1 else (edgeTime es (k * m - 1)).getD q.start) (edgeTime es ((k + 1) * m - 1)) (decide (d.param = 0))

/-- Channel gate `k` of a grid, between two closing edges of the gate channel (R184). -/
def FnDesc.channelGate (d : FnDesc) (q : FnGrid) (rs : List FnRec) (k : Nat) : Option FnGate :=
  let es := (fnEdges d.gateSrc d.gatePol 0 false rs).filter (fun e => decide (e.r.grid = q.no))
  if es.length < k then none
  else q.gate 2 (if k = 0 then q.start else (edgeTime es (k - 1)).getD q.start) (edgeTime es k) false

/-- The trigger gate of a window whose trigger code the mask selects; `open4`: 4 windows of the function are open (R185). -/
def FnDesc.triggerGate (d : FnDesc) (q : FnGrid) (code : Nat) (lo hi : Int) (open4 : Bool) : Option FnGate :=
  if bit d.param code then some { grid := q, kind := 3, lo := lo, hi := hi, fifth := open4 } else none

/-! ### Pieces (R186 to R188) -/

/-- A piece: the edges of one segment in the gate, and their anchor (R186). -/
structure FnPiece where
  anchor : Option FnEdge
  es : List FnEdge
  deriving DecidableEq, Repr

/-- The pieces of a gate; no anchor carries into a trigger gate (R185, R186). -/
def fnPieces (g : FnGate) (es : List FnEdge) : List FnPiece :=
  (segments es).map (fun x =>
    ⟨if g.kind = 3 then none else (x.filter (fun e => g.before e.r)).getLast?, x.filter (fun e => g.holds e.r)⟩)

/-- Times of a piece's edges in the gate. -/
def FnPiece.ts (p : FnPiece) : List Int := p.es.map (·.r.t)

/-- Edges of a piece after its start (R188). -/
def FnPiece.n (p : FnPiece) : Nat := if p.anchor.isSome then p.es.length else p.es.length - 1

/-- The last edge's time less the start's (R188). -/
def FnPiece.span (p : FnPiece) : Int := match p.ts.getLast? with
  | some z => z - (p.anchor.map (·.r.t)).getD (p.ts.headD z)
  | none => 0

/-- The pieces that contribute (R188). -/
def fnGiving (ps : List FnPiece) : List FnPiece := ps.filter (fun p => decide (1 ≤ p.n))

/-- n, span and the number of the pieces that contribute (R188). -/
def fnSpan (ps : List FnPiece) : Nat × Int × Nat :=
  let qs := fnGiving ps
  ((qs.map (·.n)).sum, (qs.map (·.span)).sum, qs.length)

/-- The records of the pieces that contribute. -/
def fnSpanRecs (ps : List FnPiece) : List FnRec := (fnGiving ps).flatMap (fun p => (p.anchor.toList ++ p.es).map (·.r))

/-! ### Rounding (R179) and the words of an item (R174, R177, R178) -/

/-- The nearest whole number, ties away from zero. -/
def roundAway (q : Rat) : Int := if 0 ≤ q then (q + 1 / 2).floor else -((-q + 1 / 2).floor)

/-- Square root rounded down. -/
def rootDown (q : Rat) : Nat := isqrt (min (2 ^ 128 - 1) q.floor.toNat)

/-- A word that holds a number modulo 2^64. -/
def numWord (v : Int) : W64 := BitVec.ofInt 64 v

/-- Unsigned 32.32 (R188, R197). -/
def word3232 (q : Rat) : W64 := numWord (min (2 ^ 64 - 1) (roundAway (q * 2 ^ 32)))

/-- A count word (R177). -/
def countWord (n k : Nat) : W64 := rec64 [(24, 40, n), (0, 24, min (2 ^ 24 - 1) k)]

/-- A value continuation record (R178). -/
def contRecord (index kind value : Nat) : W64 := rec64 [(61, 3, 3), (53, 8, index), (48, 5, kind), (0, 48, min (2 ^ 48 - 1) value)]

/-- The result header (R174). -/
def resultHeader (d : FnDesc) (engine epoch : Nat) (cs st eg nd cp : Bool) (gseq : Nat) : W64 :=
  rec64 [(61, 3, 2), (56, 5, d.func), (52, 4, engine), (47, 5, d.srcA), (42, 5, d.srcB), (38, 4, epoch), (37, 1, b2n cs),
    (36, 1, b2n st), (35, 1, b2n eg), (34, 1, b2n nd), (33, 1, b2n cp), (0, 32, gseq)]

/-- CS of a header from the flags of the records used and the condition met in the gate; ST likewise (R175). -/
def fnFlag (kind : Nat) (used : List Bool) (met : Bool) : Bool := used.any (fun u => u) || (decide (kind ≠ 1) && met)

/-- What one gate gives: ND, value words, the records that the item used (R175), continuation records, and for an item that
is its own gate the bounds of that gate (R173, R191, R193). -/
structure FnResult where
  nd : Bool
  words : List W64
  used : List FnRec := []
  conts : List W64 := []
  own : Option (Int × Int) := none
  deriving DecidableEq, Repr

/-- The timebase's conditions over an item's gate (R58, R175). -/
def State.fnMet (s : State) (t : Nat) (g : FnGate) (r : FnResult) : Bool × Bool :=
  let (lo, hi) := r.own.getD (g.lo, g.hi)
  s.condMet t ((lo - g.grid.base) / 8192).toNat ((hi - 1 - g.grid.base) / 8192).toNat

/-- An item of a function of tile `t` (R173 to R176). -/
def State.fnItem (s : State) (t : Nat) (d : FnDesc) (engine : Nat) (cp : Bool) (gseq : Nat) (g : FnGate) (r : FnResult) : List W64 :=
  let met := s.fnMet t g r
  let cs := fnFlag g.kind (r.used.map (·.cs)) met.1
  let st := fnFlag g.kind (r.used.map (·.st)) met.2
  resultHeader d engine g.grid.epoch cs st (g.eg && r.own.isNone) r.nd cp gseq :: (r.words ++ r.conts)

/-- The gate-close item of codes 0x05 and 0x08 (R185). -/
def gateClose (func : Nat) : FnResult := { nd := true, words := if func = 5 then [0] else [0, 0] }

/-- Fine units in a second. -/
def fnSecond : Rat := 1024000000000

/-! ### Counts, frequencies and periods (R187 to R191) -/

/-- Totalise (R187); a window more than an engine holds gives ND (R185). -/
def fnTotal (g : FnGate) (es : List FnEdge) : FnResult :=
  let xs := es.filter (fun e => g.holds e.r)
  { nd := g.none_, words := [numWord xs.length, numWord (es.countP (fun e => !g.after e.r))], used := xs.map (·.r) }

/-- Reciprocal frequency (R188). -/
def fnReciprocal (ps : List FnPiece) : FnResult :=
  let (n, span, k) := fnSpan ps
  if n = 0 then { nd := true, words := [0, 0, countWord 0 k] }
  else { nd := false, words := [word3232 (n * fnSecond / span), numWord span, countWord n k], used := fnSpanRecs ps }

/-- Least squares (R189): the sums of one piece over its edges in the gate. -/
def pieceMean (ts : List Int) : Rat := (ts.sum : Rat) / ts.length

/-- Contribution of a piece to sxy. -/
def pieceXy (ts : List Int) : Rat :=
  ((ts.zipIdx).map (fun p => ((p.2 : Rat) - ((ts.length : Rat) - 1) / 2) * ((p.1 : Rat) - pieceMean ts))).sum

/-- Contribution of a piece to sxx. -/
def pieceXx (ts : List Int) : Rat := (ts.length : Rat) * ((ts.length : Rat) * ts.length - 1) / 12

/-- Squared residuals of a piece about a line of slope `b` through its mean. -/
def pieceRes (b : Rat) (ts : List Int) : Rat :=
  ((ts.zipIdx).map (fun p =>
    let r := (p.1 : Rat) - (pieceMean ts + b * ((p.2 : Rat) - ((ts.length : Rat) - 1) / 2))
    r * r)).sum

/-- Least-squares frequency (R189). -/
def fnLeastSquares (ps : List FnPiece) : FnResult :=
  let ps := ps.filter (fun p => decide (2 ≤ p.es.length))
  let qs := ps.map (·.ts)
  let n := (qs.map List.length).sum
  if qs.isEmpty then { nd := true, words := [0, countWord 0 0, 0] }
  else
    let b := (qs.map pieceXy).sum / (qs.map pieceXx).sum
    let k := n - qs.length - 1
    let rms := if k = 0 then 0 else rootDown (65536 * ((qs.map (pieceRes b)).sum / k))
    { nd := false, words := [word3232 (fnSecond / b), countWord n qs.length, numWord rms], used := ps.flatMap (fun p => p.es.map (·.r)) }

/-- Mean period (R190). -/
def fnMeanPeriod (ps : List FnPiece) : FnResult :=
  let (n, span, k) := fnSpan ps
  { nd := decide (n = 0), words := [numWord span, countWord n k], used := fnSpanRecs ps }

/-- Two records and the time between them: a cycle with its ending edge, or a pulse with its trailing edge, and whether the
pair is broken (R191, R192). -/
structure FnPair where
  lead : FnRec
  trail : FnRec
  broken : Bool := false
  deriving DecidableEq, Repr

/-- The time from the first record of a pair to the second. -/
def FnPair.time (p : FnPair) : Int := p.trail.t - p.lead.t

/-- The records of pairs. -/
def pairRecs (ps : List FnPair) : List FnRec := ps.flatMap (fun p => [p.lead, p.trail])

/-- The cycles of a source (R191). -/
def fnCycles (es : List FnEdge) : List FnPair :=
  (segments es).flatMap (fun x => (x.zip x.tail).map (fun p => { lead := p.1.r, trail := p.2.r }))

/-! ### Pulses and levels (R192 to R194) -/

/-- The pulses of a source over all its edges; an unfinished pair is dropped at the end of its grid (R192, R206). -/
def fnPulses (pol : Nat) (es : List FnEdge) : List FnPair :=
  ((es.zip es.tail).filter (fun p => polTakes pol p.1.r.rise && decide (p.1.r.grid = p.2.r.grid))).map
    (fun p => { lead := p.1.r, trail := p.2.r, broken := p.2.r.unpaired })

/-- Pulse width (R192). -/
def fnPulseWidth (g : FnGate) (ps : List FnPair) : FnResult :=
  let xs := ps.filter (fun p => g.holds p.trail)
  let ok := xs.filter (fun p => !p.broken)
  { nd := ok.isEmpty, words := [numWord (ok.map FnPair.time).sum, countWord ok.length (xs.length - ok.length)], used := pairRecs ok }

/-- Time over threshold: the words of each unbroken pair of a gate; `whole` takes every pair (R193). -/
def fnOverThreshold (g : FnGate) (whole : Bool) (ps : List FnPair) : List FnResult :=
  (ps.filter (fun p => !p.broken && (whole || g.holds p.trail))).map (fun p =>
    { nd := false, words := [numWord p.lead.t, numWord p.time], used := pairRecs [p], own := some (p.lead.t, p.trail.t) })

/-- Stretches of a gate over which the level is known, each with its length and the record that begins it: from each edge,
and from the gate's start where the gate holds an anchor, to the next edge or the gate's end; a stretch that a break inside
the gate ends is not known (R186, R194). -/
def fnStretches (g : FnGate) (es : List FnEdge) : List (Int × FnRec) :=
  let es := es.filter (fun e => decide (e.r.grid = g.grid.no))
  let ends := es.tail.map (fun e => (e.r.t, e.starts && !g.after e.r)) ++ [(g.hi, false)]
  (es.zip ends).filterMap (fun p =>
    let lo := max g.lo p.1.r.t
    let hi := min g.hi p.2.1
    if p.2.2 || decide (hi ≤ lo) || (g.before p.1.r && decide (g.kind = 3)) then none else some (hi - lo, p.1.r))

/-- Duty cycle (R194). -/
def fnDuty (pol : Nat) (g : FnGate) (es : List FnEdge) : FnResult :=
  let xs := if g.none_ then [] else fnStretches g es
  let known : Int := (xs.map (·.1)).sum
  { nd := decide (known = 0), words := [numWord ((xs.filter (fun x => polTakes pol x.2.rise)).map (·.1)).sum, numWord known]
    used := xs.map (·.2) ++ (es.filter (fun e => g.holds e.r)).map (·.r) }

/-! ### Intervals and phases (R195, R196) -/

/-- The outcome of an arming edge or of a B edge: the record that assigns it to a gate, the value, or none where it is
unmatched or dropped, and the records that it used. -/
structure FnOcc where
  by_ : FnRec
  x : Option Int
  used : List FnRec := []
  deriving DecidableEq, Repr

/-- Interval A to B over every record that the engine receives, from the arming edge in force (R195). An arming edge does not
outlast its grid (R206), and an edge that stops or breaks an interval does not arm the next one. -/
def fnIntervals (d : FnDesc) : Option FnRec → List FnRec → List FnOcc
  | _, [] => []
  | arm, r :: rs =>
    let isB := decide (r.input = d.srcB) && polTakes d.polB r.rise
    let fresh : Option FnRec := if decide (r.input = d.srcA) && polTakes d.polA r.rise then some r else none
    match arm.filter (fun a => decide (a.grid = r.grid)) with
    | none => fnIntervals d fresh rs
    | some a =>
      if a.t + d.imax < r.t then { by_ := r, x := none } :: fnIntervals d fresh rs
      else if isB && r.unpaired then { by_ := r, x := none } :: fnIntervals d none rs
      else if isB then { by_ := r, x := some (r.t - a.t), used := [a, r] } :: fnIntervals d none rs
      else fnIntervals d (some a) rs

/-- The number of the segment that an edge lies in. -/
def segmentNo (es : List FnEdge) (pos : Nat) : Nat := es.countP (fun e => e.starts && decide (e.pos ≤ pos))

/-- Phase of each B edge of a gate against the A edges on either side of it (R196). An occurrence that still waits for its
second A edge when the grid ends is dropped without a count (R206). -/
def fnPhases (d : FnDesc) (g : FnGate) (as bs : List FnEdge) : List FnOcc :=
  (bs.filter (fun b => g.holds b.r)).filterMap (fun b =>
    let lost : Option FnOcc := some { by_ := b.r, x := none }
    let next := (as.find? (fun a => decide (b.pos < a.pos))).filter (fun a => decide (a.r.grid = b.r.grid))
    match (as.filter (fun a => decide (a.pos ≤ b.pos))).getLast?, next with
    | some a0, some a1 =>
      if segmentNo as a0.pos ≠ segmentNo as a1.pos ∨ (d.imax : Int) < a1.r.t - a0.r.t ∨ b.r.t + d.imax < a1.r.t then lost
      else some { by_ := b.r, x := some (signed 32 (((b.r.t - a0.r.t) * 2 ^ 32 / (a1.r.t - a0.r.t)) % 2 ^ 32).toNat), used := [a0.r, b.r, a1.r] }
    | some _, none => match g.grid.close with
      | some (z, _) => if b.r.t + d.imax < z then lost else none
      | none => lost
    | none, _ => none)

/-- Values of the gate, in order, with the records that they used. -/
def occValues (g : FnGate) (os : List FnOcc) : List (Int × List FnRec) :=
  (os.filter (fun o => g.holds o.by_)).filterMap (fun o => o.x.map (fun x => (x, o.used)))

/-- Unmatched or dropped occurrences of the gate. -/
def occLost (g : FnGate) (os : List FnOcc) : Nat := os.countP (fun o => g.holds o.by_ && o.x.isNone)

/-- Interval A to B (R195). -/
def fnInterval (g : FnGate) (os : List FnOcc) : FnResult :=
  let xs := occValues g os
  { nd := xs.isEmpty, words := [numWord (xs.map (·.1)).sum, countWord xs.length (occLost g os)], used := xs.flatMap (·.2) }

/-- Phase A against B (R196). -/
def fnPhase (g : FnGate) (os : List FnOcc) : FnResult :=
  match occValues g os with
  | [] => { nd := true, words := [0, countWord 0 (occLost g os)] }
  | p0 :: ps =>
    let ds := (p0 :: ps).map (fun p => signed 32 ((p.1 - p0.1) % 2 ^ 32).toNat)
    let p := roundAway ((p0.1 : Rat) + (ds.sum : Rat) / ds.length)
    { nd := false, words := [numWord (p % 2 ^ 32 * 2 ^ 32), countWord ds.length (occLost g os)], used := (p0 :: ps).flatMap (·.2) }

/-- Frequency ratio (R197). -/
def fnRatio (pa pb : List FnPiece) : FnResult :=
  let (na, sa, ka) := fnSpan pa
  let (nb, sb, kb) := fnSpan pb
  let nd := decide (na = 0) || decide (nb = 0)
  { nd := nd, words := [if nd then 0 else word3232 ((na : Rat) * sb / (nb * sa)), countWord na ka, countWord nb kb]
    used := fnSpanRecs pa ++ fnSpanRecs pb }

/-! ### Reductions of a quantity (R198 to R201) -/

/-- The values of the gate that QTY names, with the records that they used (R198). -/
def fnValues (d : FnDesc) (g : FnGate) (rs : List FnRec) : List (Int × List FnRec) :=
  let pairs := fun (ps : List FnPair) => (ps.filter (fun p => g.holds p.trail && !p.broken)).map (fun p => (p.time, [p.lead, p.trail]))
  match d.qty with
  | 0 => pairs (fnCycles (d.edgesA rs))
  | 1 => pairs (fnPulses d.polA (d.every rs))
  | 2 => occValues g (fnIntervals d none rs)
  | _ => occValues g (fnPhases d g (d.edgesA rs) (d.edgesB rs))

/-- Statistics: count, mean, standard deviation (R199). -/
def fnStatistics (xs : List Int) : FnResult :=
  match xs with
  | [] => { nd := true, words := [countWord 0 0, 0, 0] }
  | x0 :: _ =>
    let ds := (xs.map (· - x0)).filter (fun d => decide (d.natAbs < 2 ^ 47))
    let n : Rat := ds.length
    let s1 : Rat := (ds.sum : Int)
    let s2 : Rat := ((ds.map (fun d => d * d)).sum : Int)
    let dev := if ds.length = 1 then 0 else rootDown (2 ^ 32 * ((n * s2 - s1 * s1) / (n * (n - 1))))
    { nd := false, words := [countWord ds.length (xs.length - ds.length), numWord (roundAway (((x0 : Rat) + s1 / n) * 65536)), numWord dev] }

/-- Statistics: minimum and maximum (R200). -/
def fnMinMax (xs : List Int) : FnResult :=
  match xs with
  | [] => { nd := true, words := [countWord 0 0, 0, 0] }
  | x :: ys => { nd := false, words := [countWord xs.length 0, numWord (ys.foldl min x), numWord (ys.foldl max x)] }

/-- Histogram (R201). -/
def fnHistogram (d : FnDesc) (xs : List Int) : FnResult :=
  let bin := fun (x : Int) => (x - d.histLo).fdiv d.histW
  let low := xs.countP (fun x => decide (bin x < 0))
  let high := xs.countP (fun x => decide ((d.histB : Int) ≤ bin x))
  let cs := (List.range d.histB).filterMap (fun (i : Nat) =>
    let k := xs.countP (fun x => decide (bin x = (i : Int)))
    if k = 0 then none else some (contRecord i 0 k))
  { nd := xs.isEmpty, words := [countWord xs.length cs.length, rec64 [(32, 32, min (2 ^ 32 - 1) low), (0, 32, min (2 ^ 32 - 1) high)]]
    conts := cs }

/-- A reduction of the values of a gate. -/
def fnReduce (f : List Int → FnResult) (xs : List (Int × List FnRec)) : FnResult :=
  { f (xs.map (·.1)) with used := xs.flatMap (·.2) }

/-! ### Allan deviation (R202) -/

/-- Basic interval `j` of a gate: its pieces where it is valid. -/
def allanCell (d : FnDesc) (g : FnGate) (es : List FnEdge) (j : Nat) : Option (List FnPiece) :=
  let l : Int := d.tau0 * 1048576
  let cell : FnGate := { grid := g.grid, kind := 0, lo := g.lo + j * l, hi := g.lo + (j + 1) * l }
  let ps := fnPieces cell es
  if es.any (fun e => e.starts && cell.holds e.r) || decide ((fnSpan ps).1 = 0) then none else some ps

/-- Relative frequency difference of the block of `m` basic intervals from `k * m` on, where it is valid. -/
def allanBlock (d : FnDesc) (cells : List (Option (List FnPiece))) (m k : Nat) : Option Rat :=
  let xs := (cells.drop (k * m)).take m
  if xs.length < m ∨ xs.any (·.isNone) then none
  else
    let ys := xs.filterMap (fun x => x.map fnSpan)
    let nom : Rat := (d.fNom : Rat) / 2 ^ 32
    some ((((ys.map (·.1)).sum : Nat) * fnSecond / ((ys.map (·.2.1)).sum : Int) - nom) / nom)

/-- Squared differences over the pairs of adjacent valid blocks of `m` basic intervals. -/
def allanDiffs (d : FnDesc) (cells : List (Option (List FnPiece))) (m : Nat) : List Rat :=
  let bs := (List.range (cells.length / m)).map (allanBlock d cells m)
  (bs.zip bs.tail).filterMap (fun p => match p with
    | (some a, some b) => some ((b - a) * (b - a))
    | _ => none)

/-- Allan deviation (R202) over the whole basic intervals that the gate holds, also where it closed early (DEDUCED, log
entry 132). -/
def fnAllan (d : FnDesc) (g : FnGate) (es : List FnEdge) : FnResult :=
  let cells := (List.range ((g.hi - g.lo) / (d.tau0 * 1048576)).toNat).map (allanCell d g es)
  let ok := cells.countP (·.isSome)
  let ds := d.mults.map (allanDiffs d cells)
  let dev := fun (x : List Rat) => if x.isEmpty then 0 else rootDown (min (2 ^ 127) (2 ^ 128 * (x.sum / (2 * x.length))))
  { nd := ds.all (·.isEmpty), words := [countWord ok (cells.length - ok)]
    used := cells.flatMap (fun c => fnSpanRecs (c.getD []))
    conts := (ds.zipIdx).flatMap (fun p => [contRecord p.2 1 p.1.length, contRecord p.2 2 (dev p.1)]) }

/-! ### The items of a function -/

/-- What a gate gives for each code that emits one item a gate (R169); none for the others. -/
def fnResult (d : FnDesc) (g : FnGate) (rs : List FnRec) : Option FnResult :=
  let as := d.edgesA rs
  let bs := d.edgesB rs
  match d.func with
  | 0x01 => some (fnTotal g as)
  | 0x02 => some (fnReciprocal (fnPieces g as))
  | 0x03 => some (fnLeastSquares (fnPieces g as))
  | 0x04 => some (fnMeanPeriod (fnPieces g as))
  | 0x06 => some (fnPulseWidth g (fnPulses d.polA (d.every rs)))
  | 0x07 => some (fnDuty d.polA g (d.every rs))
  | 0x09 => some (fnInterval g (fnIntervals d none rs))
  | 0x0A => some (fnPhase g (fnPhases d g as bs))
  | 0x0B => some (fnRatio (fnPieces g as) (fnPieces g bs))
  | 0x0C => some (fnReduce fnStatistics (fnValues d g rs))
  | 0x0D => some (fnReduce fnMinMax (fnValues d g rs))
  | 0x0E => some (fnReduce (fnHistogram d) (fnValues d g rs))
  | 0x0F => some (fnAllan d g as)
  | _ => none

/-- The items of codes 0x05 and 0x08: one for each cycle or pair of the gate, every one for kind 0, and for kind 3 the
gate-close item behind them (R185, R191, R193). -/
def fnEach (d : FnDesc) (g : FnGate) (rs : List FnRec) : List FnResult :=
  let whole := decide (d.kind = 0)
  let xs := match d.func with
    | 0x05 => ((fnCycles (d.edgesA rs)).filter (fun p => whole || g.holds p.trail)).map (fun p =>
        ({ nd := false, words := [numWord p.time], used := pairRecs [p], own := some (p.lead.t, p.trail.t) } : FnResult))
    | 0x08 => fnOverThreshold g whole (fnPulses d.polA (d.every rs))
    | _ => []
  if whole then xs else xs ++ [gateClose d.func]

end Sys2Proof.Machine
end

