-- ==== Sys2Proof/Tests/Slice0.lean ====
section
/-! SUPPORT. Tests: which terms are commands, engine words written out from R225 and R227, and one witness per statement
that has hypotheses: concrete states and operands that meet those of each of its clauses. -/

namespace Sys2Proof.Tests

open Sys2Proof Sys2Proof.Machine

/-! ### Small states -/

/-- A running device with some registers and tile 0. -/
def dev (rs : Map Reg32) (ti : Tile) : State := { regs := rs, tiles := [(0, ti)] }

/-- Tile 0 with one engine, engine 0, of context 0, that runs the words `ops` from address 10. -/
def engAt (x : Engine) (ops : List EngOp) : Tile :=
  { pm := (ops.map encodeEng).zipIdx 10 |>.map (fun p => (p.2, p.1)), engs := [(0, x)] }

/-- An engine in the middle of a slice of context 0, at address 10. -/
def running : Engine := { st := 1, pc := 10, loaded := true, sliceEnd := false, ctxs := [0] }

/-- A device whose engine 0 of tile 0 stands at an instruction. -/
def at_ (op : EngOp) : State := dev [] (engAt running [op])

/-- A hit record that waits at both destinations. -/
def hit0 : Hit :=
  { stamp := {}, age := 0, sub := 0, epoch := 0, rise := true, cs := false, st := false, spare := false, input := 0, lb := .waiting, eq := .waiting }

/-! ### Which terms are commands -/

theorem test_wf_tile : (Instr.tileWake 63).wf = true ∧ (Instr.tileWake 64).wf = false := by decide
theorem test_wf_channel : (Instr.captureClr 0 16).wf = true ∧ (Instr.captureClr 0 17).wf = false := by decide
theorem test_wf_engine : (Instr.nop 0 8).wf = true ∧ (Instr.nop 0 9).wf = false := by decide
theorem test_wf_queue : (Instr.flush 0 255).wf = true ∧ (Instr.flush 0 256).wf = false := by decide
theorem test_wf_context : (Instr.contextTimer 0 63).wf = true ∧ (Instr.contextTimer 0 64).wf = false := by decide
theorem test_wf_pair : (Instr.lockstepMismatch 0 3 .odd).wf = true ∧ (Instr.lockstepMismatch 0 4 .odd).wf = false := by decide
theorem test_wf_fco : (Instr.fcoDeassert 7).wf = true ∧ (Instr.fcoDeassert 8).wf = false := by decide
theorem test_wf_fci : (Instr.fciChange 3 true).wf = true ∧ (Instr.fciChange 4 true).wf = false ∧
    (Instr.fciHoldExpiry 4).wf = false := by decide
theorem test_wf_lane : (Instr.ackTimeout 7).wf = true ∧ (Instr.ackTimeout 8).wf = false := by decide
theorem test_wf_mailbox : (Instr.supTakeRequest 95).wf = true ∧ (Instr.supTakeRequest 96).wf = false := by decide
theorem test_wf_pause : (Instr.pauseExpiry 3 255).wf = true ∧ (Instr.pauseExpiry 4 0).wf = false ∧
    (Instr.pauseExpiry 0 256).wf = false := by decide
theorem test_wf_result_stream : (Instr.resultFrameClose 127).wf = true ∧ (Instr.resultFrameClose 128).wf = false := by decide
theorem test_wf_tie_check :
    (Instr.checkComplete 0 0 (.tie [(false, 513, 0), (false, 511, 256), (true, 513, 256), (true, 511, 0)])).wf = true ∧
    (Instr.checkComplete 0 0 (.tie [(false, 513, 0), (false, 511, 256), (true, 513, 256)])).wf = false ∧
    (Instr.checkComplete 0 0 (.tie [(false, 513, 0), (false, 511, 257), (true, 513, 256), (true, 511, 0)])).wf = false ∧
    (Instr.checkComplete 0 0 (.swap [(1023, 256)] [])).wf = true ∧ (Instr.checkComplete 0 0 (.swap [(1024, 0)] [])).wf = false := by
  decide
theorem test_wf_handover_edges : (Instr.handoverInstant 0 [⟨2047, true, false⟩] [] 0).wf = true ∧
    (Instr.handoverInstant 0 [⟨2048, true, false⟩] [] 0).wf = false := by decide
theorem test_wf_mask : (Instr.evMaskWrite (.chip 3) 0).wf = true ∧ (Instr.evMaskWrite (.chip 4) 0).wf = false ∧
    (Instr.evMaskWrite (.tile 64) 0).wf = false := by decide
theorem test_wf_unknown_link_operation : (Instr.unknownLinkOperation 6 0 false).wf = true ∧
    (Instr.unknownLinkOperation 5 0 false).wf = false := by decide

/-! ### Words written out from the instruction format and the table of the instruction set (R225, R227) -/

theorem test_engine_words :
    decodeEng 0x010886000000 = some (.alu .add 1 2 (.reg 3)) ∧ decodeEng 0x010881FFFFFF = some (.alu .add 1 2 (.imm 0xFFFFFF)) ∧
    decodeEng 0x30010B000002 = some (.br .eq 4 5 2) ∧ decodeEng 0x4031C1000008 = some (.ld 6 7 8) ∧
    decodeEng 0x510201000009 = some (.emith 8 (.imm 9)) ∧ decodeEng 0x180886000000 = some (.mac true 1 2 (.reg 3)) ∧
    decodeEng 0x490000000000 = some .checkpoint ∧ decodeEng 0xFF0000000000 = none := by decide

/-! ### The step and the whole machine -/

theorem witness_StepRunsFrontCommand : ({ pending := [.porAssert, .bump] } : State).pending = .porAssert :: [.bump] := by decide
theorem witness_EmptyQueuePassesOneSlot : ({} : State).pending = [] ∧ ({} : State).up = true := by decide
theorem witness_CommandsRunOrFault : Instr.bump.wf = true ∧ 64 ≤ 64 ∧ 9 ≤ 9 ∧ 17 ≤ 17 ∧ 256 ≤ 256 ∧ 96 ≤ 96 ∧
    exec .loscClockPresent {} = .next ({ tb := { loscOk := true } } : State) :=
  ⟨by decide, by decide, by decide, by decide, by decide, by decide, rfl⟩
theorem witness_StepKeepsMemories : State.memWf { msg := [⟨8, 1⟩] } ∧
    step { msg := [⟨8, 1⟩], pending := [.loscClockPresent] } = .next ({ msg := [⟨8, 1⟩], tb := { loscOk := true } } : State) :=
  ⟨by unfold State.memWf; decide, rfl⟩
theorem witness_EpochNumbers : ({ tb := { epoch := 15 } } : State).tb.epoch < 16 ∧ ({ tb := { epoch := 14 } } : State).tb.epoch < 15 ∧
    exec .loscClockPresent { tb := { epoch := 15 } } = .next ({ tb := { epoch := 15, loscOk := true } } : State) :=
  ⟨by decide, by decide, rfl⟩
theorem witness_CopiesAreChosen : 0 < 2 ^ 32 ∧ 2 ^ 32 - 1 < 2 ^ 32 ∧
    (1 : Int) = (if ((0 : Int) - (2 ^ 32 - 1 : Nat)) % 2 ^ 32 < 2 ^ 31 then ((0 : Int) - (2 ^ 32 - 1 : Nat)) % 2 ^ 32
      else ((0 : Int) - (2 ^ 32 - 1 : Nat)) % 2 ^ 32 - 2 ^ 32) ∧ (0 : Int) < 1 ∧
    (-2 ^ 31 : Int) = (if ((2 ^ 31 : Nat) - (0 : Nat) : Int) % 2 ^ 32 < 2 ^ 31 then ((2 ^ 31 : Nat) - (0 : Nat) : Int) % 2 ^ 32
      else ((2 ^ 31 : Nat) - (0 : Nat) : Int) % 2 ^ 32 - 2 ^ 32) ∧ (-2 ^ 31 : Int) ≤ 0 := by decide
theorem witness_TilesThatThePartHasNot : ({ part := .t256 } : State).part = .t256 ∧ 16 ≤ 16 ∧ 16 < 64 ∧
    ({ part := .t256 } : State).up = true ∧ 16 < 17 ∧ tileOf (tileBase 16) = some 16 ∧
    (68 < 272 ∧ 0 < 17 ∧ 4 * 68 ≤ 17 * 16 + 0 ∧ 17 * 16 + 0 < 4 * 68 + 4) := by decide

/-! ### The time plane -/

theorem witness_SecondsAndEpochs : (let s : State := { tb := { time := { s := 1, ns := 999999999, fine := 1023 } } }
    s.up = true ∧ s.now.wf = true ∧ s.now.ns ≠ 0) ∧
    (let s : State := { tb := { causes := 16, epoch := 15, age := 1 } }
     s.up = true ∧ s.tb.causes ≠ 0 ∧ s.tb.epoch < 16 ∧ s.now.ns = 0 ∧ s.tb.secAge ≠ s.tb.age) := by decide
theorem witness_LockStates : (let s : State := { tb := { st := .relock } }
    s.up = true ∧ (s.tb.st = .acquire ∨ s.tb.st = .relock)) ∧
    (let s : State := { tb := { st := .locked } }
     s.up = true ∧ (s.tb.st = .locked ∨ s.tb.st = .ret ∨ s.tb.st = .relock)) ∧
    (let s : State := { tb := { st := .waitRealign } }
     s.up = true ∧ s.tb.st = .waitRealign ∧ (-4000 : Int) ≤ 3999 ∧ (3999 : Int) ≤ 3999 ∧
       s.fld 0x1008 6 0 < ((3999 : Int) - s.tb.phaseErr).natAbs) ∧
    (let s : State := { tb := { st := .holdover } }
     s.up = true ∧ s.tb.st = .holdover ∧ (-4000 : Int) ≤ -4000 ∧ (-4000 : Int) ≤ 3999) ∧
    (let s : State := { tb := { st := .waitRealign, jumpAge := some 0, epoch := 15 } }
     s.up = true ∧ s.tb.st = .waitRealign ∧ s.tb.jumpAge = some 0 ∧ s.tb.setVal = none ∧ s.tb.epoch < 16 ∧
       s.tt.lastDone = none) ∧
    (let s : State := dev [] { chans := [(0, { fifo := [hit0] })] }
     0 < s.nTiles ∧ ∃ h ∈ (s.chan 0 0).fifo, s.tb.age - 4 ≤ h.age) := by decide
theorem witness_OscillatorReplicasAndWrites : ({} : State).up = true ∧
    (let s := dev [] { rep := 1, repLoad := true }
     s.up = true ∧ s.now.engine % (128 * 8192) = 0 ∧ 0 < s.nTiles ∧ (s.tile 0).powered = true ∧ (s.tile 0).pairLoad = false) ∧
    (let s := dev [] { rep := 1, pairLoad := true }
     (s.tile 0).powered = true ∧ (s.tile 0).pairLoad = true) ∧
    (let s := dev [] { chans := [(0, { fifo := [hit0] })] }
     ∃ h ∈ (s.chan 0 0).fifo, s.tb.checkAge ≤ h.age) ∧
    (let s : State := { cfg := { bracket := true } }
     s.up = true ∧ 63 < s.nTiles ∧ (s.tile 63).powered = true ∧ s.bracket = true) ∧
    (let s : State := { tb := { prof := some ⟨false, [⟨1, 1⟩], 0⟩ } }
     s.up = true ∧ s.tb.prof.isSome = true ∧ s.tb.prof = some ⟨false, ⟨1, 1⟩ :: [], 0⟩) ∧
    (let s : State := {}
     s.up = true ∧ s.fld 0x1000 1 0 ≠ 3 ∧ s.tb.prof = none ∧
       ((s.advance 1).setReg 0x1040 (BitVec.ofNat 32 (16 * (0 : BitVec 4).toNat))).hostTooFast = false) ∧
    (let s : State := { regs := [(0x1100, 0x7FFFFFFF)] }
     s.up = true ∧ s.tb.prof = none ∧
       ((s.advance 1).setReg 0x1040 (BitVec.ofNat 32 (16 * (0 : BitVec 4).toNat))).hostTooFast = true) := by decide
theorem witness_RampProfiles :
    (let s : State := { tb := { hostReq := some [⟨5, 1⟩] } }
     s.up = true ∧ s.tb.prof = none ∧ s.tb.autoReq = none ∧ s.tb.hostReq = some [⟨5, 1⟩] ∧ [(⟨5, 1⟩ : Seg)] ≠ []) ∧
    (let s : State := { tb := { hostReq := some [⟨5, 1⟩], autoReq := some ⟨5, 100, 0⟩ } }
     s.up = true ∧ s.tb.prof = none ∧ s.tb.autoReq = some ⟨5, 100, 0⟩ ∧ s.tb.hostReq.isSome = true) ∧
    (let s : State := { tb := { age := 128, prof := some ⟨true, [⟨-1, 1⟩], 0⟩ } }
     s.up = true ∧ s.tb.prof = some ⟨true, [⟨-1, 1⟩], 0⟩ ∧ s.tb.age ≤ 0 + (⟨-1, 1⟩ : Seg).dur * 128) ∧
    (let s : State := { tb := { age := 128, prof := some ⟨false, [⟨-1, 1⟩, ⟨2, 3⟩], 0⟩ } }
     s.up = true ∧ s.tb.prof = some ⟨false, ⟨-1, 1⟩ :: ⟨2, 3⟩ :: [], 0⟩ ∧ s.tb.age = 0 + (⟨-1, 1⟩ : Seg).dur * 128) ∧
    (let s : State := { tb := { acc := 976562499, prof := some ⟨false, [⟨1, 1⟩], 0⟩ } }
     s.up = true ∧ s.tb.prof = some ⟨false, ⟨1, 1⟩ :: [], 0⟩ ∧ s.tb.phaseStepIn = some 1 ∧ 0 ≤ s.tb.age ∧
       s.tb.age + 1 ≤ 0 + (⟨1, 1⟩ : Seg).dur * 128) ∧
    (let s : State := { tb := { autoReq := some ⟨5, 100, 0⟩, prof := some ⟨false, [⟨1, 1⟩], 0⟩ } }
     s.up = true ∧ s.tb.autoReq = some ⟨5, 100, 0⟩ ∧ s.tb.prof = some ⟨false, [⟨1, 1⟩], 0⟩) := by decide

/-! ### Time transfer -/

/-- An open exchange of identity 0. -/
def exch0 : Exch := { id := 0, t2 := {}, t2Age := 0, t2Epoch := 0, t2Moved := 0, quality := 0 }

theorem witness_TransferSlots :
    (let s : State := { lk := { dn := .slot }, regs := [(0x2000, 1)] }
     s.up = true ∧ s.lk.dn = .slot ∧ bit (s.rv 0x2000) 0 = true ∧ s.exch (BitVec.ofNat 8 (bits (0 : BitVec 52).toNat 51 44)) = none ∧
       s.tt.opened.length < 4 ∧ ((0 : BitVec 4) = 0 ∨ 6 ≤ (0 : BitVec 4).toNat) ∧ ((15 : BitVec 4) = 0 ∨ 6 ≤ (15 : BitVec 4).toNat)) ∧
    (let s : State := { lk := { dn := .slot }, regs := [(0x2000, 1)], tt := { opened := [exch0] } }
     s.up = true ∧ s.lk.dn = .slot ∧ bit (s.rv 0x2000) 0 = true ∧
       s.exch (BitVec.ofNat 8 (bits (0 : BitVec 52).toNat 51 44)) = some exch0 ∧ exch0.t3 = none ∧
       bits (0 : BitVec 52).toNat 39 10 < 1000000000 ∧ (0 : BitVec 52).getLsbD 40 = false) ∧
    (signed 32 (0xFF000000 : BitVec 32).toNat).natAbs ≤ 2 ^ 24 ∧ 2 ^ 24 < (signed 32 (0xFEFFFFFF : BitVec 32).toNat).natAbs ∧
    ({ tt := { hold := true } } : State).tt.hold = true := by decide
theorem witness_ExchangeCompletes :
    let x : Exch := { exch0 with t3 := some {}, t1s := some 0, t1nf := some (0, 0), t4s := some 0 }
    let s : State := { lk := { dn := .slot }, regs := [(0x2000, 1)], tt := { opened := [x] } }
    s.up = true ∧ s.lk.dn = .slot ∧ bit (s.rv 0x2000) 0 = true ∧ s.exch (BitVec.ofNat 8 (bits (0 : BitVec 52).toNat 51 44)) = some x ∧
      x.t2Opens = s.tb.opens ∧ x.t3 = some {} ∧ x.t1s = some 0 ∧ x.t1nf = some (0, 0) ∧ x.t4s = some 0 ∧
      (0 : BitVec 52).getLsbD 40 = false ∧ bits (0 : BitVec 52).toNat 39 10 < 1000000000 := by decide
theorem witness_TransferProgress :
    (let s : State := { lk := { lanes := [(0, { st := .up })] }, tt := { opened := [exch0] } }
     s.up = true ∧ s.tt.opened.find? (fun y => y.t3.isNone) = some exch0 ∧ s.exch exch0.id = some exch0 ∧ exch0.t1s = none ∧
       s.leadUp 0 = true ∧ s.usedLane 0 = true ∧ s.replayUsed + 8 ≤ 131072 ∧ (s.stream 5 0).wait = []) ∧
    (let s : State := { regs := [(0x2000, 3)], tb := { st := .locked, epoch := 15 }, tt := { stepAsk := some 5 } }
     s.up = true ∧ s.tt.stepAsk = some 5 ∧ s.ttServo = true ∧ s.tt.hold = false ∧ s.tb.setVal = none ∧ s.tb.realignVal = none ∧
       s.tb.causes = 0 ∧ s.tb.epoch < 16) ∧
    (let s : State := { tt := { lastDone := some 0 } }
     s.up = true ∧ s.tt.lastDone = some 0) := by decide

/-! ### Capture, channels, level monitors, queues -/

/-- A signal that rises far above any threshold, and one that stays below. -/
def up0 : Swing := { was := false, signal := 10 ^ 12, vref := 0 }
def low0 : Swing := { was := false, signal := -10 ^ 12, vref := 0 }

theorem witness_EdgeIsCapturedOrRefused :
    (let s := dev [(0x1003C0 + 0x400, 1)] {}
     s.up = true ∧ 0 < s.nTiles ∧ 15 < 16 ∧ s.captureRuns 0 = true ∧ s.captures 0 15 = true ∧
       (s.tile 0).ho.takesEdge 15 s.tb.age (8191 : BitVec 13).toNat = false ∧ (s.tile 0).ho.incoming 15 = false ∧
       low0.was = s.comparator 0 15 low0 ∧ up0.was ≠ s.comparator 0 15 up0 ∧ (s.chan 0 15).cross = none ∧
       (s.chan 0 15).level s.tb.age < 16) ∧
    (let s := dev [(0x100400, 1)] { chans := [(0, { fifo := List.replicate 16 hit0 })] }
     s.up = true ∧ 0 < s.nTiles ∧ 0 < 16 ∧ s.captureRuns 0 = true ∧ s.captures 0 0 = true ∧
       (s.tile 0).ho.takesEdge 0 s.tb.age (0 : BitVec 13).toNat = false ∧ (s.tile 0).ho.incoming 0 = false ∧
       up0.was ≠ s.comparator 0 0 up0 ∧ (s.chan 0 0).cross = none ∧ 16 ≤ (s.chan 0 0).level s.tb.age) ∧
    (let x : Crossing := Chan.before {} 0 true
     let s := dev [(0x100400, 1)] { chans := [(0, { fifo := [hit0], cross := some x })] }
     up0.was ≠ s.comparator 0 0 up0 ∧ (s.chan 0 0).cross = some x ∧
       (s.tb.age * 8192 + (122 : BitVec 13).toNat - x.key) * 1000 < 120 * 1024 ∧
       250 * 1024 ≤ (s.tb.age * 8192 + (256 : BitVec 13).toNat - x.key) * 1000) := by decide
theorem witness_HitsCommitOrAreRefused :
    (let s := dev [(0x101000, 0x10)] { chans := [(0, { fifo := [hit0] })] }
     s.up = true ∧ 0 < s.nTiles ∧ 0 < 17 ∧ s.captureRuns 0 = true ∧ (s.chan 0 0).oldest .lb = some hit0 ∧
       s.commitsFirst 0 0 .lb hit0 = true ∧ s.tb.age < hit0.due 14 ∧ s.qCap 0 (s.hitQ 0 hit0 .lb) ≠ 0 ∧
       0 < s.qFree 0 (s.hitQ 0 hit0 .lb) ∧ s.heldAt 0 (s.hitQ 0 hit0 .lb) = [] ∧ (s.advanceTo (hit0.due 4)).commitRoom 0 .lb = true) ∧
    (let s := dev [] { chans := [(0, { fifo := [hit0] })] }
     s.commitsFirst 0 0 .lb hit0 = true ∧ s.heldAt 0 (s.hitQ 0 hit0 .lb) = [] ∧ s.capFits 0 (s.hitQ 0 hit0 .lb) = false) ∧
    (let s := dev [] { chans := [(0, { fifo := [{ hit0 with sub := 1 }] }), (16, { fifo := [hit0] })] }
     16 < 17 ∧ 16 ≠ 0 ∧ (s.chan 0 0).oldest .lb = some { hit0 with sub := 1 } ∧ (s.chan 0 16).oldest .lb = some hit0 ∧
       s.hitQ 0 hit0 .lb = s.hitQ 0 { hit0 with sub := 1 } .lb ∧ hit0.age * 8192 + hit0.sub < hit0.age * 8192 + 1) ∧
    (let s : State := { tb := { age := 14 }, tiles := [(0, { chans := [(0, { fifo := [hit0] })] })] }
     s.up = true ∧ s.captureRuns 0 = true ∧ (s.chan 0 0).oldest .lb = some hit0 ∧ hit0.due 14 ≤ s.tb.age) := by
  refine ⟨⟨by decide, by decide, by decide, by decide, by decide, by decide, by decide, by decide, by decide, by decide, ?_⟩, by decide,
    by decide, by decide⟩
  unfold State.commitRoom CommitBuf.levelAt
  rw [show ((State.tile (State.advanceTo _ _) 0).commitBuf Dest.lb).level = 0 from rfl]
  simp
theorem witness_ChannelWrites :
    (let s : State := {}
     s.up = true ∧ 63 < s.nTiles ∧ 16 < 17 ∧ (s.tile 63).powered = true ∧ (s.chan 63 16).check.busy = false ∧
       s.offLine 63 16 = false ∧ (bit (1 : BitVec 32).toNat 0 = true → bits (1 : BitVec 32).toNat 3 2 = 0) ∧
       (bits (15 : BitVec 32).toNat 4 0 < 16 ∨ bits (15 : BitVec 32).toNat 4 0 = 31) ∧ bits (15 : BitVec 32).toNat 4 0 ≠ s.tapSel 63 ∧
       s.tapBusy 63 = false ∧ bit (5 : BitVec 32).toNat 0 = true ∧ bits (5 : BitVec 32).toNat 3 2 ≠ 0) ∧
    (let s := dev [(0x100040, 15)] {}
     s.up = true ∧ (bits (31 : BitVec 32).toNat 4 0 < 16 ∨ bits (31 : BitVec 32).toNat 4 0 = 31) ∧
       bits (31 : BitVec 32).toNat 4 0 ≠ s.tapSel 0 ∧ s.tapBusy 0 = false) ∧
    (let s := dev [] { ho := { st := .serving } }
     s.up = true ∧ (s.tile 0).powered = true ∧ s.tapBusy 0 = true) ∧
    (let s := dev [] { chans := [(0, { check := { busy := true } })] }
     s.up = true ∧ 0 < s.nTiles ∧ 0 < 17 ∧ (s.tile 0).powered = true ∧ bit (0 : BitVec 32).toNat 0 = false ∧
       (s.chan 0 0).check.busy = true) ∧
    (let s := dev [] { powered := false }
     s.up = true ∧ 0 < 64 ∧ 0 < 17 ∧ (s.tile 0).powered = false) := by decide
theorem witness_TieAndSwapChecks :
    (let s : State := {}
     s.up = true ∧ 63 < s.nTiles ∧ 16 < 17 ∧ (s.tile 63).powered = true ∧ (128 : BitVec 8) ≠ 0 ∧ s.checkRefusal 63 15 = none) ∧
    (let s := dev [(0x100400, 1)] {}
     s.up = true ∧ (s.tile 0).powered = true ∧ s.checkRefusal 0 0 = some 8) ∧
    (let k : Check := { busy := true, margin := 16 }
     let s := dev [] { chans := [(0, { check := k })] }
     s.up = true ∧ k.busy = true ∧ k.swap = false ∧
       (s.chan 0 0).check.takes (.tie [(false, 528, 0), (false, 496, 256), (true, 528, 256), (true, 496, 0)]) = true ∧
       checkReason (.tie [(false, 528, 0), (false, 496, 256), (true, 528, 256), (true, 496, 0)]) = none ∧
       checkReason (.tie [(false, 528, 0), (false, 496, 255), (true, 528, 256), (true, 496, 0)]) = some 3) ∧
    (let s := dev [] { chans := [(0, { check := { busy := true, swap := true } })] }
     let o : CheckOutcome := .swap [(0, 0), (1023, 0)] [(0, 256), (1023, 256)]
     s.up = true ∧ (s.chan 0 0).check.takes o = true ∧ transition false [(0, 0), (1023, 0)] = some none ∧
       transition true [(0, 256), (1023, 256)] = some none ∧ checkReason o = some 4) := by decide

/-- The decisions of the binary search of R125 for a transition between codes 511 and 512: all ones up to 511 in the normal
configuration, all zeros there in the swapped one. -/
def search0 (sw : Bool) : List (Nat × Nat) :=
  [0, 511, 767, 639, 575, 543, 527, 519, 515, 513, 512, 1023].map (fun c => (c, if decide (c < 512) == sw then 0 else 256))

theorem test_swap_transition : transition false (search0 false) = some (some 8184) ∧
    transition true (search0 true) = some (some 8184) ∧ checkReason (.swap (search0 false) (search0 true)) = none := by decide
theorem witness_LevelSamples :
    let s := dev [(0x100840, 1)] { lm := { mask := 1 } }
    s.up = true ∧ 0 < s.nTiles ∧ bit (s.rv (tileBase 0 + 0x840)) 0 = true ∧ (s.tile 0).lm.mask ≠ 0 := by decide
theorem witness_QueueCommands :
    (let s : State := {}
     s.up = true ∧ 63 < s.nTiles ∧ 255 < 256 ∧ (s.tile 63).powered = true ∧ s.flushRefused 63 255 = false) ∧
    (let s := dev [] { marks := [⟨0, 0, false, 0⟩] }
     s.up = true ∧ 0 < s.nTiles ∧ 0 < 256 ∧ (s.tile 0).powered = true ∧ s.flushRefused 0 0 = true) ∧
    (let s : State := { regs := [(0x101000, 0x10)], tb := { age := 8193 }, tiles := [(0, { qs := [(0, { wp := 1, rmark := 1 })] })] }
     s.up = true ∧ 0 < s.nTiles ∧ s.lbOld 0 = true ∧ s.pinned 0 = false) ∧
    (let s : State := { regs := [(0x101010, 0x109)], lk := { lanes := [(0, { st := .up })] }
                        tiles := [(0, { qmem := [(0, { fin := true })], qs := [(1, { wp := 1, rmark := 1 })] })] }
     s.up = true ∧ 0 < s.nTiles ∧ (s.tile 0).powered = true ∧ s.nextDrain 0 = some 1 ∧ s.takesResults 0 = true) ∧
    (let s : State := { regs := [(0x100080, 0x101), (0x101010, 0x109)], lk := { lanes := [(0, { st := .up })] }
                        tiles := [(0, { qmem := [(0, { fin := true })], qs := [(1, { wp := 1, rmark := 1 })] })] }
     s.up = true ∧ 0 < s.nTiles ∧ (s.tile 0).powered = true ∧ s.packOn 0 = true ∧ s.takesResults (64 + 0) = true ∧
       s.qCommitted 0 (s.tfld 0 0x80 7 0) ≠ 0) ∧
    (let s : State := { fco := [(7, { level := true })] }
     s.up = true ∧ 7 < 8 ∧ (s.pinFco 7).level = true ∧ s.fcoWanted 7 = false) := by decide

/-! ### Engine instructions -/

theorem witness_EngineArithmetic : (2 : BitVec 5).toNat < 3 ∧ 63 < 64 ∧
    (∀ op ∈ [EngOp.alu .divu 27 31 (.imm 0), .alu .divs 27 31 (.imm 0), .alu .remu 27 31 (.imm 0), .adiv 27 3 (.imm 0),
        .adivr 27 3 (.imm 0)], (at_ op).Ready 0 0 op ∧ (at_ op).getB 0 0 (.imm 0) = 0) := by
  unfold State.Ready State.Stands; decide
theorem witness_AluAndAccumulatorRows :
    (∀ f ∈ [AluOp.add, .sub, .and, .or, .xor, .shl, .shr, .sar, .min, .max, .mul, .divu, .divs, .remu, .seq, .slt, .sltu],
      (at_ (.alu f 27 31 (.imm 0xFFFFFF))).Ready 0 0 (.alu f 27 31 (.imm 0xFFFFFF))) ∧
    (∀ op ∈ [EngOp.ext 28 1 0xFFFFFF, .ins 1 2 2 5, .mac true 3 1 (.reg 31), .mac false 0 1 (.imm 5), .aset 1 2 (.imm 3), .aclr 3,
        .aadd 2 1, .aadda 1 1, .asuba 0 3, .ashl 1 2 (.imm 127), .asar 1 2 (.imm 128), .agetl 1 0, .ageth 27 3,
        .adiv 1 2 (.imm 0), .adivr 1 2 (.imm 3), .asqrt 1 2], (at_ op).Ready 0 0 op) := by
  unfold State.Ready State.Stands; decide
theorem witness_BranchRows :
    (∀ c ∈ [BrOp.eq, .ne, .lt, .ge, .ltu, .geu], (at_ (.br c 0 31 (-10))).Stands 0 0 (.br c 0 31 (-10))) ∧
    (∀ op ∈ [EngOp.brk true 1 0 2037, .brk false 1 31 5, .bbit true 1 31 5, .bbit false 1 0 5, .jmp (-10), .jal 27 2037, .jr 31],
      (at_ op).Stands 0 0 op) ∧
    (0 : Int) ≤ ((at_ (.jmp (-10))).eng 0 0).pc + (-10 : BitVec 24).toInt ∧
    (((at_ (.jmp 2037)).eng 0 0).pc : Int) + (2037 : BitVec 24).toInt < 2048 := by
  unfold State.Stands; decide
theorem witness_ContextStoreRows :
    (∀ op ∈ [EngOp.ld 1 31 0, .lda 3 31 62, .st 31 1 63, .sta 31 1 62, .gnext 27, .gstat 28], (at_ op).Ready 0 0 op) ∧
    (let s := at_ (.lda 3 31 62)
     s.liveWord 0 0 (s.getG 0 0 31 + (0 : BitVec 24).signExtend 64) ∧ s.liveWord 0 0 (s.getG 0 0 31 + (62 : BitVec 24).signExtend 64) ∧
       s.liveWord 0 0 (s.getG 0 0 31 + (62 : BitVec 24).signExtend 64 + 1) ∧
       8 ≤ (s.getG 0 0 31 + (62 : BitVec 24).signExtend 64).toNat % 64 ∧
       8 ≤ (s.getG 0 0 31 + (62 : BitVec 24).signExtend 64 + 1).toNat % 64) := by
  unfold State.Ready State.Stands State.liveWord; decide
/-- A hit item of instant 0. -/
def item0 : Item := { t := 0, info := 0, age := 0 }
theorem witness_TimerAndWaitRows :
    (∀ op ∈ [EngOp.nop, .tmset 31 (.imm 5), .tmclr, .checkpoint], (at_ op).Ready 0 0 op) ∧
    (let s := at_ .checkpoint
     s.hasOpen 0 0 (s.eng 0 0).ctx = false ∧ some (5 : W64) = some (s.getG 0 0 31 + s.getB 0 0 (.imm 5))) ∧
    (let s := dev [] { engAt running [.wait (-10)] with ctxs := [(0, { items := [item0] })] }
     s.Stands 0 0 (.wait (-10)) ∧ (item0.isHit = false → (s.eng 0 0).pc < 2047) ∧ 0 = (s.eng 0 0).ctx ∧ s.hasOpen 0 0 0 = false ∧
       (s.ctx 0 0).bar = 0 ∧ (s.ctx 0 0).retire = none ∧ (s.eng 0 0).inTrig = false ∧ (s.ctx 0 0).items = item0 :: [] ∧
       0 ≤ (s.eng 0 0).pc + (-10 : BitVec 24).toInt ∧ (s.eng 0 0).pc + (-10 : BitVec 24).toInt < 2048 ∧
       s.sliceOver 0 0 (some item0) = false ∧ s.headReady 0 0 0 item0 = true) ∧
    (let s := dev [] { engAt { running with sliceN := 32 } [.wait 5] with ctxs := [(0, { items := [item0] })] }
     s.Stands 0 0 (.wait 5) ∧ s.hasOpen 0 0 0 = false ∧ s.sliceOver 0 0 (some item0) = true) := by
  unfold State.Ready State.Stands; decide
/-- A device whose engine stands at an instruction on its output queue 0, of two words, open or not. -/
def atQueue (op : EngOp) (x : Queue) : State := dev [(0x101000, 1)] { engAt running [op] with qs := [(0, x)] }
theorem witness_PacketRows :
    (∀ op ∈ [EngOp.emit 1 (.imm 0), .emith 1 (.reg 31)],
      let s := atQueue op { opened := true }
      0 = (s.getB 0 0 (.imm 0)).toNat ∧ 0 = (s.getB 0 0 (.reg 31)).toNat ∧ 0 ∈ s.outQs 0 0 ∧ s.Ready 0 0 op ∧
        (s.queue 0 0).flushed = false ∧ (s.queue 0 0).doomed = false ∧ 0 < s.qFree 0 0 ∧ s.qDrain 0 0 = false) ∧
    (let s := atQueue (.emit 1 (.imm 0)) { wp := 2, opened := true }
     s.Ready 0 0 (.emit 1 (.imm 0)) ∧ s.qFree 0 0 = 0 ∧ (s.queue 0 0).flushed = false ∧ (s.queue 0 0).doomed = false) ∧
    (∀ d ∈ [true, false],
      let s := atQueue (.commit (.imm 0)) { wp := 1, opened := true, doomed := d }
      0 ∈ s.outQs 0 0 ∧ s.Ready 0 0 (.commit (.imm 0)) ∧ (s.queue 0 0).head = none ∧ (s.queue 0 0).opened = true ∧
        0 < ringDist (s.qCap 0 0) (s.queue 0 0).rmark (s.queue 0 0).wp) ∧
    (let s := atQueue (.rewind (.imm 0)) { wp := 1, opened := true }
     0 ∈ s.outQs 0 0 ∧ s.Ready 0 0 (.rewind (.imm 0)) ∧ (s.queue 0 0).opened = true) := by
  unfold State.Ready State.Stands; decide
theorem witness_ProgramFaults :
    (let s := at_ (.ld 1 31 64)
     (s.eng 0 0).ctx < 64 ∧ (s.ctx 0 (s.eng 0 0).ctx).retire = none ∧ s.Stands 0 0 (.ld 1 31 64) ∧
       ¬s.liveWord 0 0 (s.getG 0 0 31 + (64 : BitVec 24).signExtend 64)) ∧
    (let s := at_ (.st 31 1 7)
     s.Stands 0 0 (.st 31 1 7) ∧ s.liveWord 0 0 (s.getG 0 0 31 + (7 : BitVec 24).signExtend 64) ∧
       (s.getG 0 0 31 + (7 : BitVec 24).signExtend 64).toNat % 64 < 8) ∧
    (∀ op ∈ [EngOp.emit 1 (.imm 1), .emith 1 (.imm 1), .commit (.imm 1), .rewind (.imm 1)],
      (at_ op).Stands 0 0 op ∧ ((at_ op).getB 0 0 (.imm 1)).toNat ∉ (at_ op).outQs 0 0) ∧
    (∀ op ∈ [EngOp.wait 1, .checkpoint],
      let s := dev [] { engAt running [op] with qs := [(0, { opened := true })] }
      s.hasOpen 0 0 (s.eng 0 0).ctx = true ∧ s.Stands 0 0 op) ∧
    (let s := at_ (.jmp 2038)
     s.Stands 0 0 (.jmp 2038) ∧ 2048 ≤ (s.eng 0 0).pc + (2038 : BitVec 24).toInt) ∧
    (let s := dev [] (engAt { running with cycles := 65536 } [])
     s.up = true ∧ 0 < s.nTiles ∧ 0 < 9 ∧ s.engRuns 0 0 = true ∧ (s.eng 0 0).loaded = true ∧ (s.eng 0 0).sliceEnd = false ∧
       65536 ≤ (s.eng 0 0).cycles) := by
  unfold State.Stands State.liveWord; decide

/-! ### The slice dispatcher, engine control, faults and failover -/

/-- A hit record's item in the dispatcher's buffer. -/
def ditem0 : DItem := { seg := 0, t := 0, cls := 0, input := 0, age := 0, ctx := none, kind := 0, word := 0, word2 := 0 }
/-- A trigger gate. -/
def gate0 : Gate := { owner := 0, id := 0, code := 0, t0 := 0, t1 := 0, w0 := 0, w1 := 0, epoch := 0, first := 0, last := 0 }

theorem witness_HitsReachTheirContexts :
    let s : State := { tb := { age := 5, time := { ns := 40 } }, tiles := [(0,
      { cx := [(0, 0x80000)], engs := [(0, { running with safe := false, buf := [ditem0] })] })] }
    s.up = true ∧ 0 < s.nTiles ∧ 0 < 9 ∧ s.engRuns 0 0 = true ∧ s.unread 0 0 = 0 ∧ (s.eng 0 0).buf = ditem0 :: [] ∧
      s.releasable 0 0 ditem0 = true ∧ ditem0.kind = 0 ∧ ditem0.ctx = none ∧ (s.eng 0 0).safe = false ∧ (s.eng 0 0).ctxs.Nodup ∧
      0 ∈ (s.eng 0 0).ctxs ∧ s.gateKind 0 0 ≠ 3 ∧ s.takes 0 0 ditem0.seg ditem0.t = true := by decide
theorem witness_SlicesSwitch :
    let s : State := { tiles := [(0, { engs := [(0, { running with sliceEnd := true, safe := false, ctxs := [0, 63] })], ctxs := [(63, { trig := [item0] })] })] }
    s.up = true ∧ 0 < s.nTiles ∧ 0 < 9 ∧ s.engRuns 0 0 = true ∧ ((s.eng 0 0).loaded = false ∨ (s.eng 0 0).sliceEnd = true) ∧
      s.nextSlice 0 0 = some (63, true) ∧ s.bad2 (.context 0) (64 * 63) 64 = false ∧ 0 = (s.eng 0 0).ctx ∧
      (s.eng 0 0).loaded = true := by decide
theorem witness_GatesAndTimers :
    (let s := dev [] { engs := [(0, running)], ctxs := [(0, { grid := some 8192 })] }
     s.up = true ∧ 0 < s.nTiles ∧ 0 < 9 ∧ s.engRuns 0 0 = true ∧ (s.eng 0 0).epoch = s.tb.epoch ∧ 0 ∈ s.liveCtxs 0 0 ∧
       (s.ctx 0 0).grid = some 8192 ∧ s.takes 0 0 (s.eng 0 0).rseg 8192 = true ∧
       (∀ d ∈ s.liveCtxs 0 0, ∀ h, (s.ctx 0 d).grid = some h → s.takes 0 d (s.eng 0 0).rseg h = true → timeLe 8192 h = true)) ∧
    (let s := dev [] { engs := [(0, { running with safe := false })], ctxs := [(0, { timer := some 8193 })] }
     s.up = true ∧ 0 < s.nTiles ∧ 0 < 64 ∧ 0 < 9 ∧ s.engRuns 0 0 = true ∧ 0 ∈ (s.eng 0 0).ctxs ∧
       (∀ f, f < 9 → f ≠ 0 → 0 ∉ (s.eng 0 f).ctxs) ∧ (s.eng 0 0).epoch = s.tb.epoch ∧ (s.eng 0 0).safe = false ∧
       s.halted 0 0 = false ∧ (s.ctx 0 0).timer = some 8193 ∧ (∀ x ∈ (s.ctx 0 0).items, x.kind ≠ 3 ∧ x.kind ≠ 5)) := by
  refine ⟨⟨by decide, by decide, by decide, by decide, by decide, by decide, by decide, by decide, ?_⟩, by decide⟩
  intro d hd h hh _
  obtain rfl : d = 0 := by simpa using show d ∈ [0] from hd
  obtain rfl : 8192 = h := Option.some.inj hh
  decide
theorem witness_EngineSteps :
    (let s := dev [(0x101000, 1)] { engs := [(0, { running with marks := [0] })], ctxs := [(0, { bar := 3 })] }
     s.up = true ∧ 0 < s.nTiles ∧ 0 < 9 ∧ s.engRuns 0 0 = true ∧ (s.eng 0 0).marks ≠ [] ∧ (s.eng 0 0).marksSkip ≤ (s.eng 0 0).marksDone ∧
       (∀ c ∈ s.liveCtxs 0 0, (s.ctx 0 c).bar = 0 ∨ (s.ctx 0 c).bar = 3) ∧ 0 ∈ s.outQs 0 0 ∧ s.qCap 0 0 ≠ 0 ∧
       (s.eng 0 0).marks.length ≤ s.qFree 0 0) ∧
    (∀ o ∈ [true, false],
      let s := dev [(0x101000, 1)] { engs := [(0, running)], ctxs := [(0, { gates := [{ gate0 with ovf := o }] })] }
      s.up = true ∧ 0 < s.nTiles ∧ 0 < 64 ∧ 0 < 9 ∧ (s.tile 0).powered = true ∧ (s.tile 0).inReset = false ∧
        0 ∈ (s.eng 0 0).ctxs ∧ (∀ f, f < 9 → f ≠ 0 → 0 ∉ (s.eng 0 f).ctxs) ∧ (s.ctx 0 0).gates = { gate0 with ovf := o } :: [] ∧
        s.qFits 0 (s.inq 0 0) 2 = true) ∧
    (let s := dev [] { engs := [(0, running)], ctxs := [(0, { gates := [{ gate0 with ovf := true }] })] }
     s.qFits 0 (s.inq 0 0) 2 = false) ∧
    (let s := dev [] { engs := [(0, { running with sliceEnd := true, ckptReq := true })] }
     s.up = true ∧ s.engRuns 0 0 = true ∧ s.atBoundary 0 0 = true ∧ s.ckptDue 0 0 = true ∧ (s.eng 0 8).serving = 15) ∧
    (let s := dev [] { engs := [(0, { running with st := 2, replay := 3, delivered := 3 })] }
     s.up = true ∧ s.bracket = false ∧ s.engRuns 0 0 = true ∧ (s.eng 0 0).st = 2 ∧ (s.eng 0 0).replay ≤ (s.eng 0 0).delivered ∧
       (s.eng 0 0).voting = false) := by
  refine ⟨?_, ?_, ?_, ?_, ?_⟩ <;> decide
theorem witness_EngineControl :
    (let s := dev [] { engs := [(0, running)] }
     s.up = true ∧ 0 < s.nTiles ∧ 0 < 9 ∧ (s.tile 0).powered = true ∧ (s.eng 0 0).st ≠ 5 ∧ s.pw.soft = false ∧
       0 = s.pairRunner 0 0 ∧ s.engRuns 0 0 = true) ∧
    (let s := dev [] { engs := [(0, { st := 5 })] }
     s.up = true ∧ 0 < s.nTiles ∧ 0 < 8 ∧ (s.tile 0).powered = true ∧ (s.eng 0 0).st = 5 ∧ (s.eng 0 0).test = false) ∧
    (let s : State := {}
     s.up = true ∧ 63 < s.nTiles ∧ 7 < 8 ∧ (s.tile 63).powered = true ∧ (s.eng 63 7).st ≠ 5) := by decide
theorem witness_EngineFaults :
    (let s := dev [] { engs := [(0, running)], ctxs := [(0, { items := [item0] })] }
     s.up = true ∧ 0 < s.nTiles ∧ 0 < 9 ∧ s.engRuns 0 0 = true ∧ s.bracket = false ∧ (s.eng 0 0).st = 1 ∧
       (s.eng 0 0).faultAge = none ∧ 0 ∈ s.liveCtxs 0 0 ∧ (item0 ∈ (s.ctx 0 0).items ∨ item0 ∈ (s.ctx 0 0).trig)) ∧
    (let s : State := { tb := { age := 125000000 }, tiles := [(0, { engs := [(0, { running with faultAge := some 0 })] })] }
     s.engRuns 0 0 = true ∧ ∀ a ∈ (s.eng 0 0).faultAge, 125000000 ≤ s.tb.age - a) ∧
    (let s : State := { tb := { age := 124999999 }, tiles := [(0, { engs := [(0, { running with faultAge := some 0 })] })] }
     s.engRuns 0 0 = true ∧ ∃ a ∈ (s.eng 0 0).faultAge, s.tb.age - a < 125000000) ∧
    (let s := dev [] { engs := [(0, { running with st := 2 })] }
     s.engRuns 0 0 = true ∧ (s.eng 0 0).st = 2) ∧
    (let s := dev [] { engs := [(0, { st := 3 })] }
     s.up = true ∧ 0 < s.nTiles ∧ 0 < 8 ∧ (s.eng 0 0).st = 3 ∧ (s.eng 0 8).serving = 15) ∧
    (let s := dev [] { engs := [(0, { st := 3 }), (8, { serving := 1 })] }
     (s.eng 0 0).st = 3 ∧ (s.eng 0 8).serving ≠ 15) ∧
    (let s := dev [] { engs := [(0, { st := 5, test := true }), (8, { st := 1, serving := 0 })] }
     s.up = true ∧ 0 < s.nTiles ∧ 0 < 8 ∧ (s.eng 0 0).test = true ∧ (s.eng 0 8).serving = 0) ∧
    (let s := dev [] { engs := [(0, { st := 5, test := true })] }
     (s.eng 0 0).test = true ∧ (s.eng 0 8).serving ≠ 0 ∧ s.bracket = false) := by decide
theorem witness_LockstepPairs :
    (let s : State := { cfg := { bracket := true }, tiles := [(0, { engs := [(0, running)] })] }
     s.up = true ∧ 0 < s.nTiles ∧ 0 < 4 ∧ s.bracket = true ∧ s.engRuns 0 (2 * 0) = true ∧ (s.eng 0 (2 * 0)).voting = false ∧
       (s.eng 0 (2 * 0)).mismatched = false ∧ LockCopy.even ≠ .spare ∧ (s.eng 0 8).serving = 15) ∧
    (let s : State := { cfg := { bracket := true }, tiles := [(0, { engs := [(0, { running with mismatched := true }), (8, { serving := 2 })] })] }
     s.engRuns 0 (2 * 0) = true ∧ (s.eng 0 (2 * 0)).voting = false ∧ (s.eng 0 (2 * 0)).mismatched = true ∧ (s.eng 0 8).serving ≠ 15) ∧
    (let s : State := { cfg := { bracket := true }, tiles := [(0, { engs := [(0, { running with voting := true }), (8, { serving := 0 })] })] }
     s.engRuns 0 (2 * 0) = true ∧ (s.eng 0 (2 * 0)).voting = true) := by decide

/-! ### Triggered read-out, prompt outputs, links -/

/-- A pending trigger, its fragment of tile 0 and its event. -/
def trig0 : Trig :=
  { ord := 1, id := 0, code := 0, flags := 0, start := {}, epoch := 0, arrAge := 0, w0 := 0, w1 := 8, d := 128, offset := 0, width := 8, cap := 0, topo := 1 }
def frag0 : Frag := { tile := 0, count := 1, resv := 1, pos := 0, last := 1 }
def event0 : Event := { trig := trig0, size := 7, frags := [frag0], tacc := 0 }

theorem witness_TriggersArrive :
    (0 < 10 ^ 9 ∧ 999999999 < 10 ^ 9 ∧ 2 ^ 24 - 1 < 2 ^ 24 ∧ 2 ^ 24 - 1 ≤ 999999999 ∧ 0 < 2 ^ 24 - 1) ∧
    (let s : State := { lk := { dn := .slot } }
     s.up = true ∧ s.lk.dn = .slot ∧ bits (0x4000000000000 : BitVec 56).toNat 55 52 < 12 ∧
       bits (0x4000000000000 : BitVec 56).toNat 51 50 ≠ 0 ∧ bits (0 : BitVec 56).toNat 51 50 = 0 ∧
       bit (s.trgCap (s.trigOf (0 : BitVec 56).toNat).code) 16 = false ∧
       s.arrivalReason (s.trigOf (0 : BitVec 56).toNat) (trigLatency s.now.ns (bits (0 : BitVec 56).toNat 23 0)) = some 2) ∧
    (let s : State := { lk := { dn := .slot }, regs := [(0x61B4, 0x10000)], tb := { time := { ns := 65529 } } }
     bits (0xB0000000000000 : BitVec 56).toNat 55 52 < 12 ∧ bits (0xB0000000000000 : BitVec 56).toNat 51 50 = 0 ∧
       bit (s.trgCap (s.trigOf (0xB0000000000000 : BitVec 56).toNat).code) 16 = true ∧
       65528 < trigLatency s.now.ns (bits (0xB0000000000000 : BitVec 56).toNat 23 0)) ∧
    (let s : State := { lk := { dn := .slot }, regs := [(0x6104, 0x10000)], pw := { st := .run } }
     s.up = true ∧ s.lk.dn = .slot ∧
       s.arrivalReason (s.trigOf (0 : BitVec 56).toNat) (trigLatency s.now.ns (bits (0 : BitVec 56).toNat 23 0)) = none) := by
  decide
/-- The state in which the pending trigger of `s` is decided: its counts have been taken. -/
def decides (s : State) (p : Trig) : State :=
  let at_ := max (max s.eb.clock p.d) (s.tb.age * 8 : Nat)
  forKeys (topoTiles p.topo) (fun v (z : State) => z.scanReads v p)
    ({ s.advanceTo ((at_ + 7) / 8).toNat with eb := { s.eb with pending := [], clock := at_ + 250 } })
theorem witness_TriggersAreDecided :
    (let s : State := { eb := { pending := [trig0] }, pw := { st := .run } }
     s.up = true ∧ s.eb.pending = trig0 :: [] ∧
       (decides s trig0).decideReason trig0 (eventSize ((decides s trig0).newFrags trig0)) = none) ∧
    (let p : Trig := { trig0 with doom := some 6 }
     let s : State := { eb := { pending := [p] } }
     s.eb.pending = p :: [] ∧ (decides s p).decideReason p (eventSize ((decides s p).newFrags p)) = some 6) := by decide
theorem witness_EventsAreBuilt :
    (let f : Frag := { frag0 with resv := 2, count := 2, last := 2 }
     let e : Event := { event0 with frags := [f] }
     let s : State := { regs := [(0x101000, 0x10)], eb := { events := [e] } }
     s.up = true ∧ 0 < s.nTiles ∧ (s.tile 0).powered = true ∧ (s.tile 0).inReset = false ∧ f.done = false ∧
       findFrag 0 (fun f => (f.done && decide (2 ≤ f.status) && !f.late) || !f.done) s.eb.events = some (e, f) ∧
       f.full = false ∧ parity (s.qWord 0 (s.lbq 0) f.pos).w = (s.qWord 0 (s.lbq 0) f.pos).par ∧
       ({ f with pos := ringAdd (s.qCap 0 (s.lbq 0)) f.pos 1 } : Frag).full = false) ∧
    (let f : Frag := { frag0 with pos := 1 }
     let s : State := { eb := { events := [{ event0 with frags := [f] }] } }
     findFrag 0 (fun f => !f.done) s.eb.events = some ({ event0 with frags := [f] }, f) ∧ f.full = true) ∧
    (let e : Event := { event0 with frags := [{ frag0 with words := [0], done := true }] }
     let s : State := { eb := { events := [e] } }
     s.up = true ∧ s.eb.events.find? (fun e => !e.sent) = some e ∧ (∀ f ∈ e.frags, f.done = true) ∧ ∀ k, s.bad2 .event k 1 = false) := by
  refine ⟨by decide, by decide, by decide, by decide, by decide, fun _ => rfl⟩
theorem witness_PromptOutputs : ({} : State).up = true ∧ 15 < 16 := by decide
theorem witness_ReceiverAndRefusals :
    (let s : State := { lk := { dn := .noSignal } }
     s.up = true ∧ s.lk.dn = .noSignal) ∧
    (let s : State := { lk := { dn := .cdr } }
     s.up = true ∧ s.lk.dn = .cdr) ∧
    (let s : State := { lk := { dn := .char } }
     s.up = true ∧ s.lk.dn = .char ∧ s.fld 0x1000 1 0 = 0) ∧
    (let s : State := { lk := { dn := .char }, regs := [(0x1000, 1)] }
     s.up = true ∧ s.lk.dn = .char ∧ s.fld 0x1000 1 0 ≠ 0) ∧
    (let s : State := { lk := { dn := .slot }, regs := [(0x1000, 2)] }
     s.up = true ∧ s.lk.dn = .slot ∧ s.fld 0x1000 1 0 ≠ 0) ∧
    (let s : State := { lk := { dn := .slot }, tb := { st := .locked } }
     s.up = true ∧ s.lk.dn = .slot ∧ s.fld 0x1000 1 0 = 0 ∧ s.tb.st = .locked) ∧
    (let s : State := { lk := { dn := .slot } }
     s.up = true ∧ s.lk.dn = .slot ∧ 6 ≤ (6 : BitVec 4).toNat ∧ Nat.land (1 : BitVec 52).toNat 0xF000000FFFFFF ≠ 0 ∧ (1 : BitVec 52) ≠ 0 ∧
       (Nat.land (1 : BitVec 48).toNat 0x1F000000FFFF ≠ 0 ∨ s.usedLane (bits (1 : BitVec 48).toNat 47 45) = false ∨
         s.leadOf (bits (1 : BitVec 48).toNat 47 45) ≠ bits (1 : BitVec 48).toNat 47 45) ∧
       s.issued (bits (0 : BitVec 48).toNat 47 40) (bits (0 : BitVec 48).toNat 39 32) = false) ∧
    (let s : State := { lk := { dn := .slot }, cfg := { bracket := true } }
     s.leadOf (bits (0x200000000000 : BitVec 48).toNat 47 45) ≠ bits (0x200000000000 : BitVec 48).toNat 47 45) := by decide
/-- A frame of class 3 that waits for its acknowledgement on lane 0. -/
def unacked0 : Unacked := { lseq := 0, frame := { cls := 3, idx := 0, seq := 0, words := [0] }, sent := 0 }
theorem witness_FastCommands :
    (let s : State := { lk := { dn := .slot, lanes := [(0, { st := .up, next := 1, unack := [unacked0] })] } }
     s.up = true ∧ s.lk.dn = .slot ∧ Nat.land (0 : BitVec 52).toNat 0xF000000FFFFFF = 0 ∧ 0 = bits (0 : BitVec 48).toNat 47 45 ∧
       0 = bits (0 : BitVec 48).toNat 39 16 ∧ Nat.land (0 : BitVec 48).toNat 0x1F000000FFFF = 0 ∧ s.usedLane 0 = true ∧
       s.leadOf 0 = 0 ∧ s.awaits 0 0 = true) ∧
    (let s : State := { lk := { dn := .slot, pllLock := true, lanes := [(0, { st := .train })] } }
     Nat.land (0 : BitVec 48).toNat 0x1FFFFFFFFFFF = 0 ∧ (∃ k ∈ s.members 0, s.laneSt k = .train) ∧ s.lk.pllLock = true) ∧
    (let s : State := { lk := { dn := .slot } }
     2 = bits (0x020500010000 : BitVec 48).toNat 47 40 ∧ 5 = bits (0x020500010000 : BitVec 48).toNat 39 32 ∧ s.issued 2 5 = true ∧
       bits (0x020500010000 : BitVec 48).toNat 15 0 = 0 ∧ bits (0x020500010000 : BitVec 48).toNat 31 16 ≠ 0 ∧
       bits (0x020500000000 : BitVec 48).toNat 31 0 = 0) := by decide
theorem witness_FramesAreSent :
    (let s : State := { lk := { lanes := [(0, { st := .up, next := 1, unack := [{ unacked0 with waiting := true }] })] } }
     s.up = true ∧ 0 < 8 ∧ s.leads.contains 0 = true ∧ s.leadUp 0 = true ∧
       s.resendNext 0 = some { unacked0 with waiting := true } ∧ ∀ a, s.bad2 .replay a 1 = false) ∧
    (let s : State := { lk := { lanes := [(7, { st := .up })], streams := [(streamKey 4 0, { wait := [{ words := [7] }] })] } }
     s.up = true ∧ 7 < 8 ∧ s.leads.contains 7 = true ∧ s.leadUp 7 = true ∧ s.resendNext 7 = none ∧ s.nextLane = some 7 ∧
       s.stranded 7 = none ∧
       [3, 4, 5, 6, 7].find? (fun c => (s.advanceTo (s.lane 7).free).canSend 7 c 0 && (s.advanceTo (s.lane 7).free).tier1Goes 7 c) =
         some 4 ∧
       s.nextFrame 4 0 = some ({ cls := 4, idx := 0, seq := 0, words := [7] }, [])) ∧
    (let s : State := { lk := { lanes := [(0, { st := .up })], streams := [(streamKey 1 0, { wait := [{ words := [7], ev := 1 }] })] } }
     s.leads.contains 0 = true ∧ s.leadUp 0 = true ∧ s.resendNext 0 = none ∧ s.nextLane = some 0 ∧ s.stranded 0 = none ∧
       (∀ c ∈ [3, 4, 5, 6, 7], (s.advanceTo (s.lane 0).free).canSend 0 c 0 = false ∨
         (s.advanceTo (s.lane 0).free).tier1Goes 0 c = false) ∧
       s.canSend 0 1 0 = true ∧ (∀ j, j < 128 → s.canSend 0 2 j = false) ∧
       s.nextFrame 1 0 = some ({ cls := 1, idx := 0, seq := 0, words := [7], ev := 1 }, [])) ∧
    (let s : State := { lk := { lanes := [(0, { st := .up }), (1, { st := .up })] } }
     1 < 8 ∧ s.leads.contains 1 = true ∧ s.leadUp 1 = true ∧ s.resendNext 1 = none ∧ s.nextLane = some 0 ∧ 0 ≠ 1) := by
  refine ⟨⟨by decide, by decide, by decide, by decide, by decide, fun _ => rfl⟩, by decide, by decide, by decide⟩
theorem witness_UplinkChanges :
    (let s : State := { lk := { streams := [(streamKey 2 127, { opened := some { words := [7], since := 0 } })] } }
     s.up = true ∧ 127 < 128 ∧ (s.stream 2 127).opened = some { words := [7], since := 0 }) ∧
    (let s : State := { lk := { pllLock := true } }
     s.up = true ∧ s.lk.pllLock = true ∧ 7 < 8 ∧ s.usedLane 7 = true ∧ (s.lane 7).st = .down ∧ s.pw.soft = false) ∧
    (let s : State := { cfg := { bracket := true }, lk := { lanes := [(6, { st := .up }), (7, { st := .up })] } }
     s.up = true ∧ 7 < 8 ∧ 6 = (if 7 % 2 = 0 then 7 + 1 else 7 - 1) ∧ s.pairs = true ∧ s.laneSt 7 = .up ∧ s.laneSt 6 = .up) := by
  decide
theorem witness_PausesAndStalls :
    (let s : State := {}
     s.up = true ∧ 3 < 4 ∧ s.fciHigh 3 = none) ∧
    (let s : State := { regs := [(0x3070, 0xFF)], lk := { fci := [(3, some 0)] } }
     s.up = true ∧ 3 < 4 ∧ s.fciHigh 3 = some 0 ∧ s.fciMapsAny 3 = true ∧ s.lk.stallAge = none) ∧
    (let s : State := { lk := { paused := [(streamKey 2 5, some 0)] } }
     s.up = true ∧ streamKey 2 5 < 1024 ∧ s.pauseOf 2 5 = some 0 ∧ s.lk.stallAge = none) ∧
    (let s : State := { lk := { lanes := [(0, { st := .up, next := 1, unack := [unacked0] })] } }
     s.up = true ∧ 0 < 8 ∧ s.leads.contains 0 = true ∧ s.leadUp 0 = true ∧ unacked0 ∈ (s.lane 0).unack ∧ unacked0.exempt = false ∧
       (∀ v ∈ (s.lane 0).unack, v.exempt = false → unacked0.sent ≤ v.sent) ∧ s.lk.stallAge = none) ∧
    (let s : State := { lk := { stallAge := some 0 } }
     s.up = true ∧ s.lk.stallAge = some 0 ∧ s.stallNow = false) := by decide

/-! ### Calibration, proof runs, handovers -/

/-- A proof run of channel 0 of tile 0 in a phase, off-line. -/
def run0 (phase : Nat) : ProofRun := { tile := 0, chan := 0, internal := false, hits := 0, passes := 1, phase := phase, pass := 1, swapOk := true }
/-- A pass with the same count in each bin, and one with a crossing too few. -/
def pass0 : PassData := { hist := List.replicate 1024 1024, harm := 0, ringOk := true, temp := 0 }
def pass1 : PassData := { pass0 with hist := 1023 :: List.replicate 1023 1024 }

theorem witness_TrackingAndRefresh :
    (let s : State := {}
     s.up = true ∧ s.supRuns = true ∧ bit (s.rv 0x8018) 8 = true ∧ s.sup.restarting = false ∧ s.sup.trackHold = false) ∧
    (let s := dev [] {}
     63 < s.nTiles ∧ (s.tile 63).powered = true ∧ 16 < 17 ∧ (s.chan 63 16).trimHeld = false ∧ (s.chan 63 16).lost = none ∧
       82 < (if 16 = 16 then 83 else 67) ∧ 66 < (if 15 = 16 then 83 else 67)) ∧
    (let s : State := { phase := .running, regs := [(0x1007C0, 1)], tiles := [(0, { chans := [(15, { edges := 1 })] })] }
     s.up = true ∧ s.supRuns = true ∧ s.phase = .running ∧ (s.tile 0).powered = true ∧ 15 < 16 ∧ s.chEn 0 15 = true ∧
       s.spareServesInput 0 15 = false ∧ (s.chan 0 15).edges ≠ (s.chan 0 15).sheet.lastEdges ∧ (s.chan 0 15).edges < 2 ^ 32) := by
  decide
theorem witness_ProofRuns :
    (let s : State := {}
     s.up = true ∧ s.cal.run = none ∧ bits (0x34000 : BitVec 18).toNat 14 12 ≤ 4 ∧ 0 = bits (0x34000 : BitVec 18).toNat 5 0 ∧
       0 = bits (0x34000 : BitVec 18).toNat 10 6 ∧ s.proofRefusal 0 0 (bit (0x34000 : BitVec 18).toNat 11) = some 21) ∧
    (let s : State := { cal := { run := some (run0 3) } }
     s.up = true ∧ s.cal.run.isSome = true ∧ s.cal.run = some (run0 3) ∧ ((run0 3).phase = 2 ∨ (run0 3).phase = 3) ∧
       (run0 3).handed = false ∧ s.fld 0x8000 14 12 ≤ 4) ∧
    ((run0 3).phase = 3 ∧ (run0 3).passes ≤ (run0 3).pass) ∧
    (pass0.hist.length = 1024 ∧ pass0.hist.sum = 2 ^ (20 + (run0 3).hits)) ∧
    (pass1.hist.length = 1024 ∧ (run0 3).internal = false ∧ pass1.hist.sum < 2 ^ (20 + (run0 3).hits) ∧
      passFault pass1 (run0 3).internal (run0 3).swapOk = some 1) ∧
    (let s : State := { cal := { run := some (run0 5) }, cfg := { job := some .ageingA } }
     s.up = true ∧ s.cal.run = some (run0 5) ∧ (run0 5).phase = 5 ∧ (run0 5).handed = false ∧ (run0 5).failed = none ∧
       s.storeOwn = true) := by
  have h2 : pass1.hist.sum < 2 ^ 20 := by decide +kernel
  refine ⟨by decide +kernel, by decide, by decide, by decide +kernel, ⟨by decide +kernel, rfl, h2, ?_⟩, by decide⟩
  unfold passFault passTotal
  rw [if_pos h2]
theorem witness_Handovers :
    (let s : State := {}
     s.up = true ∧ 63 < s.nTiles ∧ (s.tile 63).powered = true ∧ (1 : BitVec 16) ≠ 0 ∧ s.hoRefused 63 (15 : BitVec 4).toNat false = false ∧
       s.hoRefused 63 (15 : BitVec 4).toNat true = true) ∧
    (let s : State := { regs := [(0x100090, 0x10000)], tiles := [(0, { ho := { req := some (0, false, 1) } })] }
     s.up = true ∧ 0 < s.nTiles ∧ (s.tile 0).powered = true ∧ s.tfld 0 0x90 31 16 ≠ 0 ∧
       ((s.tile 0).ho.overlap = true ∨ (s.tile 0).ho.req.isSome = true) ∧ s.cal.run = none ∧
       (s.tile 0).ho.req = some (0, false, 1)) ∧
    (let s := dev [] { ho := { st := .toSpare } }
     s.up = true ∧ (s.tile 0).ho.overlap = true ∧ hoEdgesOk [⟨0, true, false⟩, ⟨0, false, false⟩, ⟨2047, true, false⟩] = true ∧ s.cal.run = none) ∧
    (let s := dev [] { ho := { release := true } }
     s.up = true ∧ 0 < s.nTiles ∧ (s.tile 0).ho.release = true) := by decide

/-! ### Configuration -/

/-- The bytes of an image with the key [], of a kind and profile (R395, R400), with its records. -/
def image (kind profile : Nat) (recs : List Byte) (n : Nat) : List Byte :=
  let h := leBytes 4 0x474D4954 ++ leBytes 2 1 ++ leBytes 1 kind ++ leBytes 1 profile ++ leBytes 4 1 ++ leBytes 4 (64 + recs.length) ++
    leBytes 2 0x1024 ++ leBytes 2 0 ++ leBytes 4 n ++ leBytes 8 0
  h ++ hmacSha256 [] (h ++ recs) ++ recs

/-- A record of one chip register (R397, R398), as bytes and as read. -/
def recBytes (a v : Nat) : List Byte :=
  let b := leBytes 1 0 ++ leBytes 1 0 ++ leBytes 2 4 ++ leBytes 4 a ++ leBytes 8 0 ++ leBytes 4 v
  b ++ leBytes 4 (crc32c b)
def recOf (a v : Nat) : Rec := { mode := 0, block := 0, off := a, tiles := 0, pay := [BitVec.ofNat 64 v] }

/-- A state from reset values with a staged update. -/
def staged (profile a v : Nat) : State :=
  { key := [], cfg := { noImage := false, staged := writeBytes [] 0 (image 2 profile (recBytes a v) 1), stagedTop := 88 } }
/-- The state at which PREPARE checks it. -/
def checked (s : State) : State := (s.advance 1).setField 0x7000 (BitVec.ofNat 32 s.cfgDest)
/-- A full image without records. -/
def image0 : Image := { kind := 1, profile := 0, seq := 1, recs := [] }
/-- A state whose slot A holds that image, being written. -/
def slotted : State := { key := [], nv := writeBytes [] 64 (image 1 0 [] 0), cfg := { slotTo := some false } }
/-- A state whose boot buffer holds that image, with a reload under way. -/
def booted : State := { key := [], cfg := { load := some 2, bootTop := 64, boot := writeBytes [] 0 (image 1 0 [] 0) } }

theorem image0_checks {s : State} {b : List Byte} {n : Nat} (h : s.readImage b 1 n = .ok image0) (hr : s.regs = [])
    (hp : s.part = .t1024) (ht : s.tiles = []) : s.checkFull b n = .ok image0 := by
  have e : s.stagedFull image0 = { s with cfg := { s.cfg with bracket := false } } := by
    unfold State.stagedFull
    rw [State.bare_reset hr ht]; rfl
  unfold State.checkFull
  simp only [h]
  rw [State.loadRule_reset (by rw [e]; exact hr) (by rw [e]; exact hp) (by rw [e]; exact ht)]

theorem witness_ConfigurationCommands :
    (let s : State := { cfg := { luState := 2 } }
     s.up = true ∧ s.cfgDest ≠ 3 ∧ s.cfgBusy = true) ∧
    (slotted.up = true ∧ slotted.cfgDest ≠ 3 ∧ slotted.cfgBusy = false ∧ slotted.cfg.slotTo = some false ∧
      (checked slotted).checkFull (readBytes slotted.nv (slotBase false + 64) (max 64 (min slotMax (readW32 slotted.nv (slotBase false + 76)).toNat)))
        slotMax = .ok image0) ∧
    (let s : State := { cfg := { slotTo := some true } }
     s.cfg.slotTo = some true ∧ (checked s).checkFull (readBytes s.nv (slotBase true + 64)
       (max 64 (min slotMax (readW32 s.nv (slotBase true + 76)).toNat))) slotMax = .error (1, 0)) ∧
    (let s : State := {}
     s.up = true ∧ s.cfgDest ≠ 3 ∧ s.cfgBusy = false ∧ s.cfg.slotTo = none ∧ false = s.cfg.slotTo.getD s.slotTarget ∧
       s.reloadReady = true ∧ s.cfgDest ≠ 1 ∧ s.luHeld = false ∧ s.cfg.noImage = true ∧ (s.cfg.luState = 0 ∨ s.cfg.luState = 5 ∨ s.cfg.decided = true)) ∧
    (let s : State := { pw := { st := .run } }
     s.cfgBusy = false ∧ s.reloadReady = false) ∧
    (let s : State := { regs := [(0x7018, 1)], cfg := { luState := 3 } }
     let f : Time := { s := s.rv 0x7018, ns := s.fld 0x701C 29 0 }
     s.up = true ∧ s.cfgDest ≠ 3 ∧ s.cfg.luState = 3 ∧ f.engine % 1048576 ≠ 0) ∧
    (let s : State := { regs := [(0x7018, 16)], cfg := { luState := 3 } }
     let f : Time := { s := s.rv 0x7018, ns := s.fld 0x701C 29 0 }
     let d := f.diff ((s.advance 1).now.addNs (-8))
     s.cfg.luState = 3 ∧ f.engine % 1048576 = 0 ∧ 102400000 ≤ d ∧ d ≤ 61440000000000 ∧ s.cfg.luState ≠ 0 ∧ s.cfg.luState ≠ 5 ∧
       s.cfg.decided = false) := by
  refine ⟨by decide, ⟨by decide, by decide, by decide, by decide, ?_⟩, ⟨by decide, ?_⟩, by decide +kernel, by decide, by decide +kernel,
    by decide +kernel⟩
  · exact image0_checks (by decide +kernel) (by decide) rfl rfl
  · have h : ∀ b : List Byte, b = readBytes [] (slotBase true + 64) 64 → ∀ s : State, s.part = .t1024 → s.checkFull b slotMax = .error (1, 0) := by
      intro b hb s hs
      have e : headBad b 1 slotMax 0x1024 = some 1 := by subst hb; decide +kernel
      unfold State.checkFull State.readImage
      rw [hs]
      simp only [Part.code, e]
    exact h _ (by decide +kernel) _ (by decide +kernel)
theorem witness_Prepare :
    (let s := staged 0 0x1008 0x10000009
     s.up = true ∧ s.cfgDest ≠ 3 ∧ s.cfgBusy = false ∧ s.luHeld = false ∧ s.cfg.noImage = false ∧ s.cfg.stagedTop ≠ 0 ∧ s.cfg.luState ≠ 5 ∧
       (checked s).readImage (readBytes s.cfg.staged 0 (max 64 (min 65536 (readW32 s.cfg.staged 12).toNat))) 2 65536 =
         .ok { kind := 2, profile := 0, seq := 1, recs := [recOf 0x1008 0x10000009] } ∧
       (checked s).luBreaks ((checked s).stagedUpd { kind := 2, profile := 0, seq := 1, recs := [recOf 0x1008 0x10000009] })
         (recOf 0x1008 0x10000009) = false) ∧
    (let s := staged 0 0x300C 0x5a3d
     (checked s).readImage (readBytes s.cfg.staged 0 (max 64 (min 65536 (readW32 s.cfg.staged 12).toNat))) 2 65536 =
         .ok { kind := 2, profile := 0, seq := 1, recs := [recOf 0x300C 0x5a3d] } ∧
       (checked s).luBreaks ((checked s).stagedUpd { kind := 2, profile := 0, seq := 1, recs := [recOf 0x300C 0x5a3d] })
         (recOf 0x300C 0x5a3d) = true) ∧
    (let s := staged 1 0x1008 0x10000009
     (checked s).readImage (readBytes s.cfg.staged 0 (max 64 (min 65536 (readW32 s.cfg.staged 12).toNat))) 2 65536 =
         .ok { kind := 2, profile := 1, seq := 1, recs := [recOf 0x1008 0x10000009] } ∧ decide ((1 : Nat) = 1) ≠ s.cfg.bracket) := by
  decide +kernel
theorem witness_ConfigurationSteps :
    (let s : State := { cfg := { load := some 0 } }
     s.up = true ∧ s.cfg.load = some 0 ∧ slotCands s.nv = []) ∧
    (booted.up = true ∧ booted.cfg.load = some 2 ∧ booted.cfg.bootTop ≠ 0 ∧
      ({ booted with cfg := { booted.cfg with load := none } } : State).checkFull
        (readBytes booted.cfg.boot 0 (max 64 (min 2097152 (readW32 booted.cfg.boot 12).toNat))) 2097152 = .ok image0) ∧
    (let s : State := { key := [], cfg := { luState := 2, upd := some { image0 with kind := 2 } } }
     s.up = true ∧ s.cfg.luState = 2 ∧ s.cfg.upd = some { image0 with kind := 2 } ∧
       (s.stagedUpd { image0 with kind := 2 }).chipRule = none ∧
       (∀ u, u < s.nTiles → (s.stagedUpd { image0 with kind := 2 }).tileRule u = none) ∧
       (∀ u ∈ s.recTiles [], (s.tile u).powered = true ∧ (s.tile u).inReset = false ∧ u ∉ s.cfg.noShadow)) ∧
    (let s : State := { key := [], cfg := { luState := 2 } }
     (s.stagedUpd { kind := 2, profile := 0, seq := 1, recs := [recOf 0x1008 0] }).chipRule ≠ none) ∧
    (let s : State := { key := [], cfg := { luState := 2 } }
     let m : Image := { kind := 2, profile := 0, seq := 1, recs := [{ mode := 1, block := 1, off := 0, tiles := 1, pay := [0xFF0000000000] }] }
     (s.stagedUpd m).chipRule = none ∧ ∃ u, u < s.nTiles ∧ (s.stagedUpd m).tileRule u ≠ none) ∧
    (let m : Image := { kind := 2, profile := 0, seq := 1, recs := [{ mode := 1, block := 1, off := 0, tiles := 1, pay := [0] }] }
     let s : State := { key := [], cfg := { luState := 4, upd := some m } }
     s.up = true ∧ s.cfg.luState = 4 ∧ s.cfg.upd = some m ∧ s.cfg.decided = false ∧ s.tb.openAge = s.cfg.fixOpen ∧
       (∀ u ∈ s.recTiles m.recs, (s.tile u).powered = true ∧ (s.tile u).inReset = false ∧ u ∉ s.cfg.noShadow)) ∧
    (let m : Image := { kind := 2, profile := 0, seq := 1, recs := [{ mode := 1, block := 1, off := 0, tiles := 1, pay := [0] }] }
     let s : State := { key := [], cfg := { luState := 4, upd := some m }, tiles := [(0, { powered := false })] }
     s.cfg.luState = 4 ∧ s.cfg.decided = false ∧
       (s.tb.openAge ≠ s.cfg.fixOpen ∨ (∃ u ∈ s.recTiles m.recs, (s.tile u).powered = false ∨ (s.tile u).inReset = true))) ∧
    (let s : State := { key := [], cfg := { luState := 4, upd := some image0, decided := true } }
     s.up = true ∧ s.cfg.luState = 4 ∧ s.cfg.upd = some image0 ∧ s.cfg.decided = true ∧ tileOf 0x1008 = none ∧ isRwf 0x1008 = true) ∧
    (let s : State := { cfg := { job := some .slotB } }
     s.up = true ∧ s.cfg.job = some (if true then .slotB else .slotA) ∧ slotLen s.nv true ≤ slotMax) ∧
    (let r : Rec := { mode := 1, block := 0, off := 0x414, tiles := 1, pay := [0x100] }
     let s : State := { key := [], cfg := { recs := [r] } }
     s.up = true ∧ 0 < s.nTiles ∧ (s.tile 0).powered = true ∧ (s.tile 0).inReset = false ∧ s.retiring 0 = false ∧
       mapGet (fun _ => []) s.cfg.late 0 = [] ∧ r ∈ s.cfg.recs ∧ (.reg 0x100414, 0x100) ∈ r.writes s.nTiles ∧
       (Place.reg 0x100414).covered = true ∧ (Place.reg 0x100414).tile = some 0) := by
  refine ⟨by decide, ⟨by decide, by decide, by decide, ?_⟩, ⟨by decide, by decide, by decide, ?_, ?_, by decide⟩, by decide +kernel,
    ⟨?_, 0, by decide, ?_⟩, by decide +kernel, by decide +kernel, by decide +kernel, by decide +kernel, by decide +kernel⟩
  · exact image0_checks (by decide +kernel) (by decide) rfl rfl
  · exact State.chipRule_reset (by decide +kernel) (by decide +kernel)
  · intro u hu
    have e : (State.stagedUpd { key := [], cfg := { luState := 2, upd := some { image0 with kind := 2 } } } { image0 with kind := 2 }).tiles = [] := by
      decide +kernel
    exact State.tileRule_reset (by decide +kernel) hu (by unfold State.tile; rw [e]; rfl)
  · exact State.chipRule_reset (by decide +kernel) (by decide +kernel)
  · unfold State.tileRule
    rw [State.destRule_reset (by decide +kernel) (by decide), State.descRule_reset (by decide +kernel) (by decide),
      State.engineRule_reset (by decide +kernel) (by decide)]
    generalize h : State.programRule _ 0 = x
    have n : x ≠ none := by subst h; decide +kernel
    obtain ⟨v, rfl⟩ := Option.ne_none_iff_exists'.1 n
    exact Option.some_ne_none v

/-! ### Control frames -/

/-- A control frame whose CRC is right. -/
def framed (op : Nat) (f : CtlFrame) : CtlFrame := { f with crc := BitVec.ofNat 32 (crc32c (leBytes 7 (ctlBits op f) ++ ctlBytes f.data)) }
def frame0 : CtlFrame := { tag := 0, len := 0, sec := false, rsv := 0, addr := 0x1020, data := [], crc := 0, discarded := 0, broken := false }
/-- The host's link in SLOT, with a key. -/
def linked : State := { key := [], lk := { dn := .slot } }
/-- An authenticated frame of no words: its tag words follow from the key, the challenge and the count. -/
def sealed (op : Nat) : CtlFrame :=
  let f : CtlFrame := { frame0 with sec := true, data := List.replicate 8 0 }
  let t := hmacSha256 [] (leBytes 8 0 ++ leBytes 4 0 ++ leBytes 7 (ctlBits op f))
  framed op { f with data := (List.range 8).map (fun k => BitVec.ofNat 32 (leNat ((t.drop (4 * k)).take 4))) }

/-- WRITE with TAG 7, LENGTH 1 and ADDR 0x1020, one DATA word and END, written out from the layouts of R320. -/
theorem test_control_slots :
    (controlSlots none [0x11070040001020, 0x20000000001234, 0x300000DEADBEEF]).1 =
      [.write { tag := 7, len := 1, sec := false, rsv := 0, addr := 0x1020, data := [0x1234], crc := 0xDEADBEEF, discarded := 0, broken := false }] ∧
    slotCommand .fast none 0xD0ABCDEF000000 0 false = (some (.blockClose 0x0ABCDEF000000 false), none) ∧
    slotCommand .fast none 0xF1A00000000005 0 false = (some (.nak 0xA00000000005 false), none) ∧
    slotCommand .fast none 0x5000000000000A 0 false = (some (.trigger 0x5000000000000A false), none) ∧
    slotCommand .time none 0x3AB00000012C03 0 false = (some (.followUpNf 0xAB00000012C03 false), none) := by decide
theorem witness_ControlFrames :
    (linked.up = true ∧ linked.lk.dn = .slot ∧ linked.cfg.noImage = true) ∧
    (∀ op ∈ [1, 2, 4],
      ctlFramed op { frame0 with broken := true } = false ∧ ctlFramed op { frame0 with crc := 1 } = true ∧
        ctlIntact op { frame0 with crc := 1 } = false ∧ ctlFramed op (framed op frame0) = true ∧ ctlIntact op (framed op frame0) = true ∧
        (∀ a ∈ ctlTargets op (framed op frame0), secureAddr a = false) ∧ (framed op frame0).len = 0 ∧ (framed op frame0).sec = false) ∧
    (∀ op ∈ [2], ctlFramed op (sealed op) = true ∧ ctlIntact op (sealed op) = true ∧ (sealed op).sec = true ∧
      linked.tagRight op (sealed op) = true ∧ (sealed op).len = 0 ∧
      ({ linked with sup := { secCnt := 1 } } : State).tagRight op (sealed op) = false) ∧
    (let f := framed 1 { frame0 with len := 1, addr := 0x5000, data := [0] }
     ctlFramed 1 f = true ∧ ctlIntact 1 f = true ∧ ∃ a ∈ ctlTargets 1 f, secureAddr a = true) ∧
    (let f := framed 2 { frame0 with len := 257 }
     ctlFramed 2 f = true ∧ ctlIntact 2 f = true ∧ (∀ a ∈ ctlTargets 2 f, secureAddr a = false) ∧ 256 < f.len.toNat) ∧
    (let f := framed 1 { frame0 with len := 1, addr := 0x1021, data := [0] }
     ctlFramed 1 f = true ∧ ctlIntact 1 f = true ∧ (∀ a ∈ ctlTargets 1 f, secureAddr a = false) ∧ f.len ≠ 0 ∧ f.len.toNat ≤ 256 ∧
       f.addr.toNat % 4 ≠ 0) ∧
    (let f := framed 15 frame0
     (15 : BitVec 4) ≠ 1 ∧ (15 : BitVec 4) ≠ 2 ∧ (15 : BitVec 4) ≠ 4 ∧ ctlFramed (15 : BitVec 4).toNat f = true ∧
       ctlIntact (15 : BitVec 4).toNat f = true ∧ f.sec = false) ∧
    (let f := framed 1 { frame0 with len := 1, data := [5] }
     f.len ≠ 0 ∧ ctlFramed 1 f = true ∧ ctlIntact 1 f = true ∧ (∀ a ∈ ctlTargets 1 f, secureAddr a = false) ∧ f.addr.toNat % 4 = 0) ∧
    (let f := framed 2 { frame0 with len := 256 }
     f.len ≠ 0 ∧ ctlFramed 2 f = true ∧ ctlIntact 2 f = true ∧ (∀ a ∈ ctlTargets 2 f, secureAddr a = false) ∧ f.addr.toNat % 4 = 0 ∧
       f.len.toNat ≤ 256 ∧ linked.dep.ecc2 = []) ∧
    (let f := framed 4 { frame0 with len := 1, addr := 0x3FFF, data := [5] }
     f.len ≠ 0 ∧ ctlFramed 4 f = true ∧ ctlIntact 4 f = true ∧ 4 * f.addr.toNat + 4 * f.data.length ≤ 65536 ∧
       linked.cfgBusy = false ∧ linked.cfgDest = 0 ∧ 4 * f.addr.toNat + 4 * f.data.length ≤ slotMax ∧
       linked.cfg.stagedTop + 4 * f.data.length ≤ 65536 ∧
       (∀ d ∈ [1, 2, 3], ({ linked with regs := [(0x7000, BitVec.ofNat 32 d)] } : State).cfgDest = d) ∧
       linked.luHeld = false ∧ ({ linked with cfg := { luState := 4 } } : State).luHeld = true ∧
       ({ linked with cfg := { luState := 4 } } : State).cfgBusy = false ∧ ({ linked with cfg := { luState := 2 } } : State).cfgBusy = true ∧
       4 * f.addr.toNat + 4 * f.data.length ≤ 2097152) := by
  refine ⟨by decide, ?_, ?_, ?_, ?_, ?_, ?_, ?_, ?_, ?_⟩ <;> decide +kernel

/-! ### Mailboxes, services, events -/

/-- A mailbox slot of a full channel. -/
def boxed (ch : Nat) (x : Slot) : State := { phase := .running, sup := { slots := [(ch, x)] } }
/-- A waiting request of a service. -/
def request (code : Nat) (body : List W64) : SupReq := { ch := 0, tag := 0, code := code, body := body }
def asked (code : Nat) (body : List W64) : State := { key := [], phase := .running, sup := { reqs := [request code body] } }

theorem witness_RingAndTake :
    (let s : State := {}
     95 < 96 ∧ s.up = true ∧ srcBarred (.supervisor true) (0x5008 + 16 * 95) = false ∧ srcBarred .host (0x5008 + 16 * 0) = false ∧
       (Src.host = .host → hostSends 0 = true) ∧ (s.slot 95).full = false ∧ (95 < 32 ∨ s.onPart (95 - 32) = true) ∧
       (Src.host = .host → hostReceives 8 = true) ∧ (s.slot 8).full = false ∧ hostSends 8 = false ∧ hostReceives 0 = false ∧
       (262136 : BitVec 32).toNat % 8 = 0 ∧ (262136 : BitVec 32).toNat ≤ 262136) ∧
    (let s := boxed 0 { full := true }
     s.up = true ∧ (s.slot 0).full = true ∧ (Src.supervisor true = .host → hostReceives 0 = true)) ∧
    (let s : State := { part := .t256 }
     48 < 96 ∧ s.up = true ∧ srcBarred (.supervisor true) (0x5008 + 16 * 48) = false ∧ Src.supervisor true ≠ .host ∧ 32 ≤ 48 ∧
       s.onPart (48 - 32) = false) := by decide
theorem witness_MailboxServices :
    (let s : State := {}
     s.up = true ∧ 95 < 96 ∧ (s.serves = false ∨ hostSends 95 = false ∨ (s.slot 95).full = false ∨ 8 ≤ s.keptReplies 95) ∧
       (s.serves = false ∨ hostReceives 95 = false ∨ (s.slot 95).full = true ∨ mapGet (fun _ => []) s.sup.replies 95 = [])) ∧
    (let s : State := { phase := .running, msg := [(0x40000, 1)], sup := { slots := [(0, { full := true, gen := 1 })] } }
     s.up = true ∧ 0 < 96 ∧ s.serves = true ∧ hostSends 0 = true ∧ (s.slot 0).full = true ∧ s.keptReplies 0 < 8 ∧ s.dep.ecc2 = [] ∧
       0x40000 = boxHalf 0 + (s.slot 0).ptr.toNat ∧ 1 = readW64 s.msg 0x40000 ∧ 1 = fieldOf 1 15 0 ∧
       0 = ((services.find? (fun x => decide (x.1 = 1))).map (fun x => x.2.2 / 8)).getD 0 ∧
       s.turnedAway (request 1 []) (s.slot 0).gen (s.slot 0).ptr.toNat 1 = none) ∧
    ((boxed 0 { full := true }).turnedAway (request 1 []) 0 0 1 = some 5) ∧
    (let s : State := { phase := .running, sup := { replies := [(8, [{ tag := 0, code := 1, status := 0, body := [7] }])] } }
     s.up = true ∧ 8 < 96 ∧ s.serves = true ∧ hostReceives 8 = true ∧ (s.slot 8).full = false ∧
       mapGet (fun _ => []) s.sup.replies 8 = { tag := 0, code := 1, status := 0, body := [7] } :: [] ∧
       boxHalf 8 + 0x38000 + 0x1000 * (8 % 8) = 0x78000) := by decide
theorem witness_SupervisorServices :
    (∀ c ∈ [0x01, 0x10, 0x20, 0x21, 0x30, 0x31, 0x40, 0x41, 0x42, 0x50, 0x60],
      (asked c [0, 0]).Waits c (request c [0, 0]) ∧ (asked c [0, 0]).cfgBusy = false ∧ (asked c [0, 0]).cfg.job = none ∧
        (asked c [0, 0]).cfg.slotTo = none) ∧
    ({} : State).sup.reqs = [] ∧
    (let s : State := { asked 0x21 [0] with cfg := { job := some .slotA } }
     s.Waits 0x21 (request 0x21 [0]) ∧ s.cfg.job ≠ none) ∧
    (let s : State := { asked 0x30 [0, 0] with cfg := { load := some 0 } }
     s.Waits 0x30 (request 0x30 [0, 0]) ∧ s.cfgBusy = true) ∧
    (let q := request 0x30 [0x800000000, 0]
     8 = fieldOf (q.word 0) 63 32 ∧ 0 = fieldOf (q.word 0) 31 0 ∧ 0 + 8 ≤ slotMax ∧
       (asked 0x30 [0x800000000, 0]).cfg.stagedTop + 8 ≤ 65536 ∧ (q.word 1).getLsbD 32 = false) ∧
    (let q := request 0x30 [0x8000F4200, 0]
     8 = fieldOf (q.word 0) 63 32 ∧ slotMax < fieldOf (q.word 0) 31 0 + 8) ∧
    (let q := request 0x30 [0, 0x100000000]
     0 = fieldOf (q.word 0) 63 32 ∧ (q.word 1).getLsbD 32 = true) ∧
    (fieldOf ((request 0x10 [0x30000]).word 0) 17 0 = 0x30000 ∧ fieldOf ((request 0x10 [0x35000]).word 0) 17 0 = 0x35000) ∧
    (asked 0x10 [0x30000]).writeReason (.supervisor false) 0x8000 (BitVec.ofNat 32 (0x30000 + 2 ^ 20)) = none ∧
    (asked 0x10 [0x35000]).writeReason (.supervisor false) 0x8000 (BitVec.ofNat 32 (0x35000 + 2 ^ 20)) = some 3 := by
  refine ⟨?_, by decide, ?_, ?_, by decide +kernel, by decide +kernel, by decide +kernel, by decide +kernel, by decide +kernel, by decide +kernel⟩
  all_goals unfold State.Waits; decide
theorem witness_SlotWriteCloses :
    let w : List W64 := [0, 0x100000000]
    let s : State := { slotted with phase := .running, sup := { reqs := [request 0x30 w] } }
    s.Waits 0x30 (request 0x30 w) ∧ s.cfgBusy = false ∧ s.cfg.slotTo = some false ∧
      s.checkFull (readBytes s.nv (slotBase false + 64) (max 64 (min slotMax (readW32 s.nv (slotBase false + 76)).toNat))) slotMax =
        .ok image0 := by
  refine ⟨?_, by decide, by decide, image0_checks (by decide +kernel) (by decide) rfl rfl⟩
  unfold State.Waits; decide
theorem witness_EventsAndPosts :
    (let s : State := {}
     s.up = true ∧ (1057 : BitVec 11).toNat < 1024 + 34 ∧ (1024 ≤ (1057 : BitVec 11).toNat ∨ s.onPart ((1057 : BitVec 11).toNat / 16) = true) ∧
       (1023 : BitVec 11).toNat < 1024 ∧ s.onPart ((1023 : BitVec 11).toNat / 16) = true ∧ 1024 + 34 ≤ (1058 : BitVec 11).toNat ∧
       s.evSet 1024 = false ∧ s.evMasked 1024 = false ∧ s.evRoute 1024 = 1 ∧ 3 < 4 ∧ s.ev.posts = [] ∧ 63 < s.nTiles ∧
       (s.tile 63).powered = true) ∧
    (∀ k, ({} : State).evSet k = false) ∧
    (let s : State := { regs := [(0x4040, 0x10)], ev := { chip := 1 } }
     s.evSet 1024 = true) ∧
    (let s : State := { regs := [(0x4030, 1)] }
     s.evMasked 1024 = true) ∧
    (let s : State := { regs := [(0x4040, 0x10)] }
     s.evSet 1024 = false ∧ s.evMasked 1024 = false ∧ s.evRoute 1024 = 16 ∧ 1024 ≠ chipSrc 33 ∧ (s.slot (s.fld 0x4000 6 0)).full = false ∧
       s.ev.posts = []) ∧
    (let s : State := { regs := [(0x4040, 0x10)], sup := { slots := [(24, { full := true })] } }
     (s.slot (s.fld 0x4000 6 0)).full = true ∧ s.ev.posts.length < 32) ∧
    (let s : State := { part := .t256 }
     (256 : BitVec 11).toNat < 1024 ∧ s.onPart ((256 : BitVec 11).toNat / 16) = false ∧ 16 < 64 ∧ s.nTiles ≤ 16) ∧
    (let s : State := { ev := { posts := [1024] } }
     s.up = true ∧ s.ev.posts = 1024 :: [] ∧ (s.slot (s.fld 0x4000 6 0)).full = false) ∧
    (let s : State := { msg := [(0x40000, 4)], sup := { slots := [(32, { full := true })] } }
     s.up = true ∧ 0 < s.nTiles ∧ (s.tile 0).powered = true ∧ (s.tile 0).inReset = false ∧ (s.slot (32 + 0)).full = true ∧
       s.dep.ecc2 = [] ∧ 0x40000 = 0x40000 + (s.slot (32 + 0)).ptr.toNat ∧ 0x40000 + 16 ≤ 0x80000 ∧ readW64 s.msg 0x40000 = 4 ∧
       (4 : W64) ≠ 0 ∧ readW64 s.msg (0x40000 + 8) = 0) ∧
    (let s : State := { phase := .running, sup := { logLost := 1 } }
     s.up = true ∧ s.sup.logLost ≠ 0 ∧ s.serves = true) := by
  refine ⟨by decide, ?_, ?_, ?_, ?_, ?_, ?_, ?_, ?_, ?_⟩
  · intro k
    unfold State.evSet
    split <;> simp [State.tile, mapGet]
  all_goals decide

/-! ### Snapshot, resets, power states, register writes -/

theorem witness_Snapshots :
    (let s : State := { lk := { dn := .slot }, regs := [(0xA008, 2)] }
     s.up = true ∧ s.lk.dn = .slot ∧ s.dep.snapN = true ∧ bit (s.rv 0xA008) 1 = true ∧ s.dep.request = none ∧ s.cal.run = none ∧
       (s.cfg.luState ≠ 4 ∨ s.cfg.decided = true) ∧ s.pw.dark = none ∧ (1 : BitVec 52) ≠ 0 ∧ s.phase ≠ .porHeld ∧ s.phase ≠ .rstHeld ∧
       s.dep.latch = false ∧ s.dep.frozen = false) ∧
    (let s : State := { cfg := { luState := 4 }, pw := { dark := some ⟨true, {}, 0, false⟩ } }
     s.up = true ∧ s.dep.request = none ∧ s.cal.run = none ∧ (s.cfg.luState = 4 ∧ s.cfg.decided = false) ∧ s.pw.dark.isSome = true) ∧
    (let s : State := { dep := { request := some 1 } }
     s.up = true ∧ s.dep.request = some 1 ∧ s.dep.request ≠ none) ∧
    (let s : State := { dep := { snapN := false } }
     s.dep.snapN = false ∧ (s.up = false ∨ s.dep.snapN = false ∨ bit (s.rv 0xA008) 1 = false)) ∧
    (let s : State := { dep := { frozen := true, latch := true } }
     s.dep.latch = true ∧ s.dep.frozen = true ∧ 0 < (1 : BitVec 56).toNat % 2 ^ 24) ∧
    (let s : State := { dep := { frozen := true } }
     s.dep.frozen = true ∧ s.dep.latch = false ∧ s.dep.snapN = true ∧ s.dep.heldSoft = false ∧ s.tb.setVal = none ∧
       s.tb.realignVal = none ∧ s.tb.stepVal = none) := by decide
theorem witness_TileAndSupervisorResets :
    (let s : State := { phase := .running }
     s.up = true ∧ 63 < s.nTiles ∧ (s.tile 63).powered = true ∧ s.pw.soft = false ∧ (s.tile 63).inReset = false ∧ s.supRuns = true ∧
       s.phase = .running ∧ s.sup.restarting = false) ∧
    (let s := dev [] { inReset := true }
     s.up = true ∧ 0 < s.nTiles ∧ (s.tile 0).powered = true ∧ s.pw.soft = false ∧ (s.tile 0).inReset = true ∧ s.cfg.late = [] ∧
       tileOf 0x100414 = some 0 ∧ isRwf 0x100414 = true) ∧
    (let s := dev [] { powered := false }
     s.up = true ∧ 0 < 64 ∧ (s.nTiles ≤ 0 ∨ (s.tile 0).powered = false)) ∧
    (let s : State := { part := .t256 }
     16 < 64 ∧ (s.nTiles ≤ 16 ∨ (s.tile 16).powered = false)) ∧
    (let s : State := { phase := .running, sup := { restarting := true } }
     s.up = true ∧ s.supRuns = false ∧ s.sup.restarting = true ∧ s.pw.soft = false ∧ s.sup.logNow < 16) := by decide
theorem witness_PowerStates :
    (let s : State := {}
     s.up = true ∧ s.pw.st = .safelight ∧ s.cfg.noImage = true ∧ s.pw.dark = none ∧ false = (s.advance 1).switchOk ((s.advance 1).now.addNs (-8)) ∧
       s.pw.st ≠ .run ∧ s.sup.asleep = false) ∧
    (let s : State := { phase := .running, regs := [(0x3010, 1)], cfg := { noImage := false } }
     s.pw.st = .safelight ∧ s.cfg.noImage = false ∧ s.pw.busy = false ∧ s.phase = .running ∧
       true = (s.advance 1).switchOk ((s.advance 1).now.addNs (-8)) ∧ s.cal.run = none) ∧
    (let s : State := { phase := .running, regs := [(0x3010, 1)], cfg := { noImage := false }, pw := { dark := some ⟨true, {}, 0, false⟩ } }
     s.pw.st = .safelight ∧ s.pw.busy = true ∧ true = (s.advance 1).switchOk ((s.advance 1).now.addNs (-8)) ∧
       s.pw.dark = some ⟨true, {}, 0, false⟩ ∧ (⟨true, {}, 0, false⟩ : DarkReq).entry = true ∧
       (s.advanceTo ((⟨true, {}, 0, false⟩ : DarkReq).age - 1000)).darkReason = none) ∧
    (let s : State := { cfg := { luState := 4 }, pw := { dark := some ⟨true, {}, 0, false⟩ } }
     (s.advanceTo ((⟨true, {}, 0, false⟩ : DarkReq).age - 1000)).darkReason = some 7) ∧
    (let s : State := { pw := { st := .run } }
     s.pw.st = .run ∧ s.pw.busy = false) ∧
    (let s : State := { pw := { st := .run, toSafe := some 0 } }
     s.pw.st = .run ∧ s.pw.busy = true ∧ s.pw.toSafe = some 0) ∧
    (let s : State := { pw := { st := .run, toSafe := some 0 }, eb := { pending := [trig0] } }
     s.pw.toSafe = some 0 ∧ trig0 ∈ s.eb.pending ∧ s.eb.pending ≠ [] ∧ s.eb.pending.all (fun p => p.doom.isNone) = true) ∧
    (let s : State := { regs := [(0x3010, 1)], pw := { st := .dark } }
     s.pw.st = .dark ∧ s.pw.busy = false ∧ true = (s.advance 1).switchOk ((s.advance 1).now.addNs (-8))) ∧
    (let s : State := { regs := [(0x3010, 1)], pw := { st := .dark, dark := some ⟨false, {}, 0, false⟩ } }
     s.pw.st = .dark ∧ s.pw.busy = true ∧ s.pw.dark = some ⟨false, {}, 0, false⟩ ∧ (⟨false, {}, 0, false⟩ : DarkReq).entry = false) ∧
    (let s : State := { pw := { toRun := some 0 } }
     s.pw.toRun = some 0 ∧ 63 < s.nTiles ∧ 16 < 17) ∧
    (let s : State := { pw := { dark := some ⟨true, {}, 0, true⟩ } }
     s.pw.dark = some ⟨true, {}, 0, true⟩ ∧ (⟨true, {}, 0, true⟩ : DarkReq).decided = true) ∧
    (let s : State := { pw := { exiting := true } }
     s.pw.exiting = true) ∧
    (let s : State := { pw := { st := .dark }, sup := { asleep := true, wakeAsk := true }, tiles := [(0, { powered := false, lm := { wake := true } })] }
     0 < s.nTiles ∧ s.pw.st = .dark ∧ (s.tile 0).powered = false ∧ s.tileCalled 0 = true ∧ s.sup.asleep = true ∧ s.supCalled = true) := by
  refine ⟨?_, ?_, ?_, ?_, ?_, ?_, ?_, ?_, ?_, ?_, ?_, ?_⟩ <;> decide +kernel
/-- A store whose log holds one entry: SEQ 0, BOOT 1, KIND 1. -/
def nvLog1 : Memory := (({ phase := .running, pw := { bootCnt := 1 } } : State).putEntry 1 0xFFFF 0).nv
set_option maxRecDepth 20000 in
theorem witness_DeviceResets_log : logLast nvLog1 = some (0, 1) := by decide
theorem witness_DeviceResets :
    (let s : State := { phase := .porHeld }
     s.phase = .porHeld ∧ s.phase ≠ .rstHeld ∧ (3 : BitVec 2) = 3 ∧ (0 : BitVec 2) ≠ 3 ∧ logLast s.nv = none) ∧
    (let s : State := { phase := .rstHeld }
     s.phase ≠ .porHeld ∧ s.phase = .rstHeld ∧ s.phase ≠ .booting) ∧
    (let s : State := { bootsel := 1 }
     s.phase = .booting ∧ s.dep.frozen = false ∧ s.bootsel = 1 ∧ s.up = true ∧ (s.pw.soft = true ∨ s.phase ≠ .running)) ∧
    (let s : State := { dep := { frozen := true } }
     s.dep.frozen = true) ∧
    (let s : State := { phase := .running, pw := { st := .dark } }
     s.up = true ∧ s.pw.soft = false ∧ s.phase = .running ∧ s.pw.st = .dark) ∧
    (let s : State := { phase := .running, pw := { st := .run } }
     s.up = true ∧ s.pw.soft = false ∧ s.phase = .running ∧ s.pw.st ≠ .dark ∧ 63 < s.nTiles ∧ (s.tile 63).powered = true) ∧
    (let s : State := { phase := .running, pw := { soft := true, heldRun := true } }
     s.up = true ∧ s.pw.soft = true ∧ s.pw.heldRun = true) := by decide
theorem witness_RegisterWrites :
    (let s : State := {}
     s.up = true ∧
       (s.advance 1).writeReason .host (0x1000 : BitVec 24).toNat 3 = some 3 ∧ (s.cal.run = none ∨ (0x1000 : BitVec 24).toNat ≠ 0x8000) ∧
       (regAt (0x1000 : BitVec 24).toNat).map (·.row.reg) = some .tbCtrl ∧ (0x1001 : BitVec 24).toNat % 4 ≠ 0 ∧
       (0x0F00 : BitVec 24).toNat % 4 = 0 ∧ msgOffset (0x0F00 : BitVec 24).toNat = none ∧ regAt (0x0F00 : BitVec 24).toNat = none ∧
       (regAt (0x1008 : BitVec 24).toNat).map (fun x => decide (x.row.rwf ≠ 0)) = some true ∧
       (regAt (0x1004 : BitVec 24).toNat).map (fun x => (x.row.rwf, x.row.rw, x.row.w1c, x.row.wo)) = some (0, 0, 0, 0) ∧
       (regAt (0x1020 : BitVec 24).toNat).map (fun x => (x.row.w1c, x.row.wo)) = some (0, 0) ∧
       (regAt (0x1020 : BitVec 24).toNat).map (fun x => decide (x.row.reg ∉ [.mbPtr, .mbTag, .tcXbar, .chThr])) = some true ∧
       (s.advance 1).writeReason .host (0x1020 : BitVec 24).toNat 7 = none ∧
       msgOffset (0x838000 : BitVec 24).toNat = some 0x38000 ∧ msgOffset (0x837FFC : BitVec 24).toNat = some 0x37FFC ∧
       srcBarred .host (0x837FFC : BitVec 24).toNat = false ∧ srcBarred .tileList (0x87FFFC : BitVec 24).toNat = true ∧
       (0x402C : BitVec 24).toNat = 0x4020 + 4 * 3) ∧
    (let s := dev [] { powered := false }
     (regAt (0x100400 : BitVec 24).toNat).map (fun x => (x.tile, x.row.rwf, decide (x.row.rw = 0))) = some (some 0, 0, false) ∧
       s.tileServes 0 .chCfg = false) := by decide +kernel

/-! ### The worked item of 06_measurements.md, under Resolution -/

/-- Code 0x03 on local input 6, rising edges, an edge-count gate of 5. -/
def exampleDesc : FnDesc :=
  { func := 3, srcA := 6, srcB := 31, polA := 1, polB := 0, kind := 1, gateSrc := 0, gatePol := 0, outQ := 0, qty := 0
    param := 5, imax := 0, histLo := 0, histW := 0, histB := 0, fNom := 0, tau0 := 0, mults := [] }

/-- Its five edges, relative to the first. -/
def exampleEdges : List FnRec := [0, 40961, 81919, 122881, 163839].map (fun t => { input := 6, t := t, rise := true })

/-- Their gate in epoch 1. -/
def exampleGate : FnGate := { grid := { epoch := 1 }, kind := 1, lo := -1, hi := 163839 }

theorem test_least_squares_item : (fnResult exampleDesc exampleGate exampleEdges).map
    (State.fnItem {} 3 exampleDesc 2 false 0 exampleGate) =
      some [0x43237C4000000000, 0x017D78BA1227100D, 0x0000000005000001, 0x118] := by decide +kernel

theorem test_count_gate : exampleDesc.countGate { epoch := 1 } exampleEdges 0 = some exampleGate := by decide

end Sys2Proof.Tests
end

/-! ## Register addresses -/
section
namespace Sys2Proof.Machine
open Sys2Proof

/-- A row found at an offset is a row of the list, and the offset is that of one of its copies. -/
theorem findRow_some {rows : List RegRow} {o i : Nat} {r : RegRow} (h : findRow rows o = some (r, i)) :
    r ∈ rows ∧ r.index o = some i := by
  induction rows with
  | nil => simp [findRow] at h
  | cons q rows ih =>
    simp only [findRow] at h
    split at h
    next j hj =>
      simp only [Option.some.injEq, Prod.mk.injEq] at h
      obtain ⟨rfl, rfl⟩ := h
      exact ⟨List.mem_cons_self, hj⟩
    next =>
      obtain ⟨hr, hi⟩ := ih h
      exact ⟨List.mem_cons_of_mem _ hr, hi⟩

theorem RegRow.index_some {r : RegRow} {o i : Nat} (h : r.index o = some i) : o = r.base + r.step * i ∧ i < r.n := by
  unfold RegRow.index at h
  split at h
  next hr =>
    obtain ⟨hb, hm, hn⟩ := hr
    cases h
    have hd := Nat.div_add_mod (o - r.base) r.step
    exact ⟨by omega, hn⟩
  next => cases h

/-- A register outside the tile blocks lies in a chip row. -/
theorem regAt_chip {a : Nat} {x : RegAt} (h : regAt a = some x) (ht : x.tile = none) :
    x.row ∈ chipRows ∧ a = x.row.base + x.row.step * x.i ∧ x.i < x.row.n := by
  unfold regAt at h
  split at h <;> rw [Option.map_eq_some_iff] at h <;> obtain ⟨⟨r, i⟩, hf, rfl⟩ := h
  · cases ht
  · obtain ⟨hr, hi⟩ := findRow_some hf
    exact ⟨hr, RegRow.index_some hi⟩

/-- A register in a tile block is a register of that tile. -/
theorem regAt_tile {a u : Nat} {x : RegAt} (h : regAt a = some x) (hu : tileOf a = some u) : x.tile = some u := by
  simp only [regAt, hu, Option.map_eq_some_iff] at h
  obtain ⟨p, -, rfl⟩ := h
  rfl

theorem tileOf_of_regAt {a u : Nat} {x : RegAt} (h : regAt a = some x) (hu : x.tile = some u) : tileOf a = some u := by
  unfold regAt at h
  split at h <;> rw [Option.map_eq_some_iff] at h <;> obtain ⟨p, -, rfl⟩ := h
  · simpa using hu ▸ ‹tileOf a = some _›
  · cases hu

theorem tileOf_lt {a u : Nat} (h : tileOf a = some u) : a < 0x200000 := by
  unfold tileOf at h
  split at h
  · omega
  · cases h

theorem msgOffset_of_lt {a : Nat} (h : a < 0x800000) : msgOffset a = none := if_neg (by omega)

/-- No register lies in message memory (R505). -/
theorem msgOffset_of_regAt {a : Nat} {x : RegAt} (h : regAt a = some x) : msgOffset a = none := by
  apply msgOffset_of_lt
  rcases hx : x.tile with _ | u
  · obtain ⟨hr, ha, hi⟩ := regAt_chip h hx
    have hb : ∀ r ∈ chipRows, r.base + r.step * r.n ≤ 0x10000 := by decide +kernel
    have := hb _ hr
    have := Nat.mul_le_mul_left x.row.step hi.le
    omega
  · have := tileOf_lt (tileOf_of_regAt h hx)
    omega

/-- The registers of a mailbox slot (R484). -/
theorem regAt_mbPtr {ch : Nat} (h : ch < 96) :
    regAt (0x5000 + 16 * ch) = some ⟨⟨.mbPtr, 0x5000, 96, 16, 0xffffffff, 0, 0, 0⟩, ch, none⟩ := by
  revert ch
  decide +kernel

theorem regAt_mbTag {ch : Nat} (h : ch < 96) :
    regAt (0x5004 + 16 * ch) = some ⟨⟨.mbTag, 0x5004, 96, 16, 0xffff, 0, 0, 0⟩, ch, none⟩ := by
  revert ch
  decide +kernel

theorem regAt_mbCtrl {ch : Nat} (h : ch < 96) :
    regAt (0x5008 + 16 * ch) = some ⟨⟨.mbCtrl, 0x5008, 96, 16, 0, 0, 0, 3⟩, ch, none⟩ := by
  revert ch
  decide +kernel

theorem regAt_evStat {i : Nat} (h : i < 4) :
    regAt (0x4020 + 4 * i) = some ⟨⟨.evStat, 0x4020, 4, 4, 0, 0, 0xffffffff, 0⟩, i, none⟩ := by
  revert i
  decide +kernel

theorem regAt_csByte {i : Nat} (h : i < 272) :
    regAt (0x8800 + 4 * i) = some ⟨⟨.csByte, 0x8800, 272, 4, 0, 0, 0xa0a0a0a0, 0⟩, i, none⟩ := by
  revert i
  decide +kernel

end Sys2Proof.Machine
end

/-! ## Which writes are refused, and what a refused write leaves -/
section
namespace Sys2Proof.Machine
open Sys2Proof
variable (s : State)

theorem State.writeReason_unaligned (src : Src) {a : Nat} (w : Reg32) (ha : a % 4 ≠ 0) : s.writeReason src a w = some 2 :=
  if_pos ha

theorem State.writeReason_unmapped (src : Src) {a : Nat} (w : Reg32) (ha : a % 4 = 0) (hm : msgOffset a = none)
    (hr : regAt a = none) : s.writeReason src a w = some 2 := by
  simp [State.writeReason, ha, hm, hr]

theorem State.writeReason_msg (src : Src) {a o : Nat} (w : Reg32) (ha : a % 4 = 0) (hm : msgOffset a = some o) :
    s.writeReason src a w = msgReason src a o := by
  simp [State.writeReason, ha, hm]

/-- The reason to refuse a write of a register that is there (R515). -/
theorem State.writeReason_reg (src : Src) {a : Nat} {x : RegAt} (w : Reg32) (ha : a % 4 = 0) (hr : regAt a = some x) :
    s.writeReason src a w =
      if x.row.rwf ≠ 0 then some 1
      else if x.row.rw = 0 ∧ x.row.w1c = 0 ∧ x.row.wo = 0 then some 2
      else if x.tile.isSome && !s.tileServes (x.tile.getD 0) x.row.reg then some 5
      else if srcBarred src a then some 6
      else if x.row.reg.valueBad x.i w.toNat then some 3
      else s.stateReason src x.row.reg x.i (x.tile.getD 0) w.toNat := by
  simp [State.writeReason, ha, msgOffset_of_regAt hr, hr]

theorem State.tileServes_off {t : Nat} (r : Reg) (h : s.onPart t = false) : s.tileServes t r = false := by
  simp [State.tileServes, h]

/-- A write to a tile block is refused where the tile is not on the part (R4). -/
theorem State.writeReason_off {a u : Nat} (src : Src) (w : Reg32) (hu : tileOf a = some u) (ho : s.onPart u = false) :
    s.writeReason src a w ≠ none := by
  by_cases ha : a % 4 = 0
  · rcases hr : regAt a with _ | x
    · rw [s.writeReason_unmapped src w ha (msgOffset_of_lt (by have := tileOf_lt hu; omega)) hr]
      simp
    · rw [s.writeReason_reg src w ha hr, regAt_tile hr hu]
      simp only [Option.isSome_some, Option.getD_some, s.tileServes_off _ ho, Bool.not_false, Bool.and_self, if_true]
      split
      · simp
      · split <;> simp
  · simp [s.writeReason_unaligned src w ha]

/-- A register of a tile that is not on the part reads 0 (R4). -/
theorem State.regValue_off {a u : Nat} (hu : tileOf a = some u) (ho : s.onPart u = false) : s.regValue a = 0 := by
  unfold State.regValue
  split
  next row i hr => cases regAt_tile hr hu
  next row i t hr =>
    cases regAt_tile hr hu
    rw [s.tileServes_off _ ho]
    rfl
  next => rfl

/-! ### The record of a refused write (R510, R515) -/

/-- CAL_CTRL is the one register of its name. -/
theorem regAt_calCtrl {a : Nat} {x : RegAt} (h : regAt a = some x) (ht : x.tile = none) (hr : x.row.reg = .calCtrl) :
    a = 0x8000 := by
  obtain ⟨hm, ha, hi⟩ := regAt_chip h ht
  have hc : ∀ r ∈ chipRows, r.reg = .calCtrl → r.base = 0x8000 ∧ r.n = 1 := by decide +kernel
  obtain ⟨hb, hn⟩ := hc _ hm hr
  have hi : x.i = 0 := by omega
  rw [ha, hb, hi, Nat.mul_zero]

/-- A refused write reports a start of its own only through a check, a handover, or a proof run while one runs. -/
theorem State.reportStart_none {a w : Nat} (hx : ∀ x, regAt a = some x → x.row.reg ≠ .chCheck ∧ x.row.reg ≠ .tcHoCtrl)
    (hc : s.cal.run = none ∨ a ≠ 0x8000) : s.reportStart a w = s := by
  unfold State.reportStart
  split
  next row i t hr =>
    obtain ⟨hk, hh⟩ := hx _ hr
    split
    next he => exact absurd he hk
    next he => exact absurd he hh
    next => rfl
  next row i hr =>
    rw [if_neg]
    rintro ⟨he, hrun, -⟩
    rcases hc with hc | hc
    · simp [hc] at hrun
    · exact hc (regAt_calCtrl hr rfl he)
  next => rfl

/-- The outcome of a write that the next slot finds refused, where no start is reported. -/
theorem State.writeAt_refused {src : Src} {a r : Nat} {w : Reg32} {h : Option CtlHead}
    (k : (s.advance 1).writeReason src a w = some r)
    (hs : (s.advance 1).reportStart a w.toNat = s.advance 1) : s.WriteRefused (s.writeAt src a w h) src a r := by
  rw [State.writeAt, State.busWrite_refused _ k, hs]
  refine ⟨rfl, rfl, rfl, ?_, ?_⟩
  · simp [State.refuse, satAdd]
  · rw [← s.advance_refAddr 1, ← s.advance_refReason 1, ← s.advance_refSrc 1, ← s.advance_refCnt 1]
    rfl

theorem State.writeAt_applied {src : Src} {a : Nat} {w : Reg32} {h : Option CtlHead}
    (k : (s.advance 1).writeReason src a w = none) :
    s.writeAt src a w h = (s.advance 1).applyWrite src a w h := by
  rw [State.writeAt, State.busWrite_applied _ k]

end Sys2Proof.Machine
end

section
namespace Sys2Proof.Machine
open Sys2Proof
variable (s : State)

/-! ### Commands that write one register -/

theorem exec_registerWrite (src : Src) (a : BitVec 24) (w : BitVec 32) (h : s.up = true) :
    exec (.registerWrite src a w) s = .next (s.writeAt src a.toNat w none) :=
  show execRegisterWrite src a w s = _ from onChip_up s _ h

theorem exec_ring (src : Src) {ch : Nat} (hc : ch < 96) (h : s.up = true) :
    exec (.ring src ch) s = .next (s.writeAt src (0x5008 + 16 * ch) 1 none) :=
  show execRing src ch s = _ from onBox_up s ch _ hc h

theorem exec_take (src : Src) {ch : Nat} (hc : ch < 96) (h : s.up = true) :
    exec (.take src ch) s = .next (s.writeAt src (0x5008 + 16 * ch) 2 none) :=
  show execTake src ch s = _ from onBox_up s ch _ hc h

/-! ### What the passing of time leaves -/

@[simp] theorem State.advance_nTiles (n : Nat) : (s.advance n).nTiles = s.nTiles := by
  rw [State.nTiles, s.advance_part]
  rfl

@[simp] theorem State.advance_onPart (n t : Nat) : (s.advance n).onPart t = s.onPart t := by
  simp [State.onPart]

@[simp] theorem State.advance_slot (n k : Nat) : (s.advance n).slot k = s.slot k := by simp [State.slot]

@[simp] theorem State.advance_tile (n t : Nat) : (s.advance n).tile t = s.tile t := by simp [State.tile]

@[simp] theorem State.advance_rv (n a : Nat) : (s.advance n).rv a = s.rv a := by simp [State.rv]

@[simp] theorem State.advance_stream (n c i : Nat) : (s.advance n).stream c i = s.stream c i := by simp [State.stream]

@[simp] theorem State.advance_boxReason (n : Nat) (src : Src) (r : Reg) (ch w : Nat) :
    (s.advance n).boxReason src r ch w = s.boxReason src r ch w := by simp [State.boxReason]

/-! ### Writes of a mailbox channel's control register (R456, R457) -/

theorem State.writeReason_mbCtrl (src : Src) {ch : Nat} (w : Reg32) (hc : ch < 96) :
    s.writeReason src (0x5008 + 16 * ch) w =
      if srcBarred src (0x5008 + 16 * ch) then some 6 else s.boxReason src .mbCtrl ch w.toNat := by
  rw [s.writeReason_reg src w (by omega) (regAt_mbCtrl hc)]
  rfl

/-- Why a post is refused: from the other side, to a tile that the part has not, into a full slot. -/
theorem State.boxReason_ring (src : Src) (ch : Nat) : s.boxReason src .mbCtrl ch 1 =
    if src = .host ∧ hostSends ch = false then some 7
    else if 32 ≤ ch ∧ s.onPart (ch - 32) = false then some 5
    else if (s.slot ch).full then some 4 else none := by
  simp [State.boxReason, bit]

/-- Why a take is refused: from the other side, from an empty slot. -/
theorem State.boxReason_take (src : Src) (ch : Nat) : s.boxReason src .mbCtrl ch 2 =
    if src = .host ∧ hostReceives ch = false then some 7
    else if (s.slot ch).full = false then some 4 else none := by
  simp [State.boxReason, bit]
  
/-! ## O9: the tiles that the NHD-T256 has not (R4) -/

theorem State.onPart_t256 {u : Nat} (hp : s.part = .t256) (hu : 16 ≤ u) : s.onPart u = false := by
  simp [State.onPart, State.nTiles, hp, hu]

theorem onTile_off {t : Nat} (f : State → State) (ht : t < 64) (ho : s.onPart t = false) : onTile t s f = .next s := by
  simp [onTile, ht, ho]

/-- A packed word's byte is that of its field, where the fields are the four bytes. -/
theorem packW_byte (v : Nat → Nat) {k : Nat} (hk : k < 4) :
    packW ((List.range 4).map (fun j => (8 * j, 8, v j))) / 2 ^ (8 * k) % 256 = v k % 256 := by
  have : k = 0 ∨ k = 1 ∨ k = 2 ∨ k = 3 := by omega
  simp only [show List.range 4 = [0, 1, 2, 3] from rfl, List.map, packW]
  rcases this with rfl | rfl | rfl | rfl <;> omega

/-- What a register of the third group of chip registers reads. -/
theorem State.regValue_chip2 {a i v : Nat} {row : RegRow} (h : regAt a = some ⟨row, i, none⟩)
    (h0 : s.readChip0 row.reg i = none) (h1 : s.readChip1 row.reg i = none) (h2 : s.readChip2 row.reg i = some v) :
    s.regValue a = v := by
  rw [State.regValue, h]
  simp only [h0, h1, h2]
  rfl

/-- A contact-sheet word holds the bytes of four channels, 0 for a channel of a tile that the part has not (R506). -/
theorem State.regValue_csByte {i : Nat} (hi : i < 272) : s.regValue (0x8800 + 4 * i) =
    packW ((List.range 4).map (fun k => (8 * k, 8,
      if s.onPart ((4 * i + k) / 17) then s.sheetByte ((4 * i + k) / 17) ((4 * i + k) % 17) else 0))) :=
  s.regValue_chip2 (regAt_csByte hi) rfl rfl rfl

theorem State.sheetByte_off {i u c : Nat} (hi : i < 272) (hc : c < 17) (hl : 4 * i ≤ 17 * u + c) (hh : 17 * u + c < 4 * i + 4)
    (ho : s.onPart u = false) : s.regValue (0x8800 + 4 * i) / 2 ^ (8 * ((17 * u + c) % 4)) % 256 = 0 := by
  have hk : 4 * i + (17 * u + c) % 4 = 17 * u + c := by omega
  have hu : (17 * u + c) / 17 = u := by omega
  rw [s.regValue_csByte hi, packW_byte _ (Nat.mod_lt _ (by omega)), hk, hu, if_neg (by simp [ho])]

/-- A doorbell on the channel of a tile that the part has not is refused, whoever writes it, for a reason that is not 0. -/
theorem State.writeReason_ring_off (src : Src) {u : Nat} (hu : u < 64) (ho : s.onPart u = false) :
    ∃ r, r ≠ 0 ∧ s.writeReason src (0x5008 + 16 * (32 + u)) 1 = some r := by
  rw [s.writeReason_mbCtrl src 1 (by omega)]
  split
  · exact ⟨6, by decide, rfl⟩
  · rw [show (1 : Reg32).toNat = 1 from rfl, s.boxReason_ring]
    split
    · exact ⟨7, by decide, rfl⟩
    · rw [if_pos ⟨by omega, by simpa using ho⟩]
      exact ⟨5, by decide, rfl⟩

/-- A refused post or take leaves its record. -/
theorem State.writeAt_mbCtrl_refused {src : Src} {ch r : Nat} {w : Reg32} (hc : ch < 96)
    (k : (s.advance 1).writeReason src (0x5008 + 16 * ch) w = some r) :
    s.WriteRefused (s.writeAt src (0x5008 + 16 * ch) w none) src (0x5008 + 16 * ch) r := by
  refine s.writeAt_refused k ((s.advance 1).reportStart_none (fun x hx => ?_) (.inr (by omega)))
  cases (regAt_mbCtrl hc).symm.trans hx
  simp

theorem State.WriteRefused.slot {s t : State} {src : Src} {a r : Nat} (h : s.WriteRefused t src a r) (k : Nat) :
    t.slot k = s.slot k := by
  obtain ⟨-, -, -, -, h⟩ := h
  exact (congrArg (State.slot · k) h).trans (s.advance_slot 1 k)

end Sys2Proof.Machine
open Sys2Proof Sys2Proof.Machine

/-- Settles O9: a tile that is not on the part serves no register (R4), so its edges, registers and contact-sheet bytes are
those of no tile, and what is written to it is refused. -/
theorem tilesThatThePartHasNot : Obligations.TilesThatThePartHasNot := by
  intro s u hp hl hu hup
  have ho : s.onPart u = false := s.onPart_t256 hp hl
  refine ⟨fun c rise sub m hc => ?_, fun a ha => s.regValue_off ha ho, fun src a w ha => s.writeReason_off src w ha ho,
    fun src => ?_, fun i c hi hc hle hlt => s.sheetByte_off hi hc hle hlt ho⟩
  · show execEdge u c rise sub m s = _
    rw [execEdge, onChan, if_pos hc, onTile_off s _ hu ho]
  · obtain ⟨r, hr, k⟩ := (s.advance 1).writeReason_ring_off src hu (by simpa using ho)
    have h := s.writeAt_mbCtrl_refused (by omega) k
    obtain ⟨haddr, hreason, -, hcnt, -⟩ := id h
    exact ⟨_, exec_ring s src (by omega) hup, h.slot _, haddr, hreason ▸ hr, hcnt⟩

end

/-! ## O52: posts and takes of a mailbox slot (R456 to R465) -/
section
namespace Sys2Proof.Machine
open Sys2Proof
variable (s : State)

theorem State.advance_age (n : Nat) (h : s.up = true) : (s.advance n).tb.age = s.tb.age + n := by
  rw [s.advance_up n h, Timebase.run_age]

@[simp] theorem State.stream_notice_same (ch : Nat) (b : Bool) : ((s.notice ch b).stream 6 0).wait = (s.stream 6 0).wait ++
    [{ words := [noticeRecord ch b (s.slot ch).gen.toNat (s.slot ch).tag.toNat (s.slot ch).ptr.toNat]
       ready := some s.tb.age }] := s.stream_send_same 6 0 _

@[simp] theorem State.setSlot_stream (ch c i : Nat) (x : Slot) : (s.setSlot ch x).stream c i = s.stream c i := rfl

/-! ### A post -/

/-- The generation that a post of `src` records (R456). -/
def State.genOf (s : State) (src : Src) : BitVec 8 := if src = .host then s.sup.hostGen else s.sup.supGen

/-- The slot after a post. -/
def State.rung (s : State) (src : Src) (ch : Nat) : Slot := { s.slot ch with full := true, gen := s.genOf src }

theorem State.ringBox_eq (src : Src) (ch : Nat) : s.ringBox src ch =
    if hostReceives ch = true then (s.setSlot ch (s.rung src ch)).notice ch false else s.setSlot ch (s.rung src ch) := rfl

theorem State.slot_ringBox (src : Src) (ch k : Nat) :
    (s.ringBox src ch).slot k = if k = ch then s.rung src ch else s.slot k := by
  rw [State.ringBox_eq]
  split <;> simp [State.slot_setSlot]

/-- The notice of a message goes to the host where it receives on the channel (R459). -/
theorem State.stream_ringBox (src : Src) (ch : Nat) : ((s.ringBox src ch).stream 6 0).wait = (s.stream 6 0).wait ++
    (if hostReceives ch = true then [{
      words := [noticeRecord ch false (s.rung src ch).gen.toNat (s.slot ch).tag.toNat (s.slot ch).ptr.toNat]
      ready := some s.tb.age }] else []) := by
  rw [State.ringBox_eq]
  split <;> simp [State.slot_setSlot, State.rung]

theorem State.ringBox_frame (src : Src) (ch : Nat) : { s.ringBox src ch with lk := s.lk, sup := s.sup } = s := by
  rw [State.ringBox_eq]
  split <;> rfl

/-! ### A take -/

/-- A take holds the empty notice back while the slot's sender is in reset; an event's post has no sender (R463, R465). -/
def State.holdsNotice (s : State) (ch : Nat) : Bool :=
  if hostSends ch = true then s.lk.hostReset else decide ((s.slot ch).gen ≠ 0) && s.sup.restarting

/-- The slot after a take. -/
def State.taken (s : State) (ch : Nat) : Slot :=
  { s.slot ch with full := false, held := (s.slot ch).held || s.holdsNotice ch }

theorem State.takeBox_eq (ch : Nat) : s.takeBox ch =
    (let e := s.setSlot ch { s.slot ch with full := false }
     if hostSends ch = true then
       (if s.lk.hostReset = true then e.setSlot ch { e.slot ch with held := true } else e.notice ch true)
     else if (s.slot ch).gen ≠ 0 ∧ s.sup.restarting = true then e.setSlot ch { e.slot ch with held := true }
     else e) := rfl

/-- A take holds the notice, or tells the host, or tells nobody. -/
theorem State.takeBox_cases (ch : Nat) :
    (s.holdsNotice ch = true ∧ (hostSends ch = true → s.lk.hostReset = true) ∧
      s.takeBox ch = (s.setSlot ch { s.slot ch with full := false }).setSlot ch { s.slot ch with full := false, held := true }) ∨
    (s.holdsNotice ch = false ∧ hostSends ch = true ∧ s.lk.hostReset = false ∧
      s.takeBox ch = (s.setSlot ch { s.slot ch with full := false }).notice ch true) ∨
    (s.holdsNotice ch = false ∧ hostSends ch = false ∧ s.takeBox ch = s.setSlot ch { s.slot ch with full := false }) := by
  have hf : (s.setSlot ch { s.slot ch with full := false }).slot ch = { s.slot ch with full := false } := by
    rw [State.slot_setSlot, if_pos rfl]
  simp only [State.takeBox_eq, hf, State.holdsNotice]
  by_cases hs : hostSends ch = true
  · by_cases hr : s.lk.hostReset = true <;> simp [hs, hr]
  · by_cases hg : (s.slot ch).gen ≠ 0 ∧ s.sup.restarting = true
    · rw [if_neg hs, if_neg hs, if_pos hg]
      exact .inl ⟨by simpa using hg, fun h => absurd h hs, rfl⟩
    · rw [if_neg hs, if_neg hs, if_neg hg]
      exact .inr (.inr ⟨by simpa using hg, by simpa using hs, rfl⟩)

theorem State.slot_takeBox (ch k : Nat) : (s.takeBox ch).slot k = if k = ch then s.taken ch else s.slot k := by
  obtain ⟨hh, -, ht⟩ | ⟨hh, -, -, ht⟩ | ⟨hh, -, ht⟩ := s.takeBox_cases ch
  · simp only [ht, State.slot_setSlot, State.taken, hh, Bool.or_true]
    split <;> rfl
  · simp [ht, State.slot_setSlot, State.taken, hh]
  · simp [ht, State.slot_setSlot, State.taken, hh]

theorem State.stream_takeBox (ch : Nat) : ((s.takeBox ch).stream 6 0).wait = (s.stream 6 0).wait ++
    (if hostSends ch = true ∧ s.lk.hostReset = false then [{
      words := [noticeRecord ch true (s.slot ch).gen.toNat (s.slot ch).tag.toNat (s.slot ch).ptr.toNat]
      ready := some s.tb.age }] else []) := by
  obtain ⟨-, hr, ht⟩ | ⟨-, hs, hr, ht⟩ | ⟨-, hs, ht⟩ := s.takeBox_cases ch
  · rw [if_neg (fun h => by simp [hr h.1] at h), ht]
    simp
  · simp [ht, hs, hr, State.slot_setSlot]
  · simp [ht, hs]

theorem State.takeBox_frame (ch : Nat) : { s.takeBox ch with lk := s.lk, sup := s.sup } = s := by
  obtain ⟨-, -, ht⟩ | ⟨-, -, -, ht⟩ | ⟨-, -, ht⟩ := s.takeBox_cases ch <;> rw [ht] <;> rfl

/-! ### Writes of a mailbox slot's registers -/

theorem secureAddr_box {a ch : Nat} (hl : 0x5000 + 16 * ch ≤ a) (hh : a < 0x5010 + 16 * ch) (hc : ch < 96) :
    secureAddr a = secureBox ch := by
  have h0 : ¬ 0x840000 ≤ a := by omega
  have h1 : 0x5000 ≤ a ∧ a < 0x5600 := by omega
  have h2 : (a - 0x5000) / 16 = ch := by omega
  rw [secureAddr, decide_eq_false h0, decide_eq_true h1.1, decide_eq_true h1.2, h2]
  rfl

/-- The registers of a mailbox slot are open to the same writers (R457). -/
theorem srcBarred_box (src : Src) {a ch : Nat} (hl : 0x5000 + 16 * ch ≤ a) (hh : a < 0x5010 + 16 * ch) (hc : ch < 96) :
    srcBarred src a = srcBarred src (0x5008 + 16 * ch) := by
  have h : secureAddr a = secureAddr (0x5008 + 16 * ch) := by
    rw [secureAddr_box hl hh hc, secureAddr_box (by omega) (by omega) hc]
  unfold srcBarred
  split <;> simp only [h]

theorem State.applyWrite_mbCtrl (src : Src) {ch : Nat} (w : Reg32) (h : Option CtlHead) (hc : ch < 96) :
    s.applyWrite src (0x5008 + 16 * ch) w h =
      if bit w.toNat 0 then s.ringBox src ch else if bit w.toNat 1 then s.takeBox ch else s := by
  rw [State.applyWrite, msgOffset_of_regAt (regAt_mbCtrl hc), regAt_mbCtrl hc]
  rfl

/-- A post that nothing refuses. -/
theorem State.writeAt_ring {src : Src} {ch : Nat} (hc : ch < 96)
    (k : (s.advance 1).writeReason src (0x5008 + 16 * ch) 1 = none) :
    s.writeAt src (0x5008 + 16 * ch) 1 none = (s.advance 1).ringBox src ch := by
  rw [s.writeAt_applied k, State.applyWrite_mbCtrl _ _ _ _ hc]
  rfl

/-- A take that nothing refuses. -/
theorem State.writeAt_take {src : Src} {ch : Nat} (hc : ch < 96)
    (k : (s.advance 1).writeReason src (0x5008 + 16 * ch) 2 = none) :
    s.writeAt src (0x5008 + 16 * ch) 2 none = (s.advance 1).takeBox ch := by
  rw [s.writeAt_applied k, State.applyWrite_mbCtrl _ _ _ _ hc]
  rfl

/-- A slot with its PTR or TAG written. -/
def Slot.put (x : Slot) (o : Nat) (w : Reg32) : Slot :=
  if o = 0 then { x with ptr := w.setWidth 24 } else { x with tag := w.setWidth 16 }

/-- PTR or TAG of a slot takes the value written (R456). -/
theorem State.applyWrite_slot (src : Src) {ch o : Nat} (w : Reg32) (h : Option CtlHead) (hc : ch < 96) (ho : o = 0 ∨ o = 4) :
    s.applyWrite src (0x5000 + 16 * ch + o) w h = s.setSlot ch ((s.slot ch).put o w) := by
  rcases ho with rfl | rfl
  · rw [Nat.add_zero, State.applyWrite, msgOffset_of_regAt (regAt_mbPtr hc), regAt_mbPtr hc]
    simp [State.setField, regAt_mbPtr hc, State.actChip, Slot.put]
    rw [show 16777215#24 = BitVec.allOnes 24 from rfl, BitVec.and_allOnes]
  · rw [Nat.add_right_comm, State.applyWrite, msgOffset_of_regAt (regAt_mbTag hc), regAt_mbTag hc]
    simp [State.setField, regAt_mbTag hc, State.actChip, Slot.put]
    rw [show 65535#16 = BitVec.allOnes 16 from rfl, BitVec.and_allOnes]

/-- Why a write of PTR or TAG is refused for the slot's sake: from the other side, or while it is full. -/
theorem State.boxReason_slot (src : Src) {r : Reg} (ch w : Nat) (hr : r = .mbPtr ∨ r = .mbTag) : s.boxReason src r ch w =
    if src = .host ∧ hostSends ch = false then some 7 else if (s.slot ch).full then some 4 else none := by
  rcases hr with rfl | rfl <;> simp [State.boxReason]

/-- Why a write of PTR or TAG is refused, where its value is one that it takes. -/
theorem State.writeReason_slot (src : Src) {ch o : Nat} (w : Reg32) (hc : ch < 96) (ho : o = 0 ∨ o = 4)
    (hb : srcBarred src (0x5008 + 16 * ch) = false) (hw : o = 0 → w.toNat % 8 = 0 ∧ w.toNat ≤ 262136)
    (hs : src = .host → hostSends ch = true) :
    s.writeReason src (0x5000 + 16 * ch + o) w = if (s.slot ch).full then some 4 else none := by
  have hb' : srcBarred src (0x5000 + 16 * ch + o) = false := (srcBarred_box src (by omega) (by omega) hc).trans hb
  have hside : ¬ (src = .host ∧ hostSends ch = false) := by
    rintro ⟨he, hn⟩
    simp [hs he] at hn
  rcases ho with rfl | rfl
  · obtain ⟨h8, hm⟩ := hw rfl
    rw [Nat.add_zero] at hb' ⊢
    rw [s.writeReason_reg src w (by omega) (regAt_mbPtr hc), hb']
    simp [Reg.valueBad, h8, hm, State.stateReason, s.boxReason_slot, hside]
  · rw [Nat.add_right_comm] at hb' ⊢
    rw [s.writeReason_reg src w (by omega) (regAt_mbTag hc), hb']
    simp [Reg.valueBad, State.stateReason, s.boxReason_slot, hside]

/-- A write of PTR or TAG that is refused leaves its record. -/
theorem State.writeAt_slot_refused {src : Src} {ch o r : Nat} {w : Reg32} (hc : ch < 96) (ho : o = 0 ∨ o = 4)
    (k : (s.advance 1).writeReason src (0x5000 + 16 * ch + o) w = some r) :
    s.WriteRefused (s.writeAt src (0x5000 + 16 * ch + o) w none) src (0x5000 + 16 * ch + o) r := by
  refine s.writeAt_refused k ((s.advance 1).reportStart_none (fun x hx => ?_) (.inr (by omega)))
  rcases ho with rfl | rfl
  · cases (regAt_mbPtr hc).symm.trans hx
    simp
  · rw [Nat.add_right_comm] at hx
    cases (regAt_mbTag hc).symm.trans hx
    simp

/-! ### What a command on a mailbox slot answers -/

theorem answers_ring_refused {src : Src} {ch r : Nat} (hc : ch < 96) (hu : s.up = true)
    (hb : srcBarred src (0x5008 + 16 * ch) = false) (k : s.boxReason src .mbCtrl ch 1 = some r) :
    Answers (.ring src ch) s (fun t => s.WriteRefused t src (0x5008 + 16 * ch) r) :=
  ⟨_, exec_ring s src hc hu, s.writeAt_mbCtrl_refused hc (by
    rw [State.writeReason_mbCtrl _ _ _ hc, hb, State.advance_boxReason]
    exact k)⟩

theorem answers_take_refused {src : Src} {ch r : Nat} (hc : ch < 96) (hu : s.up = true)
    (hb : srcBarred src (0x5008 + 16 * ch) = false) (k : s.boxReason src .mbCtrl ch 2 = some r) :
    Answers (.take src ch) s (fun t => s.WriteRefused t src (0x5008 + 16 * ch) r) :=
  ⟨_, exec_take s src hc hu, s.writeAt_mbCtrl_refused hc (by
    rw [State.writeReason_mbCtrl _ _ _ hc, hb, State.advance_boxReason]
    exact k)⟩

theorem exec_ring_applied {src : Src} {ch : Nat} (hc : ch < 96) (hu : s.up = true)
    (hb : srcBarred src (0x5008 + 16 * ch) = false) (k : s.boxReason src .mbCtrl ch 1 = none) :
    exec (.ring src ch) s = .next ((s.advance 1).ringBox src ch) := by
  rw [exec_ring s src hc hu, s.writeAt_ring hc]
  rw [State.writeReason_mbCtrl _ _ _ hc, hb, State.advance_boxReason]
  exact k

theorem exec_take_applied {src : Src} {ch : Nat} (hc : ch < 96) (hu : s.up = true)
    (hb : srcBarred src (0x5008 + 16 * ch) = false) (k : s.boxReason src .mbCtrl ch 2 = none) :
    exec (.take src ch) s = .next ((s.advance 1).takeBox ch) := by
  rw [exec_take s src hc hu, s.writeAt_take hc]
  rw [State.writeReason_mbCtrl _ _ _ hc, hb, State.advance_boxReason]
  exact k

end Sys2Proof.Machine
open Sys2Proof Sys2Proof.Machine

/-- Settles O52: each command is one write of one register of the slot, refused for the first of the reasons of R457, R4 and
R456 that holds, and otherwise a post, a take or a new PTR or TAG one slot on. -/
theorem ringAndTake : Obligations.RingAndTake := by
  intro src ch s hc hu hb
  have hnot : ∀ {b : Bool}, (src = .host → b = true) → ¬ (src = .host ∧ b = false) := by
    rintro b h ⟨he, hn⟩
    simp [h he] at hn
  have hat : ∀ {o : Nat}, o = 0 ∨ o = 4 → (BitVec.ofNat 24 (0x5000 + 16 * ch + o)).toNat = 0x5000 + 16 * ch + o := by
    intro o ho
    rw [BitVec.toNat_ofNat, Nat.mod_eq_of_lt (by omega)]
  refine ⟨fun hs he hp => ?ringEmpty, fun hs hf => ?takeFull, fun hs hf hp => ?ringFull, fun hs hl hp => ?ringOff,
    fun w o ho hs hw => ⟨fun hf => ?putFull, fun he => ?putEmpty⟩, fun hs he => ?takeEmpty, fun hs hn => ?ringSide,
    fun hs hn => ?takeSide⟩
  case ringEmpty =>
    have k : s.boxReason src .mbCtrl ch 1 = none := by
      rw [s.boxReason_ring, if_neg (hnot hs), if_neg (by rintro ⟨hl, ho⟩; simp [ho] at hp; omega), he]
      rfl
    refine ⟨_, exec_ring_applied s hc hu hb k, ?_, fun k hk => ?_, ?_, ?_⟩
    · rw [State.slot_ringBox, if_pos rfl]
      simp [State.rung, State.genOf]
    · rw [State.slot_ringBox, if_neg hk, s.advance_slot]
    · rw [State.stream_ringBox, State.slot_ringBox, if_pos rfl]
      simp [s.advance_age 1 hu]
    · simpa using (s.advance 1).ringBox_frame src ch
  case takeFull =>
    have k : s.boxReason src .mbCtrl ch 2 = none := by
      rw [s.boxReason_take, if_neg (hnot hs), hf]
      rfl
    refine ⟨_, exec_take_applied s hc hu hb k, ?_, fun k hk => ?_, ?_, ?_⟩
    · rw [State.slot_takeBox, if_pos rfl]
      simp [State.taken, State.holdsNotice]
    · rw [State.slot_takeBox, if_neg hk, s.advance_slot]
    · rw [State.stream_takeBox]
      simp [s.advance_age 1 hu]
    · simpa using (s.advance 1).takeBox_frame ch
  case ringFull =>
    refine answers_ring_refused s hc hu hb ?_
    rw [s.boxReason_ring, if_neg (hnot hs), if_neg (by rintro ⟨hl, ho⟩; simp [ho] at hp; omega), hf]
    rfl
  case ringOff =>
    refine answers_ring_refused s hc hu hb ?_
    rw [s.boxReason_ring, if_neg (fun h => hs h.1), if_pos ⟨hl, hp⟩]
  case putFull =>
    refine ⟨_, exec_registerWrite s src _ w hu, ?_⟩
    rw [hat ho]
    refine s.writeAt_slot_refused hc ho ?_
    rw [State.writeReason_slot _ src w hc ho hb hw hs, s.advance_slot, hf]
    rfl
  case putEmpty =>
    have k : (s.advance 1).writeReason src (0x5000 + 16 * ch + o) w = none := by
      rw [State.writeReason_slot _ src w hc ho hb hw hs, s.advance_slot, he]
      rfl
    refine ⟨_, exec_registerWrite s src _ w hu, ?_⟩
    rw [hat ho, s.writeAt_applied k, State.applyWrite_slot _ src w none hc ho]
    refine ⟨by rw [State.slot_setSlot, if_pos rfl, s.advance_slot]; rfl,
      fun j hj => by rw [State.slot_setSlot, if_neg hj, s.advance_slot], ?_⟩
    rw [← s.advance_sup 1]
    rfl
  case takeEmpty =>
    refine answers_take_refused s hc hu hb ?_
    rw [s.boxReason_take, if_neg (hnot hs), if_pos he]
  case ringSide =>
    refine answers_ring_refused s hc hu hb ?_
    rw [s.boxReason_ring, if_pos ⟨hs, hn⟩]
  case takeSide =>
    refine answers_take_refused s hc hu hb ?_
    rw [s.boxReason_take, if_pos ⟨hs, hn⟩]

end

/-! ## O60: a register write is applied whole or refused whole (R510 to R517) -/
section
namespace Sys2Proof.Machine
open Sys2Proof

/-! ### A word of message memory -/

theorem length_leBytes (n v : Nat) : (leBytes n v).length = n := by
  induction n generalizing v with
  | zero => rfl
  | succ n ih => simp [leBytes, ih]

theorem leNat_leBytes (n v : Nat) : leNat (leBytes n v) = v % 256 ^ n := by
  induction n generalizing v with
  | zero => simp [leBytes, leNat, Nat.mod_one]
  | succ n ih =>
    rw [leBytes, leNat, ih, BitVec.toNat_ofNat, pow_succ' 256 n, Nat.mod_mul]

/-- Bytes written are read back. -/
theorem readBytes_writeBytes (bs : List Byte) (m : Memory) (a : Nat) :
    readBytes (writeBytes m a bs) a bs.length = bs := by
  induction bs generalizing m a with
  | nil => rfl
  | cons b bs ih =>
    rw [List.length_cons, readBytes, writeBytes, ih, readByte_writeBytes_outside bs _ _ _ (by omega), readByte_writeByte,
      if_pos rfl]

/-- A word written is read back. -/
theorem readW32_writeW32 (m : Memory) (a : Nat) (w : Reg32) : readW32 (writeW32 m a w) a = w := by
  have h := readBytes_writeBytes (leBytes 4 w.toNat) m a
  rw [length_leBytes] at h
  rw [readW32, writeW32, h, leNat_leBytes, Nat.mod_eq_of_lt (by omega), BitVec.ofNat_toNat, BitVec.setWidth_eq]

variable (s : State)

theorem State.applyWrite_msg (src : Src) {a o : Nat} (w : Reg32) (h : Option CtlHead) (hm : msgOffset a = some o) :
    s.applyWrite src a w h = s.msgWrite o w := by
  rw [State.applyWrite, hm]

theorem State.msgWrite_msg (o : Nat) (w : Reg32) : (s.msgWrite o w).msg = writeW32 s.msg o w := rfl

theorem State.msgWrite_frame (o : Nat) (w : Reg32) : { s.msgWrite o w with msg := s.msg, dep := s.dep } = s := rfl

theorem State.advance_dep (n : Nat) (h : s.up = true) : (s.advance n).dep = s.dep := by rw [s.advance_up n h]

/-! ### What the setting of a register leaves -/

/-- The registers, the timebase, message memory and the count of refused writes stand as they were. -/
def State.SameRegs (s t : State) : Prop := t.regs = s.regs ∧ t.tb = s.tb ∧ t.msg = s.msg ∧ t.refCnt = s.refCnt

variable {s}

theorem State.SameRegs.refl (s : State) : s.SameRegs s := ⟨rfl, rfl, rfl, rfl⟩

theorem State.SameRegs.trans {s t u : State} (h : s.SameRegs t) (k : t.SameRegs u) : s.SameRegs u :=
  ⟨k.1.trans h.1, k.2.1.trans h.2.1, k.2.2.1.trans h.2.2.1, k.2.2.2.trans h.2.2.2⟩

/-- Setting event sources leaves them. -/
theorem State.EventsApart.sameRegs {t : State} (h : s.EventsApart t) : s.SameRegs t :=
  ⟨(congrArg State.regs h.1 :), (congrArg State.tb h.1 :), (congrArg State.msg h.1 :), (congrArg State.refCnt h.1 :)⟩

/-- What each operation of a run over keys keeps, the run keeps: `R` says that a state keeps what another one has. -/
theorem forKeys_keeps {R : State → State → Prop} (hr : ∀ s, R s s) (ht : ∀ {s t u}, R s t → R t u → R s u)
    {f : Nat → State → State} (hf : ∀ k s, R s (f k s)) (ks : List Nat) (s : State) : R s (forKeys ks f s) := by
  unfold forKeys
  induction ks generalizing s with
  | nil => exact hr s
  | cons k ks ih => exact ht (hf k s) (ih (f k s))

variable (s)

theorem State.apart_unmask (first old new n : Nat) : s.EventsApart (s.unmask first old new n) := by
  refine forKeys_keeps State.EventsApart.refl State.EventsApart.trans (fun k s => ?_) _ s
  split
  · exact s.apart_routes ..
  · exact .refl s

theorem State.sameRegs_endHold : s.SameRegs s.endHold := by
  unfold State.endHold State.updQuality
  split
  · split
    · exact ⟨rfl, rfl, rfl, rfl⟩
    · exact State.SameRegs.trans ⟨rfl, rfl, rfl, rfl⟩ (State.apart_raise _ _).sameRegs
  · exact .refl s

/-- A step that an operation may take. -/
theorem State.SameRegs.ite {s t : State} {p : Prop} [Decidable p] (h : s.SameRegs t) : s.SameRegs (if p then t else s) := by
  split
  · exact h
  · exact .refl s

theorem State.sameRegs_modTile (t : Nat) (f : Tile → Tile) : s.SameRegs (s.modTile t f) := ⟨rfl, rfl, rfl, rfl⟩

theorem State.sameRegs_modChan (t c : Nat) (f : Chan → Chan) : s.SameRegs (s.modChan t c f) := s.sameRegs_modTile ..

theorem State.sameRegs_setLatch (t k : Nat) (v : Bool) : s.SameRegs (s.setLatch t k v) :=
  (s.sameRegs_modTile t _).trans (State.SameRegs.ite (State.apart_raise ..).sameRegs)

theorem State.sameRegs_lmStart (t : Nat) : s.SameRegs (s.lmStart t) :=
  (s.sameRegs_modTile t _).trans ((State.sameRegs_modTile _ t _).trans
    (forKeys_keeps State.SameRegs.refl State.SameRegs.trans (fun k s => .ite (s.sameRegs_setLatch t k _)) _ _))

theorem State.sameRegs_setChCfg (t c : Nat) (w : Reg32) :
    (s.setReg (tileBase t + 0x400 + 64 * c) w).SameRegs (s.setChCfg t c w) :=
  (State.SameRegs.ite (State.sameRegs_modChan ..)).trans (.ite (State.sameRegs_modChan ..))

theorem State.sameRegs_setLmCtrl (t : Nat) (w : Reg32) : (s.setReg (tileBase t + 0x840) w).SameRegs (s.setLmCtrl t w) :=
  .ite (State.sameRegs_lmStart ..)

/-- A register in a tile block lies in a tile row (R505). -/
theorem regAt_inTile {a u : Nat} {x : RegAt} (h : regAt a = some x) (hu : x.tile = some u) :
    x.row ∈ tileRows ∧ a = tileBase u + x.row.base + x.row.step * x.i ∧ x.i < x.row.n := by
  have ht := tileOf_of_regAt h hu
  simp only [regAt, ht, Option.map_eq_some_iff] at h
  obtain ⟨⟨r, i⟩, hf, rfl⟩ := h
  obtain ⟨hr, hi⟩ := findRow_some hf
  obtain ⟨ha, hn⟩ := RegRow.index_some hi
  refine ⟨hr, ?_, hn⟩
  unfold tileOf at ht
  split at ht
  · simp only [Option.some.injEq] at ht
    simp only at ha ⊢
    rw [tileBase]
    omega
  · cases ht

theorem regAt_chCfg {a : Nat} {x : RegAt} (h : regAt a = some x) (hr : x.row.reg = .chCfg) :
    a = tileBase (x.tile.getD 0) + 0x400 + 64 * x.i := by
  rcases hx : x.tile with _ | u
  · have hc : ∀ r ∈ chipRows, r.reg ≠ .chCfg := by decide +kernel
    exact absurd hr (hc _ (regAt_chip h hx).1)
  · obtain ⟨hm, ha, hi⟩ := regAt_inTile h hx
    have hc : ∀ r ∈ tileRows, r.reg = .chCfg → r.base = 0x400 ∧ r.step = 64 := by decide +kernel
    obtain ⟨hb, hs⟩ := hc _ hm hr
    rw [ha, hb, hs, Option.getD_some]

theorem regAt_lmCtrl {a : Nat} {x : RegAt} (h : regAt a = some x) (hr : x.row.reg = .lmCtrl) :
    a = tileBase (x.tile.getD 0) + 0x840 := by
  rcases hx : x.tile with _ | u
  · have hc : ∀ r ∈ chipRows, r.reg ≠ .lmCtrl := by decide +kernel
    exact absurd hr (hc _ (regAt_chip h hx).1)
  · obtain ⟨hm, ha, hi⟩ := regAt_inTile h hx
    have hc : ∀ r ∈ tileRows, r.reg = .lmCtrl → r.base = 0x840 ∧ r.n = 1 := by decide +kernel
    obtain ⟨hb, hn⟩ := hc _ hm hr
    have hi : x.i = 0 := by omega
    rw [ha, hb, hi, Option.getD_some, Nat.mul_zero, Nat.add_zero]

/-- A field that takes a value changes the register that holds it; what follows changes no register. -/
theorem State.sameRegs_setField {a : Nat} {x : RegAt} (w : Reg32) (hr : regAt a = some x)
    (hn : x.row.reg ∉ [.mbPtr, .mbTag, .tcXbar, .chThr, .tbCtrl]) : (s.setReg a w).SameRegs (s.setField a w) := by
  unfold State.setField
  rw [hr]
  simp only
  split
  case h_3 => exact (State.apart_unmask ..).sameRegs
  case h_4 => exact (State.apart_unmask ..).sameRegs
  case h_5 => exact State.sameRegs_endHold _
  case h_7 hk => exact regAt_chCfg hr hk ▸ s.sameRegs_setChCfg _ _ w
  case h_9 hk => exact regAt_lmCtrl hr hk ▸ s.sameRegs_setLmCtrl _ w
  case h_11 => exact .refl _
  all_goals simp_all

/-! ### A register without commands -/

/-- The chip registers whose write does more than set its fields: each has a W1C or a WO bit. -/
def chipActs : List Reg :=
  [.tbCtrl, .tbRampCtrl, .ttCtrl, .lkCtrl, .evStat, .evForce, .mbCtrl, .mbHostctl, .secCtrl, .cfgCtrl, .calCtrl, .csByte,
   .pwCtrl, .pwRegateLo, .pwRegateHi, .depCtrl, .depEngRet, .depTileRst]

/-- The tile registers whose write does more than set its fields: each has a W1C or a WO bit. -/
def tileActs : List Reg := [.tcHoCtrl, .chCheck, .chCapstat, .lmLatch, .tqStat, .engCtrl, .teStat]

theorem State.actChip_none (src : Src) {r : Reg} (i w : Nat) (h : Option CtlHead) (hr : r ∉ chipActs) :
    s.actChip src r i w h = s := by
  unfold State.actChip
  split
  case h_19 => rfl
  all_goals exact absurd (by decide) hr

theorem State.actTile_none (t : Nat) {r : Reg} (i w : Nat) (hr : r ∉ tileActs) : s.actTile t r i w = s := by
  unfold State.actTile
  split
  case h_8 => rfl
  all_goals exact absurd (by decide) hr

theorem regAt_row {a : Nat} {x : RegAt} (h : regAt a = some x) : x.row ∈ chipRows ++ tileRows := by
  rcases hx : x.tile with _ | u
  · exact List.mem_append_left _ (regAt_chip h hx).1
  · exact List.mem_append_right _ (regAt_inTile h hx).1

theorem regAt_noActs {a : Nat} {x : RegAt} (h : regAt a = some x) (h1 : x.row.w1c = 0) (h0 : x.row.wo = 0) :
    x.row.reg ∉ chipActs ∧ x.row.reg ∉ tileActs := by
  have hr : ∀ r ∈ chipRows ++ tileRows, r.w1c = 0 → r.wo = 0 → r.reg ∉ chipActs ∧ r.reg ∉ tileActs := by decide +kernel
  exact hr _ (regAt_row h) h1 h0

/-- A write of a register without W1C and WO bits sets its fields and does nothing else. -/
theorem State.applyWrite_field (src : Src) {a : Nat} {x : RegAt} (w : Reg32) (h : Option CtlHead) (hr : regAt a = some x)
    (h1 : x.row.w1c = 0) (h0 : x.row.wo = 0) (hw : x.row.rw ≠ 0) :
    s.applyWrite src a w h = s.setField a (BitVec.ofNat 32 (Nat.land w.toNat x.row.rw)) := by
  obtain ⟨hchip, htile⟩ := regAt_noActs hr h1 h0
  rw [State.applyWrite, msgOffset_of_regAt hr, hr]
  simp only [if_neg hw]
  split
  next t _ => exact State.actTile_none _ t _ _ htile
  next => exact State.actChip_none _ src _ _ h hchip

/-- A register that takes a write without W1C and WO bits has an RW field. -/
theorem State.rw_of_writeReason {src : Src} {a : Nat} {x : RegAt} {w : Reg32} (ha : a % 4 = 0) (hr : regAt a = some x)
    (h1 : x.row.w1c = 0) (h0 : x.row.wo = 0) (k : s.writeReason src a w = none) : x.row.rw ≠ 0 := by
  intro hw
  rw [s.writeReason_reg src w ha hr, if_pos (⟨hw, h1, h0⟩ : _ ∧ _ ∧ _)] at k
  split at k <;> cases k

theorem State.SameRegs.rv {s t : State} (h : s.SameRegs t) (b : Nat) : t.rv b = s.rv b := by
  obtain ⟨hregs, -⟩ := h
  rw [State.rv, State.rv, hregs]

theorem toNat_land (w : Reg32) (m : Nat) : (BitVec.ofNat 32 (Nat.land w.toNat m)).toNat = Nat.land w.toNat m := by
  rw [BitVec.toNat_ofNat, Nat.mod_eq_of_lt]
  exact lt_of_le_of_lt Nat.and_le_left w.isLt

/-! ### The sticky bits of the chip sources -/

theorem State.writeReason_evStat (src : Src) {i : Nat} (w : Reg32) (hi : i < 4) : s.writeReason src (0x4020 + 4 * i) w = none := by
  have hb : srcBarred src (0x4020 + 4 * i) = false := by
    have h : secureAddr (0x4020 + 4 * i) = false := by
      rw [secureAddr, decide_eq_false (by omega : ¬ 0x840000 ≤ 0x4020 + 4 * i),
        decide_eq_false (by omega : ¬ 0x5000 ≤ 0x4020 + 4 * i)]
      rfl
    unfold srcBarred
    split <;> simp only [h]
  rw [s.writeReason_reg src w (by omega) (regAt_evStat hi), hb]
  rfl

theorem State.applyWrite_evStat (src : Src) {i : Nat} (w : Reg32) (h : Option CtlHead) (hi : i < 4) :
    s.applyWrite src (0x4020 + 4 * i) w h =
      { s with ev := { s.ev with chip := BitVec.ofNat 128 (clearBits s.ev.chip.toNat (w.toNat * 2 ^ (32 * i))) } } := by
  rw [State.applyWrite, msgOffset_of_regAt (regAt_evStat hi), regAt_evStat hi]
  rfl

/-- Bits clear where ones are written (R517). -/
theorem getLsbD_clearBits (c : BitVec 128) (w : Reg32) {i k : Nat} (hk : k < 128) :
    (BitVec.ofNat 128 (clearBits c.toNat (w.toNat * 2 ^ (32 * i)))).getLsbD k =
      (c.getLsbD k && !(decide (k / 32 = i) && w.getLsbD (k % 32))) := by
  have hx : ∀ n m : Nat, clearBits n m = n ^^^ (n &&& m) := fun _ _ => rfl
  rw [BitVec.getLsbD_ofNat, hx, Nat.testBit_xor, Nat.testBit_and, Nat.testBit_mul_two_pow]
  simp only [hk, decide_true, Bool.true_and, BitVec.testBit_toNat]
  by_cases hi : k / 32 = i
  · have hm : k - 32 * i = k % 32 := by omega
    have hl : 32 * i ≤ k := by omega
    rw [hm, decide_eq_true hl, decide_eq_true hi]
    cases c.getLsbD k <;> simp
  · rw [decide_eq_false hi]
    by_cases hl : 32 * i ≤ k
    · rw [BitVec.getLsbD_of_ge w (k - 32 * i) (by omega)]
      simp
    · simp [hl]

end Sys2Proof.Machine
open Sys2Proof Sys2Proof.Machine

/-- Settles O60: each refusal is the first condition of R515's check that holds, and what is applied goes through the
register's own field or bits. -/
theorem registerWrites : Obligations.RegisterWrites := by
  intro s src a w hu
  have hstep := exec_registerWrite s src a w hu
  refine ⟨fun r k hc hx => ?refused, fun ha => s.writeReason_unaligned src w ha,
    fun ha hm hr => s.writeReason_unmapped src w ha hm hr,
    fun x ha hr => ⟨fun hf => ?rwf, fun h0 h1 h2 h3 => ?empty, fun u hx h0 h1 hs => ?off⟩,
    fun o ha hm => ⟨fun hb => ?secure, fun hh ho => ?replies, fun hb ho => ?message⟩,
    fun x ha hm hr k h1 h0 hn => ?field, fun i hi ha => ?sticky⟩
  case refused =>
    exact ⟨_, hstep, s.writeAt_refused k ((s.advance 1).reportStart_none hx (by rwa [s.advance_cal]))⟩
  case rwf => rw [s.writeReason_reg src w ha hr, if_pos hf]
  case empty => rw [s.writeReason_reg src w ha hr, if_neg (not_not.2 h0), if_pos ⟨h1, h2, h3⟩]
  case off =>
    rw [s.writeReason_reg src w ha hr, if_neg (not_not.2 h0), if_neg h1, hx, if_pos]
    simp [hs]
  case secure => rw [s.writeReason_msg src w ha hm, msgReason, if_pos hb]
  case replies =>
    rw [s.writeReason_msg src w ha hm, msgReason, if_neg (by simp [hh, srcBarred]), if_pos ⟨hh, ho⟩]
  case message =>
    have k : (s.advance 1).writeReason src a.toNat w = none := by
      rw [State.writeReason_msg _ src w ha hm, msgReason, if_neg (by simp [hb]), if_neg]
      rintro ⟨hh, hl⟩
      exact absurd (ho hh) (by omega)
    rw [s.writeAt_applied k, State.applyWrite_msg _ src w none hm] at hstep
    refine ⟨_, hstep, ?_, fun b hb => ?_, ?_⟩
    · rw [State.msgWrite_msg, readW32_writeW32]
    · rw [State.msgWrite_msg, writeW32, readByte_writeBytes_outside _ _ _ _ (by rwa [length_leBytes]), s.advance_msg]
    · rw [← s.advance_msg 1, ← s.advance_dep 1 hu, State.msgWrite_frame]
  case field =>
    have hw := State.rw_of_writeReason _ ha hr h1 h0 k
    have hn' : x.row.reg ∉ [.mbPtr, .mbTag, .tcXbar, .chThr, .tbCtrl] := by
      obtain ⟨hchip, -⟩ := regAt_noActs hr h1 h0
      simp only [chipActs, List.mem_cons, not_or] at hchip hn ⊢
      simp [hn, hchip]
    have hf := (s.advance 1).sameRegs_setField (BitVec.ofNat 32 (Nat.land w.toNat x.row.rw)) hr hn'
    rw [s.writeAt_applied k, State.applyWrite_field _ src w none hr h1 h0 hw] at hstep
    obtain ⟨-, htb, hmsg, hcnt⟩ := id hf
    refine ⟨_, hstep, ?_, fun b hb => ?_, ?_, ?_, ?_⟩
    · rw [hf.rv, State.rv_setReg, if_pos rfl, toNat_land]
    · rw [hf.rv, State.rv_setReg, if_neg hb, s.advance_rv]
    · rw [htb, State.setReg_tb, s.advance_age 1 hu]
    · rw [hmsg, State.setReg_msg, s.advance_msg]
    · rw [hcnt]
      exact s.advance_refCnt 1
  case sticky =>
    rw [ha, s.writeAt_applied (State.writeReason_evStat _ src w hi), State.applyWrite_evStat _ src w none hi] at hstep
    refine ⟨_, hstep, fun k hk => ?_, ?_⟩
    · rw [← s.advance_ev 1]
      exact getLsbD_clearBits _ w hk
    · rw [← s.advance_ev 1]
end

section

namespace Sys2Proof.Machine

open Sys2Proof

variable (s : State)

/-! ## What waits stays: no operation of the state changes the queue of commands -/

theorem forKeys_pending {f : Nat → State → State} (h : ∀ k s, (f k s).pending = s.pending)
    (ks : List Nat) (s : State) :
    (forKeys ks f s).pending = s.pending :=
  forKeys_keeps (R := fun s t => t.pending = s.pending) (fun _ => rfl) (fun h k => k.trans h) h ks s

theorem foldl_pending {α : Type} {f : State → α → State} (h : ∀ s x, (f s x).pending = s.pending)
    (l : List α) (s : State) :
    (l.foldl f s).pending = s.pending := by
  induction l generalizing s with
  | nil => rfl
  | cons x l ih => exact (ih _).trans (h s x)

@[simp] theorem State.pending_ite {p : Prop} [Decidable p] (s t : State) :
    (if p then s else t).pending = if p then s.pending else t.pending :=
  apply_ite _ p s t

/-! ### The shared operations (Sys2Proof/Machine/Ops.lean) -/

@[simp] theorem State.advanceTo_pending (a : Nat) : (s.advanceTo a).pending = s.pending := by simp [State.advanceTo]
@[simp] theorem State.sendWait_pending (cls idx : Nat) (w : Wait) : (s.sendWait cls idx w).pending = s.pending := rfl
@[simp] theorem State.putEntry_pending (kind source detail : Nat) :
    (s.putEntry kind source detail).pending = s.pending := rfl
@[simp] theorem State.log_pending (kind source detail : Nat) :
    (s.log kind source detail).pending = s.pending := by simp [State.log]
@[simp] theorem State.setSticky_pending (k : Nat) : (s.setSticky k).pending = s.pending := by simp [State.setSticky]
@[simp] theorem State.routeAlert_pending (k : Nat) (at_ : Time) (unmask : Bool) :
    (s.routeAlert k at_ unmask).pending = s.pending := by simp [State.routeAlert]
@[simp] theorem State.raiseQuiet_pending (k : Nat) : (s.raiseQuiet k).pending = s.pending := by simp [State.raiseQuiet]
@[simp] theorem State.placePost_pending (k : Nat) : (s.placePost k).pending = s.pending := rfl
@[simp] theorem State.routeBox_pending (k : Nat) : (s.routeBox k).pending = s.pending := by simp [State.routeBox]
@[simp] theorem State.routes_pending (k : Nat) (at_ : Time) (unmask : Bool) :
    (s.routes k at_ unmask).pending = s.pending := by simp [State.routes]
@[simp] theorem State.raiseAt_pending (k : Nat) (at_ : Time) :
    (s.raiseAt k at_).pending = s.pending := by simp [State.raiseAt]
@[simp] theorem State.raise_pending (k : Nat) : (s.raise k).pending = s.pending := by simp [State.raise]
@[simp] theorem State.clear2_pending (m : MemId) (lo n : Nat) : (s.clear2 m lo n).pending = s.pending := rfl
@[simp] theorem State.uncorrectable_pending : s.uncorrectable.pending = s.pending := by simp [State.uncorrectable]
@[simp] theorem State.draw_pending : s.draw.2.pending = s.pending := rfl

/-! ### Queues (Sys2Proof/Machine/Queues.lean) -/

@[simp] theorem State.setQWord_pending (t q pos : Nat) (w : QWord) : (s.setQWord t q pos w).pending = s.pending := rfl
@[simp] theorem State.qSticky_pending (t q : Nat) (f : Queue → Queue) : (s.qSticky t q f).pending = s.pending := rfl
@[simp] theorem State.qRefuse_pending (t q n : Nat) : (s.qRefuse t q n).pending = s.pending := by simp [State.qRefuse]
@[simp] theorem State.fcoRise_pending (k : Nat) : (s.fcoRise k).pending = s.pending := by simp [State.fcoRise]
@[simp] theorem State.fcoReturn_pending (k : Nat) : (s.fcoReturn k).pending = s.pending := by simp [State.fcoReturn]
@[simp] theorem State.qEval_pending (t q : Nat) : (s.qEval t q).pending = s.pending := by simp [State.qEval]
@[simp] theorem State.qPoison_pending (t q : Nat) :
    (s.qPoison t q).pending = s.pending := by simp -implicitDefEqProofs [State.qPoison, forKeys_pending]
@[simp] theorem State.qRead_pending (t q pos : Nat) : (s.qRead t q pos).2.2.pending = s.pending := by simp [State.qRead]
@[simp] theorem State.putWords_pending (t q pos age : Nat) (ws : List (W64 × Option SliceTag)) :
    (s.putWords t q pos age ws).pending = s.pending := by
  induction ws generalizing s pos with
  | nil => rfl
  | cons x xs ih => simp [State.putWords, ih]
@[simp] theorem State.qPut_pending (t q age : Nat) (ws : List (W64 × Option SliceTag)) :
    (s.qPut t q age ws).pending = s.pending := by simp [State.qPut]
@[simp] theorem State.qOffer_pending (t q age : Nat) (ws : List W64) : (s.qOffer t q age ws).2.pending = s.pending := by
  unfold State.qOffer
  split <;> simp
@[simp] theorem State.lbExpire_pending (t : Nat) : (s.lbExpire t).pending = s.pending := by simp [State.lbExpire]
@[simp] theorem State.lbOffer_pending (t age : Nat) (w : W64) : (s.lbOffer t age w).2.pending = s.pending := by
  simp only [State.lbOffer]
  split <;> simp
@[simp] theorem State.capOffer_pending (t q age : Nat) (w : W64) : (s.capOffer t q age w).2.pending = s.pending := by
  unfold State.capOffer
  split <;> simp
@[simp] theorem State.qEmit_pending (t q : Nat) (w : W64) : (s.qEmit t q w).pending = s.pending := by simp [State.qEmit]
@[simp] theorem State.qRewind_pending (t q : Nat) : (s.qRewind t q).pending = s.pending := by simp [State.qRewind]
@[simp] theorem State.qCommit_pending (t q : Nat) : (s.qCommit t q).pending = s.pending := by simp [State.qCommit]
@[simp] theorem State.qReads_pending (t q pos n : Nat) : (s.qReads t q pos n).2.pending = s.pending := by
  induction n generalizing s pos with
  | zero => rfl
  | succ n ih => simp [State.qReads, ih]
@[simp] theorem State.qTake_pending (t q n : Nat) : (s.qTake t q n).pending = s.pending := by simp [State.qTake]
@[simp] theorem State.lbGone_pending (t : Nat) :
    (s.lbGone t).pending = s.pending := by simp -implicitDefEqProofs [State.lbGone, foldl_pending]
@[simp] theorem State.qFlush_pending (t q : Nat) :
    (s.qFlush t q).pending = s.pending := by simp -implicitDefEqProofs [State.qFlush, forKeys_pending]
@[simp] theorem State.flushCmd_pending (t q : Nat) : (s.flushCmd t q).pending = s.pending := by simp [State.flushCmd]

/-! ### Capture (Sys2Proof/Machine/Capture.lean) -/

@[simp] theorem State.flushHeld_pending (t q : Nat) (limit : Option Nat) (ms : List HeldMark) :
    (s.flushHeld t q limit ms).1.pending = s.pending := by
  induction ms generalizing s with
  | nil => rfl
  | cons m ms ih => cases limit <;> simp [State.flushHeld, apply_ite Prod.fst, ih]
@[simp] theorem State.settleHeld_pending (t q : Nat) (limit : Option Nat) :
    (s.settleHeld t q limit).pending = s.pending := by simp [State.settleHeld]
@[simp] theorem State.giveMarks_pending (t q : Nat) (ms : List HeldMark) :
    (s.giveMarks t q ms).pending = s.pending := by simp [State.giveMarks]
@[simp] theorem State.markTile_pending (t barrier : Nat) (ws : List W64) :
    (s.markTile t barrier ws).pending = s.pending := by simp -implicitDefEqProofs [State.markTile, forKeys_pending]
@[simp] theorem State.markAll_pending (barrier : Nat) (ws : List W64) :
    (s.markAll barrier ws).pending = s.pending := by simp -implicitDefEqProofs [State.markAll, forKeys_pending]
@[simp] theorem State.hoRestart_pending :
    s.hoRestart.pending = s.pending := by simp -implicitDefEqProofs [State.hoRestart, forKeys_pending]
@[simp] theorem State.ringCount_pending (t slot pos : Nat) : (s.ringCount t slot pos).pending = s.pending := rfl
@[simp] theorem State.refuseHit_pending (t c : Nat) (d : Dest) (late : Bool) :
    (s.refuseHit t c d late).pending = s.pending := rfl
@[simp] theorem State.commitPush_pending (t : Nat) (d : Dest) : (s.commitPush t d).pending = s.pending := rfl
@[simp] theorem State.commitHit_pending (t c : Nat) (d : Dest) (h : Hit) :
    (s.commitHit t c d h).pending = s.pending := by simp [State.commitHit]

/-! ### The time plane (Sys2Proof/Machine/TimePlane.lean) -/

@[simp] theorem State.updQuality_pending : s.updQuality.pending = s.pending := by simp [State.updQuality]
@[simp] theorem State.rampAsk_pending : s.rampAsk.pending = s.pending := by simp [State.rampAsk]
@[simp] theorem State.addCause_pending (i due : Nat) : (s.addCause i due).pending = s.pending := rfl
@[simp] theorem State.dropDark_pending (reason : Nat) :
    (s.dropDark reason).pending = s.pending := by simp [State.dropDark]
@[simp] theorem State.openEpoch_pending (pre : List W64) : (s.openEpoch pre).pending = s.pending := by
  simp only [State.openEpoch]
  repeat' split
  all_goals simp -implicitDefEqProofs [forKeys_pending]
@[simp] theorem State.openDue_pending : s.openDue.pending = s.pending := by simp [State.openDue]
@[simp] theorem State.latchTime_pending : s.latchTime.pending = s.pending := rfl
@[simp] theorem State.setTime_pending (due : Nat) : (s.setTime due).pending = s.pending := rfl
@[simp] theorem State.suspectFrom_pending (lo : Nat) : (s.suspectFrom lo).pending = s.pending := by
  refine forKeys_pending (fun t s => ?_) _ s
  refine (forKeys_pending (fun q s => forKeys_pending (fun i s => ?_) _ s) _ _).trans rfl
  dsimp only
  split <;> simp
@[simp] theorem State.unlock_pending (lead : Nat) : (s.unlock lead).pending = s.pending := by
  unfold State.unlock
  split <;> simp
@[simp] theorem State.refSwitch_pending (old : Bool) :
    (s.refSwitch old).pending = s.pending := by simp [State.refSwitch]
@[simp] theorem State.decideReturn_pending (e : Int) :
    (s.decideReturn e).pending = s.pending := by simp [State.decideReturn]
@[simp] theorem State.replicaMiss_pending (t : Nat) (at_ : Time) :
    (s.replicaMiss t at_).pending = s.pending := by simp [State.replicaMiss]

/-! ### The dispatcher (Sys2Proof/Machine/Dispatcher.lean) -/

@[simp] theorem State.setCxWord_pending (t a : Nat) (w : W64) : (s.setCxWord t a w).pending = s.pending := rfl
@[simp] theorem State.setCxWords_pending (t a : Nat) (ws : List W64) : (s.setCxWords t a ws).pending = s.pending := by
  induction ws generalizing s a with
  | nil => rfl
  | cons x xs ih => simp [State.setCxWords, ih]
@[simp] theorem State.pushBuf_pending (t e : Nat) (f : List DItem → List DItem) :
    (s.pushBuf t e f).pending = s.pending := rfl
@[simp] theorem State.breakAll_pending (t e : Nat) (slices : Bool) :
    (s.breakAll t e slices).pending = s.pending := by simp -implicitDefEqProofs [State.breakAll, forKeys_pending]
@[simp] theorem State.readSlice_pending (t : Nat) (tag : SliceTag) (bad fin : Bool) :
    (s.readSlice t tag bad fin).pending = s.pending := rfl
@[simp] theorem State.readBarrier_pending (t e age : Nat) (w : W64) :
    (s.readBarrier t e age w).pending = s.pending := rfl
@[simp] theorem State.readSeconds_pending (t e : Nat) (w : W64) : (s.readSeconds t e w).pending = s.pending := rfl
@[simp] theorem State.readWord_pending (t e : Nat) : (s.readWord t e).pending = s.pending := by
  simp only [State.readWord]
  split <;> simp
@[simp] theorem State.readAll_pending (t e : Nat) :
    (s.readAll t e).pending = s.pending := by simp -implicitDefEqProofs [State.readAll, forKeys_pending]
@[simp] theorem State.putMarkers_pending (t e : Nat) (ws : List W64) :
    (s.putMarkers t e ws).pending = s.pending := by
  simp -implicitDefEqProofs [State.putMarkers, forKeys_pending, foldl_pending]
@[simp] theorem State.giveItem_pending (t c : Nat) (i : Item) : (s.giveItem t c i).pending = s.pending := rfl
@[simp] theorem State.releaseHit_pending (t c : Nat) (d : DItem) :
    (s.releaseHit t c d).pending = s.pending := by simp [State.releaseHit]
@[simp] theorem State.releaseBarrier_pending (t c : Nat) (d : DItem) (epoch : Nat) :
    (s.releaseBarrier t c d epoch).pending = s.pending := by simp [State.releaseBarrier]
@[simp] theorem State.releaseStart_pending (t c : Nat) (d : DItem) (epoch : Nat) :
    (s.releaseStart t c d epoch).pending = s.pending := by simp [State.releaseStart]
@[simp] theorem State.useMark_pending (t ord : Nat) (frag : Bool) : (s.useMark t ord frag).pending = s.pending := rfl
@[simp] theorem State.endContext_pending (t e c : Nat) : (s.endContext t e c).pending = s.pending := by
  simp only [State.endContext]
  repeat' split
  all_goals simp -implicitDefEqProofs [forKeys_pending]
@[simp] theorem State.release_pending (t e : Nat) (d : DItem) : (s.release t e d).pending = s.pending := by
  unfold State.release
  repeat' split
  all_goals simp -implicitDefEqProofs [forKeys_pending]
@[simp] theorem State.releaseNext_pending (t e : Nat) : (s.releaseNext t e).pending = s.pending := by
  unfold State.releaseNext
  split <;> simp
@[simp] theorem State.inject_pending (t e : Nat) (d : DItem) : (s.inject t e d).pending = s.pending := rfl
@[simp] theorem State.saveRegs_pending (t e : Nat) : (s.saveRegs t e).pending = s.pending := by simp [State.saveRegs]
@[simp] theorem State.loadRegs_pending (t e c : Nat) : (s.loadRegs t e c).pending = s.pending := rfl
@[simp] theorem State.switchTo_pending (t e c : Nat) (trig : Bool) :
    (s.switchTo t e c trig).pending = s.pending := by simp [State.switchTo]
@[simp] theorem State.copyBlocks_pending (t e src dst : Nat) :
    (s.copyBlocks t e src dst).pending = s.pending := by
  simp -implicitDefEqProofs [State.copyBlocks, forKeys_pending]
@[simp] theorem State.ckptStore_pending (t e : Nat) : (s.ckptStore t e).pending = s.pending := by simp [State.ckptStore]
@[simp] theorem State.checkpoint_pending (t e : Nat) :
    (s.checkpoint t e).pending = s.pending := by simp [State.checkpoint]
@[simp] theorem State.rewindAll_pending (t e : Nat) :
    (s.rewindAll t e).pending = s.pending := by simp -implicitDefEqProofs [State.rewindAll, forKeys_pending]
@[simp] theorem State.restore_pending (t e : Nat) :
    (s.restore t e).pending = s.pending := by simp -implicitDefEqProofs [State.restore, forKeys_pending]
@[simp] theorem State.haltCtx_pending (t c : Nat) : (s.haltCtx t c).pending = s.pending := by
  simp only [State.haltCtx]
  split <;> simp
@[simp] theorem State.moveEngine_pending (t src dst srcSt : Nat) :
    (s.moveEngine t src dst srcSt).pending = s.pending := rfl
@[simp] theorem State.takeBack_pending (t e : Nat) : (s.takeBack t e).pending = s.pending := by simp [State.takeBack]
@[simp] theorem State.badBlock_pending (t e c : Nat) :
    (s.badBlock t e c).pending = s.pending := by simp [State.badBlock]

/-! ### The engines (Sys2Proof/Machine/Engines.lean) -/

@[simp] theorem State.setG_pending (t e : Nat) (r : BitVec 5) (v : W64) :
    (s.setG t e r v).pending = s.pending := by simp [State.setG]
@[simp] theorem State.setA_pending (t e : Nat) (a : BitVec 2) (v : Acc) : (s.setA t e a v).pending = s.pending := rfl
@[simp] theorem State.progFault_pending (t e cause : Nat) :
    (s.progFault t e cause).pending = s.pending := by simp -implicitDefEqProofs [State.progFault, forKeys_pending]
@[simp] theorem State.retireOp_pending (t e cycles : Nat) (pc : Int) :
    (s.retireOp t e cycles pc).pending = s.pending := by simp [State.retireOp]
@[simp] theorem State.emitWord_pending (t e q : Nat) (w : W64) (header : Bool) :
    (s.emitWord t e q w header).pending = s.pending := by simp [State.emitWord]
@[simp] theorem State.commitPacket_pending (t e q : Nat) : (s.commitPacket t e q).pending = s.pending := by
  simp only [State.commitPacket]
  split <;> simp
@[simp] theorem State.deliver_pending (t e : Nat) (i : Item) (imm : BitVec 24) :
    (s.deliver t e i imm).pending = s.pending := by simp [State.deliver]
@[simp] theorem State.opWait_pending (t e : Nat) (imm : BitVec 24) : (s.opWait t e imm).pending = s.pending := by
  unfold State.opWait
  extract_lets y c s' x last endSlice
  split
  · simp
  · have hs : s'.pending = s.pending := by simp [s']
    have he : (endSlice s').pending = s.pending := hs
    clear_value s' x last endSlice
    repeat' split
    all_goals simp [hs, he]
@[simp] theorem State.opCheckpoint_pending (t e : Nat) :
    (s.opCheckpoint t e).pending = s.pending := by simp [State.opCheckpoint]
theorem State.opRun_pending {t e : Nat} {op : EngOp} {r : State × Int × Bool} (h : s.opRun t e op = .ok r) :
    r.1.pending = s.pending := by
  cases op
  case ld | st | lda | sta | emit | emith | commit | rewind =>
    unfold State.opRun at h
    dsimp only at h
    split at h
    · cases h <;> simp
    · cases h <;> simp
  all_goals cases h; simp

@[simp] theorem State.opStep_pending (t e : Nat) (op : EngOp) : (s.opStep t e op).pending = s.pending := by
  unfold State.opStep
  split
  next => simp
  next h =>
    have hp := s.opRun_pending h
    split <;> simpa using hp

/-! ### Time transfer (Sys2Proof/Machine/Transfer.lean) -/

@[simp] theorem State.onSlot_pending (bad : Bool) (f : State → State) (h : ∀ s, (f s).pending = s.pending) :
    (s.onSlot bad f).pending = s.pending := by
  unfold State.onSlot
  split
  · split
    · rfl
    · exact h s
  · rfl
@[simp] theorem State.ttDiscard_pending (reason : Nat) : (s.ttDiscard reason).pending = s.pending := rfl
@[simp] theorem State.closeExch_pending (id : BitVec 8) : (s.closeExch id).pending = s.pending := rfl
@[simp] theorem State.modExch_pending (id : BitVec 8) (f : Exch → Exch) : (s.modExch id f).pending = s.pending := rfl
@[simp] theorem State.endRun_pending : s.endRun.pending = s.pending := rfl
@[simp] theorem State.growRun_pending (m : Meas) : (s.growRun m).pending = s.pending := by simp [State.growRun]
@[simp] theorem State.blockAct_pending (th o : Int) : (s.blockAct th o).pending = s.pending := by simp [State.blockAct]
@[simp] theorem State.growBlock_pending (m : Meas) : (s.growBlock m).pending = s.pending := by simp [State.growBlock]
@[simp] theorem State.average_pending (m : Meas) : (s.average m).pending = s.pending := by simp [State.average]
@[simp] theorem State.averageAll_pending (ms : List Meas) :
    (s.averageAll ms).pending = s.pending := by simp -implicitDefEqProofs [State.averageAll, foldl_pending]
@[simp] theorem State.pathChange_pending (run : List Meas) (m : Meas) :
    (s.pathChange run m).pending = s.pending := by simp [State.pathChange]
@[simp] theorem State.pathTest_pending (m : Meas) : (s.pathTest m).pending = s.pending := by simp [State.pathTest]
@[simp] theorem State.endHold_pending : s.endHold.pending = s.pending := by simp [State.endHold]
@[simp] theorem State.measured_pending (x : Exch) (theta rtt : Int) :
    (s.measured x theta rtt).pending = s.pending := by simp [State.measured]
@[simp] theorem State.tryComplete_pending (id : BitVec 8) : (s.tryComplete id).pending = s.pending := by
  unfold State.tryComplete
  repeat' split
  all_goals simp
@[simp] theorem State.onExch_pending (bits_ : BitVec 52) (bad : Bool)
    (f : BitVec 8 → State → State) (h : ∀ k s, (f k s).pending = s.pending) :
    (s.onExch bits_ bad f).pending = s.pending := by
  refine State.onSlot_pending _ _ _ (fun s => ?_)
  split
  · dsimp only
    split
    · exact h _ s
    · simp
  · rfl

/-! ### Triggers (Sys2Proof/Machine/Trigger.lean) -/

@[simp] theorem State.scanReads_pending (t : Nat) (p : Trig) :
    (s.scanReads t p).pending = s.pending := by simp -implicitDefEqProofs [State.scanReads, forKeys_pending]
@[simp] theorem State.tref_pending (id code reason epoch : Nat) :
    (s.tref id code reason epoch).pending = s.pending := by simp [State.tref]
@[simp] theorem State.dropMarks_pending (ord : Nat) :
    (s.dropMarks ord).pending = s.pending := by simp -implicitDefEqProofs [State.dropMarks, forKeys_pending]
@[simp] theorem State.setSlices_pending (t ord n : Nat) : (s.setSlices t ord n).pending = s.pending := rfl
@[simp] theorem State.openGates_pending (p : Trig) :
    (s.openGates p).pending = s.pending := by simp -implicitDefEqProofs [State.openGates, forKeys_pending]
@[simp] theorem State.fragless_pending (p : Trig) :
    (s.fragless p).pending = s.pending := by simp -implicitDefEqProofs [State.fragless, forKeys_pending]
@[simp] theorem State.tacc_pending (p : Trig) (fs : List Frag) :
    (s.tacc p fs).pending = s.pending := by simp [State.tacc]
@[simp] theorem State.fragMissing_pending (t : Nat) :
    (s.fragMissing t).pending = s.pending := by simp [State.fragMissing]
@[simp] theorem State.fragWhole_pending (t ord : Nat) :
    (s.fragWhole t ord).pending = s.pending := by simp [State.fragWhole]
@[simp] theorem State.fragStep_pending (t : Nat) : (s.fragStep t).pending = s.pending := by
  simp only [State.fragStep]
  repeat' split
  all_goals simp
@[simp] theorem State.sliceRead_pending (t c : Nat) (g : Gate) (lead : Bool) (i : Nat) :
    (s.sliceRead t c g lead i).2.pending = s.pending := by simp [State.sliceRead]
@[simp] theorem State.sliceLeads_pending (t c : Nat) (g : Gate) (is : List Nat) :
    (s.sliceLeads t c g is).2.pending = s.pending := by
  induction is generalizing s with
  | nil => rfl
  | cons x xs ih => simp [State.sliceLeads, ih]
@[simp] theorem State.sliceBody_pending (t c : Nat) (g : Gate) (is : List Nat) (ws : List SliceWord) :
    (s.sliceBody t c g is ws).2.pending = s.pending := by
  induction is generalizing s ws with
  | nil => rfl
  | cons i is ih => simp [State.sliceBody, ih]
@[simp] theorem State.putSlice_pending (t q : Nat) (ws : List SliceWord) :
    (s.putSlice t q ws).pending = s.pending := by simp -implicitDefEqProofs [State.putSlice, forKeys_pending]
@[simp] theorem State.sliceDone_pending (t c : Nat) (g : Gate) : (s.sliceDone t c g).pending = s.pending := rfl

/-! ### The links (Sys2Proof/Machine/Links.lean) -/

@[simp] theorem State.modLane_pending (l : Nat) (f : Lane → Lane) : (s.modLane l f).pending = s.pending := rfl
@[simp] theorem State.restartOn_pending (cls idx : Nat) (v : W64) : (s.restartOn cls idx v).pending = s.pending := rfl
@[simp] theorem State.restartTier1_pending (v : W64) :
    (s.restartTier1 v).pending = s.pending := by simp -implicitDefEqProofs [State.restartTier1, forKeys_pending]
@[simp] theorem State.restartData_pending (v : W64) :
    (s.restartData v).pending = s.pending := by simp -implicitDefEqProofs [State.restartData, forKeys_pending]
@[simp] theorem State.restartAll_pending (cause tile eng : Nat) :
    (s.restartAll cause tile eng).pending = s.pending := by simp [State.restartAll]
@[simp] theorem State.imageRestart_pending : s.imageRestart.pending = s.pending := by
  unfold State.imageRestart
  split <;> simp
@[simp] theorem State.linkUp_pending : s.linkUp.pending = s.pending := by
  unfold State.linkUp
  repeat' split
  all_goals simp -implicitDefEqProofs [forKeys_pending]
@[simp] theorem State.putLane_pending (l : Nat) (st : LaneState) : (s.putLane l st).pending = s.pending := rfl
@[simp] theorem State.noteDown_pending : s.noteDown.pending = s.pending := by simp [State.noteDown]
@[simp] theorem State.trainAll_pending :
    s.trainAll.pending = s.pending := by simp -implicitDefEqProofs [State.trainAll, forKeys_pending]
@[simp] theorem State.refuseFast_pending : s.refuseFast.pending = s.pending := rfl
@[simp] theorem State.respond_pending (h : CtlHead) (status first : Nat) (data : List W64) :
    (s.respond h status first data).pending = s.pending := by simp [State.respond]
@[simp] theorem State.cutFrame_pending (h : Option CtlHead) : (s.cutFrame h).pending = s.pending := by
  unfold State.cutFrame
  split <;> simp
@[simp] theorem State.stall_pending : s.stall.pending = s.pending := by simp [State.stall]
@[simp] theorem State.closeFrame_pending (i : Nat) : (s.closeFrame i).pending = s.pending := by
  simp only [State.closeFrame]
  split <;> simp
@[simp] theorem State.packItem_pending (i : Nat) (ws : List W64) (clean : Bool) :
    (s.packItem i ws clean).pending = s.pending := by
  simp only [State.packItem]
  repeat' split
  all_goals simp
@[simp] theorem State.plainPacket_pending (i : Nat) (ws : List W64) : (s.plainPacket i ws).pending = s.pending := by
  unfold State.plainPacket
  split <;> simp
@[simp] theorem State.claimPacket_pending (t q : Nat) : (s.claimPacket t q).2.2.pending = s.pending := by
  simp [State.claimPacket]
@[simp] theorem State.noteTier1_pending (f : Frame) : (s.noteTier1 f).pending = s.pending := by simp [State.noteTier1]
@[simp] theorem State.sendFrame_pending (l : Nat) (f : Frame) :
    (s.sendFrame l f).pending = s.pending := by simp [State.sendFrame]
@[simp] theorem State.sendNext_pending (l cls idx : Nat) : (s.sendNext l cls idx).pending = s.pending := by
  unfold State.sendNext
  split <;> simp
@[simp] theorem State.sendNew_pending (l : Nat) : (s.sendNew l).pending = s.pending := by
  simp only [State.sendNew]
  repeat' split
  all_goals simp
@[simp] theorem State.frameDone_pending (f : Frame) : (s.frameDone f).pending = s.pending := by simp [State.frameDone]
@[simp] theorem State.resend_pending (l : Nat) (u : Unacked) :
    (s.resend l u).pending = s.pending := by simp [State.resend]
@[simp] theorem State.sendFresh_pending (l : Nat) : (s.sendFresh l).pending = s.pending := by
  unfold State.sendFresh
  split <;> simp
@[simp] theorem State.transmit_pending (l : Nat) : (s.transmit l).pending = s.pending := by
  unfold State.transmit
  repeat' split
  all_goals simp
@[simp] theorem State.onLane_pending (b : BitVec 48) (reserved : Nat) (f : Nat → State → State)
    (h : ∀ l s, (f l s).pending = s.pending) :
    (s.onLane b reserved f).pending = s.pending := by
  unfold State.onLane
  dsimp only
  split
  · simp
  · exact h _ s
@[simp] theorem State.ignoreAck_pending : s.ignoreAck.pending = s.pending := rfl
@[simp] theorem State.ackLane_pending (l lseq : Nat) :
    (s.ackLane l lseq).pending = s.pending := by simp -implicitDefEqProofs [State.ackLane, foldl_pending]
@[simp] theorem State.nakLane_pending (l lseq : Nat) : (s.nakLane l lseq).pending = s.pending := by simp [State.nakLane]
@[simp] theorem State.upLane_pending (l : Nat) :
    (s.upLane l).pending = s.pending := by simp -implicitDefEqProofs [State.upLane, forKeys_pending]
@[simp] theorem State.retrainLane_pending (l : Nat) :
    (s.retrainLane l).pending = s.pending := by simp -implicitDefEqProofs [State.retrainLane, forKeys_pending]
@[simp] theorem State.newChal_pending : s.newChal.pending = s.pending := rfl
@[simp] theorem State.noteReset_pending (cause tile eng : Nat) : (s.noteReset cause tile eng).pending = s.pending := rfl
@[simp] theorem State.setDn_pending (d : DnState) : (s.setDn d).pending = s.pending := by simp [State.setDn]
@[simp] theorem State.linkReset_pending (h : Option CtlHead) :
    (s.linkReset h).pending = s.pending := by simp -implicitDefEqProofs [State.linkReset, forKeys_pending]

/-! ### Calibration (Sys2Proof/Machine/Calibration.lean) -/

@[simp] theorem State.calChoose_pending : s.calChoose.pending = s.pending := by simp [State.calChoose]
@[simp] theorem State.loadTrims_pending (t c : Nat) : (s.loadTrims t c).pending = s.pending := rfl
@[simp] theorem State.stepTrims_pending (t c : Nat) : (s.stepTrims t c).pending = s.pending := by simp [State.stepTrims]
@[simp] theorem State.ageBegin_pending : s.ageBegin.pending = s.pending := rfl
@[simp] theorem State.ageFinish_pending (b : Bool) (t c : Nat) (entry : List Byte) :
    (s.ageFinish b t c entry).pending = s.pending := by simp [State.ageFinish]
@[simp] theorem State.checkAsk_pending (t c : Nat) : (s.checkAsk t c).pending = s.pending := by
  unfold State.checkAsk
  split <;> simp
@[simp] theorem State.checkRelease_pending (t c : Nat) : (s.checkRelease t c).pending = s.pending := by
  simp only [State.checkRelease]
  split <;> simp
@[simp] theorem State.checkEnd_pending (t c : Nat) (o : CheckOutcome) :
    (s.checkEnd t c o).pending = s.pending := by simp [State.checkEnd]
@[simp] theorem State.setTap_pending (t sel : Nat) : (s.setTap t sel).pending = s.pending := by simp [State.setTap]
@[simp] theorem State.hoRequest_pending (t input : Nat) (dir : Bool) (ovl due : Nat) :
    (s.hoRequest t input dir ovl due).pending = s.pending := by simp [State.hoRequest]
@[simp] theorem State.hoOpen_pending (t : Nat) : (s.hoOpen t).pending = s.pending := by
  unfold State.hoOpen
  split <;> simp
@[simp] theorem State.hoCut_pending (t : Nat) : (s.hoCut t).pending = s.pending := by simp [State.hoCut]
@[simp] theorem State.channelFault_pending (t c : Nat) :
    (s.channelFault t c).pending = s.pending := by simp [State.channelFault]
@[simp] theorem State.decodeMismatch_pending (t c : Nat) :
    (s.decodeMismatch t c).pending = s.pending := by simp [State.decodeMismatch]
@[simp] theorem State.captureEdge_pending (t c age sub : Nat) (rise suspect : Bool) :
    (s.captureEdge t c age sub rise suspect).pending = s.pending := by simp [State.captureEdge]
@[simp] theorem State.captureAfter_pending (t c sub : Nat) (rise suspect : Bool) :
    (s.captureAfter t c sub rise suspect).pending = s.pending := by
  unfold State.captureAfter
  split <;> simp
@[simp] theorem State.hoTake_pending (t : Nat) (out inc : List HoEdge) (diff : Int) :
    (s.hoTake t out inc diff).pending = s.pending := by
  simp -implicitDefEqProofs [State.hoTake, forKeys_pending, foldl_pending]
@[simp] theorem State.setRun_pending (r : ProofRun) : (s.setRun r).pending = s.pending := rfl
@[simp] theorem State.reply_pending (q : SupReq) (status : Nat) (body : List W64) :
    (s.reply q status body).pending = s.pending := rfl
@[simp] theorem State.serviceEnd_pending (q : SupReq) (status : Nat) (body : List W64) :
    (s.serviceEnd q status body).pending = s.pending := rfl
@[simp] theorem State.proofEnd_pending (r : ProofRun) (reason : Nat) : (s.proofEnd r reason).pending = s.pending := by
  simp only [State.proofEnd]
  split <;> simp
@[simp] theorem State.proofBack_pending (r : ProofRun) :
    (s.proofBack r).pending = s.pending := by simp -implicitDefEqProofs [State.proofBack]
@[simp] theorem State.proofFail_pending (r : ProofRun) (reason : Nat) :
    (s.proofFail r reason).pending = s.pending := by simp [State.proofFail]
@[simp] theorem State.proofOffset_pending (r : ProofRun) : (s.proofOffset r).pending = s.pending := rfl
@[simp] theorem State.proofHo_pending (t : Nat) : (s.proofHo t).pending = s.pending := by
  unfold State.proofHo
  split <;> simp
@[simp] theorem State.proofStart_pending : s.proofStart.pending = s.pending := by
  simp only [State.proofStart]
  split <;> simp
@[simp] theorem State.ageGone_pending : s.ageGone.pending = s.pending := by simp [State.ageGone]
@[simp] theorem State.proofStop_pending (reset : Bool) : (s.proofStop reset).pending = s.pending := by
  unfold State.proofStop
  split <;> simp
@[simp] theorem State.proofStore_pending : s.proofStore.pending = s.pending := by
  unfold State.proofStore
  split <;> simp
@[simp] theorem State.proofEvaluate_pending (r : ProofRun) (d : PassData) :
    (s.proofEvaluate r d).pending = s.pending := by
  unfold State.proofEvaluate
  split <;> simp
@[simp] theorem State.proofAdjust_pending (r : ProofRun) : (s.proofAdjust r).pending = s.pending := rfl
@[simp] theorem State.passEnd_pending (d : PassData) : (s.passEnd d).pending = s.pending := by
  unfold State.passEnd
  split <;> simp
@[simp] theorem State.sheetChan_pending (t c span : Nat) :
    (s.sheetChan t c span).pending = s.pending := by simp [State.sheetChan]
@[simp] theorem State.sheetRefresh_pending :
    s.sheetRefresh.pending = s.pending := by simp -implicitDefEqProofs [State.sheetRefresh, forKeys_pending]

/-! ### Inputs (Sys2Proof/Machine/Inputs.lean) -/

@[simp] theorem State.crossing_pending (t c sub : Nat) (rise mismatch : Bool) :
    (s.crossing t c sub rise mismatch).pending = s.pending := by simp [State.crossing]
@[simp] theorem State.setLatch_pending (t k : Nat) (v : Bool) :
    (s.setLatch t k v).pending = s.pending := by simp [State.setLatch]
@[simp] theorem State.lmFollow_pending (t : Nat) :
    (s.lmFollow t).pending = s.pending := by simp -implicitDefEqProofs [State.lmFollow, forKeys_pending]
@[simp] theorem State.lmRound_pending (t : Nat) : (s.lmRound t).pending = s.pending := by simp [State.lmRound]
@[simp] theorem State.lmStart_pending (t : Nat) : (s.lmStart t).pending = s.pending := by simp [State.lmStart]
@[simp] theorem State.lmRecord_pending (t k prev new : Nat) (at_ : Kept) :
    (s.lmRecord t k prev new at_).pending = s.pending := by
  unfold State.lmRecord
  split <;> simp
@[simp] theorem State.lmChanged_pending (t k prev new : Nat) :
    (s.lmChanged t k prev new).pending = s.pending := by simp [State.lmChanged]
@[simp] theorem State.lmTake_pending (t k x : Nat) : (s.lmTake t k x).pending = s.pending := by simp [State.lmTake]
@[simp] theorem State.lmNext_pending (t k : Nat) : (s.lmNext t k).pending = s.pending := by
  unfold State.lmNext
  split <;> simp
@[simp] theorem State.lmWake_pending (t : Nat) : (s.lmWake t).pending = s.pending := by
  unfold State.lmWake
  split
  · simp only [State.giveMarks_pending]
    refine forKeys_pending (fun k s => ?_) _ s
    split
    · split <;> simp
    · rfl
  · rfl

/-! ### Register writes (Sys2Proof/Machine/Writes.lean) -/

@[simp] theorem State.unmask_pending (first old new n : Nat) :
    (s.unmask first old new n).pending = s.pending := by simp -implicitDefEqProofs [State.unmask, forKeys_pending]
@[simp] theorem State.setChCfg_pending (t c : Nat) (w : Reg32) :
    (s.setChCfg t c w).pending = s.pending := by simp [State.setChCfg]
@[simp] theorem State.setChThr_pending (t c : Nat) (w : Reg32) :
    (s.setChThr t c w).pending = s.pending := by simp [State.setChThr]
@[simp] theorem State.setLmCtrl_pending (t : Nat) (w : Reg32) :
    (s.setLmCtrl t w).pending = s.pending := by simp [State.setLmCtrl]
@[simp] theorem State.setField_pending (a : Nat) (w : Reg32) : (s.setField a w).pending = s.pending := by
  unfold State.setField
  repeat' split
  all_goals simp

/-! ### The image (Sys2Proof/Machine/Image.lean) -/

@[simp] theorem State.stage_pending (p : Place × W64) : (s.stage p).pending = s.pending := by
  unfold State.stage
  split <;> simp
@[simp] theorem State.stageRecs_pending (rs : List Rec) :
    (s.stageRecs rs).pending = s.pending := by simp -implicitDefEqProofs [State.stageRecs, foldl_pending]
@[simp] theorem State.bare_pending :
    s.bare.pending = s.pending := by simp -implicitDefEqProofs [State.bare, forKeys_pending]
@[simp] theorem State.stagedFull_pending (i : Image) :
    (s.stagedFull i).pending = s.pending := by simp [State.stagedFull]
@[simp] theorem State.stagedUpd_pending (i : Image) :
    (s.stagedUpd i).pending = s.pending := by simp -implicitDefEqProofs [State.stagedUpd, forKeys_pending]

/-! ### Prompt measurements (Sys2Proof/Machine/Prompt.lean) -/

@[simp] theorem State.prVote_pending (p : Nat) : (s.prVote p).pending = s.pending := by simp [State.prVote]
@[simp] theorem State.prSlot_pending :
    s.prSlot.pending = s.pending := by simp -implicitDefEqProofs [State.prSlot, forKeys_pending]
@[simp] theorem State.prForget_pending :
    s.prForget.pending = s.pending := by simp -implicitDefEqProofs [State.prForget, forKeys_pending]

/-! ### Configuration (Sys2Proof/Machine/Configuration.lean) -/

@[simp] theorem State.cfgResult_pending (reason tile rec_ : Nat) :
    (s.cfgResult reason tile rec_).pending = s.pending := rfl
@[simp] theorem State.cfgRefuse_pending (reason : Nat) : (s.cfgRefuse reason).pending = s.pending := rfl
@[simp] theorem State.slotSpoil_pending (b : Bool) : (s.slotSpoil b).pending = s.pending := rfl
@[simp] theorem State.slotBegin_pending (b : Bool) (len : Nat) : (s.slotBegin b len).pending = s.pending := rfl
@[simp] theorem State.slotFinish_pending (b : Bool) : (s.slotFinish b).pending = s.pending := rfl
@[simp] theorem State.slotClose_pending : s.slotClose.pending = s.pending := by
  simp only [State.slotClose]
  repeat' split
  all_goals simp
@[simp] theorem State.slotClear_pending : s.slotClear.pending = s.pending := by simp [State.slotClear]
@[simp] theorem State.imageSlot_pending (off : Nat) (b : List Byte) : (s.imageSlot off b).2.pending = s.pending := by
  unfold State.imageSlot
  repeat' split
  all_goals simp
@[simp] theorem State.imageStaged_pending (off : Nat) (b : List Byte) :
    (s.imageStaged off b).2.pending = s.pending := by
  unfold State.imageStaged
  repeat' split
  all_goals simp
@[simp] theorem State.imageBoot_pending (off : Nat) (b : List Byte) : (s.imageBoot off b).2.pending = s.pending := by
  unfold State.imageBoot
  repeat' split
  all_goals simp
@[simp] theorem State.imageWords_pending (off : Nat) (ws : List Reg32) :
    (s.imageWords off ws).2.pending = s.pending := by
  simp only [State.imageWords]
  repeat' split
  all_goals simp
@[simp] theorem State.putWrite_pending (p : Place × W64) : (s.putWrite p).pending = s.pending := by
  unfold State.putWrite
  split <;> simp
@[simp] theorem State.dropWords_pending (t q : Nat) :
    (s.dropWords t q).pending = s.pending := by simp -implicitDefEqProofs [State.dropWords, forKeys_pending]
@[simp] theorem State.engineStart_pending (t e : Nat) (ctxs : List Nat) :
    (s.engineStart t e ctxs).pending = s.pending := by simp [State.engineStart]
@[simp] theorem State.tileStart_pending (t : Nat) :
    (s.tileStart t).pending = s.pending := by simp -implicitDefEqProofs [State.tileStart, forKeys_pending]
@[simp] theorem State.regroup_pending :
    s.regroup.pending = s.pending := by simp -implicitDefEqProofs [State.regroup, forKeys_pending]
@[simp] theorem State.applyImage_pending (i : Image) (source : Nat) :
    (s.applyImage i source).pending = s.pending := by
  simp -implicitDefEqProofs [State.applyImage, forKeys_pending, foldl_pending]
@[simp] theorem State.loadSlots_pending : s.loadSlots.pending = s.pending := by
  simp only [State.loadSlots]
  split <;> simp
@[simp] theorem State.loadBytes_pending (m : Memory) (top cap source : Nat) :
    (s.loadBytes m top cap source).pending = s.pending := by
  simp only [State.loadBytes]
  repeat' split
  all_goals simp
@[simp] theorem State.bootImage_pending : s.bootImage.pending = s.pending := by
  unfold State.bootImage
  split <;> simp
@[simp] theorem State.commitWaiting_pending (t c : Nat) : (s.commitWaiting t c).pending = s.pending := by
  refine forKeys_pending (fun k s => ?_) _ s
  split <;> simp
@[simp] theorem State.lbEmpty_pending (t : Nat) :
    (s.lbEmpty t).pending = s.pending := by simp -implicitDefEqProofs [State.lbEmpty, forKeys_pending]
@[simp] theorem State.reloadAsk_pending :
    s.reloadAsk.pending = s.pending := by simp -implicitDefEqProofs [State.reloadAsk, forKeys_pending]
@[simp] theorem State.reloadEnd_pending : s.reloadEnd.pending = s.pending := by
  unfold State.reloadEnd
  split <;> simp
@[simp] theorem State.luFail_pending (reason tile rec_ : Nat) :
    (s.luFail reason tile rec_).pending = s.pending := by simp [State.luFail]
@[simp] theorem State.prepareAsk_pending : s.prepareAsk.pending = s.pending := by
  simp only [State.prepareAsk]
  repeat' split
  all_goals simp
@[simp] theorem State.prepareEnd_pending : s.prepareEnd.pending = s.pending := by
  simp only [State.prepareEnd]
  repeat' split
  all_goals simp
@[simp] theorem State.fixAsk_pending (arrived : Time) : (s.fixAsk arrived).pending = s.pending := by simp [State.fixAsk]
@[simp] theorem State.cancelAsk_pending : s.cancelAsk.pending = s.pending := by simp [State.cancelAsk]
@[simp] theorem State.fixRefused_pending (tile : Nat) :
    (s.fixRefused tile).pending = s.pending := by simp [State.fixRefused]
@[simp] theorem State.fixDecideNow_pending : s.fixDecideNow.pending = s.pending := by
  simp only [State.fixDecideNow]
  repeat' split
  all_goals simp
@[simp] theorem State.modBoth_pending (t e c : Nat) (f : Ctx → Ctx) : (s.modBoth t e c f).pending = s.pending := rfl
@[simp] theorem State.retireCtx_pending (t e c : Nat) (x : FixAt) :
    (s.retireCtx t e c x).pending = s.pending := by simp [State.retireCtx]
@[simp] theorem State.startCtx_pending (t e k : Nat) (x : FixAt) :
    (s.startCtx t e k x).pending = s.pending := by simp [State.startCtx]
@[simp] theorem State.putBlock_pending (t c : Nat) (ws : List W64) :
    (s.putBlock t c ws).pending = s.pending := by simp [State.putBlock]
@[simp] theorem State.fixContexts_pending (old : State) (t : Nat) (ws : List (Place × W64)) (x : FixAt) :
    (s.fixContexts old t ws x).pending = s.pending := by
  simp -implicitDefEqProofs [State.fixContexts, forKeys_pending, foldl_pending]
@[simp] theorem State.fixTile_pending (t : Nat) (rs : List Rec) (x : FixAt) :
    (s.fixTile t rs x).pending = s.pending := by
  simp only [State.fixTile, State.modTile_pending, State.fixContexts_pending]
  refine foldl_pending (fun s p => ?_) _ s
  split <;> simp
@[simp] theorem State.fixNow_pending : s.fixNow.pending = s.pending := by
  unfold State.fixNow
  split <;> simp -implicitDefEqProofs [forKeys_pending, foldl_pending]
@[simp] theorem State.fixLate_pending (t : Nat) : (s.fixLate t).pending = s.pending := by
  unfold State.fixLate
  split <;> simp
@[simp] theorem State.repairAt_pending (want : State) (p : Place) : (s.repairAt want p).pending = s.pending := by
  unfold State.repairAt
  split <;> simp
@[simp] theorem State.countRepair_pending (t : Option Nat) : (s.countRepair t).pending = s.pending := by
  unfold State.countRepair
  split <;> simp
@[simp] theorem State.scrubRec_pending (want : State) (t : Nat) (r : Rec) :
    (s.scrubRec want t r).pending = s.pending := by simp -implicitDefEqProofs [State.scrubRec, foldl_pending]
@[simp] theorem State.scrubTiles_pending :
    s.scrubTiles.pending = s.pending := by
  simp -implicitDefEqProofs [State.scrubTiles, forKeys_pending, foldl_pending]
@[simp] theorem State.scrubPromptWord_pending (want : State) (a : Nat) :
    (s.scrubPromptWord want a).pending = s.pending := by
  simp -implicitDefEqProofs [State.scrubPromptWord, foldl_pending]
@[simp] theorem State.scrubPrompt_pending :
    s.scrubPrompt.pending = s.pending := by simp -implicitDefEqProofs [State.scrubPrompt, forKeys_pending]

/-! ### Dependability (Sys2Proof/Machine/Dependability.lean) -/

@[simp] theorem State.countRestart_pending : s.countRestart.pending = s.pending := rfl
@[simp] theorem State.countFailover_pending : s.countFailover.pending = s.pending := rfl
@[simp] theorem State.engRestart_pending (t e : Nat) :
    (s.engRestart t e).pending = s.pending := by simp [State.engRestart]
@[simp] theorem State.engFault_pending (t e : Nat) : (s.engFault t e).pending = s.pending := by simp [State.engFault]
@[simp] theorem State.unserve_pending (t e : Nat) : (s.unserve t e).pending = s.pending := by simp [State.unserve]
@[simp] theorem State.failover_pending (t e : Nat) : (s.failover t e).pending = s.pending := by simp [State.failover]
@[simp] theorem State.restartAsk_pending (t e : Nat) :
    (s.restartAsk t e).pending = s.pending := by simp [State.restartAsk]
@[simp] theorem State.ckptAsk_pending (t e : Nat) : (s.ckptAsk t e).pending = s.pending := by simp [State.ckptAsk]
@[simp] theorem State.testAsk_pending (t e : Nat) : (s.testAsk t e).pending = s.pending := rfl
@[simp] theorem State.testEnd_pending (t e : Nat) (pass : Bool) :
    (s.testEnd t e pass).pending = s.pending := by simp [State.testEnd]
@[simp] theorem State.replaceMember_pending (t p : Nat) (odd : Bool) :
    (s.replaceMember t p odd).pending = s.pending := by simp [State.replaceMember]
@[simp] theorem State.voteOff_pending (t e : Nat) : (s.voteOff t e).pending = s.pending := rfl
@[simp] theorem State.pairMismatch_pending (t p : Nat) (who : LockCopy) :
    (s.pairMismatch t p who).pending = s.pending := by
  unfold State.pairMismatch
  split <;> simp
@[simp] theorem State.replayOver_pending (t e : Nat) :
    (s.replayOver t e).pending = s.pending := by simp [State.replayOver]
@[simp] theorem State.tileReset_pending (t : Nat) : (s.tileReset t).pending = s.pending := by
  simp only [State.tileReset]
  repeat' split
  all_goals simp
@[simp] theorem State.rewriteTile_pending (t : Nat) :
    (s.rewriteTile t).pending = s.pending := by simp -implicitDefEqProofs [State.rewriteTile, foldl_pending]
@[simp] theorem State.tileOut_pending (t : Nat) :
    (s.tileOut t).pending = s.pending := by simp -implicitDefEqProofs [State.tileOut, forKeys_pending]
@[simp] theorem State.tileResetEnd_pending (t : Nat) :
    (s.tileResetEnd t).pending = s.pending := by simp [State.tileResetEnd]

/-! ### Power (Sys2Proof/Machine/Power.lean) -/

@[simp] theorem State.injectAll_pending (kind cls : Nat) (word : W64) :
    (s.injectAll kind cls word).pending = s.pending := by
  simp -implicitDefEqProofs [State.injectAll, forKeys_pending]
@[simp] theorem State.goRun_pending :
    s.goRun.pending = s.pending := by simp -implicitDefEqProofs [State.goRun, forKeys_pending]
@[simp] theorem State.refuseAll_pending :
    s.refuseAll.pending = s.pending := by simp -implicitDefEqProofs [State.refuseAll, foldl_pending]
@[simp] theorem State.doomAll_pending (reason : Nat) : (s.doomAll reason).pending = s.pending := rfl
@[simp] theorem State.goSafelight_pending :
    s.goSafelight.pending = s.pending := by simp -implicitDefEqProofs [State.goSafelight, forKeys_pending]
@[simp] theorem State.powerRefused_pending (reason : Nat) :
    (s.powerRefused reason).pending = s.pending := by simp [State.powerRefused]
@[simp] theorem State.askDark_pending (entry : Bool) (arrived : Time) :
    (s.askDark entry arrived).pending = s.pending := by simp [State.askDark]
@[simp] theorem State.askPower_pending (req : Nat) (arrived : Time) : (s.askPower req arrived).pending = s.pending := by
  unfold State.askPower
  split <;> simp
@[simp] theorem State.powerCancel_pending : s.powerCancel.pending = s.pending := by
  unfold State.powerCancel
  split <;> simp
@[simp] theorem State.gateChan_pending (t c : Nat) : (s.gateChan t c).pending = s.pending := by
  unfold State.gateChan
  split <;> simp
@[simp] theorem State.gateTile_pending (t : Nat) :
    (s.gateTile t).pending = s.pending := by simp -implicitDefEqProofs [State.gateTile, forKeys_pending]
@[simp] theorem State.loadTile_pending (t : Nat) :
    (s.loadTile t).pending = s.pending := by simp -implicitDefEqProofs [State.loadTile, forKeys_pending]
@[simp] theorem State.lightTile_pending (t : Nat) : (s.lightTile t).pending = s.pending := rfl
@[simp] theorem State.wakeTile_pending (t : Nat) : (s.wakeTile t).pending = s.pending := by simp [State.wakeTile]
@[simp] theorem State.wakeSup_pending :
    s.wakeSup.pending = s.pending := by simp -implicitDefEqProofs [State.wakeSup, forKeys_pending]
@[simp] theorem State.regateAsk_pending (mask : BitVec 64) :
    (s.regateAsk mask).pending = s.pending := by simp -implicitDefEqProofs [State.regateAsk, forKeys_pending]
@[simp] theorem State.levelPairs_pending :
    s.levelPairs.pending = s.pending := by simp -implicitDefEqProofs [State.levelPairs, forKeys_pending]
@[simp] theorem State.switchRate_pending (dark : Bool) :
    (s.switchRate dark).pending = s.pending := by simp [State.switchRate]
@[simp] theorem State.goDark_pending :
    s.goDark.pending = s.pending := by simp -implicitDefEqProofs [State.goDark, forKeys_pending]
@[simp] theorem State.exitTile_pending (t : Nat) (ws : List W64) :
    (s.exitTile t ws).pending = s.pending := by simp -implicitDefEqProofs [State.exitTile, forKeys_pending]
@[simp] theorem State.leaveDark_pending :
    s.leaveDark.pending = s.pending := by simp -implicitDefEqProofs [State.leaveDark, forKeys_pending]
@[simp] theorem State.darkOver_pending :
    s.darkOver.pending = s.pending := by simp -implicitDefEqProofs [State.darkOver, forKeys_pending]
@[simp] theorem State.wiped_pending (p : Phase) (cause : Nat) : (s.wiped p cause).pending = s.pending := rfl
@[simp] theorem State.countBoot_pending : s.countBoot.pending = s.pending := rfl
@[simp] theorem State.startUp_pending (bootsel : BitVec 2) (flash : List Byte) :
    (s.startUp bootsel flash).pending = s.pending := by simp [State.startUp]
@[simp] theorem State.sheetBoot_pending (t c : Nat) : (s.sheetBoot t c).pending = s.pending := rfl
@[simp] theorem State.bootEnd_pending :
    s.bootEnd.pending = s.pending := by simp -implicitDefEqProofs [State.bootEnd, forKeys_pending]
@[simp] theorem State.supDown_pending : s.supDown.pending = s.pending := rfl
@[simp] theorem State.supUp_pending :
    s.supUp.pending = s.pending := by simp -implicitDefEqProofs [State.supUp, forKeys_pending]
@[simp] theorem State.rewriteSpine_pending :
    s.rewriteSpine.pending = s.pending := by simp -implicitDefEqProofs [State.rewriteSpine, foldl_pending]
@[simp] theorem State.softAsk_pending (h : Option CtlHead) :
    (s.softAsk h).pending = s.pending := by simp -implicitDefEqProofs [State.softAsk, forKeys_pending]
@[simp] theorem State.softEnd_pending :
    s.softEnd.pending = s.pending := by simp -implicitDefEqProofs [State.softEnd, forKeys_pending]
@[simp] theorem State.linkAsk_pending (h : Option CtlHead) :
    (s.linkAsk h).pending = s.pending := by simp [State.linkAsk]

/-! ### Snapshots (Sys2Proof/Machine/Snapshot.lean) -/

@[simp] theorem State.freezeAsk_pending (src : Bool) :
    (s.freezeAsk src).pending = s.pending := by simp [State.freezeAsk]
@[simp] theorem State.commitAll_pending (t : Nat) (d : Dest) : (s.commitAll t d).pending = s.pending := by
  refine forKeys_pending (fun k s => ?_) _ s
  split <;> simp
@[simp] theorem State.freezeNow_pending (q : Nat) :
    (s.freezeNow q).pending = s.pending := by simp -implicitDefEqProofs [State.freezeNow, forKeys_pending]
theorem State.pending_of_dep_tb (d : Depend) (b : Timebase) :
    ({ s with dep := d, tb := b } : State).pending = s.pending := rfl

@[simp] theorem State.thaw_pending : s.thaw.pending = s.pending := by
  unfold State.thaw
  extract_lets d wraps src src' u v
  have hv : v.pending = s.pending := (u.addCause_pending _ _).trans (s.pending_of_dep_tb _ _)
  clear_value wraps v
  split
  · exact (v.addCause_pending _ _).trans hv
  · exact hv
@[simp] theorem State.thawAll_pending :
    s.thawAll.pending = s.pending := by simp -implicitDefEqProofs [State.thawAll, forKeys_pending]

/-! ### Register commands (Sys2Proof/Machine/Registers.lean) -/

@[simp] theorem State.msgRead_pending (o : Nat) : (s.msgRead o).2.pending = s.pending := by
  unfold State.msgRead
  split <;> simp
@[simp] theorem State.busRead_pending (a : Nat) : (s.busRead a).2.pending = s.pending := by
  unfold State.busRead
  repeat' split
  all_goals simp
@[simp] theorem State.msgWrite_pending (o : Nat) (w : Reg32) : (s.msgWrite o w).pending = s.pending := rfl
@[simp] theorem State.ringBox_pending (src : Src) (ch : Nat) :
    (s.ringBox src ch).pending = s.pending := by simp [State.ringBox]
@[simp] theorem State.takeBox_pending (ch : Nat) :
    (s.takeBox ch).pending = s.pending := by simp -implicitDefEqProofs [State.takeBox]
@[simp] theorem State.bumpHost_pending : s.bumpHost.pending = s.pending := rfl
@[simp] theorem State.cfgCommands_pending (w : Nat) :
    (s.cfgCommands w).pending = s.pending := by simp [State.cfgCommands]
@[simp] theorem State.pwCommands_pending (w : Nat) (h : Option CtlHead) :
    (s.pwCommands w h).pending = s.pending := by simp [State.pwCommands]
@[simp] theorem State.lkCommands_pending (w : Nat) (h : Option CtlHead) :
    (s.lkCommands w h).pending = s.pending := by simp [State.lkCommands]
@[simp] theorem State.cntClear_pending : s.cntClear.pending = s.pending := rfl
@[simp] theorem State.sheetClear_pending (i w : Nat) :
    (s.sheetClear i w).pending = s.pending := by simp -implicitDefEqProofs [State.sheetClear, forKeys_pending]
@[simp] theorem State.capstatWrite_pending (t c w : Nat) :
    (s.capstatWrite t c w).pending = s.pending := by simp [State.capstatWrite]
@[simp] theorem State.tqWrite_pending (t q w : Nat) : (s.tqWrite t q w).pending = s.pending := by simp [State.tqWrite]
@[simp] theorem State.engWrite_pending (t e w : Nat) :
    (s.engWrite t e w).pending = s.pending := by simp [State.engWrite]
@[simp] theorem State.latchWrite_pending (t w : Nat) : (s.latchWrite t w).pending = s.pending := rfl
@[simp] theorem State.hoWrite_pending (t w : Nat) : (s.hoWrite t w).pending = s.pending := by simp [State.hoWrite]
@[simp] theorem State.calWrite_pending (w : Nat) : (s.calWrite w).pending = s.pending := by simp [State.calWrite]
@[simp] theorem State.actChip_pending (src : Src) (r : Reg) (i w : Nat) (h : Option CtlHead) :
    (s.actChip src r i w h).pending = s.pending := by
  unfold State.actChip
  split <;> simp
@[simp] theorem State.actTile_pending (t : Nat) (r : Reg) (i w : Nat) : (s.actTile t r i w).pending = s.pending := by
  unfold State.actTile
  split <;> simp
@[simp] theorem State.applyWrite_pending (src : Src) (a : Nat) (w : Reg32) (h : Option CtlHead) :
    (s.applyWrite src a w h).pending = s.pending := by
  unfold State.applyWrite
  repeat' split
  all_goals simp
@[simp] theorem State.reportStart_pending (a w : Nat) : (s.reportStart a w).pending = s.pending := by
  unfold State.reportStart
  repeat' split
  all_goals simp
@[simp] theorem State.busWrite_pending (src : Src) (a : Nat) (w : Reg32) (h : Option CtlHead) :
    (s.busWrite src a w h).2.pending = s.pending := by
  unfold State.busWrite
  split <;> simp
@[simp] theorem State.writeAt_pending (src : Src) (a : Nat) (w : Reg32) (h : Option CtlHead) :
    (s.writeAt src a w h).pending = s.pending := by simp [State.writeAt]
@[simp] theorem State.hostSet_pending (a : Nat) (fs : List (Nat × Nat × Nat)) :
    (s.hostSet a fs).pending = s.pending := by simp [State.hostSet]

/-! ### Services (Sys2Proof/Machine/Services.lean) -/

@[simp] theorem State.authPass_pending : s.authPass.pending = s.pending := by simp [State.authPass]
@[simp] theorem State.authFail_pending : s.authFail.pending = s.pending := by simp [State.authFail]
@[simp] theorem State.ctlWrite_pending (a j : Nat) (ws : List Reg32) : (s.ctlWrite a j ws).2.pending = s.pending := by
  induction ws generalizing s j with
  | nil => rfl
  | cons x xs ih => simp [State.ctlWrite, ih]
@[simp] theorem State.ctlRead_pending (addrs : List Nat) : (s.ctlRead addrs).2.pending = s.pending := by
  induction addrs generalizing s with
  | nil => rfl
  | cons x xs ih => simp [State.ctlRead, ih]
@[simp] theorem State.ctlOperate_pending (op : Nat) (f : CtlFrame) (h : CtlHead) :
    (s.ctlOperate op f h).pending = s.pending := by simp [State.ctlOperate]
@[simp] theorem State.ctlChecked_pending (op : Nat) (f : CtlFrame) (h : CtlHead) :
    (s.ctlChecked op f h).pending = s.pending := by
  unfold State.ctlChecked
  split <;> simp
@[simp] theorem State.ctlFrame_pending (op : Nat) (f : CtlFrame) :
    (s.ctlFrame op f).pending = s.pending := by simp [State.ctlFrame]
@[simp] theorem State.msgWord_pending (o : Nat) : (s.msgWord o).2.pending = s.pending := by
  unfold State.msgWord
  split <;> simp
@[simp] theorem State.msgWords_pending (pos n : Nat) : (s.msgWords pos n).2.pending = s.pending := by
  induction n generalizing s pos with
  | zero => rfl
  | succ n ih => simp [State.msgWords, ih]
@[simp] theorem State.takeRequest_pending (ch : Nat) : (s.takeRequest ch).pending = s.pending := by
  simp only [State.takeRequest]
  split <;> simp
@[simp] theorem State.putReply_pending (o : Nat) (ws : List W64) : (s.putReply o ws).pending = s.pending := rfl
@[simp] theorem State.onService_pending (code : Nat) (f : SupReq → State → State) (h : ∀ q s,
    (f q s).pending = s.pending) :
    (s.onService code f).pending = s.pending := by
  unfold State.onService
  split
  · split
    · exact h _ s
    · rfl
  · rfl
@[simp] theorem State.serviceBegun_pending (code : Nat) : (s.serviceBegun code).pending = s.pending := rfl
@[simp] theorem State.holdTracking_pending (on : Bool) : (s.holdTracking on).pending = s.pending := rfl
@[simp] theorem State.storeReply_pending (code reason : Nat) (ok : Bool) :
    (s.storeReply code reason ok).pending = s.pending := by
  unfold State.storeReply
  split <;> simp
@[simp] theorem State.slotDone_pending (b ok : Bool) : (s.slotDone b ok).pending = s.pending := by simp [State.slotDone]
@[simp] theorem State.clearDone_pending (b ok : Bool) : (s.clearDone b ok).pending = s.pending := by
  unfold State.clearDone
  split <;> simp
@[simp] theorem State.listEntries_pending (pos n : Nat) : (s.listEntries pos n).2.pending = s.pending := by
  induction n generalizing s pos with
  | zero => rfl
  | succ n ih =>
    unfold State.listEntries
    split
    · rfl
    · dsimp only
      split <;> simp [ih]

end Sys2Proof.Machine

end

section

namespace Sys2Proof.Machine

open Sys2Proof

/-! ## Every command completes, and the commands behind it wait on -/

/-- A command with operands that are well-formed (`ok`) answers a next state, and whatever state it answers has the same
commands waiting. -/
structure Completes (ok : Bool) (s : State) (o : Host.Outcome State Fault Refusal) : Prop where
  next : ok = true → ∃ t, o = .next t
  queue : ∀ t, o = .next t → t.pending = s.pending

variable {s : State}

theorem completes_next {ok : Bool} {t : State} (h : t.pending = s.pending) : Completes ok s (.next t) where
  next _ := ⟨t, rfl⟩
  queue u hu := by cases hu; exact h

theorem completes_fault {ok : Bool} {r : Fault} (h : ok = false) : Completes ok s (.fault r) where
  next hk := by simp [h] at hk
  queue u hu := by cases hu

theorem Completes.mono {ok ok' : Bool} {o : Host.Outcome State Fault Refusal} (h : Completes ok s o)
    (hk : ok' = true → ok = true) : Completes ok' s o where
  next h' := h.next (hk h')
  queue := h.queue

/-- A command that needs a number in range completes where the number is. -/
theorem completes_guard {p : Prop} [Decidable p] {o : Host.Outcome State Fault Refusal} {r : Fault}
    (h : Completes true s o) : Completes (decide p) s (if p then o else .fault r) := by
  split
  next => exact h.mono (fun _ => rfl)
  next hp => exact completes_fault (decide_eq_false hp)

theorem completes_guard_and {ok : Bool} {p : Prop} [Decidable p] {o : Host.Outcome State Fault Refusal} {r : Fault}
    (h : Completes ok s o) : Completes (ok && decide p) s (if p then o else .fault r) := by
  split
  next => exact h.mono (fun hk => by simp only [Bool.and_eq_true] at hk; exact hk.1)
  next hp => exact completes_fault (by rw [decide_eq_false hp, Bool.and_false])

section

variable (s) {f : State → State} (hf : ∀ s, (f s).pending = s.pending)
include hf

theorem onChip_completes {ok : Bool} : Completes ok s (onChip s f) := completes_next (by split; exacts [hf s, rfl])

theorem onTile_completes {t : Nat} : Completes (tileOk t) s (onTile t s f) :=
  completes_guard (completes_next (by split; exacts [hf s, rfl]))

theorem onChan_completes {t c : Nat} : Completes (tileOk t && chanOk c) s (onChan t c s f) :=
  completes_guard_and (onTile_completes s hf)

theorem onEng_completes {t e : Nat} : Completes (tileOk t && engOk e) s (onEng t e s f) :=
  completes_guard_and (onTile_completes s hf)

theorem onCtx_completes {t c : Nat} : Completes (tileOk t && decide (c < 64)) s (onCtx t c s f) :=
  completes_guard_and (onTile_completes s hf)

theorem onUnit_completes {k n : Nat} : Completes (decide (k < n)) s (onUnit k n s f) :=
  completes_guard (onChip_completes s hf)

theorem onBox_completes {ch : Nat} : Completes (boxOk ch) s (onBox ch s f) :=
  completes_guard (onChip_completes s hf)

theorem hostTile_completes {t : Nat} : Completes (tileOk t) s (hostTile t s f) :=
  completes_guard (onChip_completes s hf)

theorem hostChan_completes {t c : Nat} : Completes (tileOk t && chanOk c) s (hostChan t c s f) :=
  completes_guard_and (hostTile_completes s hf)

theorem hostEng_completes {t e : Nat} : Completes (tileOk t && engOk e) s (hostEng t e s f) :=
  completes_guard_and (hostTile_completes s hf)

theorem hostQueue_completes {t q : Nat} : Completes (tileOk t && queueOk q) s (hostQueue t q s f) :=
  completes_guard_and (hostTile_completes s hf)

theorem onJtag_completes {ok : Bool} : Completes ok s (onJtag s f) := completes_next (by split; exacts [rfl, hf s])

end

variable (s)

theorem engStep_completes (t e : Nat) (op : EngOp) : Completes (tileOk t && engOk e) s (engStep t e op s) :=
  onEng_completes s (fun s => by split <;> simp)

/-- The words written may depend on the state. -/
theorem hostSet_completes (a : Nat) (fs : State → List (Nat × Nat × Nat)) :
    Completes true s (onChip s (fun s => s.hostSet a (fs s))) :=
  onChip_completes s (fun s => s.hostSet_pending a (fs s))

/-! The premise of the next two names the state after the operation, so that the kernel compares names and not the
operation's body. -/

theorem onLane_completes {f : Nat → State → State} (hf : ∀ l s t, f l s = t → t.pending = s.pending)
    (bad : Bool) (b : BitVec 48) (reserved : Nat) :
    Completes true s (onChip s (fun s => s.onSlot bad (fun s => s.onLane b reserved f))) :=
  onChip_completes s (fun s => s.onSlot_pending _ _ (fun s => s.onLane_pending b reserved f (fun l s => hf l s _ rfl)))

theorem onService_completes {f : SupReq → State → State} (hf : ∀ q s t, f q s = t → t.pending = s.pending)
    {kind : Nat} : Completes true s (onChip s (fun s => s.onService kind f)) :=
  onChip_completes s (fun s => s.onService_pending kind f (fun q s => hf q s _ rfl))


/-! ### Queues (Sys2Proof/Machine/Queues.lean) -/

theorem execLbExpiry_completes (t : Nat) :
    Completes (tileOk t) s (execLbExpiry t s) :=
  onTile_completes s (fun s => by simp)
theorem execFcoDeassert_completes (k : Nat) :
    Completes (decide (k < 8)) s (execFcoDeassert k s) :=
  onUnit_completes s (fun s => by simp)

/-! ### Capture (Sys2Proof/Machine/Capture.lean) -/

theorem execHitCommit_completes (t c : Nat) (d : Dest) :
    Completes (tileOk t && chanOk c) s (execHitCommit t c d s) := by
  refine onChan_completes s (fun s => ?_)
  split <;> simp
theorem execCommitLateRefuse_completes (t c : Nat) (d : Dest) :
    Completes (tileOk t && chanOk c) s (execCommitLateRefuse t c d s) := by
  refine onChan_completes s (fun s => ?_)
  split <;> simp

/-! ### The time plane (Sys2Proof/Machine/TimePlane.lean) -/

theorem execSecondBoundary_completes : Completes true s (execSecondBoundary s) := onChip_completes s (fun s => by simp)
theorem execEpochOpen_completes :
    Completes true s (execEpochOpen s) :=
  onChip_completes s (fun s => s.openDue_pending ..)
theorem execReplicaCheck_completes :
    Completes true s (execReplicaCheck s) :=
  onChip_completes s (fun s => by simp -implicitDefEqProofs [forKeys_pending])
theorem execReplicaReload_completes (t : Nat) :
    Completes (tileOk t) s (execReplicaReload t s) :=
  onTile_completes s (fun s => by simp)
theorem execReplicaPairMismatch_completes (t : Nat) :
    Completes (tileOk t) s (execReplicaPairMismatch t s) :=
  onTile_completes s (fun s => by simp)
theorem execLockComplete_completes : Completes true s (execLockComplete s) := onChip_completes s (fun s => by simp)
theorem execUnlockDeclared_completes :
    Completes true s (execUnlockDeclared s) :=
  onChip_completes s (fun s => s.unlock_pending ..)
theorem execLoscMissing_completes : Completes true s (execLoscMissing s) := onChip_completes s (fun s => by simp)
theorem execLoscClockPresent_completes :
    Completes true s (execLoscClockPresent s) :=
  onChip_completes s (fun s => by simp)
theorem execReferencePresent_completes (err : Int) :
    Completes true s (execReferencePresent err s) :=
  onChip_completes s (fun s => by simp)
theorem execReferenceRemeasured_completes (err : Int) :
    Completes true s (execReferenceRemeasured err s) :=
  onChip_completes s (fun s => by simp)
theorem execRealign_completes : Completes true s (execRealign s) := by
  refine onChip_completes s (fun s => ?_)
  split <;> simp
theorem execRampProfileStart_completes : Completes true s (execRampProfileStart s) := by
  refine onChip_completes s (fun s => ?_)
  repeat' split
  all_goals simp
theorem execRampSegmentEnd_completes : Completes true s (execRampSegmentEnd s) := by
  refine onChip_completes s (fun s => ?_)
  split <;> simp
theorem execRampPhaseStep_completes : Completes true s (execRampPhaseStep s) := by
  refine onChip_completes s (fun s => ?_)
  split <;> simp
theorem execRampAutoReplace_completes : Completes true s (execRampAutoReplace s) := by
  refine onChip_completes s (fun s => ?_)
  split <;> simp

/-! ### The dispatcher (Sys2Proof/Machine/Dispatcher.lean) -/

theorem execItemRelease_completes (t e : Nat) :
    Completes (tileOk t && engOk e) s (execItemRelease t e s) :=
  onEng_completes s (fun s => by simp)
theorem execSliceSwitch_completes (t e : Nat) : Completes (tileOk t && engOk e) s (execSliceSwitch t e s) := by
  refine onEng_completes s (fun s => ?_)
  repeat' split
  all_goals simp
theorem execTimeGateBoundary_completes (t e : Nat) :
    Completes (tileOk t && engOk e) s (execTimeGateBoundary t e s) := by
  refine onEng_completes s (fun s => ?_)
  dsimp only
  repeat' split
  all_goals simp -implicitDefEqProofs [forKeys_pending]
theorem execContextTimer_completes (t c : Nat) :
    Completes (tileOk t && decide (c < 64)) s (execContextTimer t c s) := by
  refine onCtx_completes s (fun s => ?_)
  dsimp only
  repeat' split
  all_goals simp
theorem execEngineEpochMarkers_completes (t e : Nat) :
    Completes (tileOk t && engOk e) s (execEngineEpochMarkers t e s) :=
  onEng_completes s (fun s => by simp -implicitDefEqProofs [forKeys_pending])
theorem execCheckpointTake_completes (t e : Nat) :
    Completes (tileOk t && engOk e) s (execCheckpointTake t e s) :=
  onEng_completes s (fun s => by simp)

/-! ### The engines (Sys2Proof/Machine/Engines.lean) -/

theorem execSliceCycleLimit_completes (t e : Nat) :
    Completes (tileOk t && engOk e) s (execSliceCycleLimit t e s) :=
  onEng_completes s (fun s => by simp)

/-! ### Time transfer (Sys2Proof/Machine/Transfer.lean) -/

theorem execTtSync_completes (b : BitVec 52) (sub : BitVec 13) (bad : Bool) :
    Completes true s (execTtSync b sub bad s) := by
  unfold execTtSync
  refine onChip_completes s (fun s => s.onSlot_pending _ _ (fun s => ?_))
  extract_lets id u _ v x
  have hu : u.pending = s.pending := by simp [u]
  have hv : v.pending = s.pending := by
    simp only [v]
    clear_value u
    split
    · split
      · exact (State.ttDiscard_pending _ _).trans hu
      · exact hu
    · exact hu
  clear_value v x
  split
  · exact hv
  · rfl
theorem execFollowUpS_completes (b : BitVec 52) (bad : Bool) :
    Completes true s (execFollowUpS b bad s) :=
  onChip_completes s (fun s => by simp)
theorem execFollowUpNf_completes (b : BitVec 52) (bad : Bool) :
    Completes true s (execFollowUpNf b bad s) :=
  onChip_completes s (fun s => by simp)
theorem execDelayRespS_completes (b : BitVec 52) (bad : Bool) :
    Completes true s (execDelayRespS b bad s) :=
  onChip_completes s (fun s => by simp)
theorem execDelayRespNf_completes (b : BitVec 52) (bad : Bool) :
    Completes true s (execDelayRespNf b bad s) :=
  onChip_completes s (fun s => by simp)
theorem execTtUnknownSlot_completes (msg : BitVec 4) (b : BitVec 52) (bad : Bool) :
    Completes true s (execTtUnknownSlot msg b bad s) :=
  onChip_completes s (fun s => by simp)
theorem execExchangeTimeout_completes (id : BitVec 8) : Completes true s (execExchangeTimeout id s) := by
  refine onChip_completes s (fun s => ?_)
  split <;> simp
theorem execTimeStep_completes : Completes true s (execTimeStep s) := by
  refine onChip_completes s (fun s => ?_)
  split <;> simp
theorem execQualityStale_completes : Completes true s (execQualityStale s) := by
  refine onChip_completes s (fun s => ?_)
  split <;> simp

/-! ### Triggers (Sys2Proof/Machine/Trigger.lean) -/

theorem execTrigger_completes (b : BitVec 56) (bad : Bool) :
    Completes (decide (b.toNat / 2 ^ 52 < 12)) s (execTrigger b bad s) := by
  refine onChip_completes s (fun s => s.onSlot_pending _ _ (fun s => ?_))
  split
  · rfl
  · dsimp only
    split
    · simp
    · exact forKeys_pending (fun t s => s.modTile_pending t _) _ s
theorem execTriggerDecide_completes : Completes true s (execTriggerDecide s) := by
  refine onChip_completes s (fun s => ?_)
  dsimp only
  repeat' split
  all_goals simp -implicitDefEqProofs [forKeys_pending]
theorem execFragmentCopy_completes (t words : Nat) : Completes (tileOk t) s (execFragmentCopy t words s) := by
  refine onTile_completes s (fun s => ?_)
  split
  · rfl
  · dsimp only
    split
    · split
      · rfl
      · refine forKeys_pending (fun k s => ?_) _ s
        split
        · split <;> simp
        · rfl
    · rfl
theorem execFragmentDeadline_completes (t : Nat) : Completes (tileOk t) s (execFragmentDeadline t s) := by
  refine onTile_completes s (fun s => ?_)
  split <;> simp
theorem execEventSend_completes : Completes true s (execEventSend s) := by
  refine onChip_completes s (fun s => ?_)
  split <;> simp -implicitDefEqProofs [forKeys_pending]
theorem execTriggerSliceCopy_completes (t c : Nat) :
    Completes (tileOk t && decide (c < 64)) s (execTriggerSliceCopy t c s) := by
  refine onCtx_completes s (fun s => ?_)
  split <;> simp

/-! ### The links (Sys2Proof/Machine/Links.lean) -/

theorem execDnClockRecovered_completes :
    Completes true s (execDnClockRecovered s) :=
  onChip_completes s (fun s => by simp)
theorem execDnCommaLock_completes : Completes true s (execDnCommaLock s) := onChip_completes s (fun s => by simp)
theorem execDnSlotLock_completes : Completes true s (execDnSlotLock s) := onChip_completes s (fun s => by simp)
theorem execDnSlotLost_completes : Completes true s (execDnSlotLost s) := onChip_completes s (fun s => by simp)
theorem execDnSignalLost_completes : Completes true s (execDnSignalLost s) := onChip_completes s (fun s => by simp)
theorem execIdleSlot_completes (b : BitVec 56) (bad : Bool) :
    Completes true s (execIdleSlot b bad s) :=
  onChip_completes s (fun s => by simp)
theorem execBlockClose_completes (b : BitVec 52) (bad : Bool) :
    Completes true s (execBlockClose b bad s) :=
  onChip_completes s (fun s => by simp -implicitDefEqProofs [forKeys_pending])
theorem execSync_completes (b : BitVec 52) (bad : Bool) :
    Completes true s (execSync b bad s) :=
  onChip_completes s (fun s => by simp)
theorem execAck_completes (b : BitVec 48) (bad : Bool) :
    Completes true s (execAck b bad s) :=
  onLane_completes s (fun _ s _ => (· ▸ s.ackLane_pending ..)) ..
theorem execNak_completes (b : BitVec 48) (bad : Bool) :
    Completes true s (execNak b bad s) :=
  onLane_completes s (fun _ s _ => (· ▸ s.nakLane_pending ..)) ..
theorem execLaneUp_completes (b : BitVec 48) (bad : Bool) :
    Completes true s (execLaneUp b bad s) :=
  onLane_completes s (fun _ s _ => (· ▸ s.upLane_pending ..)) ..
theorem execRetrain_completes (b : BitVec 48) (bad : Bool) :
    Completes true s (execRetrain b bad s) :=
  onLane_completes s (fun _ s _ => (· ▸ s.retrainLane_pending ..)) ..
theorem execPause_completes (b : BitVec 48) (bad : Bool) :
    Completes true s (execPause b bad s) :=
  onChip_completes s (fun s => by simp)
theorem execResume_completes (b : BitVec 48) (bad : Bool) :
    Completes true s (execResume b bad s) :=
  onChip_completes s (fun s => by simp)
theorem execUnknownLinkOperation_completes (op : BitVec 4) (b : BitVec 48) (bad : Bool) :
    Completes (decide (6 ≤ op.toNat)) s (execUnknownLinkOperation op b bad s) :=
  onChip_completes s (fun s => by simp)
theorem execOrphanControlSlot_completes (b : BitVec 56) (bad : Bool) :
    Completes true s (execOrphanControlSlot b bad s) :=
  onChip_completes s (fun s => by simp)
theorem execFrameTransmit_completes (l : Nat) :
    Completes (laneOk l) s (execFrameTransmit l s) :=
  onUnit_completes s (fun s => s.transmit_pending ..)
theorem execStreamReadPacket_completes (t : Nat) (packed : Bool) :
    Completes (tileOk t) s (execStreamReadPacket t packed s) := by
  refine onTile_completes s (fun s => ?_)
  dsimp only
  repeat' split
  all_goals simp
theorem execResultFrameClose_completes (i : Nat) : Completes (decide (i < 128)) s (execResultFrameClose i s) := by
  refine onUnit_completes s (fun s => ?_)
  split <;> simp
theorem execLinkPllLock_completes :
    Completes true s (execLinkPllLock s) :=
  onChip_completes s (fun s => by simp -implicitDefEqProofs [forKeys_pending])
theorem execLinkPllLoss_completes :
    Completes true s (execLinkPllLoss s) :=
  onChip_completes s (fun s => by simp -implicitDefEqProofs [forKeys_pending])
theorem execLaneDegraded_completes (l : Nat) :
    Completes (laneOk l) s (execLaneDegraded l s) :=
  onUnit_completes s (fun s => by simp)
theorem execFciChange_completes (k : Nat) (level : Bool) : Completes (decide (k < 4)) s (execFciChange k level s) := by
  unfold execFciChange
  refine completes_guard (completes_next ?_)
  extract_lets _ u
  have hu : u.pending = s.pending := rfl
  clear_value u
  split
  · rfl
  · split
    · exact (forKeys_pending (fun i s => s.closeFrame_pending i) _ _).trans hu
    · exact hu
theorem execFciHoldExpiry_completes (k : Nat) : Completes (decide (k < 4)) s (execFciHoldExpiry k s) := by
  refine onUnit_completes s (fun s => ?_)
  split <;> simp
theorem execPauseExpiry_completes (cls idx : Nat) :
    Completes (decide (cls < 4) && decide (idx < 256)) s (execPauseExpiry cls idx s) := by
  refine (onUnit_completes s (fun s => ?_)).mono (fun h => ?_)
  · split <;> simp
  · simp only [Bool.and_eq_true, decide_eq_true_eq] at h ⊢
    unfold streamKey
    omega
theorem execAckTimeout_completes (l : Nat) : Completes (laneOk l) s (execAckTimeout l s) := by
  refine onUnit_completes s (fun s => ?_)
  split <;> simp
theorem execStallEnd_completes : Completes true s (execStallEnd s) := by
  refine onChip_completes s (fun s => ?_)
  split <;> simp
theorem execTtReplySend_completes (sub : BitVec 13) : Completes true s (execTtReplySend sub s) := by
  refine onChip_completes s (fun s => ?_)
  split <;> simp -implicitDefEqProofs [forKeys_pending]

/-! ### Calibration (Sys2Proof/Machine/Calibration.lean) -/

theorem execCheckComplete_completes (t c : Nat) (o : CheckOutcome) :
    Completes (tileOk t && chanOk c && o.wf) s (execCheckComplete t c o s) := by
  refine (onChan_completes s (fun s => ?_)).mono (fun h => ?_)
  · split
    · dsimp only
      split
      · split <;> simp
      · simp
    · rfl
  · simp only [Bool.and_eq_true] at h ⊢
    exact h.1
theorem execHandoverOpen_completes (t : Nat) :
    Completes (tileOk t) s (execHandoverOpen t s) :=
  onTile_completes s (fun s => by simp)
theorem execHandoverInstant_completes (t : Nat) (out inc : List HoEdge) (diff : Int) :
    Completes (tileOk t && edgesOk out && edgesOk inc) s (execHandoverInstant t out inc diff s) := by
  refine (onTile_completes s (fun s => ?_)).mono (fun h => ?_)
  · split <;> simp
  · simp only [Bool.and_eq_true] at h
    exact h.1.1
theorem execTapRelease_completes (t : Nat) :
    Completes (tileOk t) s (execTapRelease t s) :=
  onTile_completes s (fun s => by simp)
theorem execProofPassEnd_completes (d : PassData) :
    Completes (decide (d.hist.length = 1024)) s (execProofPassEnd d s) :=
  onChip_completes s (fun s => by simp)
theorem execProofPassTimeout_completes (d : PassData) :
    Completes (decide (d.hist.length = 1024)) s (execProofPassTimeout d s) := by
  refine onChip_completes s (fun s => ?_)
  split <;> simp
theorem execProofStoreDone_completes (ok : Bool) : Completes true s (execProofStoreDone ok s) := by
  refine onChip_completes s (fun s => ?_)
  dsimp only
  split <;> simp
theorem execTrackTick_completes (temps : List (Option Int)) :
    Completes true s (execTrackTick temps s) :=
  onChip_completes s (fun s => by simp -implicitDefEqProofs [forKeys_pending])
theorem execDacStep_completes :
    Completes true s (execDacStep s) :=
  onChip_completes s (fun s => by simp -implicitDefEqProofs [forKeys_pending])
theorem execContactSheetRefresh_completes :
    Completes true s (execContactSheetRefresh s) :=
  onChip_completes s (fun s => by simp)
theorem execDmmInterval_completes :
    Completes true s (execDmmInterval s) :=
  onChip_completes s (fun s => by simp -implicitDefEqProofs [forKeys_pending])

/-! ### Inputs (Sys2Proof/Machine/Inputs.lean) -/

theorem execEdge_completes (t c : Nat) (v : Swing) (sub : BitVec 13) (mismatch : Bool) :
    Completes (tileOk t && chanOk c) s (execEdge t c v sub mismatch s) :=
  onChan_completes s (fun s => by simp)
theorem execLmSample_completes (t : Nat) (nv errLo errHi : Int) :
    Completes (tileOk t) s (execLmSample t nv errLo errHi s) :=
  onTile_completes s (fun s => by simp)

/-! ### Prompt measurements (Sys2Proof/Machine/Prompt.lean) -/

theorem execPromptWord_completes : Completes true s (execPromptWord s) := onChip_completes s (fun s => by simp)

/-! ### Configuration (Sys2Proof/Machine/Configuration.lean) -/

theorem execReloadDone_completes : Completes true s (execReloadDone s) := onChip_completes s (fun s => by simp)
theorem execPrepareDone_completes : Completes true s (execPrepareDone s) := onChip_completes s (fun s => by simp)
theorem execFixDecide_completes : Completes true s (execFixDecide s) := onChip_completes s (fun s => by simp)
theorem execFixTakeEffect_completes : Completes true s (execFixTakeEffect s) := onChip_completes s (fun s => by simp)
theorem execScrub_completes : Completes true s (execScrub s) := onChip_completes s (fun s => by simp)

/-! ### Dependability (Sys2Proof/Machine/Dependability.lean) -/

theorem execReplayEnd_completes (t e : Nat) :
    Completes (tileOk t && engOk e) s (execReplayEnd t e s) :=
  onEng_completes s (fun s => by simp)
theorem execEngineFaultDetect_completes (t e : Nat) :
    Completes (tileOk t && engOk e) s (execEngineFaultDetect t e s) :=
  onEng_completes s (fun s => by simp)
theorem execEngineStallWatchdog_completes (t e : Nat) :
    Completes (tileOk t && engOk e) s (execEngineStallWatchdog t e s) := by
  refine onEng_completes s (fun s => ?_)
  dsimp only
  split <;> simp
theorem execFailover_completes (t e : Nat) :
    Completes (tileOk t && engOk e) s (execFailover t e s) :=
  onEng_completes s (fun s => by simp)
theorem execLockstepMismatch_completes (t p : Nat) (who : LockCopy) :
    Completes (tileOk t && decide (p < 4)) s (execLockstepMismatch t p who s) :=
  completes_guard_and (onTile_completes s (fun s => s.pairMismatch_pending ..))
theorem execEngineSelfTestDone_completes (t e : Nat) (pass : Bool) :
    Completes (tileOk t && engOk e) s (execEngineSelfTestDone t e pass s) :=
  onEng_completes s (fun s => s.testEnd_pending ..)
theorem execTmrPersistentFault_completes (t : Nat) :
    Completes (tileOk t) s (execTmrPersistentFault t s) :=
  onTile_completes s (fun s => by simp)
theorem execTileResetDone_completes (t : Nat) :
    Completes (tileOk t) s (execTileResetDone t s) :=
  onTile_completes s (fun s => s.tileResetEnd_pending ..)

/-! ### Power (Sys2Proof/Machine/Power.lean) -/

theorem execPorAssert_completes : Completes true s (execPorAssert s) := completes_next (by simp)
theorem execPorEnd_completes (bootsel : BitVec 2) (flash : List Byte) :
    Completes true s (execPorEnd bootsel flash s) :=
  completes_next (by simp)
theorem execResetNLow_completes : Completes true s (execResetNLow s) := completes_next (by simp)
theorem execResetNRelease_completes (bootsel : BitVec 2) (flash : List Byte) :
    Completes true s (execResetNRelease bootsel flash s) :=
  completes_next (by simp)
theorem execBootComplete_completes : Completes true s (execBootComplete s) := onChip_completes s (fun s => by simp)
theorem execSoftResetDone_completes : Completes true s (execSoftResetDone s) := onChip_completes s (fun s => by simp)
theorem execEnterRun_completes : Completes true s (execEnterRun s) := by
  refine onChip_completes s (fun s => ?_)
  split <;> simp
theorem execEnterSafelight_completes : Completes true s (execEnterSafelight s) := by
  refine onChip_completes s (fun s => ?_)
  split <;> simp
theorem execDarkDecide_completes : Completes true s (execDarkDecide s) := by
  refine onChip_completes s (fun s => ?_)
  dsimp only
  repeat' split
  all_goals simp
theorem execDarkEntry_completes : Completes true s (execDarkEntry s) := by
  refine onChip_completes s (fun s => ?_)
  split <;> simp
theorem execDarkExit_completes : Completes true s (execDarkExit s) := by
  refine onChip_completes s (fun s => ?_)
  split <;> simp
theorem execDarkExitComplete_completes :
    Completes true s (execDarkExitComplete s) :=
  onChip_completes s (fun s => by simp)
theorem execTileWake_completes (t : Nat) :
    Completes (tileOk t) s (execTileWake t s) :=
  onTile_completes s (fun s => by simp)
theorem execPwRegate_completes (mask : BitVec 64) :
    Completes true s (execPwRegate mask s) :=
  onChip_completes s (fun s => by simp)
theorem execSupervisorWake_completes : Completes true s (execSupervisorWake s) := onChip_completes s (fun s => by simp)
theorem execSupervisorRestart_completes :
    Completes true s (execSupervisorRestart s) :=
  onChip_completes s (fun s => by simp)
theorem execSupervisorRestartDone_completes :
    Completes true s (execSupervisorRestartDone s) :=
  onChip_completes s (fun s => by simp)

/-! ### Snapshots (Sys2Proof/Machine/Snapshot.lean) -/

theorem execSnapshot_completes (b : BitVec 52) (bad : Bool) :
    Completes true s (execSnapshot b bad s) :=
  onChip_completes s (fun s => by simp)
theorem execSnapNFall_completes : Completes true s (execSnapNFall s) := completes_next (by simp)
theorem execSnapNRise_completes : Completes true s (execSnapNRise s) := completes_next (by simp)
theorem execSnapFreeze_completes :
    Completes true s (execSnapFreeze s) :=
  onChip_completes s (fun s => s.freezeAsk_pending ..)
theorem execSnapRelease_completes : Completes true s (execSnapRelease s) := onJtag_completes s (fun s => by simp)
theorem execSnapSel_completes (v : BitVec 8) :
    Completes true s (execSnapSel v s) :=
  onJtag_completes s (fun s => by simp)
theorem execSnapRead_completes : Completes true s (execSnapRead s) := onJtag_completes s (fun s => by simp)
theorem execSnapMem_completes (v : BitVec 56) :
    Completes true s (execSnapMem v s) :=
  onJtag_completes s (fun s => by simp)
theorem execFreeze_completes : Completes true s (execFreeze s) := by
  refine onChip_completes s (fun s => ?_)
  split <;> simp
theorem execSnapshotRelease_completes : Completes true s (execSnapshotRelease s) := completes_next (by simp)

/-! ### Register commands (Sys2Proof/Machine/Registers.lean) -/

theorem execRegisterWrite_completes (src : Src) (addr : BitVec 24) (w : BitVec 32) :
    Completes true s (execRegisterWrite src addr w s) :=
  onChip_completes s (fun s => s.writeAt_pending ..)
theorem execRampStart_completes (last : BitVec 4) :
    Completes true s (execRampStart last s) :=
  onChip_completes s (fun s => s.hostSet_pending ..)
theorem execRampAbort_completes :
    Completes true s (execRampAbort s) :=
  onChip_completes s (fun s => s.hostSet_pending ..)
theorem execTbLatch_completes : Completes true s (execTbLatch s) := onChip_completes s (fun s => s.hostSet_pending ..)
theorem execTbSet_completes : Completes true s (execTbSet s) := onChip_completes s (fun s => s.hostSet_pending ..)
theorem execTtAsymWrite_completes (w : BitVec 32) :
    Completes true s (execTtAsymWrite w s) :=
  onChip_completes s (fun s => s.writeAt_pending ..)
theorem execAcceptSym_completes :
    Completes true s (execAcceptSym s) :=
  onChip_completes s (fun s => s.hostSet_pending ..)
theorem execLreset_completes (h : Option CtlHead) :
    Completes true s (execLreset h s) :=
  onChip_completes s (fun s => s.writeAt_pending ..)
theorem execLkRetrain_completes :
    Completes true s (execLkRetrain s) :=
  onChip_completes s (fun s => s.writeAt_pending ..)
theorem execEvForce_completes (src : BitVec 11) :
    Completes true s (execEvForce src s) :=
  onChip_completes s (fun s => s.hostSet_pending ..)
theorem execEvMaskWrite_completes (r : MaskReg) (w : BitVec 32) : Completes r.wf s (execEvMaskWrite r w s) := by
  cases r with
  | chip i => exact onUnit_completes s (fun s => s.writeAt_pending ..)
  | tile t => exact hostTile_completes s (fun s => s.writeAt_pending ..)
theorem execRing_completes (src : Src) (ch : Nat) :
    Completes (boxOk ch) s (execRing src ch s) :=
  onBox_completes s (fun s => s.writeAt_pending ..)
theorem execTake_completes (src : Src) (ch : Nat) :
    Completes (boxOk ch) s (execTake src ch s) :=
  onBox_completes s (fun s => s.writeAt_pending ..)
theorem execBump_completes : Completes true s (execBump s) := onChip_completes s (fun s => s.writeAt_pending ..)
theorem execSecClose_completes : Completes true s (execSecClose s) := onChip_completes s (fun s => s.writeAt_pending ..)
theorem execPrCtrlWrite_completes (w : BitVec 32) :
    Completes true s (execPrCtrlWrite w s) :=
  onChip_completes s (fun s => s.writeAt_pending ..)
theorem execSlotClose_completes :
    Completes true s (execSlotClose s) :=
  onChip_completes s (fun s => s.hostSet_pending ..)
theorem execSlotEmpty_completes :
    Completes true s (execSlotEmpty s) :=
  onChip_completes s (fun s => s.hostSet_pending ..)
theorem execReload_completes : Completes true s (execReload s) := onChip_completes s (fun s => s.hostSet_pending ..)
theorem execPrepare_completes : Completes true s (execPrepare s) := onChip_completes s (fun s => s.hostSet_pending ..)
theorem execFix_completes : Completes true s (execFix s) := onChip_completes s (fun s => s.hostSet_pending ..)
theorem execCancel_completes : Completes true s (execCancel s) := onChip_completes s (fun s => s.hostSet_pending ..)
theorem execCalStart_completes (w : BitVec 18) : Completes true s (execCalStart w s) := hostSet_completes s ..
theorem execCalAbort_completes : Completes true s (execCalAbort s) := hostSet_completes s ..
theorem execReqRun_completes : Completes true s (execReqRun s) := onChip_completes s (fun s => s.writeAt_pending ..)
theorem execReqSafelight_completes :
    Completes true s (execReqSafelight s) :=
  onChip_completes s (fun s => s.writeAt_pending ..)
theorem execReqDark_completes : Completes true s (execReqDark s) := onChip_completes s (fun s => s.writeAt_pending ..)
theorem execPwCancel_completes : Completes true s (execPwCancel s) := onChip_completes s (fun s => s.writeAt_pending ..)
theorem execSoftRst_completes (h : Option CtlHead) : Completes true s (execSoftRst h s) := completes_next (by simp)
theorem execCntClr_completes : Completes true s (execCntClr s) := onChip_completes s (fun s => s.writeAt_pending ..)
theorem execDepEngRet_completes (t e : Nat) :
    Completes (tileOk t && engOk e) s (execDepEngRet t e s) :=
  hostEng_completes s (fun s => s.hostSet_pending ..)
theorem execDepTileRst_completes (t : Nat) :
    Completes (tileOk t) s (execDepTileRst t s) :=
  hostTile_completes s (fun s => s.hostSet_pending ..)
theorem execChCfgWrite_completes (t c : Nat) (w : BitVec 32) :
    Completes (tileOk t && chanOk c) s (execChCfgWrite t c w s) :=
  hostChan_completes s (fun s => s.writeAt_pending ..)
theorem execChThrWrite_completes (t c : Nat) (w : BitVec 32) :
    Completes (tileOk t && chanOk c) s (execChThrWrite t c w s) :=
  hostChan_completes s (fun s => s.writeAt_pending ..)
theorem execCheckStart_completes (t c : Nat) (kind : Bool) (margin : BitVec 8) :
    Completes (tileOk t && chanOk c) s (execCheckStart t c kind margin s) :=
  hostChan_completes s (fun s => s.hostSet_pending ..)
theorem execTcXbarWrite_completes (t : Nat) (w : BitVec 32) :
    Completes (tileOk t) s (execTcXbarWrite t w s) :=
  hostTile_completes s (fun s => s.writeAt_pending ..)
theorem execCaptureClr_completes (t c : Nat) :
    Completes (tileOk t && chanOk c) s (execCaptureClr t c s) :=
  hostChan_completes s (fun s => s.hostSet_pending ..)
theorem execHoStart_completes (t : Nat) (input : BitVec 4) (dir : Bool) (ovl : BitVec 16) :
    Completes (tileOk t) s (execHoStart t input dir ovl s) :=
  hostTile_completes s (fun s => s.hostSet_pending ..)
theorem execHoAbort_completes (t : Nat) :
    Completes (tileOk t) s (execHoAbort t s) :=
  hostTile_completes s (fun s => s.hostSet_pending ..)
theorem execFlush_completes (t q : Nat) :
    Completes (tileOk t && queueOk q) s (execFlush t q s) :=
  hostQueue_completes s (fun s => s.hostSet_pending ..)
theorem execQueueClr_completes (t q : Nat) :
    Completes (tileOk t && queueOk q) s (execQueueClr t q s) :=
  hostQueue_completes s (fun s => s.hostSet_pending ..)
theorem execRestart_completes (t e : Nat) :
    Completes (tileOk t && engOk e) s (execRestart t e s) :=
  hostEng_completes s (fun s => s.hostSet_pending ..)
theorem execCkptNow_completes (t e : Nat) :
    Completes (tileOk t && engOk e) s (execCkptNow t e s) :=
  hostEng_completes s (fun s => s.hostSet_pending ..)
theorem execPeakClr_completes (t e : Nat) :
    Completes (tileOk t && engOk e) s (execPeakClr t e s) :=
  hostEng_completes s (fun s => s.hostSet_pending ..)

/-! ### Services (Sys2Proof/Machine/Services.lean) -/

theorem execWrite_completes (f : CtlFrame) :
    Completes true s (execWrite f s) :=
  onChip_completes s (fun s => s.onSlot_pending _ _ (fun s => s.ctlFrame_pending ..))
theorem execRead_completes (f : CtlFrame) :
    Completes true s (execRead f s) :=
  onChip_completes s (fun s => s.onSlot_pending _ _ (fun s => s.ctlFrame_pending ..))
theorem execImage_completes (f : CtlFrame) :
    Completes true s (execImage f s) :=
  onChip_completes s (fun s => s.onSlot_pending _ _ (fun s => s.ctlFrame_pending ..))
theorem execUnknownOpControlFrame_completes (op : BitVec 4) (f : CtlFrame) :
    Completes (!(op = 1 || op = 2 || op = 4)) s (execUnknownOpControlFrame op f s) :=
  onChip_completes s (fun s => by simp)
theorem execControlFrameTimeout_completes (h : CtlHead) :
    Completes true s (execControlFrameTimeout h s) :=
  onChip_completes s (fun s => s.respond_pending ..)
theorem execSupTakeRequest_completes (ch : Nat) :
    Completes (boxOk ch) s (execSupTakeRequest ch s) :=
  onBox_completes s (fun s => by simp)
theorem execSupReplyPost_completes (ch : Nat) : Completes (boxOk ch) s (execSupReplyPost ch s) := by
  refine onBox_completes s (fun s => ?_)
  split <;> simp
theorem execInfo_completes :
    Completes true s (execInfo s) :=
  onChip_completes s (fun s => s.onService_pending _ _ (fun q s => by simp))
theorem execProofRun_completes : Completes true s (execProofRun s) := by
  refine onService_completes s (fun q s t ht => ?_)
  extract_lets w running bad u v at ht
  have hu : u.pending = s.pending := by simp only [u, State.pending_ite, State.serviceBegun_pending, ite_self]
  have hv : v.pending = s.pending := (u.writeAt_pending ..).trans hu
  clear_value u v bad w
  rw [← ht]
  split
  · exact (v.serviceEnd_pending ..).trans hv
  · split
    · exact (v.serviceEnd_pending ..).trans hv
    · exact hv
theorem execAgeingRead_completes :
    Completes true s (execAgeingRead s) :=
  onChip_completes s (fun s => s.onService_pending _ _ (fun q s => by simp))
theorem execAgeingClear_completes :
    Completes true s (execAgeingClear s) :=
  onChip_completes s (fun s => s.onService_pending _ _ (fun q s => by simp))
theorem execSlotWrite_completes : Completes true s (execSlotWrite s) := by
  unfold execSlotWrite
  refine onChip_completes s (fun s => s.onService_pending _ _ (fun q s => ?_))
  extract_lets n
  split
  next r u hr =>
  have hu : u.pending = s.pending := by
    have h := congrArg (·.2.pending) hr
    refine h.symm.trans ?_
    split
    · rfl
    · split
      · rfl
      · exact s.imageSlot_pending _ _
  clear hr
  dsimp only
  split
  · simp [hu]
  · split
    · simp [hu]
    · split <;> simp [hu]
theorem execSvcSlotEmpty_completes :
    Completes true s (execSvcSlotEmpty s) :=
  onChip_completes s (fun s => s.onService_pending _ _ (fun q s => by simp))
theorem execTrackHold_completes :
    Completes true s (execTrackHold s) :=
  onChip_completes s (fun s => s.onService_pending _ _ (fun q s => by simp))
theorem execTrackResume_completes :
    Completes true s (execTrackResume s) :=
  onChip_completes s (fun s => s.onService_pending _ _ (fun q s => by simp))
theorem execTempRead_completes :
    Completes true s (execTempRead s) :=
  onChip_completes s (fun s => s.onService_pending _ _ (fun q s => by simp))
theorem execContactRefresh_completes :
    Completes true s (execContactRefresh s) :=
  onChip_completes s (fun s => s.onService_pending _ _ (fun q s => by simp))
theorem execLogRead_completes :
    Completes true s (execLogRead s) :=
  onChip_completes s (fun s => s.onService_pending _ _ (fun q s => by simp))
theorem execStoreWriteDone_completes (ok : Bool) : Completes true s (execStoreWriteDone ok s) := by
  refine onChip_completes s (fun s => ?_)
  split <;> simp
theorem execTileCmdList_completes (t : Nat) :
    Completes (tileOk t) s (execTileCmdList t s) :=
  onTile_completes s (fun s => by simp -implicitDefEqProofs [foldl_pending])
theorem execLogSecond_completes : Completes true s (execLogSecond s) := onChip_completes s (fun s => by simp)
theorem execEventMboxPost_completes : Completes true s (execEventMboxPost s) := by
  refine onChip_completes s (fun s => ?_)
  split <;> simp

end Sys2Proof.Machine

end

section

namespace Sys2Proof.Machine

open Sys2Proof

/-- Every command of the table: the engine instructions by their one meaning, the rest each by its own lemma. -/
theorem exec_completes (c : Instr) (s : State) : Completes c.wf s (exec c s) := by
  cases c
  case nop | add | sub | and | or | xor | shl | shr | sar | min | max | mul | ext | ins | divu | divs | remu | macs
      | macu | aclr | aadd | aadda | asuba | ashl | asar | agetl | ageth | aset | adiv | adivr | asqrt | seq | slt |
      sltu | beq | bne | blt | bge | bltu | bgeu | beqi | bnei | bbs | bbc | jmp | jal | jr | ld | st | lda | sta |
      gnext | gstat | wait | checkpoint | emit | emith | commit | rewind | tmset | tmclr => apply engStep_completes
  case porAssert => exact execPorAssert_completes ..
  case porEnd => exact execPorEnd_completes ..
  case resetNLow => exact execResetNLow_completes ..
  case resetNRelease => exact execResetNRelease_completes ..
  case bootComplete => exact execBootComplete_completes ..
  case secondBoundary => exact execSecondBoundary_completes ..
  case epochOpen => exact execEpochOpen_completes ..
  case replicaCheck => exact execReplicaCheck_completes ..
  case replicaReload => exact execReplicaReload_completes ..
  case replicaPairMismatch => exact execReplicaPairMismatch_completes ..
  case lockComplete => exact execLockComplete_completes ..
  case unlockDeclared => exact execUnlockDeclared_completes ..
  case loscMissing => exact execLoscMissing_completes ..
  case referencePresent => exact execReferencePresent_completes ..
  case referenceRemeasured => exact execReferenceRemeasured_completes ..
  case realign => exact execRealign_completes ..
  case rampProfileStart => exact execRampProfileStart_completes ..
  case rampSegmentEnd => exact execRampSegmentEnd_completes ..
  case rampPhaseStep => exact execRampPhaseStep_completes ..
  case rampAutoReplace => exact execRampAutoReplace_completes ..
  case rampStart => exact execRampStart_completes ..
  case rampAbort => exact execRampAbort_completes ..
  case tbLatch => exact execTbLatch_completes ..
  case tbSet => exact execTbSet_completes ..
  case ttSync => exact execTtSync_completes ..
  case followUpS => exact execFollowUpS_completes ..
  case followUpNf => exact execFollowUpNf_completes ..
  case delayRespS => exact execDelayRespS_completes ..
  case delayRespNf => exact execDelayRespNf_completes ..
  case ttUnknownSlot msg bits bad => exact execTtUnknownSlot_completes s msg bits bad
  case ttReplySend => exact execTtReplySend_completes ..
  case exchangeTimeout => exact execExchangeTimeout_completes ..
  case timeStep => exact execTimeStep_completes ..
  case qualityStale => exact execQualityStale_completes ..
  case ttAsymWrite => exact execTtAsymWrite_completes ..
  case acceptSym => exact execAcceptSym_completes ..
  case edge => exact execEdge_completes ..
  case hitCommit => exact execHitCommit_completes ..
  case commitLateRefuse => exact execCommitLateRefuse_completes ..
  case chCfgWrite => exact execChCfgWrite_completes ..
  case chThrWrite => exact execChThrWrite_completes ..
  case checkStart => exact execCheckStart_completes ..
  case checkComplete => exact execCheckComplete_completes ..
  case tcXbarWrite => exact execTcXbarWrite_completes ..
  case captureClr => exact execCaptureClr_completes ..
  case lmSample => exact execLmSample_completes ..
  case tileWake => exact execTileWake_completes ..
  case sliceCycleLimit => exact execSliceCycleLimit_completes ..
  case itemRelease => exact execItemRelease_completes ..
  case sliceSwitch => exact execSliceSwitch_completes ..
  case timeGateBoundary => exact execTimeGateBoundary_completes ..
  case contextTimer => exact execContextTimer_completes ..
  case triggerSliceCopy => exact execTriggerSliceCopy_completes ..
  case engineEpochMarkers => exact execEngineEpochMarkers_completes ..
  case checkpointTake => exact execCheckpointTake_completes ..
  case restart => exact execRestart_completes ..
  case ckptNow => exact execCkptNow_completes ..
  case peakClr => exact execPeakClr_completes ..
  case replayEnd => exact execReplayEnd_completes ..
  case engineFaultDetect => exact execEngineFaultDetect_completes ..
  case engineStallWatchdog => exact execEngineStallWatchdog_completes ..
  case failover => exact execFailover_completes ..
  case lockstepMismatch => exact execLockstepMismatch_completes ..
  case depEngRet => exact execDepEngRet_completes ..
  case engineSelfTestDone => exact execEngineSelfTestDone_completes ..
  case flush => exact execFlush_completes ..
  case queueClr => exact execQueueClr_completes ..
  case lbExpiry => exact execLbExpiry_completes ..
  case fcoDeassert => exact execFcoDeassert_completes ..
  case streamReadPacket => exact execStreamReadPacket_completes ..
  case trigger => exact execTrigger_completes ..
  case triggerDecide => exact execTriggerDecide_completes ..
  case fragmentCopy => exact execFragmentCopy_completes ..
  case fragmentDeadline => exact execFragmentDeadline_completes ..
  case eventSend => exact execEventSend_completes ..
  case promptWord => exact execPromptWord_completes ..
  case prCtrlWrite => exact execPrCtrlWrite_completes ..
  case dnClockRecovered => exact execDnClockRecovered_completes ..
  case dnCommaLock => exact execDnCommaLock_completes ..
  case dnSlotLock => exact execDnSlotLock_completes ..
  case dnSlotLost => exact execDnSlotLost_completes ..
  case dnSignalLost => exact execDnSignalLost_completes ..
  case idleSlot bits bad => exact execIdleSlot_completes s bits bad
  case snapshot => exact execSnapshot_completes ..
  case blockClose => exact execBlockClose_completes ..
  case sync => exact execSync_completes ..
  case ack => exact execAck_completes ..
  case nak => exact execNak_completes ..
  case laneUp => exact execLaneUp_completes ..
  case pause => exact execPause_completes ..
  case resume => exact execResume_completes ..
  case retrain => exact execRetrain_completes ..
  case write => exact execWrite_completes ..
  case read => exact execRead_completes ..
  case image => exact execImage_completes ..
  case controlFrameTimeout => exact execControlFrameTimeout_completes ..
  case orphanControlSlot bits bad => exact execOrphanControlSlot_completes s bits bad
  case frameTransmit => exact execFrameTransmit_completes ..
  case resultFrameClose => exact execResultFrameClose_completes ..
  case linkPllLock => exact execLinkPllLock_completes ..
  case linkPllLoss => exact execLinkPllLoss_completes ..
  case laneDegraded => exact execLaneDegraded_completes ..
  case lreset => exact execLreset_completes ..
  case lkRetrain => exact execLkRetrain_completes ..
  case fciChange => exact execFciChange_completes ..
  case fciHoldExpiry => exact execFciHoldExpiry_completes ..
  case pauseExpiry => exact execPauseExpiry_completes ..
  case ackTimeout => exact execAckTimeout_completes ..
  case stallEnd => exact execStallEnd_completes ..
  case trackTick => exact execTrackTick_completes ..
  case dacStep => exact execDacStep_completes ..
  case calStart => exact execCalStart_completes ..
  case calAbort => exact execCalAbort_completes ..
  case proofPassEnd => exact execProofPassEnd_completes ..
  case proofPassTimeout => exact execProofPassTimeout_completes ..
  case proofStoreDone => exact execProofStoreDone_completes ..
  case hoStart => exact execHoStart_completes ..
  case hoAbort => exact execHoAbort_completes ..
  case handoverOpen => exact execHandoverOpen_completes ..
  case handoverInstant => exact execHandoverInstant_completes ..
  case tapRelease => exact execTapRelease_completes ..
  case contactSheetRefresh => exact execContactSheetRefresh_completes ..
  case dmmInterval => exact execDmmInterval_completes ..
  case slotClose => exact execSlotClose_completes ..
  case slotEmpty => exact execSlotEmpty_completes ..
  case reload => exact execReload_completes ..
  case reloadDone => exact execReloadDone_completes ..
  case prepare => exact execPrepare_completes ..
  case prepareDone => exact execPrepareDone_completes ..
  case fix => exact execFix_completes ..
  case cancel => exact execCancel_completes ..
  case fixDecide => exact execFixDecide_completes ..
  case fixTakeEffect => exact execFixTakeEffect_completes ..
  case scrub => exact execScrub_completes ..
  case snapNFall => exact execSnapNFall_completes ..
  case snapNRise => exact execSnapNRise_completes ..
  case snapFreeze => exact execSnapFreeze_completes ..
  case snapRelease => exact execSnapRelease_completes ..
  case snapSel => exact execSnapSel_completes ..
  case snapRead => exact execSnapRead_completes ..
  case snapMem => exact execSnapMem_completes ..
  case freeze => exact execFreeze_completes ..
  case snapshotRelease => exact execSnapshotRelease_completes ..
  case depTileRst => exact execDepTileRst_completes ..
  case tmrPersistentFault => exact execTmrPersistentFault_completes ..
  case tileResetDone => exact execTileResetDone_completes ..
  case cntClr => exact execCntClr_completes ..
  case supervisorRestart => exact execSupervisorRestart_completes ..
  case supervisorRestartDone => exact execSupervisorRestartDone_completes ..
  case ring => exact execRing_completes ..
  case take => exact execTake_completes ..
  case bump => exact execBump_completes ..
  case secClose => exact execSecClose_completes ..
  case supTakeRequest => exact execSupTakeRequest_completes ..
  case supReplyPost => exact execSupReplyPost_completes ..
  case info => exact execInfo_completes ..
  case proofRun => exact execProofRun_completes ..
  case ageingRead => exact execAgeingRead_completes ..
  case ageingClear => exact execAgeingClear_completes ..
  case slotWrite => exact execSlotWrite_completes ..
  case svcSlotEmpty => exact execSvcSlotEmpty_completes ..
  case trackHold => exact execTrackHold_completes ..
  case trackResume => exact execTrackResume_completes ..
  case tempRead => exact execTempRead_completes ..
  case contactRefresh => exact execContactRefresh_completes ..
  case logRead => exact execLogRead_completes ..
  case tileCmdList => exact execTileCmdList_completes ..
  case logSecond => exact execLogSecond_completes ..
  case eventMboxPost => exact execEventMboxPost_completes ..
  case evMaskWrite => exact execEvMaskWrite_completes ..
  case evForce => exact execEvForce_completes ..
  case reqRun => exact execReqRun_completes ..
  case reqSafelight => exact execReqSafelight_completes ..
  case reqDark => exact execReqDark_completes ..
  case pwCancel => exact execPwCancel_completes ..
  case softRst => exact execSoftRst_completes ..
  case softResetDone => exact execSoftResetDone_completes ..
  case enterRun => exact execEnterRun_completes ..
  case enterSafelight => exact execEnterSafelight_completes ..
  case darkDecide => exact execDarkDecide_completes ..
  case darkEntry => exact execDarkEntry_completes ..
  case darkExit => exact execDarkExit_completes ..
  case darkExitComplete => exact execDarkExitComplete_completes ..
  case pwRegate => exact execPwRegate_completes ..
  case supervisorWake => exact execSupervisorWake_completes ..
  case registerWrite => exact execRegisterWrite_completes ..
  case loscClockPresent => exact execLoscClockPresent_completes ..
  case unknownOpControlFrame => exact execUnknownOpControlFrame_completes ..
  case unknownLinkOperation op bits bad => exact execUnknownLinkOperation_completes s op bits bad
  case storeWriteDone => exact execStoreWriteDone_completes ..

/-- Settles O3: every command completes or stops by the name of what is not there (`exec_completes`, and the guards in
front of the commands), and no operation touches the commands that wait. -/
theorem commandsRunOrFault : Obligations.CommandsRunOrFault := by
  unfold Obligations.CommandsRunOrFault
  refine ⟨fun c s => (exec_completes c s).next, ⟨?tile, ?engine, ?channel, ?queue, ?mailbox⟩,
    fun c s => (exec_completes c s).queue⟩
  case tile => exact fun t s h => ⟨if_neg (by omega), if_neg (by omega), if_neg (by omega)⟩
  case engine => exact fun t e s h => ⟨if_neg (by omega), if_neg (by omega)⟩
  case channel => exact fun t c d s h => if_neg (by omega)
  case queue => exact fun t q s h => if_neg (by omega)
  case mailbox => exact fun ch s h => if_neg (by omega)

end Sys2Proof.Machine

end

/-! ## O17: an edge enters its capture FIFO or is refused whole (R22, R150 to R164) -/
section
namespace Sys2Proof.Machine
open Sys2Proof
variable (s : State)

/-! ### What changes one channel of a tile only -/

/-- Nothing changed but channel `c` of tile `u`. -/
def State.ChannelOnly (s t : State) (u c : Nat) : Prop :=
  (∀ d, d ≠ c → t.chan u d = s.chan u d) ∧ (∀ w, w ≠ u → t.tile w = s.tile w) ∧ { t with tiles := s.tiles } = s

theorem State.ChannelOnly.trans {s t r : State} {u c : Nat} (h : s.ChannelOnly t u c) (k : t.ChannelOnly r u c) :
    s.ChannelOnly r u c := by
  obtain ⟨hchan, htile, hrest⟩ := h
  obtain ⟨kchan, ktile, krest⟩ := k
  refine ⟨fun d hd => (kchan d hd).trans (hchan d hd), fun w hw => (ktile w hw).trans (htile w hw), ?_⟩
  rw [← hrest, ← krest]

theorem State.channelOnly_modChan (u c : Nat) (f : Chan → Chan) : s.ChannelOnly (s.modChan u c f) u c :=
  ⟨fun d hd => by simp [State.chan_modChan, hd], fun _ hw => s.tile_modTile_ne u _ hw, rfl⟩

theorem State.chan_modChan_same (u c : Nat) (f : Chan → Chan) : (s.modChan u c f).chan u c = f (s.chan u c) := by
  simp [State.chan_modChan]

/-- What a tile holds beside its channels stays. -/
theorem State.tile_modChan (u c w : Nat) (f : Chan → Chan) :
    (s.modChan u c f).tile w = { s.tile w with chans := ((s.modChan u c f).tile w).chans } := by
  rw [State.modChan, State.tile_modTile]
  split
  next h => rw [h]; rfl
  next => rfl

@[simp] theorem State.ho_modChan (u c w : Nat) (f : Chan → Chan) : ((s.modChan u c f).tile w).ho = (s.tile w).ho := by
  rw [s.tile_modChan]

@[simp] theorem State.rep_modChan (u c w : Nat) (f : Chan → Chan) : ((s.modChan u c f).tile w).rep = (s.tile w).rep := by
  rw [s.tile_modChan]

@[simp] theorem State.offLine_modChan (u c t k : Nat) (f : Chan → Chan) :
    (s.modChan u c f).offLine t k = s.offLine t k := rfl

@[simp] theorem State.captures_modChan (u c t k : Nat) (f : Chan → Chan) :
    (s.modChan u c f).captures t k = s.captures t k := by
  simp only [State.captures, State.spareServes, State.spareServesInput, State.chEn, State.chTie, State.chCfg,
    s.ho_modChan, s.modChan_rv]
  rfl

/-! ### A crossing that the channel captures (R22, R153, R303) -/

/-- The state after a prompt edge of polarity `e` of channel `c` now (R303). -/
def State.prompted (s : State) (u c : Nat) (e : Bool) : State :=
  s.modChan u c (fun y => { y with recent := y.recent ++ [(s.tb.age, e)] })

theorem State.chan_prompted (u c : Nat) (e : Bool) :
    (s.prompted u c e).chan u c = { s.chan u c with recent := (s.chan u c).recent ++ [(s.tb.age, e)] } :=
  s.chan_modChan_same u c _

@[simp] theorem State.cross_prompted (u c : Nat) (e : Bool) : ((s.prompted u c e).chan u c).cross = (s.chan u c).cross := by
  rw [s.chan_prompted]

@[simp] theorem State.level_prompted (u c a : Nat) (e : Bool) :
    ((s.prompted u c e).chan u c).level a = (s.chan u c).level a := by
  rw [s.chan_prompted]
  rfl

/-- A change of a channel after its prompt edge changes that channel only. -/
theorem State.channelOnly_prompted (u c : Nat) (e : Bool) (f : Chan → Chan) :
    s.ChannelOnly ((s.prompted u c e).modChan u c f) u c :=
  (s.channelOnly_modChan u c _).trans (State.channelOnly_modChan _ u c f)

/-- A crossing that no matcher takes is a prompt edge, and goes on to the capture FIFO. -/
theorem State.crossing_captured {u c sub : Nat} (rise : Bool) (hc : c < 16) (hcap : s.captures u c = true)
    (ht : (s.tile u).ho.takesEdge c s.tb.age sub = false) (hi : (s.tile u).ho.incoming c = false) :
    s.crossing u c sub rise false =
      (s.prompted u c (rise != s.chInv u c)).captureAfter u c sub (rise != s.chInv u c) false := by
  have hn : s.inputOf u c = c := if_neg (by omega)
  have hp : s.promptFeeds u c = true := by simp [State.promptFeeds, hcap]
  simp only [State.crossing, hn, hp, hi, if_true]
  simp [hcap, ht, State.prompted]

theorem exec_edge (c u : Nat) (v : Swing) (sub : BitVec 13) (h : s.up = true) (hu : u < s.nTiles) (hc : c < 16) :
    exec (.edge u c v sub false) s = .next
      (if s.captureRuns u && (s.comparator u c v != v.was) then s.crossing u c sub.toNat (s.comparator u c v) false else s) :=
  show execEdge u c v sub false s = _ from onChan_up s u c _ (by omega) h hu

/-! ### The capture FIFO -/

/-- An edge at a full FIFO is refused (R153, R160). -/
theorem State.captureEdge_full {u c age sub : Nat} {rise bad : Bool} (h : 16 ≤ (s.chan u c).level s.tb.age) :
    s.captureEdge u c age sub rise bad = s.modChan u c (fun y =>
      { (y.pruned s.tb.age).refusedFifo with cross := some ((y.pruned s.tb.age).before (age * 8192 + sub) false) }) :=
  if_pos h

/-- The entry of an edge in the present slot (R153, R163, R262): its stamp is that of the tile's replica. -/
theorem State.captureEdge_entry {u c sub : Nat} (rise bad : Bool) (h : (s.chan u c).level s.tb.age < 16) :
    ∃ (e : Hit) (g : Chan → Chan), s.captureEdge u c s.tb.age sub rise bad = s.modChan u c g ∧
      (g (s.chan u c)).fifo = ((s.chan u c).pruned s.tb.age).fifo ++ [e] ∧
      (g (s.chan u c)).edges = ((s.chan u c).edges + 1) % 2 ^ 32 ∧
      e.age * 8192 + e.sub = (((s.tb.age * 8192 + sub : Nat) : Int) + (s.tile u).rep * 1024).toNat ∧ e.sub < 8192 ∧
      e.stamp = s.now.addFine (sub + (s.tile u).rep * 1024) ∧
      e.rise = rise ∧ e.epoch = s.tb.epoch ∧ e.input = s.inputOf u c := by
  refine ⟨_, fun _ => _, if_neg (Nat.not_le.mpr h), rfl, rfl, Nat.div_add_mod' _ _, Nat.mod_lt _ (by omega), ?_, rfl, rfl, rfl⟩
  show s.now.addFine (((s.tb.age * 8192 + sub : Nat) : Int) - (s.tb.age * 8192 : Nat) + (s.tile u).rep * 1024) = _
  congr 1
  omega

/-- An edge 250 ps or more after the last one, or the first one, is an edge of its own (R150). -/
theorem State.captureAfter_wide {u c sub : Nat} (rise bad : Bool)
    (h : ∀ x, (s.chan u c).cross = some x → 250 * 1024 ≤ (s.tb.age * 8192 + sub - x.key) * 1000) :
    s.captureAfter u c sub rise bad = s.captureEdge u c s.tb.age sub rise bad := by
  unfold State.captureAfter
  split
  next => rfl
  next x hx => exact if_pos (h x hx)

/-- An edge that ends a level of less than 120 ps takes the last crossing back (R151). -/
theorem State.captureAfter_narrow {u c sub : Nat} (rise bad : Bool) {x : Crossing} (hx : (s.chan u c).cross = some x)
    (h : (s.tb.age * 8192 + sub - x.key) * 1000 < 120 * 1024) :
    s.captureAfter u c sub rise bad = s.modChan u c (fun y => y.takeBack x) := by
  simp only [State.captureAfter, hx]
  rw [if_neg (by omega), if_pos h]

end Sys2Proof.Machine
open Sys2Proof Sys2Proof.Machine

/-- Settles O17: a crossing changes its channel alone; it is a prompt edge, and then enters the FIFO, is refused at a full
one, or takes the crossing before it back. -/
theorem edgeIsCapturedOrRefused : Obligations.EdgeIsCapturedOrRefused := by
  intro s u c v sub hup hu hc hruns hcap ht hi
  have hexec := exec_edge s c u v sub hup hu hc
  have hcross : v.was ≠ s.comparator u c v → exec (.edge u c v sub false) s = .next
      ((s.prompted u c (s.comparator u c v != s.chInv u c)).captureAfter u c sub.toNat (s.comparator u c v != s.chInv u c) false) := by
    intro hne
    rw [hexec, hruns, s.crossing_captured _ hc hcap ht hi]
    simp [Ne.symm hne]
  refine ⟨fun heq => ?same, fun hne hwide => ⟨_, hcross hne, ?wide⟩, fun hne x hx hnarrow => ⟨_, hcross hne, ?narrow⟩⟩
  case same => rw [hexec, ← heq]; simp
  case wide =>
    rw [State.captureAfter_wide _ _ _ (by rw [s.cross_prompted]; exact hwide)]
    by_cases hfull : 16 ≤ (s.chan u c).level s.tb.age
    · rw [State.captureEdge_full _ (by rw [s.level_prompted]; exact hfull)]
      refine ⟨fun h => absurd h (by omega), fun _ => ?_, s.channelOnly_prompted u c _ _⟩
      simp only [State.chan_modChan_same, s.chan_prompted]
      exact ⟨rfl, rfl, rfl, rfl⟩
    · obtain ⟨e, g, hg, hfifo, hedges, hkey, hsub, hstamp, hrise, hepoch, hinput⟩ :=
        (s.prompted u c (s.comparator u c v != s.chInv u c)).captureEdge_entry (u := u) (c := c) (sub := sub.toNat)
          (s.comparator u c v != s.chInv u c) false (by rw [s.level_prompted]; exact Nat.not_le.mp hfull)
      rw [State.prompted, s.rep_modChan] at hkey hstamp
      rw [hg]
      refine ⟨fun _ => ⟨e, ?_⟩, fun h => absurd h hfull, s.channelOnly_prompted u c _ g⟩
      rw [State.chan_modChan_same, hfifo, hedges, s.chan_prompted]
      exact ⟨rfl, hkey, hsub, hrise, hepoch, hinput.trans (if_neg (by omega)), hstamp, rfl⟩
  case narrow =>
    rw [State.captureAfter_narrow _ _ _ ((s.cross_prompted u c _).trans hx) hnarrow]
    simp only [State.chan_modChan_same, s.chan_prompted]
    exact ⟨rfl, rfl, rfl, rfl, s.channelOnly_prompted u c _ _⟩

end

/-! ## O45: flow-control inputs, pauses and host stalls (R349 to R351) -/
section
namespace Sys2Proof.Machine
open Sys2Proof

/-- A key that is not at its default is listed. -/
theorem mem_of_mapGet_ne {α : Type} {d : Nat → α} {m : Map α} {k : Nat} (h : mapGet d m k ≠ d k) : (k, mapGet d m k) ∈ m := by
  induction m with
  | nil => exact absurd rfl h
  | cons p m ih =>
    obtain ⟨j, v⟩ := p
    by_cases hj : j = k
    · simp [mapGet, hj]
    · simp only [mapGet, hj, if_false] at h ⊢
      exact List.mem_cons_of_mem _ (ih h)

/-- A fold by `min` ends at a value that lies in the list and below all of it. -/
theorem foldl_min_eq {l : List Nat} {a m : Nat} (hm : m ∈ a :: l) (hle : ∀ x ∈ a :: l, m ≤ x) : l.foldl min a = m := by
  induction l generalizing a with
  | nil => simpa [eq_comm] using hm
  | cons b l ih =>
    rw [List.foldl_cons]
    refine ih ?_ (fun x hx => ?_)
    · simp only [List.mem_cons] at hm hle ⊢
      rcases hm with rfl | rfl | hm
      · exact .inl (min_eq_left (hle _ (.inr (.inl rfl)))).symm
      · exact .inl (min_eq_right (hle _ (.inl rfl))).symm
      · exact .inr hm
    · rcases List.mem_cons.mp hx with rfl | hx
      · exact le_min (hle _ (by simp)) (hle _ (by simp))
      · exact hle _ (by simp [hx])

variable (s : State)

/-! ### Flow-control inputs (R338, R349) -/

/-- The state after input `k` took a level, before its frames close. -/
def State.setFci (s : State) (k : Nat) (v : Option Nat) : State :=
  { s with lk := { s.lk with fci := mapSet (fun _ => none) s.lk.fci k v } }

theorem State.fciHigh_setFci (k j : Nat) (v : Option Nat) :
    (s.setFci k v).fciHigh j = if j = k then v else s.fciHigh j := mapGet_set _ s.lk.fci k j v

theorem exec_fciChange (k : Nat) (level : Bool) (hk : k < 4) : exec (.fciChange k level) s = .next
    (if level = (s.fciHigh k).isSome then s
     else if level && s.up then
       forKeys ((List.range 128).filter (fun i => s.fciMaps k 2 i)) (fun i s => s.closeFrame i)
         (s.setFci k (if level then some s.tb.age else none))
     else s.setFci k (if level then some s.tb.age else none)) :=
  if_pos hk

/-- The streams of class 0x02 have keys of their own. -/
theorem streamKey_two_inj {i j : Nat} : streamKey 2 i = streamKey 2 j ↔ i = j := by simp [streamKey]

/-- Closing a frame leaves its stream without one. -/
theorem State.closeFrame_opened (i j : Nat) :
    ((s.closeFrame i).stream 2 j).opened = if j = i then none else (s.stream 2 j).opened := by
  simp only [State.closeFrame]
  split
  · simp only [State.stream_setStream, streamKey_two_inj]
    split <;> rfl
  next h =>
    split
    next hj => rw [hj, h]
    next => rfl

/-- What closing frames leaves: the inputs, and all but the links. -/
def State.FciKept (s t : State) : Prop := t.lk.fci = s.lk.fci ∧ { t with lk := s.lk } = s

theorem State.FciKept.refl (s : State) : s.FciKept s := ⟨rfl, rfl⟩

theorem State.FciKept.trans {s t u : State} (h : s.FciKept t) (k : t.FciKept u) : s.FciKept u := by
  obtain ⟨hf, hr⟩ := h
  obtain ⟨kf, kr⟩ := k
  exact ⟨kf.trans hf, by rw [← hr, ← kr]⟩

theorem State.fciKept_closeFrame (i : Nat) : s.FciKept (s.closeFrame i) := by
  simp only [State.closeFrame]
  split
  · exact ⟨rfl, rfl⟩
  · exact .refl s

theorem State.fciKept_closeFrames (is : List Nat) : s.FciKept (forKeys is (fun i s => s.closeFrame i) s) :=
  forKeys_keeps State.FciKept.refl State.FciKept.trans (fun i s => s.fciKept_closeFrame i) is s

theorem State.closeFrames_opened {is : List Nat} {j : Nat} (h : j ∈ is ∨ (s.stream 2 j).opened = none) :
    ((forKeys is (fun i s => s.closeFrame i) s).stream 2 j).opened = none := by
  unfold forKeys
  induction is generalizing s with
  | nil => simpa using h
  | cons i is ih =>
    rw [List.foldl_cons]
    refine ih _ ?_
    rw [s.closeFrame_opened]
    by_cases hj : j = i
    · exact .inr (if_pos hj)
    · rw [if_neg hj]
      simpa [hj] using h

theorem State.FciKept.fciHigh {s t : State} (h : s.FciKept t) (k : Nat) : t.fciHigh k = s.fciHigh k := by
  obtain ⟨hf, -⟩ := h
  rw [State.fciHigh, State.fciHigh, hf]

theorem State.FciKept.fciMaps {s t : State} (h : s.FciKept t) (k c j : Nat) : t.fciMaps k c j = s.fciMaps k c j := by
  obtain ⟨-, hr⟩ := h
  rw [← hr]
  rfl

/-- A high input pauses the streams that it maps (R349). -/
theorem State.isPaused_of_high {k c j a : Nat} (hk : k < 4) (hh : s.fciHigh k = some a) (hm : s.fciMaps k c j = true) :
    s.isPaused c j = true := by
  simp only [State.isPaused, Bool.or_eq_true, List.any_eq_true, List.mem_range, Bool.and_eq_true]
  exact .inr ⟨k, hk, by rw [hh]; rfl, hm⟩

/-! ### Stalls (R351) -/

theorem State.advanceTo_eq (a : Nat) (h : s.up = true) :
    s.advanceTo a = { s with tb := s.tb.run (a - s.tb.age) } := s.advance_up _ h

variable {s} in
/-- A state whose timebase and links moved before event sources were set differs from the one before by those alone. -/
theorem State.EventsApart.moved {t : State} {b : Timebase} {l : Links}
    (h : ({ s with tb := b, lk := l } : State).EventsApart t) : ({ s with tb := t.tb, lk := t.lk } : State).EventsApart t := by
  obtain ⟨hrest, htiles⟩ := h
  have htb : t.tb = b := (congrArg State.tb hrest :)
  have hlk : { t.lk with streams := [] } = { l with streams := [] } := (congrArg State.lk hrest :)
  refine ⟨hrest.trans ?_, htiles⟩
  simp only [State.sansEvents, htb, hlk]

/-- A stall starts (R351): it is counted, its event is set, and otherwise only time has passed. -/
def State.Stalled (s t : State) (a : Nat) : Prop :=
  t.tb.age = max s.tb.age a ∧ t.lk.stallAge = some t.tb.age ∧ t.lk.stalls = min 65535 (s.lk.stalls + 1) ∧
    t.evSet (chipSrc 13) = true ∧ ({ s with tb := t.tb, lk := t.lk } : State).EventsApart t

/-- The links of a stall that starts at slot age `a`. -/
def Links.stalledAt (l : Links) (a : Nat) : Links := { l with stallAge := some a, stalls := satAdd 65535 l.stalls 1 }

/-- A condition that holds by slot age `a` starts a stall where none is in force. -/
theorem State.stall_starts (a : Nat) (h : s.up = true) (hs : s.lk.stallAge = none) (hn : (s.advanceTo a).stallNow = true) :
    s.Stalled (s.advanceTo a).stall a := by
  have hap := State.apart_raise { s with tb := s.tb.run (a - s.tb.age), lk := s.lk.stalledAt (s.tb.run (a - s.tb.age)).age }
    (chipSrc 13)
  have hst : (s.advanceTo a).stall =
      ({ s with tb := s.tb.run (a - s.tb.age), lk := s.lk.stalledAt (s.tb.run (a - s.tb.age)).age } : State).raise (chipSrc 13) := by
    rw [s.advanceTo_eq a h] at hn ⊢
    exact if_pos (by simp [hn, hs])
  obtain ⟨hrest, -⟩ := id hap
  have hage := congrArg Timebase.age (congrArg State.tb hrest)
  have hlk := congrArg State.lk hrest
  rw [hst]
  refine ⟨hage.trans ?_, ?_, congrArg Links.stalls hlk, State.evSet_raise _ _ (by decide), hap.moved⟩
  · show s.tb.age + (a - s.tb.age) = _
    omega
  · exact (congrArg Links.stallAge hlk).trans (congrArg some hage.symm)

theorem State.age_advanceTo (a : Nat) (h : s.up = true) : (s.advanceTo a).tb.age = max s.tb.age a := by
  rw [s.advanceTo_eq a h]
  show s.tb.age + (a - s.tb.age) = _
  omega

/-- An input that maps a stream and stays high past its HOLD is a stall condition. -/
theorem State.stallNow_of_fci {k a : Nat} (hk : k < 4) (hm : s.fciMapsAny k = true) (hh : s.fciHigh k = some a)
    (ha : a + s.fld (0x3040 + 16 * k) 31 16 * 125 < s.tb.age) : s.stallNow = true := by
  simp only [State.stallNow, Bool.or_eq_true, List.any_eq_true, List.mem_range, Bool.and_eq_true]
  exact .inr ⟨k, hk, hm, by rw [hh]; exact decide_eq_true ha⟩

/-- A pause past its duration is a stall condition. -/
theorem State.stallNow_of_pause {c j a : Nat} (hp : s.pauseOf c j = some a) (ha : a < s.tb.age) : s.stallNow = true := by
  have hmem : (streamKey c j, some a) ∈ s.lk.paused := by
    have h := mem_of_mapGet_ne (d := fun _ => none) (m := s.lk.paused) (k := streamKey c j)
      (by rw [show mapGet _ _ _ = _ from hp]; simp)
    rwa [show mapGet _ _ _ = _ from hp] at h
  simp only [State.stallNow, Bool.or_eq_true, List.any_eq_true]
  exact .inl (.inr ⟨_, hmem, decide_eq_true ha⟩)

/-- A frame that is unacknowledged for more than 50 µs is a stall condition. -/
theorem State.stallNow_of_ack {l : Nat} {u : Unacked} (hl : s.leads.contains l = true) (hup : s.leadUp l = true)
    (hu : u ∈ (s.lane l).unack) (hx : u.exempt = false) (ha : u.sent + 6250 < s.tb.age) : s.stallNow = true := by
  simp only [State.stallNow, State.ackLate, Bool.or_eq_true, List.any_eq_true, Bool.and_eq_true]
  exact .inl (.inl ⟨l, by simpa using hl, hup, u, hu, by simp [hx], decide_eq_true ha⟩)

/-! ### The commands -/

theorem exec_fciHoldExpiry {k a : Nat} (h : s.up = true) (hk : k < 4) (hh : s.fciHigh k = some a) (hm : s.fciMapsAny k = true) :
    exec (.fciHoldExpiry k) s = .next (s.advanceTo (a + s.fld (0x3040 + 16 * k) 31 16 * 125 + 1)).stall := by
  show execFciHoldExpiry k s = _
  rw [execFciHoldExpiry, onUnit_up s k 4 _ hk h]
  simp only [hh, hm, if_true]

theorem exec_pauseExpiry {c j a : Nat} (h : s.up = true) (hk : streamKey c j < 1024) (hp : s.pauseOf c j = some a) :
    exec (.pauseExpiry c j) s = .next (s.advanceTo (a + 1)).stall := by
  show execPauseExpiry c j s = _
  rw [execPauseExpiry, onUnit_up s _ 1024 _ hk h]
  simp only [hp]

/-- ACK_TIMEOUT goes by the frame that was sent first among those that count. -/
theorem exec_ackTimeout {l : Nat} {u : Unacked} (h : s.up = true) (hl : l < 8) (hc : s.leads.contains l = true)
    (hup : s.leadUp l = true) (hu : u ∈ (s.lane l).unack) (hx : u.exempt = false)
    (hmin : ∀ v ∈ (s.lane l).unack, v.exempt = false → u.sent ≤ v.sent) :
    exec (.ackTimeout l) s = .next (s.advanceTo (u.sent + 6251)).stall := by
  show execAckTimeout l s = _
  rw [execAckTimeout, onUnit_up s l 8 _ hl h]
  have hmem : ∀ v, v ∈ (s.lane l).unack.filter (fun u => !u.exempt) ↔ v ∈ (s.lane l).unack ∧ v.exempt = false := by
    simp [List.mem_filter]
  split
  next v vs hf =>
    rw [hf] at hmem
    have hfold : (vs.map (·.sent)).foldl min v.sent = u.sent :=
      foldl_min_eq (l := vs.map (·.sent)) (List.mem_map_of_mem (f := (·.sent)) ((hmem u).mpr ⟨hu, hx⟩)) (fun x hx => by
        obtain ⟨w, hw, rfl⟩ := List.mem_map.mp (show x ∈ (v :: vs).map (·.sent) from hx)
        obtain ⟨hw, he⟩ := (hmem w).mp hw
        exact hmin w hw he)
    rw [hfold, if_pos (by rw [hc, hup]; rfl)]
  next hf =>
    rw [hf] at hmem
    exact absurd ((hmem u).mpr ⟨hu, hx⟩) List.not_mem_nil

theorem exec_stallEnd {a : Nat} (h : s.up = true) (hs : s.lk.stallAge = some a) (hn : s.stallNow = false) :
    exec .stallEnd s = .next { s with lk := { s.lk with
      stallAge := none, longest := max s.lk.longest (min 65535 ((s.tb.age - a + 124) / 125)) } } := by
  show execStallEnd s = _
  rw [execStallEnd, onChip_up s _ h]
  simp [hs, hn]

end Sys2Proof.Machine
open Sys2Proof Sys2Proof.Machine

/-- Settles O45: an input's edges pause, close and release; the three timers pass to the instant at which their condition
holds, and a stall starts there. -/
theorem pausesAndStalls : Obligations.PausesAndStalls := by
  refine ⟨fun s k hup hk => ⟨fun hlow => ?rise, fun a hh => ?fall, fun a hh hm hs => ?hold⟩,
    fun s c j a hup hk hp hs => ?pause, fun s l u hup hl hc hlead hu hx hmin hs => ?ack,
    fun s a hup hs hn => exec_stallEnd s hup hs hn⟩
  case rise =>
    have hexec := exec_fciChange s k true hk
    rw [hlow, hup] at hexec
    have hkept := (s.setFci k (some s.tb.age)).fciKept_closeFrames ((List.range 128).filter (fun i => s.fciMaps k 2 i))
    obtain ⟨-, hrest⟩ := id hkept
    have hhigh : ∀ j, _ = if j = k then some s.tb.age else s.fciHigh j :=
      fun j => (hkept.fciHigh j).trans (s.fciHigh_setFci k j _)
    refine ⟨_, hexec, (hhigh k).trans (if_pos rfl), fun j hj hmap => ⟨?_, ?_⟩, fun j hj => (hhigh j).trans (if_neg hj), ?_⟩
    · exact State.closeFrames_opened _ (.inl (by simp [hj, hmap]))
    · exact State.isPaused_of_high _ hk ((hhigh k).trans (if_pos rfl)) ((hkept.fciMaps k 2 j).trans hmap)
    · exact (congrArg (fun t : State => { t with lk := s.lk }) hrest :)
  case fall =>
    have hexec := exec_fciChange s k false hk
    rw [hh] at hexec
    exact ⟨_, hexec, (s.fciHigh_setFci k k none).trans (if_pos rfl),
      fun j hj => (s.fciHigh_setFci k j none).trans (if_neg hj), rfl, rfl⟩
  case hold =>
    refine ⟨_, exec_fciHoldExpiry s hup hk hh hm, s.stall_starts _ hup hs ?_⟩
    have hage := s.age_advanceTo (a + s.fld (0x3040 + 16 * k) 31 16 * 125 + 1) hup
    rw [s.advanceTo_eq _ hup] at hage ⊢
    refine State.stallNow_of_fci _ hk hm hh ?_
    show a + s.fld (0x3040 + 16 * k) 31 16 * 125 < _
    omega
  case pause =>
    refine ⟨_, exec_pauseExpiry s hup hk hp, s.stall_starts _ hup hs ?_⟩
    have hage := s.age_advanceTo (a + 1) hup
    rw [s.advanceTo_eq _ hup] at hage ⊢
    exact State.stallNow_of_pause _ hp (by omega)
  case ack =>
    refine ⟨_, exec_ackTimeout s hup hl hc hlead hu hx hmin, s.stall_starts _ hup hs ?_⟩
    have hage := s.age_advanceTo (u.sent + 6251) hup
    rw [s.advanceTo_eq _ hup] at hage ⊢
    exact State.stallNow_of_ack _ hc hlead hu hx (by omega)

end

/-! ## O59: POR, RESET_N, start-up and the soft reset (R494 to R504) -/
section
namespace Sys2Proof.Machine
open Sys2Proof

/-! ### What the datapath, event sources and register fields leave -/

/-- The part of a state that resets are about: the power and reset controller, the timebase, message memory, pending
triggers, the generations, the receiver, and for each tile whether it is powered and in reset. -/
structure Spine where
  part : Part
  phase : Phase
  pw : Power
  tb : Timebase
  msg : Memory
  trigs : List Trig
  tref : Nat
  restarting : Bool
  supGen : BitVec 8
  hostGen : BitVec 8
  dn : DnState
  hostReset : Bool
  flags : Nat → Bool × Bool

/-- Of each tile, whether it is powered and whether it is in reset. -/
def flagsOf (m : Map Tile) (u : Nat) : Bool × Bool :=
  let x : Tile := mapGet (fun _ => {}) m u
  (x.powered, x.inReset)

/-- The spine of a state. -/
def State.spine (s : State) : Spine :=
  { part := s.part, phase := s.phase, pw := s.pw, tb := s.tb, msg := s.msg, trigs := s.eb.pending, tref := s.eb.tref
    restarting := s.sup.restarting, supGen := s.sup.supGen, hostGen := s.sup.hostGen, dn := s.lk.dn
    hostReset := s.lk.hostReset, flags := flagsOf s.tiles }

variable (s : State)

/-- The spine of a state that is given by its fields. -/
@[simp] theorem State.spine_mk (a1 a2 a3 a4 a5 a6 a7 a8 a9 a10 a11 a12 a13 a14 a15 a16 a17 a18 a19 a20 a21 a22 a23 a24 a25 a26) :
    (State.mk a1 a2 a3 a4 a5 a6 a7 a8 a9 a10 a11 a12 a13 a14 a15 a16 a17 a18 a19 a20 a21 a22 a23 a24 a25 a26).spine =
      { part := a1, phase := a3, pw := a20, tb := a11, msg := a25, trigs := a16.pending, tref := a16.tref
        restarting := a15.restarting, supGen := a15.supGen, hostGen := a15.hostGen, dn := a13.dn
        hostReset := a13.hostReset, flags := flagsOf a23 } := rfl

/-- The spine put together from its parts. -/
@[simp] theorem State.spine_eta : Spine.mk s.part s.phase s.pw s.tb s.msg s.eb.pending s.eb.tref s.sup.restarting s.sup.supGen
    s.sup.hostGen s.lk.dn s.lk.hostReset (flagsOf s.tiles) = s.spine := rfl

@[simp] theorem State.spine_ite {p : Prop} [Decidable p] (s t : State) :
    (if p then s else t).spine = if p then s.spine else t.spine := apply_ite _ p s t

theorem forKeys_spine {f : Nat → State → State} (h : ∀ k s, (f k s).spine = s.spine) (ks : List Nat) (s : State) :
    (forKeys ks f s).spine = s.spine :=
  forKeys_keeps (R := fun s t => t.spine = s.spine) (fun _ => rfl) (fun h k => k.trans h) h ks s

theorem foldl_spine_of_mem {α : Type} {f : State → α → State} (l : List α)
    (h : ∀ s, ∀ x ∈ l, (f s x).spine = s.spine) (s : State) : (l.foldl f s).spine = s.spine :=
  List.foldlRecOn (motive := fun w : State => w.spine = s.spine) l f rfl fun w hw x hx => (h w x hx).trans hw

theorem foldl_spine {α : Type} {f : State → α → State} (h : ∀ s x, (f s x).spine = s.spine) (l : List α) (s : State) :
    (l.foldl f s).spine = s.spine :=
  foldl_spine_of_mem l (fun s x _ => h s x) s

theorem State.flags_eq (u : Nat) : flagsOf s.tiles u = ((s.tile u).powered, (s.tile u).inReset) := rfl

theorem State.flagsOf_setTile (t : Nat) (x : Tile) (hp : x.powered = (s.tile t).powered)
    (hr : x.inReset = (s.tile t).inReset) : flagsOf (s.setTile t x).tiles = flagsOf s.tiles := by
  funext u
  rw [State.flags_eq, State.flags_eq, State.tile_setTile]
  split
  next h => rw [h, hp, hr]
  next => rfl

@[simp] theorem State.spine_setTile (t : Nat) (x : Tile) (hp : x.powered = (s.tile t).powered)
    (hr : x.inReset = (s.tile t).inReset) : (s.setTile t x).spine = s.spine :=
  congrArg (fun f => { s.spine with flags := f }) (s.flagsOf_setTile t x hp hr)
@[simp] theorem State.spine_modTile (t : Nat) (f : Tile → Tile) (hp : (f (s.tile t)).powered = (s.tile t).powered)
    (hr : (f (s.tile t)).inReset = (s.tile t).inReset) : (s.modTile t f).spine = s.spine := s.spine_setTile t _ hp hr
@[simp] theorem State.modChan_spine (t c : Nat) (f : Chan → Chan) : (s.modChan t c f).spine = s.spine :=
  s.spine_modTile t _ rfl rfl
@[simp] theorem State.modQueue_spine (t q : Nat) (f : Queue → Queue) : (s.modQueue t q f).spine = s.spine :=
  s.spine_modTile t _ rfl rfl
@[simp] theorem State.modEng_spine (t e : Nat) (f : Engine → Engine) : (s.modEng t e f).spine = s.spine :=
  s.spine_modTile t _ rfl rfl
@[simp] theorem State.modCtx_spine (t c : Nat) (f : Ctx → Ctx) : (s.modCtx t c f).spine = s.spine :=
  s.spine_modTile t _ rfl rfl
@[simp] theorem State.setStream_spine (c i : Nat) (x : Stream) : (s.setStream c i x).spine = s.spine := rfl
@[simp] theorem State.sendWait_spine (c i : Nat) (w : Wait) : (s.sendWait c i w).spine = s.spine := rfl
@[simp] theorem State.send_spine (c i : Nat) (ws : List W64) : (s.send c i ws).spine = s.spine := rfl
@[simp] theorem State.sendOwn_spine (c i : Nat) (ws : List W64) : (s.sendOwn c i ws).spine = s.spine := rfl
@[simp] theorem State.notice_spine (ch : Nat) (b : Bool) : (s.notice ch b).spine = s.spine := rfl
@[simp] theorem State.setSlot_spine (ch : Nat) (x : Slot) : (s.setSlot ch x).spine = s.spine := rfl
@[simp] theorem State.setReg_spine (a : Nat) (w : Reg32) : (s.setReg a w).spine = s.spine := rfl

/-! ### Operations that leave the spine: what event sources, streams, tiles and register fields do -/

@[simp] theorem State.putEntry_spine (kind source detail : Nat) :
    (s.putEntry kind source detail).spine = s.spine := rfl
@[simp] theorem State.log_spine (kind source detail : Nat) :
    (s.log kind source detail).spine = s.spine := by simp [State.log]
@[simp] theorem State.setSticky_spine (k : Nat) : (s.setSticky k).spine = s.spine := by simp [State.setSticky]
@[simp] theorem State.routeAlert_spine (k : Nat) (at_ : Time) (unmask : Bool) :
    (s.routeAlert k at_ unmask).spine = s.spine := by simp [State.routeAlert]
@[simp] theorem State.raiseQuiet_spine (k : Nat) : (s.raiseQuiet k).spine = s.spine := by simp [State.raiseQuiet]
@[simp] theorem State.placePost_spine (k : Nat) : (s.placePost k).spine = s.spine := rfl
@[simp] theorem State.routeBox_spine (k : Nat) : (s.routeBox k).spine = s.spine := by simp [State.routeBox]
@[simp] theorem State.routes_spine (k : Nat) (at_ : Time) (unmask : Bool) :
    (s.routes k at_ unmask).spine = s.spine := by simp [State.routes]
@[simp] theorem State.raiseAt_spine (k : Nat) (at_ : Time) :
    (s.raiseAt k at_).spine = s.spine := by simp [State.raiseAt]
@[simp] theorem State.raise_spine (k : Nat) : (s.raise k).spine = s.spine := by simp [State.raise]
@[simp] theorem State.draw_spine : s.draw.2.spine = s.spine := rfl
@[simp] theorem State.setQWord_spine (t q pos : Nat) (w : QWord) : (s.setQWord t q pos w).spine = s.spine :=
  s.spine_modTile t _ rfl rfl
@[simp] theorem State.qSticky_spine (t q : Nat) (f : Queue → Queue) : (s.qSticky t q f).spine = s.spine := by
  simp [State.qSticky]
@[simp] theorem State.fcoRise_spine (k : Nat) : (s.fcoRise k).spine = s.spine := by simp [State.fcoRise]
@[simp] theorem State.fcoReturn_spine (k : Nat) : (s.fcoReturn k).spine = s.spine := by simp [State.fcoReturn]
@[simp] theorem State.qEval_spine (t q : Nat) : (s.qEval t q).spine = s.spine := by simp [State.qEval]
@[simp] theorem State.lbExpire_spine (t : Nat) : (s.lbExpire t).spine = s.spine := by simp [State.lbExpire]
@[simp] theorem State.qRewind_spine (t q : Nat) : (s.qRewind t q).spine = s.spine := by simp [State.qRewind]
@[simp] theorem State.updQuality_spine : s.updQuality.spine = s.spine := by simp [State.updQuality]
@[simp] theorem State.suspectFrom_spine (lo : Nat) : (s.suspectFrom lo).spine = s.spine := by
  refine forKeys_spine (fun t s => ?_) _ s
  refine (forKeys_spine (fun q s => forKeys_spine (fun i s => ?_) _ s) _ _).trans (s.spine_modTile t _ rfl rfl)
  dsimp only
  split <;> simp
@[simp] theorem State.setCxWord_spine (t a : Nat) (w : W64) : (s.setCxWord t a w).spine = s.spine :=
  s.spine_modTile t _ rfl rfl
@[simp] theorem State.setCxWords_spine (t a : Nat) (ws : List W64) : (s.setCxWords t a ws).spine = s.spine := by
  induction ws generalizing s a with
  | nil => rfl
  | cons x xs ih => simp [State.setCxWords, ih]
@[simp] theorem State.useMark_spine (t ord : Nat) (frag : Bool) : (s.useMark t ord frag).spine = s.spine :=
  s.spine_modTile t _ rfl rfl
@[simp] theorem State.endContext_spine (t e c : Nat) : (s.endContext t e c).spine = s.spine := by
  simp only [State.endContext]
  repeat' split
  all_goals simp -implicitDefEqProofs [forKeys_spine]
@[simp] theorem State.inject_spine (t e : Nat) (d : DItem) : (s.inject t e d).spine = s.spine := s.modEng_spine t e _
@[simp] theorem State.saveRegs_spine (t e : Nat) : (s.saveRegs t e).spine = s.spine := by simp [State.saveRegs]
@[simp] theorem State.copyBlocks_spine (t e src dst : Nat) :
    (s.copyBlocks t e src dst).spine = s.spine := by
  simp -implicitDefEqProofs [State.copyBlocks, forKeys_spine]
@[simp] theorem State.ckptStore_spine (t e : Nat) : (s.ckptStore t e).spine = s.spine := by simp [State.ckptStore]
@[simp] theorem State.rewindAll_spine (t e : Nat) :
    (s.rewindAll t e).spine = s.spine := by simp -implicitDefEqProofs [State.rewindAll, forKeys_spine]
@[simp] theorem State.restore_spine (t e : Nat) :
    (s.restore t e).spine = s.spine := by simp -implicitDefEqProofs [State.restore, forKeys_spine]
@[simp] theorem State.endHold_spine : s.endHold.spine = s.spine := by simp [State.endHold]
@[simp] theorem State.dropMarks_spine (ord : Nat) :
    (s.dropMarks ord).spine = s.spine := by simp -implicitDefEqProofs [State.dropMarks, forKeys_spine]
@[simp] theorem State.modLane_spine (l : Nat) (f : Lane → Lane) : (s.modLane l f).spine = s.spine := rfl
@[simp] theorem State.restartOn_spine (cls idx : Nat) (v : W64) : (s.restartOn cls idx v).spine = s.spine := rfl
@[simp] theorem State.restartTier1_spine (v : W64) :
    (s.restartTier1 v).spine = s.spine := by simp -implicitDefEqProofs [State.restartTier1, forKeys_spine]
@[simp] theorem State.restartData_spine (v : W64) :
    (s.restartData v).spine = s.spine := by simp -implicitDefEqProofs [State.restartData, forKeys_spine]
@[simp] theorem State.restartAll_spine (cause tile eng : Nat) :
    (s.restartAll cause tile eng).spine = s.spine := by simp [State.restartAll]
@[simp] theorem State.imageRestart_spine : s.imageRestart.spine = s.spine := by
  unfold State.imageRestart
  split <;> simp
@[simp] theorem State.putLane_spine (l : Nat) (st : LaneState) : (s.putLane l st).spine = s.spine := rfl
@[simp] theorem State.noteDown_spine : s.noteDown.spine = s.spine := by simp [State.noteDown]
@[simp] theorem State.trainAll_spine :
    s.trainAll.spine = s.spine := by simp -implicitDefEqProofs [State.trainAll, forKeys_spine]
@[simp] theorem State.respond_spine (h : CtlHead) (status first : Nat) (data : List W64) :
    (s.respond h status first data).spine = s.spine := by
  unfold State.respond
  split
  · exact s.sendOwn_spine 4 0 _
  · rfl
@[simp] theorem State.cutFrame_spine (h : Option CtlHead) : (s.cutFrame h).spine = s.spine := by
  unfold State.cutFrame
  split <;> simp
@[simp] theorem State.newChal_spine : s.newChal.spine = s.spine := rfl
@[simp] theorem State.calChoose_spine : s.calChoose.spine = s.spine := by simp [State.calChoose]
@[simp] theorem State.checkRelease_spine (t c : Nat) : (s.checkRelease t c).spine = s.spine := by
  simp only [State.checkRelease]
  split <;> simp
@[simp] theorem State.setTap_spine (t sel : Nat) : (s.setTap t sel).spine = s.spine := by
  have h : ((s.setReg (tileBase t + 0x40) (BitVec.ofNat 32 sel)).modTile t
      (fun x => { x with ho := { x.ho with tapped := decide (sel ≠ 31) } })).spine = s.spine :=
    State.spine_modTile _ t _ rfl rfl
  unfold State.setTap
  split
  · exact h
  · exact (State.modChan_spine _ t 16 _).trans h
@[simp] theorem State.hoRequest_spine (t input : Nat) (dir : Bool) (ovl due : Nat) :
    (s.hoRequest t input dir ovl due).spine = s.spine := by simp [State.hoRequest]
@[simp] theorem State.hoCut_spine (t : Nat) : (s.hoCut t).spine = s.spine := by simp [State.hoCut]
@[simp] theorem State.setRun_spine (r : ProofRun) : (s.setRun r).spine = s.spine := rfl
@[simp] theorem State.reply_spine (q : SupReq) (status : Nat) (body : List W64) :
    (s.reply q status body).spine = s.spine := rfl
@[simp] theorem State.serviceEnd_spine (q : SupReq) (status : Nat) (body : List W64) :
    (s.serviceEnd q status body).spine = s.spine := rfl
@[simp] theorem State.proofEnd_spine (r : ProofRun) (reason : Nat) : (s.proofEnd r reason).spine = s.spine := by
  simp only [State.proofEnd]
  split <;> simp
@[simp] theorem State.proofBack_spine (r : ProofRun) :
    (s.proofBack r).spine = s.spine := by simp -implicitDefEqProofs [State.proofBack]
@[simp] theorem State.proofFail_spine (r : ProofRun) (reason : Nat) :
    (s.proofFail r reason).spine = s.spine := by simp [State.proofFail]
@[simp] theorem State.proofOffset_spine (r : ProofRun) : (s.proofOffset r).spine = s.spine := by simp [State.proofOffset]
@[simp] theorem State.proofHo_spine (t : Nat) : (s.proofHo t).spine = s.spine := by
  unfold State.proofHo
  split <;> simp
@[simp] theorem State.ageGone_spine : s.ageGone.spine = s.spine := by simp [State.ageGone]
@[simp] theorem State.proofStop_spine (reset : Bool) : (s.proofStop reset).spine = s.spine := by
  unfold State.proofStop
  split <;> simp
@[simp] theorem State.setLatch_spine (t k : Nat) (v : Bool) :
    (s.setLatch t k v).spine = s.spine := by simp [State.setLatch]
@[simp] theorem State.lmFollow_spine (t : Nat) :
    (s.lmFollow t).spine = s.spine := by simp -implicitDefEqProofs [State.lmFollow, forKeys_spine]
@[simp] theorem State.lmRound_spine (t : Nat) : (s.lmRound t).spine = s.spine := by simp [State.lmRound]
@[simp] theorem State.lmStart_spine (t : Nat) : (s.lmStart t).spine = s.spine := by simp [State.lmStart]
@[simp] theorem State.unmask_spine (first old new n : Nat) :
    (s.unmask first old new n).spine = s.spine := by simp -implicitDefEqProofs [State.unmask, forKeys_spine]
@[simp] theorem State.setChCfg_spine (t c : Nat) (w : Reg32) :
    (s.setChCfg t c w).spine = s.spine := by simp [State.setChCfg]
@[simp] theorem State.setChThr_spine (t c : Nat) (w : Reg32) :
    (s.setChThr t c w).spine = s.spine := by simp [State.setChThr]
@[simp] theorem State.setLmCtrl_spine (t : Nat) (w : Reg32) :
    (s.setLmCtrl t w).spine = s.spine := by simp [State.setLmCtrl]
@[simp] theorem State.stage_spine (p : Place × W64) : (s.stage p).spine = s.spine := by
  unfold State.stage
  split <;> simp
@[simp] theorem State.stageRecs_spine (rs : List Rec) :
    (s.stageRecs rs).spine = s.spine := by simp -implicitDefEqProofs [State.stageRecs, foldl_spine]
@[simp] theorem State.bare_spine :
    s.bare.spine = s.spine := by simp -implicitDefEqProofs [State.bare, forKeys_spine]
@[simp] theorem State.cfgResult_spine (reason tile rec_ : Nat) :
    (s.cfgResult reason tile rec_).spine = s.spine := rfl
@[simp] theorem State.cfgRefuse_spine (reason : Nat) : (s.cfgRefuse reason).spine = s.spine := rfl
@[simp] theorem State.dropWords_spine (t q : Nat) :
    (s.dropWords t q).spine = s.spine := by simp -implicitDefEqProofs [State.dropWords, forKeys_spine]
@[simp] theorem State.engineStart_spine (t e : Nat) (ctxs : List Nat) :
    (s.engineStart t e ctxs).spine = s.spine := by simp [State.engineStart]
@[simp] theorem State.tileStart_spine (t : Nat) :
    (s.tileStart t).spine = s.spine := by simp -implicitDefEqProofs [State.tileStart, forKeys_spine]
@[simp] theorem State.regroup_spine :
    s.regroup.spine = s.spine := by simp -implicitDefEqProofs [State.regroup, forKeys_spine]
@[simp] theorem State.cancelAsk_spine : s.cancelAsk.spine = s.spine := by simp [State.cancelAsk]
@[simp] theorem State.modBoth_spine (t e c : Nat) (f : Ctx → Ctx) : (s.modBoth t e c f).spine = s.spine := by
  simp [State.modBoth]
@[simp] theorem State.retireCtx_spine (t e c : Nat) (x : FixAt) :
    (s.retireCtx t e c x).spine = s.spine := by simp [State.retireCtx]
@[simp] theorem State.startCtx_spine (t e k : Nat) (x : FixAt) :
    (s.startCtx t e k x).spine = s.spine := by simp [State.startCtx]
@[simp] theorem State.putBlock_spine (t c : Nat) (ws : List W64) :
    (s.putBlock t c ws).spine = s.spine := by simp [State.putBlock]
@[simp] theorem State.fixContexts_spine (old : State) (t : Nat) (ws : List (Place × W64)) (x : FixAt) :
    (s.fixContexts old t ws x).spine = s.spine := by
  simp -implicitDefEqProofs [State.fixContexts, forKeys_spine, foldl_spine]
@[simp] theorem State.rewriteTile_spine (t : Nat) :
    (s.rewriteTile t).spine = s.spine := by simp -implicitDefEqProofs [State.rewriteTile, foldl_spine]
@[simp] theorem State.injectAll_spine (kind cls : Nat) (word : W64) :
    (s.injectAll kind cls word).spine = s.spine := by
  simp -implicitDefEqProofs [State.injectAll, forKeys_spine]
@[simp] theorem State.sheetBoot_spine (t c : Nat) : (s.sheetBoot t c).spine = s.spine := s.modChan_spine t c _
@[simp] theorem State.rewriteSpine_spine :
    s.rewriteSpine.spine = s.spine := by simp -implicitDefEqProofs [State.rewriteSpine, foldl_spine]

/-! ### The power and reset controller -/

@[simp] theorem State.powerRefused_spine (r : Nat) :
    (s.powerRefused r).spine = { s.spine with pw := { s.spine.pw with reason := r } } := State.raise_spine _ _

@[simp] theorem State.noteReset_spine (cause tile eng : Nat) : (s.noteReset cause tile eng).spine =
    { s.spine with pw := { s.spine.pw with cause := cause, causeTile := tile, causeEng := eng } } := rfl

@[simp] theorem State.countBoot_spine : s.countBoot.spine =
    { s.spine with pw := { s.spine.pw with bootCnt := bootCount s.nv, counted := true } } := rfl

/-- A Dark request that is dropped leaves its reason and nothing else of the spine. -/
theorem State.dropDark_spine (r : Nat) : ∃ n,
    (s.dropDark r).spine = { s.spine with pw := { s.spine.pw with dark := none, reason := n } } := by
  unfold State.dropDark
  split
  next h => exact ⟨r, State.raise_spine _ _⟩
  next h =>
    have hd : s.pw.dark = none := by simpa using h
    exact ⟨s.pw.reason, by rw [← hd]; rfl⟩

theorem State.dropDark_none (r : Nat) (h : s.pw.dark = none) : s.dropDark r = s := by simp [State.dropDark, h]

/-- A request for Run that a soft reset refuses leaves its reason and nothing else of the spine. -/
theorem State.refuseRun_spine : ∃ n, (if s.pw.toRun.isSome then ({ s with pw := { s.pw with toRun := none } }).powerRefused 8
    else s).spine = { s.spine with pw := { s.spine.pw with toRun := none, reason := n } } := by
  split
  next h => exact ⟨8, State.powerRefused_spine _ 8⟩
  next h =>
    have hd : s.pw.toRun = none := by simpa using h
    exact ⟨s.pw.reason, by rw [← hd]; rfl⟩

/-! ### Pending triggers -/

@[simp] theorem State.tref_spine (id code reason epoch : Nat) :
    (s.tref id code reason epoch).spine = { s.spine with tref := (s.eb.tref + 1) % 2 ^ 32 } := State.raise_spine _ _

/-- The spine when every pending trigger is refused. -/
def Spine.refused (x : Spine) : Spine := { x with trigs := [], tref := x.trigs.foldl (fun n _ => (n + 1) % 2 ^ 32) x.tref }

@[simp] theorem State.refuseAll_spine : s.refuseAll.spine = s.spine.refused := by
  have h : ∀ (l : List Trig) (s : State),
      (l.foldl (fun s p => (s.dropMarks p.ord).tref p.id p.code (p.doom.getD 6) p.epoch) s).spine =
        { s.spine with tref := l.foldl (fun n _ => (n + 1) % 2 ^ 32) s.eb.tref } := by
    intro l
    induction l with
    | nil => exact fun _ => rfl
    | cons p l ih =>
      intro s
      have hm := s.dropMarks_spine p.ord
      have ht : (s.dropMarks p.ord).eb.tref = s.eb.tref := congrArg Spine.tref hm
      have hr := (s.dropMarks p.ord).tref_spine p.id p.code (p.doom.getD 6) p.epoch
      rw [hm, ht] at hr
      have hn : ((s.dropMarks p.ord).tref p.id p.code (p.doom.getD 6) p.epoch).eb.tref = (s.eb.tref + 1) % 2 ^ 32 :=
        congrArg Spine.tref hr
      rw [List.foldl_cons, List.foldl_cons, ih, hr, hn]
  exact h s.eb.pending _

theorem foldl_count (l : List Trig) (h : l ≠ []) (n : Nat) :
    l.foldl (fun n _ => (n + 1) % 2 ^ 32) n = (n + l.length) % 2 ^ 32 := by
  induction l generalizing n with
  | nil => exact absurd rfl h
  | cons p l ih =>
    rw [List.foldl_cons, List.length_cons]
    by_cases hl : l = []
    · simp [hl]
    · rw [ih hl]
      omega

@[simp] theorem State.goSafelight_spine : s.goSafelight.spine =
    { s.spine.refused with pw := { s.spine.pw with st := .safelight, toSafe := none } } := by
  unfold State.goSafelight
  rw [State.raise_spine, State.injectAll_spine, State.refuseAll_spine]
  rw [forKeys_spine fun t s => forKeys_spine (fun c s => s.modChan_spine t c _) _ _]
  rfl

/-! ### The timebase and the links -/

/-- A spine that differs from another one in the timebase alone, with no time passed. -/
def Spine.Retimed (x y : Spine) : Prop := y.tb.age = x.tb.age ∧ y = { x with tb := y.tb }

theorem Spine.Retimed.refl (x : Spine) : x.Retimed x := ⟨rfl, rfl⟩

theorem Spine.Retimed.retime {x y : Spine} (h : x.Retimed y) (b : Timebase) (hb : b.age = y.tb.age) :
    x.Retimed { y with tb := b } :=
  ⟨hb.trans h.1, by rw [h.2]⟩

theorem Spine.Retimed.of_eq {x y : Spine} (h : y = x) : x.Retimed y := h ▸ .refl x

/-- The loss of the reference changes the timebase alone, and no time passes. -/
theorem State.unlock_spine (lead : Nat) : s.spine.Retimed (s.unlock lead).spine := by
  have lost := Spine.Retimed.of_eq (s.suspectFrom_spine (s.tb.age - lead))
  unfold State.unlock
  dsimp only
  split
  iterate 3
    rw [State.updQuality_spine, State.raise_spine]
    exact lost.retime _ rfl
  · rw [State.updQuality_spine]
    exact (Spine.Retimed.refl _).retime _ rfl
  iterate 2 exact .refl _

/-- A switch of the reference changes the timebase alone, and no time passes. -/
theorem State.refSwitch_spine (old : Bool) : s.spine.Retimed (s.refSwitch old).spine := by
  unfold State.refSwitch
  split
  · exact .refl _
  · exact (s.unlock_spine 1).retime _ rfl

theorem State.setDn_spine (d : DnState) : ({ s.spine with dn := d } : Spine).Retimed (s.setDn d).spine :=
  State.refSwitch_spine { s with lk := { s.lk with dn := d } } s.refClk

/-- A link reset leaves the receiver without a signal and the host's generation raised (R314, R355, R463). -/
theorem State.linkReset_spine (h : Option CtlHead) :
    ({ s.spine with dn := .noSignal, hostReset := true, hostGen := genNext s.spine.hostGen } : Spine).Retimed
      (s.linkReset h).spine := by
  have noted : ∀ w : State, w.spine = s.spine → ({ s.spine with dn := .noSignal } : Spine).Retimed (w.setDn .noSignal).spine :=
    fun w hw => hw ▸ w.setDn_spine .noSignal
  unfold State.linkReset
  rw [forKeys_spine fun ch s => s.notice_spine ch false, State.newChal_spine, State.trainAll_spine]
  obtain ⟨ha, hx⟩ := noted (if (s.cutFrame h).lk.dn = .slot then (s.cutFrame h).raise (chipSrc 10) else s.cutFrame h) (by simp)
  have hg := congrArg (fun x : Spine => ({ x with hostReset := true, hostGen := genNext x.hostGen } : Spine)) hx
  exact ⟨ha, hg⟩

/-! ### Tiles -/

/-- What a change of one tile does to the power and reset of each. -/
theorem State.flags_modTile (t : Nat) (f : Tile → Tile) : (s.modTile t f).spine = { s.spine with
    flags := fun u => if u = t then ((f (s.tile t)).powered, (f (s.tile t)).inReset) else s.spine.flags u } := by
  have h : flagsOf (s.modTile t f).tiles =
      fun u => if u = t then ((f (s.tile t)).powered, (f (s.tile t)).inReset) else s.spine.flags u := by
    funext u
    rw [State.flags_eq, State.tile_modTile]
    split
    next => rfl
    next => rfl
  exact congrArg (fun f => { s.spine with flags := f }) h

/-- The tiles of `ks` that are powered in reset. -/
def Spine.held (ks : List Nat) (x : Spine) : Spine :=
  { x with flags := fun u => if u ∈ ks ∧ (x.flags u).1 = true then (true, true) else x.flags u }

/-- The tiles of `ks` out of reset. -/
def Spine.freed (ks : List Nat) (x : Spine) : Spine :=
  { x with flags := fun u => if u ∈ ks then ((x.flags u).1, false) else x.flags u }

theorem Spine.held_self (x : Spine) (t : Nat) (h : (x.flags t).1 = true → (x.flags t).2 = true) : x.held [t] = x := by
  refine congrArg (fun f => { x with flags := f }) (funext fun u => ?_)
  split
  next hu =>
    obtain ⟨hm, hp⟩ := hu
    rw [List.mem_singleton.1 hm] at hp ⊢
    exact Prod.ext hp.symm (h hp).symm
  next => rfl

/-- A powered tile that goes into reset is held. -/
theorem State.held_modTile (t : Nat) (hp : (s.tile t).powered = true) :
    (s.modTile t (fun x => { x with inReset := true })).spine = s.spine.held [t] := by
  rw [State.flags_modTile]
  refine congrArg (fun f => { s.spine with flags := f }) (funext fun u => ?_)
  by_cases hu : u = t
  · subst hu
    have hf : (s.spine.flags u).1 = true := hp
    simp [hf, hp]
  · simp [hu]

/-- A tile reset holds the tile where it is powered, and leaves the rest, no Dark request waiting (R382, R444). -/
theorem State.tileReset_spine (t : Nat) (hd : s.pw.dark = none) : (s.tileReset t).spine = s.spine.held [t] := by
  have into : ∀ w : State, w.spine = s.spine → (s.tile t).powered = true →
      (w.modTile t (fun x => { x with inReset := true })).spine = s.spine.held [t] := fun w hw hp =>
    hw ▸ w.held_modTile t ((congrArg (fun x : Spine => (x.flags t).1) hw).trans hp)
  unfold State.tileReset
  split
  next h =>
    refine (s.spine.held_self t fun hp => ?_).symm
    have hp : (s.tile t).powered = true := hp
    exact (show (s.tile t).inReset = true by simpa [hp] using h)
  next h =>
    obtain ⟨-, hp⟩ : (s.tile t).inReset = false ∧ (s.tile t).powered = true := by simpa using h
    rw [s.dropDark_none 8 hd]
    dsimp only
    rw [State.spine_ite]
    refine (ite_self _).trans (into _ ?_ hp)
    split <;> simp

theorem Spine.held_nil (x : Spine) : x.held [] = x :=
  congrArg (fun f => { x with flags := f }) (funext fun _ => if_neg fun h => List.not_mem_nil h.1)

theorem Spine.held_append (ks ls : List Nat) (x : Spine) : (x.held ks).held ls = x.held (ks ++ ls) := by
  refine congrArg (fun f => { x with flags := f }) (funext fun u => ?_)
  by_cases hp : (x.flags u).1 = true <;> by_cases hk : u ∈ ks <;> simp [Spine.held, hp, hk]

/-- Tile resets hold their tiles. -/
theorem State.forKeys_tileReset_spine (ks : List Nat) (hd : s.pw.dark = none) :
    (forKeys ks (fun t s => s.tileReset t) s).spine = s.spine.held ks := by
  induction ks generalizing s with
  | nil => exact s.spine.held_nil.symm
  | cons t ks ih =>
    have ht := s.tileReset_spine t hd
    have hd' : (s.tileReset t).pw.dark = none := (congrArg (fun x : Spine => x.pw.dark) ht).trans hd
    exact (ih (s.tileReset t) hd').trans (by rw [ht, Spine.held_append]; rfl)

/-! ### The soft reset -/

@[simp] theorem State.supDown_spine :
    s.supDown.spine = { s.spine with restarting := true, supGen := genNext s.spine.supGen } := rfl

/-- What a soft reset that begins makes of the spine, but for the reason of a refused request and the timebase. -/
def Spine.softened (x : Spine) (n : Nat) (m : Nat) : Spine :=
  { x.refused.held (List.range n) with
    pw := { x.pw with
      bootCnt := m, counted := true, toRun := none, dark := none, st := .safelight, soft := true, cause := 4
      toSafe := if x.pw.st = .run then none else x.pw.toSafe
      causeTile := 0, causeEng := 0, heldRun := decide (x.pw.st = .run) && x.pw.toSafe.isNone }
    dn := .noSignal, hostReset := true, hostGen := genNext x.hostGen
    restarting := true, supGen := genNext x.supGen }

theorem State.nTiles_of_part {t : State} (h : t.part = s.part) : t.nTiles = s.nTiles := by
  rw [State.nTiles, State.nTiles, h]

/-- Capture goes to Safelight and no trigger is left. -/
theorem State.toSafelight_spine (hd : s.pw.st ≠ .dark) : (if s.pw.st = .run then s.goSafelight else s).refuseAll.spine =
    { s.spine.refused with pw := { s.spine.pw with
        st := .safelight, toSafe := if s.spine.pw.st = .run then none else s.spine.pw.toSafe } } := by
  rw [State.refuseAll_spine]
  split
  next h =>
    rw [State.goSafelight_spine, if_pos (show s.spine.pw.st = .run from h)]
    rfl
  next h =>
    have hs : s.spine.pw.st = .safelight := by
      cases hst : s.pw.st with
      | run => exact absurd hst h
      | dark => exact absurd hst hd
      | safelight => exact hst
    rw [if_neg (show s.spine.pw.st ≠ .run from h), ← hs]
    rfl

/-- A soft reset that begins (R498, R499, R504): the spine is followed through its steps, the state after each put as a
variable. -/
theorem State.softAsk_spine (h : Option CtlHead) (hf : s.dep.frozen = false) (hs : s.pw.soft = false)
    (hp : s.phase = .running) (hd : s.pw.st ≠ .dark) : ∃ n b, b.age = s.tb.age ∧ (s.softAsk h).spine =
      { s.spine.softened s.nTiles (bootCount s.nv) with
        pw := { (s.spine.softened s.nTiles (bootCount s.nv)).pw with reason := n }, tb := b } := by
  unfold State.softAsk
  rw [if_neg (by simp [hf]), if_neg (by simp [hs, hp]), if_neg hd]
  dsimp only
  rw [State.restartAll_spine]
  have hcount := s.countBoot_spine
  generalize s.countBoot = s1 at *
  obtain ⟨_, hrun⟩ := s1.refuseRun_spine
  generalize (if s1.pw.toRun.isSome then _ else s1) = s2 at *
  obtain ⟨n, hdrop⟩ := s2.dropDark_spine 8
  generalize s2.dropDark 8 = s3 at *
  have hst : s3.spine.pw.st = s.spine.pw.st := by rw [hdrop, hrun, hcount]
  have hsafe : s3.spine.pw.toSafe = s.spine.pw.toSafe := by rw [hdrop, hrun, hcount]
  have hleft := s3.toSafelight_spine (hst.trans_ne hd)
  rw [show s3.pw.st = s.pw.st from hst, show s3.pw.toSafe = s.pw.toSafe from hsafe] at *
  generalize State.refuseAll _ = s4 at *
  obtain ⟨ha, hlink⟩ := s4.linkReset_spine h
  generalize s4.linkReset h = s5 at *
  have hdark : s5.spine.pw.dark = none := by rw [hlink, hleft, hdrop]
  have hpart : s5.spine.part = s.spine.part := by rw [hlink, hleft, hdrop, hrun, hcount]; rfl
  have hage : s5.spine.tb.age = s.spine.tb.age := by rw [ha, hleft, hdrop, hrun, hcount]; rfl
  have htiles := s5.forKeys_tileReset_spine (List.range s5.nTiles) hdark
  rw [s.nTiles_of_part hpart] at *
  generalize forKeys _ _ s5 = s6 at *
  have hsup := (s6.supDown.cancelAsk.rewriteSpine_spine.trans s6.supDown.cancelAsk_spine).trans s6.supDown_spine
  generalize s6.supDown.cancelAsk.rewriteSpine = s7 at *
  refine ⟨n, s5.tb, hage, ?_⟩
  rw [State.noteReset_spine]
  trans { s7.spine with pw := { s7.spine.pw with
    soft := true, heldRun := decide (s.pw.st = .run) && s.pw.toSafe.isNone, cause := 4, causeTile := 0, causeEng := 0 } }
  · rfl
  rw [hsup, htiles, hlink, hleft, hst, hsafe, hdrop, hrun, hcount]
  rfl

/-! ### Words of an image -/

/-- A place is not TB_CTRL, whose write selects the reference. -/
def Place.SparesTime (p : Place) : Prop := ∀ a x, p = .reg a → regAt a = some x → x.row.reg ≠ .tbCtrl

/-- TB_CTRL lies outside the tiles. -/
theorem Place.sparesTime_of_tile {p : Place} {t : Nat} (h : p.tile = some t) : p.SparesTime := by
  rintro a x rfl hx
  have hr : ∀ r ∈ tileRows, r.reg ≠ .tbCtrl := by decide +kernel
  exact hr _ (regAt_inTile hx (regAt_tile hx h)).1

/-- TB_CTRL has commands, so no record may write it (R399). -/
theorem Place.sparesTime_of_good {p : Place} {w : W64} (h : p.bad w = false) : p.SparesTime := by
  rintro a x rfl hx
  have hr : ∀ r ∈ chipRows ++ tileRows, r.reg = .tbCtrl → r.wo ≠ 0 := by decide +kernel
  intro ht
  have hw := hr _ (regAt_row hx) ht
  simp [Place.bad, regTargetBad, hx, hw] at h

theorem State.setField_spine (a : Nat) (w : Reg32) (h : (Place.reg a).SparesTime) : (s.setField a w).spine = s.spine := by
  unfold State.setField
  split
  next r hr =>
    dsimp only
    split
    case h_10 ht => exact absurd ht (h a r rfl hr)
    all_goals simp
  next => rfl

theorem State.putWrite_spine (p : Place × W64) (h : p.1.SparesTime) : (s.putWrite p).spine = s.spine := by
  unfold State.putWrite
  split
  next a ha =>
    split
    · exact s.setReg_spine _ _
    · exact s.setField_spine a _ (ha ▸ h)
  next => exact s.stage_spine p

theorem State.fixTile_spine (t : Nat) (rs : List Rec) (x : FixAt) : (s.fixTile t rs x).spine = s.spine := by
  unfold State.fixTile
  extract_lets ws n m pws
  have hn : n.spine = s.spine := by
    refine foldl_spine_of_mem ws (fun w p hp => ?_) s
    have ht : p.1.tile = some t := by simpa using (List.mem_filter.1 hp).2
    split
    · exact w.putWrite_spine p (Place.sparesTime_of_tile ht)
    · rfl
  have hm : m.spine = s.spine := (n.fixContexts_spine s t ws x).trans hn
  clear_value m
  exact (m.spine_modTile t _ (by split <;> rfl) (by split <;> rfl)).trans hm

theorem State.fixLate_spine (t : Nat) : (s.fixLate t).spine = s.spine := by
  unfold State.fixLate
  split
  · rfl
  · exact (State.fixTile_spine _ t _ _).trans rfl

/-! ### The end of a soft reset -/

/-- A tile that leaves reset (R420, R444, R502). -/
theorem State.tileOut_spine (t : Nat) : (s.tileOut t).spine = s.spine.freed [t] := by
  have out : (s.modTile t (fun x => { x.replicaLoad s.tb.age with inReset := false })).spine = s.spine.freed [t] := by
    rw [State.flags_modTile]
    refine congrArg (fun f => { s.spine with flags := f }) (funext fun u => ?_)
    by_cases hu : u = t
    · subst hu
      simp
      rfl
    · simp [hu]
  unfold State.tileOut
  dsimp only
  rw [State.raise_spine, State.fixLate_spine, forKeys_spine fun e s => ?_]
  · split <;> simp [out]
  · split <;> simp

theorem Spine.freed_append (ks ls : List Nat) (x : Spine) : (x.freed ks).freed ls = x.freed (ks ++ ls) := by
  refine congrArg (fun f => { x with flags := f }) (funext fun u => ?_)
  by_cases hl : u ∈ ls <;> by_cases hk : u ∈ ks <;> simp [Spine.freed, hl, hk]

theorem State.forKeys_tileOut_spine (ks : List Nat) : (forKeys ks (fun t s => s.tileOut t) s).spine = s.spine.freed ks := by
  induction ks generalizing s with
  | nil => exact congrArg (fun f => { s.spine with flags := f }) (funext fun _ => (if_neg List.not_mem_nil).symm)
  | cons t ks ih => exact (ih (s.tileOut t)).trans (by rw [s.tileOut_spine, Spine.freed_append]; rfl)

theorem State.supUp_spine : s.supUp.spine = { s.spine with restarting := false } :=
  forKeys_spine (fun ch s => s.setSlot_spine ch _) _ _

/-- A soft reset completes: its tiles leave reset and the supervisor runs (R444, R498). -/
theorem State.softEnd_spine : s.softEnd.spine =
    { s.spine.freed ((List.range s.nTiles).filter (fun t => (s.tile t).inReset)) with
      restarting := false
      pw := { s.pw with
        soft := false, heldRun := false, toRun := if s.pw.heldRun = true then some (s.tb.age + 1) else none } } := by
  unfold State.softEnd
  dsimp only
  have ho := s.forKeys_tileOut_spine ((List.range s.nTiles).filter (fun t => (s.tile t).inReset))
  generalize forKeys _ _ s = w at *
  have hu := w.supUp_spine
  generalize w.supUp = v at *
  trans { v.spine with pw := { v.spine.pw with
    soft := false, heldRun := false, toRun := if v.spine.pw.heldRun = true then some (v.spine.tb.age + 1) else none } }
  · rfl
  · rw [hu, ho]
    rfl

/-! ### A checked image -/

/-- No word of the records selects the reference. -/
def SpareTime (n : Nat) (rs : List Rec) : Prop := ∀ r ∈ rs, ∀ p ∈ r.writes n, p.1.SparesTime

theorem parseRecs_spareTime {n fuel k : Nat} {b : List Byte} {rs : List Rec} (h : parseRecs n fuel k b = .ok rs) :
    SpareTime n rs := by
  induction fuel generalizing k b rs with
  | zero =>
    unfold parseRecs at h
    split at h <;> cases h
    exact fun r hr => absurd hr List.not_mem_nil
  | succ fuel ih =>
    unfold parseRecs at h
    dsimp only at h
    split at h
    · cases h
      exact fun r hr => absurd hr List.not_mem_nil
    split at h
    · cases h
    split at h
    · cases h
    split at h
    · cases h
    next hb =>
      split at h
      next rs' hrest =>
        cases h
        intro r hr p hp
        rcases List.mem_cons.1 hr with rfl | hr
        · have hgood : p.1.bad p.2 = false := by
            simp only [Rec.bad, Bool.or_eq_true, not_or, List.any_eq_true, not_exists, not_and] at hb
            simpa using hb.2 p hp
          exact Place.sparesTime_of_good hgood
        · exact ih hrest r hr p hp
      next => cases h

theorem State.readImage_spareTime {b : List Byte} {kind cap : Nat} {i : Image} (h : s.readImage b kind cap = .ok i) :
    SpareTime s.nTiles i.recs := by
  unfold State.readImage at h
  split at h
  · cases h
  split at h
  · cases h
  dsimp only at h
  split at h
  · cases h
  next rs hrs =>
    split at h <;> cases h
    exact parseRecs_spareTime hrs

theorem State.checkFull_spareTime {b : List Byte} {cap : Nat} {i : Image} (h : s.checkFull b cap = .ok i) :
    SpareTime s.nTiles i.recs := by
  unfold State.checkFull at h
  split at h
  · cases h
  next j hj =>
    split at h <;> cases h
    exact s.readImage_spareTime hj

theorem State.firstSlot_spareTime {cs : List Bool} {e : Nat × Nat} {r : Bool × Image} (h : s.firstSlot cs e = .ok r) :
    SpareTime s.nTiles r.2.recs := by
  induction cs generalizing e with
  | nil => cases h
  | cons b cs ih =>
    unfold State.firstSlot at h
    split at h
    next i hi =>
      cases h
      exact s.checkFull_spareTime hi
    next => exact ih h

/-- An image that selects no reference comes into force in the datapath and the registers alone. -/
theorem State.applyImage_spine (i : Image) (source : Nat) (h : SpareTime s.nTiles i.recs) :
    (s.applyImage i source).spine = s.spine := by
  unfold State.applyImage
  extract_lets ts was s1 s2 pr cfg dep s3 s4 s5 s6
  have h1 : s1.spine = s.spine := forKeys_spine (fun t s => forKeys_spine (fun q s => s.dropWords_spine t q) _ _) _ _
  have h3 : s3.spine = s.spine := (s1.bare_spine).trans h1
  have h4 : s4.spine = s.spine := by
    refine (foldl_spine_of_mem _ (fun w p hp => ?_) s3).trans h3
    obtain ⟨r, hr, hp⟩ := List.mem_flatMap.1 hp
    have hn : s3.nTiles = s.nTiles := s.nTiles_of_part (congrArg Spine.part h3)
    rw [hn] at hp
    exact w.putWrite_spine p (h r hr p hp)
  have h5 : s5.spine = s.spine := by
    rw [← h4]
    exact (State.spine_ite ..).trans ((congrArg _ s4.regroup_spine).trans (ite_self _))
  rw [State.raise_spine, State.cfgRefuse_spine, State.imageRestart_spine]
  exact (forKeys_spine (fun t s => s.tileStart_spine t) _ _).trans h5

theorem State.loadSlots_spine : s.loadSlots.spine = s.spine := by
  unfold State.loadSlots
  dsimp only
  split
  next b i hi =>
    have ha := s.applyImage_spine i (if b then 1 else 0) (s.firstSlot_spareTime hi)
    split
    · exact ha
    · rw [State.raise_spine, ha]
  next => rw [State.raise_spine, State.cfgResult_spine]

theorem State.loadBytes_spine (m : Memory) (top cap source : Nat) : (s.loadBytes m top cap source).spine = s.spine := by
  unfold State.loadBytes
  dsimp only
  split
  · exact s.cfgRefuse_spine 16
  split
  next i hi => exact s.applyImage_spine i source (s.checkFull_spareTime hi)
  next => exact s.cfgResult_spine ..

theorem State.bootImage_spine : s.bootImage.spine = s.spine := by
  unfold State.bootImage
  split
  · exact s.loadSlots_spine
  · split
    · exact s.cfgRefuse_spine 16
    · exact s.loadBytes_spine ..
  · rfl

/-! ### Start-up -/

theorem readBytes_add (m : Memory) (a n k : Nat) : readBytes m a (n + k) = readBytes m a n ++ readBytes m (a + n) k := by
  induction n generalizing a with
  | zero => simp [readBytes]
  | succ n ih =>
    rw [show n + 1 + k = (n + k) + 1 by omega, readBytes, readBytes, ih, show a + 1 + n = a + (n + 1) by omega, List.cons_append]

/-- A part of what was written is read back. -/
theorem readBytes_part (m : Memory) (a : Nat) (xs ys zs : List Byte) :
    readBytes (writeBytes m a (xs ++ ys ++ zs)) (a + xs.length) ys.length = ys := by
  have h := readBytes_writeBytes (xs ++ ys ++ zs) m a
  rw [List.length_append, List.length_append, readBytes_add, readBytes_add] at h
  have hn : ∀ (m : Memory) (a n : Nat), (readBytes m a n).length = n := fun m a n => by
    induction n generalizing a with
    | zero => rfl
    | succ n ih => rw [readBytes, List.length_cons, ih]
  exact (List.append_inj (List.append_inj h (by simp [hn])).1 (by simp [hn])).2

theorem bootCount_lt (nv : Memory) : bootCount nv < 2 ^ 32 := by
  unfold bootCount
  split
  · exact Nat.mod_lt _ (by decide)
  · decide

/-- The boot entry holds its KIND and the boot count (R471, R496). -/
theorem bootEntry (m : Memory) (a n : Nat) (seq epoch : Nat) (t : Time) (zs : List Byte) (h : n < 2 ^ 32) :
    readByte (writeBytes m a (logBytes seq n t epoch 1 0xFFFF 0 ++ zs)) (a + 17) = 1 ∧
      leNat (readBytes (writeBytes m a (logBytes seq n t epoch 1 0xFFFF 0 ++ zs)) (a + 4) 4) = n := by
  constructor
  · have hk := readBytes_part m a (leBytes 4 seq ++ leBytes 4 n ++ leBytes 4 t.s ++ leBytes 4 t.ns ++ leBytes 1 epoch)
      (leBytes 1 1) (leBytes 2 0xFFFF ++ leBytes 8 0 ++ zs)
    simp only [List.length_append, length_leBytes] at hk
    have hw : ∀ b : Byte, ∀ m a, readBytes m a 1 = [b] → readByte m a = b := fun b m a h => (List.cons.inj h).1
    simp only [List.append_assoc, logBytes] at hk ⊢
    exact hw 1 _ _ hk
  · have hb := readBytes_part m a (leBytes 4 seq) (leBytes 4 n) (leBytes 4 t.s ++ leBytes 4 t.ns ++ leBytes 1 epoch ++
      leBytes 1 1 ++ leBytes 2 0xFFFF ++ leBytes 8 0 ++ zs)
    simp only [length_leBytes] at hb
    have hn : leNat (leBytes 4 n) = n := by rw [leNat_leBytes]; omega
    rw [logBytes]
    simp only [List.append_assoc] at hb ⊢
    rw [hb, hn]

/-- What start-up leaves that is not factory test (R495, R496). -/
def State.StartedUp (s : State) (b : BitVec 2) (f : List Byte) (t : State) : Prop :=
  { t with nv := s.nv, sup := s.sup } = { s with
      bootsel := b, phase := .booting, cfg := { s.cfg with flash := f },
      pw := { s.pw with bootCnt := bootCount s.nv, counted := true } } ∧
    ∀ q : Nat, (logLast s.nv = none ∧ q = 0) ∨ (∃ p n, logLast s.nv = some (p, n) ∧ q = (p + 1) % 2 ^ 32) →
      t.sup = { s.sup with logSeq := (q + 1) % 2 ^ 32, logNow := s.sup.logNow + 1 } ∧
      readByte t.nv (logBase + 32 * (q % logSize) + 17) = 1 ∧
      leNat (readBytes t.nv (logBase + 32 * (q % logSize) + 4) 4) = bootCount s.nv

theorem State.countBoot_eq {q : Nat}
    (hq : (logLast s.nv = none ∧ q = 0) ∨ (∃ p n, logLast s.nv = some (p, n) ∧ q = (p + 1) % 2 ^ 32)) :
    s.countBoot = ({ s with
      pw := { s.pw with bootCnt := bootCount s.nv, counted := true }, sup := { s.sup with logSeq := q } }).putEntry 1 0xFFFF 0 := by
  rcases hq with ⟨hl, rfl⟩ | ⟨p, n, hl, rfl⟩ <;> rw [State.countBoot, hl]

/-- The entry of the boot, under the number after the log's last one and the new boot count (R37, R496). -/
theorem State.countBoot_entry {q : Nat} (hp : s.phase = .booting)
    (hq : (logLast s.nv = none ∧ q = 0) ∨ (∃ p n, logLast s.nv = some (p, n) ∧ q = (p + 1) % 2 ^ 32)) :
    s.countBoot.sup = { s.sup with logSeq := (q + 1) % 2 ^ 32, logNow := s.sup.logNow + 1 } ∧
      readByte s.countBoot.nv (logBase + 32 * (q % logSize) + 17) = 1 ∧
      leNat (readBytes s.countBoot.nv (logBase + 32 * (q % logSize) + 4) 4) = bootCount s.nv := by
  have hboot : ∀ (p : Power) (u : Supervisor), p.counted = true → ({ s with pw := p, sup := u } : State).boot = p.bootCnt := by
    intro p u hc
    simp [State.boot, State.started, hp, hc]
  rw [s.countBoot_eq hq, State.putEntry, hboot _ _ rfl]
  dsimp only
  exact ⟨rfl, bootEntry s.nv _ _ _ _ _ _ (bootCount_lt s.nv)⟩

theorem State.startUp_startedUp (b : BitVec 2) (f : List Byte) (hb : b ≠ 3) : s.StartedUp b f (s.startUp b f) := by
  have hs : s.startUp b f =
      ({ s with bootsel := b, cfg := { s.cfg with flash := f }, phase := .booting } : State).countBoot := if_neg hb
  rw [hs]
  exact ⟨rfl, fun q hq => State.countBoot_entry _ rfl hq⟩

/-- Start-up ends (R495, R496). -/
theorem State.bootEnd_spine : s.bootEnd.spine = { s.spine with
    phase := .running
    pw := { s.pw with bootCnt := if s.pw.counted = true then s.pw.bootCnt else bootCount s.nv, counted := true } } := by
  unfold State.bootEnd
  extract_lets s1 s2 s3
  have h1 : s1.spine = { s.spine with
      pw := { s.pw with bootCnt := if s.pw.counted = true then s.pw.bootCnt else bootCount s.nv, counted := true } } := by
    refine (State.spine_ite s s.countBoot).trans ?_
    by_cases h : s.pw.counted = true
    · have hp : ({ s.pw with counted := true } : Power) = s.pw := by rw [← h]
      rw [if_pos h, if_pos h, hp]
      rfl
    · rw [if_neg h, if_neg h, s.countBoot_spine]
      rfl
  clear_value s1
  have h2 : s2.spine = { s1.spine with phase := .running } := State.calChoose_spine _
  clear_value s2
  have h3 : s3.spine = s2.spine := forKeys_spine (fun t s => forKeys_spine (fun c s => s.sheetBoot_spine t c) _ _) _ _
  clear_value s3
  rw [State.raise_spine, State.bootImage_spine, h3, h2, h1]

/-- BOOTSEL, the configuration and the registers stand as they were. -/
def State.SameCfg (s t : State) : Prop := t.bootsel = s.bootsel ∧ t.cfg = s.cfg ∧ t.regs = s.regs

variable {s} in
theorem State.SameCfg.trans {t u : State} (h : s.SameCfg t) (k : t.SameCfg u) : s.SameCfg u :=
  let ⟨hb, hc, hr⟩ := h
  let ⟨kb, kc, kr⟩ := k
  ⟨kb.trans hb, kc.trans hc, kr.trans hr⟩

theorem State.SameCfg.refl : s.SameCfg s := ⟨rfl, rfl, rfl⟩

variable {s} in
theorem State.EventsApart.sameCfg {t : State} (h : s.EventsApart t) : s.SameCfg t :=
  ⟨(congrArg State.bootsel h.1 :), (congrArg State.cfg h.1 :), (congrArg State.regs h.1 :)⟩

theorem State.sameCfg_raise (k : Nat) : s.SameCfg (s.raise k) := (s.apart_raise k).sameCfg

theorem State.sameCfg_calChoose : s.SameCfg s.calChoose := by
  have raised : ∀ (s : State) (b : Bool) (k : Nat), s.SameCfg (if b then s.raise k else s) := fun s b k => by
    split
    · exact s.sameCfg_raise k
    · exact .refl s
  exact (raised s _ _).trans ((raised _ _ _).trans (raised _ _ _))

theorem State.sameCfg_sheetBoot (t c : Nat) : s.SameCfg (s.sheetBoot t c) := ⟨rfl, rfl, rfl⟩

/-- Start-up from the service port loads no image (R408). -/
theorem State.sameCfg_bootEnd (h : s.bootsel = 1) : s.SameCfg s.bootEnd := by
  unfold State.bootEnd
  extract_lets s1 s2 s3
  have h1 : s.SameCfg s1 := by
    by_cases hc : s.pw.counted = true
    · exact (show s1 = s from if_pos hc) ▸ .refl s
    · exact (show s1 = s.countBoot from if_neg hc) ▸ ⟨rfl, rfl, rfl⟩
  clear_value s1
  have h2 : s1.SameCfg s2 := State.sameCfg_calChoose _
  clear_value s2
  have h3 : s2.SameCfg s3 := forKeys_keeps State.SameCfg.refl State.SameCfg.trans
    (fun t s => forKeys_keeps State.SameCfg.refl State.SameCfg.trans (fun c s => s.sameCfg_sheetBoot t c) _ s) _ s2
  clear_value s3
  have hs := h1.trans (h2.trans h3)
  have hb : s3.bootImage = s3 := by
    unfold State.bootImage
    rw [hs.1, h]
    simp
  rw [hb]
  exact hs.trans (s3.sameCfg_raise _)

/-! ### The commands -/

theorem State.thawed_of_up (h : s.up = true) : s.dep.frozen = false := by
  simp only [State.up, Bool.not_eq_true', Bool.or_eq_false_iff] at h
  exact h.2

/-- SOFT_RST is a write of PW_CTRL, applied one slot on (R504). -/
theorem exec_softRst (h : Option CtlHead) (hu : s.up = true) : exec (.softRst h) s = .next ((s.advance 1).softAsk h) := by
  have hr : regAt 0x9000 = some ⟨⟨.pwCtrl, 0x9000, 1, 4, 0, 0, 0, 0xf⟩, 0, none⟩ := by decide +kernel
  have hw : (s.advance 1).writeReason .host 0x9000 8 = none := by
    rw [State.writeReason_reg _ .host 8 (by decide) hr]
    rfl
  have hp : s.writeAt .host 0x9000 8 h = (s.advance 1).softAsk h := by
    rw [s.writeAt_applied hw, State.applyWrite, msgOffset_of_regAt hr, hr]
    simp [State.actChip, State.pwCommands, bits, bit]
  show execSoftRst h s = _
  rw [execSoftRst, s.thawed_of_up hu, hu, hp]
  rfl

theorem exec_bootComplete (hu : s.up = true) :
    exec .bootComplete s = .next (if s.phase = .booting then s.bootEnd else s) :=
  show execBootComplete s = _ from onChip_up s _ hu

theorem exec_softResetDone (hu : s.up = true) :
    exec .softResetDone s = .next (if s.pw.soft then s.softEnd else s) :=
  show execSoftResetDone s = _ from onChip_up s _ hu

variable {s} in
/-- A state whose timebase and power controller moved before event sources were set differs from the one before by those
alone. -/
theorem State.EventsApart.repowered {t : State} {b : Timebase} {p : Power}
    (h : ({ s with tb := b, pw := p } : State).EventsApart t) : ({ s with tb := t.tb, pw := t.pw } : State).EventsApart t := by
  have htb : t.tb = b := (congrArg State.tb h.1 :)
  have hpw : t.pw = p := (congrArg State.pw h.1 :)
  subst htb hpw
  exact h

theorem exec_porEnd (b : BitVec 2) (f : List Byte) :
    exec (.porEnd b f) s = .next (if s.phase = .porHeld then s.startUp b f else s) := rfl

theorem exec_resetNRelease (b : BitVec 2) (f : List Byte) :
    exec (.resetNRelease b f) s = .next (if s.phase = .rstHeld then s.startUp b f else s) := rfl

end Sys2Proof.Machine
open Sys2Proof Sys2Proof.Machine

/-- Settles O59: POR and RESET_N by the definition of the wiped state, the rest by what each operation of start-up and of a
soft reset makes of the spine. -/
theorem deviceResets : Obligations.DeviceResets := by
  refine ⟨⟨fun s => ⟨rfl, fun h => congrArg _ (if_neg h), fun h => congrArg _ (if_pos h)⟩, ?wiped, ?start, ?boot, ?noBoot⟩,
    fun s h => ⟨?held, ?absorbed, ?dark, ?soft⟩, fun s hu => ⟨?done, ?noDone⟩⟩
  case wiped =>
    rintro s t p n rfl
    and_intros <;> rfl
  case start =>
    intro s b f
    refine ⟨fun h => by rw [exec_porEnd, if_neg h], fun h => by rw [exec_resetNRelease, if_neg h], fun c hc => ?_⟩
    have hx : exec c s = .next (s.startUp b f) := by
      rcases hc with ⟨rfl, hp⟩ | ⟨rfl, hp⟩
      · rw [exec_porEnd, if_pos hp]
      · rw [exec_resetNRelease, if_pos hp]
    rw [Answers, hx]
    refine ⟨?_, fun hb => ⟨_, rfl, s.startUp_startedUp b f hb⟩⟩
    rintro rfl
    rfl
  case boot =>
    intro s hp hf
    have hu : s.up = true := by simp [State.up, hp, hf]
    have hx := exec_bootComplete s hu
    rw [if_pos hp] at hx
    have hs := s.bootEnd_spine
    exact ⟨_, hx, congrArg Spine.phase hs, congrArg Spine.pw hs, State.evSet_raise _ _ (by decide), congrArg Spine.tb hs,
      congrArg Spine.msg hs, fun hb => (s.sameCfg_bootEnd hb).2⟩
  case noBoot =>
    intro s hp
    show onChip s _ = _
    rw [onChip_eq, if_neg hp, ite_self]
  case held =>
    intro hf
    show execSoftRst h s = _
    rw [execSoftRst, if_pos hf, State.softAsk, if_pos hf]
  case absorbed =>
    intro hu hb
    have hf : ¬ (s.advance 1).dep.frozen = true := by simp [s.advance_dep 1 hu, s.thawed_of_up hu]
    rw [exec_softRst s h hu, State.softAsk, if_neg hf, if_pos (by simpa using hb)]
  case dark =>
    intro hu hs hp hd
    have hx := exec_softRst s h hu
    rw [s.advance_up 1 hu] at hx
    have hr : ({ s with tb := s.tb.run 1 } : State).softAsk h = ({ s with tb := s.tb.run 1 } : State).powerRefused 8 := by
      rw [State.softAsk, if_neg (by simp [s.thawed_of_up hu]), if_neg (by simp [hs, hp]), if_pos hd]
    rw [hr] at hx
    have hap := State.apart_raise { s with tb := s.tb.run 1, pw := { s.pw with reason := 8 } } (chipSrc 30)
    exact ⟨_, hx, (congrArg State.pw hap.1 :), State.evSet_raise _ _ (by decide), hap.repowered⟩
  case soft =>
    intro hu hs hp hd
    have he := exec_softRst s h hu
    rw [s.advance_up 1 hu] at he
    obtain ⟨n, b, hb, hx⟩ := State.softAsk_spine { s with tb := s.tb.run 1 } h (s.thawed_of_up hu) hs hp hd
    generalize State.softAsk _ h = t at he hx
    have hpw : t.pw = _ := congrArg Spine.pw hx
    refine ⟨t, he, ?_, ?_, ?_, ?_, ?_, ?_, congrArg Spine.trigs hx, fun hne => ?_, ?_, congrArg Spine.restarting hx,
      congrArg Spine.supGen hx, congrArg Spine.hostGen hx, congrArg Spine.dn hx, congrArg Spine.hostReset hx, ?_,
      congrArg Spine.msg hx, fun u hn hpow => ?_⟩
    iterate 6
      rw [hpw]
      rfl
    · exact (congrArg Spine.tref hx).trans (foldl_count _ hne _)
    · rw [hpw]
      rfl
    · exact (congrArg (fun x : Spine => x.tb.age) hx).trans hb
    · have hfl : (t.tile u).inReset = _ := congrArg (fun x : Spine => (x.flags u).2) hx
      rw [hfl]
      exact congrArg Prod.snd (if_pos ⟨List.mem_range.2 hn, hpow⟩)
  case done =>
    intro hsoft
    have hx := exec_softResetDone s hu
    rw [if_pos hsoft] at hx
    have hs := s.softEnd_spine
    refine ⟨_, hx, congrArg Spine.pw hs, congrArg Spine.restarting hs, fun u hn => ?_, congrArg Spine.tb hs, congrArg Spine.msg hs⟩
    have hfl : (s.softEnd.tile u).inReset = _ := congrArg (fun x : Spine => (x.flags u).2) hs
    rw [hfl]
    simp only [Spine.freed]
    split
    next => rfl
    next hk => exact (show (s.tile u).inReset = false by simpa [hn] using hk)
  case noDone =>
    intro hsoft
    rw [exec_softResetDone s hu, hsoft]
    rfl
end

section

namespace Sys2Proof.Machine

open Sys2Proof

variable (s : State)

/-! ## O7: the number of the epoch (R43, R44, R448)

Most operations leave the whole timebase (`_tb`); those that let time pass or change another field of it keep the number of
the epoch (`_epoch`). -/

theorem forKeys_tb {f : Nat → State → State} (h : ∀ k s, (f k s).tb = s.tb) (ks : List Nat) (s : State) :
    (forKeys ks f s).tb = s.tb :=
  forKeys_keeps (R := fun s t => t.tb = s.tb) (fun _ => rfl) (fun h k => k.trans h) h ks s

theorem forKeys_epoch {f : Nat → State → State} (h : ∀ k s, (f k s).tb.epoch = s.tb.epoch) (ks : List Nat) (s : State) :
    (forKeys ks f s).tb.epoch = s.tb.epoch :=
  forKeys_keeps (R := fun s t => t.tb.epoch = s.tb.epoch) (fun _ => rfl) (fun h k => k.trans h) h ks s

theorem foldl_tb {α : Type} {f : State → α → State} (h : ∀ s x, (f s x).tb = s.tb) (l : List α) (s : State) :
    (l.foldl f s).tb = s.tb :=
  List.foldlRecOn (motive := fun w : State => w.tb = s.tb) l f rfl fun w hw x _ => (h w x).trans hw

theorem foldl_epoch {α : Type} {f : State → α → State} (h : ∀ s x, (f s x).tb.epoch = s.tb.epoch) (l : List α)
    (s : State) : (l.foldl f s).tb.epoch = s.tb.epoch :=
  List.foldlRecOn (motive := fun w : State => w.tb.epoch = s.tb.epoch) l f rfl fun w hw x _ => (h w x).trans hw

@[simp] theorem State.tb_ite {p : Prop} [Decidable p] (s t : State) : (if p then s else t).tb = if p then s.tb else t.tb :=
  apply_ite _ p s t

@[simp] theorem Timebase.epoch_ite {p : Prop} [Decidable p] (b c : Timebase) :
    (if p then b else c).epoch = if p then b.epoch else c.epoch :=
  apply_ite _ p b c

@[simp] theorem Timebase.rampCut_epoch (b : Timebase) : b.rampCut.epoch = b.epoch := by
  unfold Timebase.rampCut
  split <;> rfl

@[simp] theorem Timebase.startProfile_epoch (b : Timebase) (auto : Bool) (segs : List Seg) :
    (b.startProfile auto segs).epoch = b.epoch := rfl

@[simp] theorem Timebase.startAuto_epoch (b : Timebase) (r : AutoReq) : (b.startAuto r).epoch = b.epoch := rfl

@[simp] theorem Timebase.nextSegment_epoch (b : Timebase) : b.nextSegment.epoch = b.epoch := by
  unfold Timebase.nextSegment
  split
  · exact Timebase.rampTo_epoch _ _
  · rfl

/-! ### The shared operations (Sys2Proof/Machine/Ops.lean) -/

@[simp] theorem State.advanceTo_epoch (a : Nat) : (s.advanceTo a).tb.epoch = s.tb.epoch := by simp [State.advanceTo]
@[simp] theorem State.sendWait_tb (cls idx : Nat) (w : Wait) : (s.sendWait cls idx w).tb = s.tb := rfl
@[simp] theorem State.putEntry_tb (kind source detail : Nat) : (s.putEntry kind source detail).tb = s.tb := rfl
@[simp] theorem State.log_tb (kind source detail : Nat) : (s.log kind source detail).tb = s.tb := by simp [State.log]
@[simp] theorem State.setSticky_tb (k : Nat) : (s.setSticky k).tb = s.tb := by simp [State.setSticky]
@[simp] theorem State.routeAlert_tb (k : Nat) (at_ : Time) (unmask : Bool) :
    (s.routeAlert k at_ unmask).tb = s.tb := by simp [State.routeAlert]
@[simp] theorem State.raiseQuiet_tb (k : Nat) : (s.raiseQuiet k).tb = s.tb := by simp [State.raiseQuiet]
@[simp] theorem State.placePost_tb (k : Nat) : (s.placePost k).tb = s.tb := rfl
@[simp] theorem State.routeBox_tb (k : Nat) : (s.routeBox k).tb = s.tb := by simp [State.routeBox]
@[simp] theorem State.routes_tb (k : Nat) (at_ : Time) (unmask : Bool) :
    (s.routes k at_ unmask).tb = s.tb := by simp [State.routes]
@[simp] theorem State.raiseAt_tb (k : Nat) (at_ : Time) : (s.raiseAt k at_).tb = s.tb := by simp [State.raiseAt]
@[simp] theorem State.raise_tb (k : Nat) : (s.raise k).tb = s.tb := by simp [State.raise]
@[simp] theorem State.clear2_tb (m : MemId) (lo n : Nat) : (s.clear2 m lo n).tb = s.tb := rfl
@[simp] theorem State.uncorrectable_tb : s.uncorrectable.tb = s.tb := by simp [State.uncorrectable]
@[simp] theorem State.draw_tb : s.draw.2.tb = s.tb := rfl

/-! ### Queues (Sys2Proof/Machine/Queues.lean) -/

@[simp] theorem State.setQWord_tb (t q pos : Nat) (w : QWord) : (s.setQWord t q pos w).tb = s.tb := rfl
@[simp] theorem State.qSticky_tb (t q : Nat) (f : Queue → Queue) : (s.qSticky t q f).tb = s.tb := rfl
@[simp] theorem State.qRefuse_tb (t q n : Nat) : (s.qRefuse t q n).tb = s.tb := by simp [State.qRefuse]
@[simp] theorem State.fcoRise_tb (k : Nat) : (s.fcoRise k).tb = s.tb := by simp [State.fcoRise]
@[simp] theorem State.fcoReturn_tb (k : Nat) : (s.fcoReturn k).tb = s.tb := by simp [State.fcoReturn]
@[simp] theorem State.qEval_tb (t q : Nat) : (s.qEval t q).tb = s.tb := by simp [State.qEval]
@[simp] theorem State.qPoison_tb (t q : Nat) :
    (s.qPoison t q).tb = s.tb := by simp -implicitDefEqProofs [State.qPoison, forKeys_tb]
@[simp] theorem State.qRead_tb (t q pos : Nat) : (s.qRead t q pos).2.2.tb = s.tb := by simp [State.qRead]
@[simp] theorem State.putWords_tb (t q pos age : Nat) (ws : List (W64 × Option SliceTag)) :
    (s.putWords t q pos age ws).tb = s.tb := by
  induction ws generalizing s pos with
  | nil => rfl
  | cons x xs ih => simp [State.putWords, ih]
@[simp] theorem State.qPut_tb (t q age : Nat) (ws : List (W64 × Option SliceTag)) :
    (s.qPut t q age ws).tb = s.tb := by simp [State.qPut]
@[simp] theorem State.qOffer_tb (t q age : Nat) (ws : List W64) : (s.qOffer t q age ws).2.tb = s.tb := by
  unfold State.qOffer
  split <;> simp
@[simp] theorem State.lbExpire_tb (t : Nat) : (s.lbExpire t).tb = s.tb := by simp [State.lbExpire]
@[simp] theorem State.lbOffer_tb (t age : Nat) (w : W64) : (s.lbOffer t age w).2.tb = s.tb := by
  simp only [State.lbOffer]
  split <;> simp
@[simp] theorem State.capOffer_tb (t q age : Nat) (w : W64) : (s.capOffer t q age w).2.tb = s.tb := by
  unfold State.capOffer
  split <;> simp
@[simp] theorem State.qEmit_tb (t q : Nat) (w : W64) : (s.qEmit t q w).tb = s.tb := by simp [State.qEmit]
@[simp] theorem State.qRewind_tb (t q : Nat) : (s.qRewind t q).tb = s.tb := by simp [State.qRewind]
@[simp] theorem State.qCommit_tb (t q : Nat) : (s.qCommit t q).tb = s.tb := by simp [State.qCommit]
@[simp] theorem State.qReads_tb (t q pos n : Nat) : (s.qReads t q pos n).2.tb = s.tb := by
  induction n generalizing s pos with
  | zero => rfl
  | succ n ih => simp [State.qReads, ih]
@[simp] theorem State.qTake_tb (t q n : Nat) : (s.qTake t q n).tb = s.tb := by simp [State.qTake]
@[simp] theorem State.lbGone_tb (t : Nat) : (s.lbGone t).tb = s.tb := by simp -implicitDefEqProofs [State.lbGone, foldl_tb]
@[simp] theorem State.qFlush_tb (t q : Nat) :
    (s.qFlush t q).tb = s.tb := by simp -implicitDefEqProofs [State.qFlush, forKeys_tb]
@[simp] theorem State.flushCmd_tb (t q : Nat) : (s.flushCmd t q).tb = s.tb := by simp [State.flushCmd]

/-! ### Capture (Sys2Proof/Machine/Capture.lean) -/

@[simp] theorem State.flushHeld_tb (t q : Nat) (limit : Option Nat) (ms : List HeldMark) :
    (s.flushHeld t q limit ms).1.tb = s.tb := by
  induction ms generalizing s with
  | nil => rfl
  | cons m ms ih => cases limit <;> simp [State.flushHeld, apply_ite Prod.fst, ih]
@[simp] theorem State.settleHeld_tb (t q : Nat) (limit : Option Nat) :
    (s.settleHeld t q limit).tb = s.tb := by simp [State.settleHeld]
@[simp] theorem State.giveMarks_tb (t q : Nat) (ms : List HeldMark) :
    (s.giveMarks t q ms).tb = s.tb := by simp [State.giveMarks]
@[simp] theorem State.markTile_tb (t barrier : Nat) (ws : List W64) :
    (s.markTile t barrier ws).tb = s.tb := by simp -implicitDefEqProofs [State.markTile, forKeys_tb]
@[simp] theorem State.markAll_tb (barrier : Nat) (ws : List W64) :
    (s.markAll barrier ws).tb = s.tb := by simp -implicitDefEqProofs [State.markAll, forKeys_tb]
@[simp] theorem State.hoRestart_tb : s.hoRestart.tb = s.tb := by simp -implicitDefEqProofs [State.hoRestart, forKeys_tb]
@[simp] theorem State.ringCount_tb (t slot pos : Nat) : (s.ringCount t slot pos).tb = s.tb := rfl
@[simp] theorem State.refuseHit_tb (t c : Nat) (d : Dest) (late : Bool) : (s.refuseHit t c d late).tb = s.tb := rfl
@[simp] theorem State.commitPush_tb (t : Nat) (d : Dest) : (s.commitPush t d).tb = s.tb := rfl
@[simp] theorem State.commitHit_tb (t c : Nat) (d : Dest) (h : Hit) :
    (s.commitHit t c d h).tb = s.tb := by simp [State.commitHit]

/-! ### The time plane (Sys2Proof/Machine/TimePlane.lean) -/

@[simp] theorem State.updQuality_tb : s.updQuality.tb = s.tb := by simp [State.updQuality]
@[simp] theorem State.rampAsk_epoch : s.rampAsk.tb.epoch = s.tb.epoch := by simp [State.rampAsk]
@[simp] theorem State.addCause_epoch (i due : Nat) : (s.addCause i due).tb.epoch = s.tb.epoch := rfl
@[simp] theorem State.dropDark_tb (reason : Nat) : (s.dropDark reason).tb = s.tb := by simp [State.dropDark]
@[simp] theorem State.latchTime_epoch : s.latchTime.tb.epoch = s.tb.epoch := rfl
@[simp] theorem State.setTime_epoch (due : Nat) : (s.setTime due).tb.epoch = s.tb.epoch := rfl
@[simp] theorem State.suspectFrom_tb (lo : Nat) : (s.suspectFrom lo).tb = s.tb := by
  refine forKeys_tb (fun t s => ?_) _ s
  refine (forKeys_tb (fun q s => forKeys_tb (fun i s => ?_) _ s) _ _).trans rfl
  dsimp only
  split <;> simp
@[simp] theorem State.unlock_epoch (lead : Nat) : (s.unlock lead).tb.epoch = s.tb.epoch := by
  unfold State.unlock
  split <;> simp
@[simp] theorem State.refSwitch_epoch (old : Bool) : (s.refSwitch old).tb.epoch = s.tb.epoch := by simp [State.refSwitch]
@[simp] theorem State.decideReturn_epoch (e : Int) : (s.decideReturn e).tb.epoch = s.tb.epoch := by simp [State.decideReturn]
@[simp] theorem State.replicaMiss_epoch (t : Nat) (at_ : Time) :
    (s.replicaMiss t at_).tb.epoch = s.tb.epoch := by simp [State.replicaMiss]

/-! ### The dispatcher (Sys2Proof/Machine/Dispatcher.lean) -/

@[simp] theorem State.setCxWord_tb (t a : Nat) (w : W64) : (s.setCxWord t a w).tb = s.tb := rfl
@[simp] theorem State.setCxWords_tb (t a : Nat) (ws : List W64) : (s.setCxWords t a ws).tb = s.tb := by
  induction ws generalizing s a with
  | nil => rfl
  | cons x xs ih => simp [State.setCxWords, ih]
@[simp] theorem State.pushBuf_tb (t e : Nat) (f : List DItem → List DItem) : (s.pushBuf t e f).tb = s.tb := rfl
@[simp] theorem State.breakAll_tb (t e : Nat) (slices : Bool) :
    (s.breakAll t e slices).tb = s.tb := by simp -implicitDefEqProofs [State.breakAll, forKeys_tb]
@[simp] theorem State.readSlice_tb (t : Nat) (tag : SliceTag) (bad fin : Bool) : (s.readSlice t tag bad fin).tb = s.tb := rfl
@[simp] theorem State.readBarrier_tb (t e age : Nat) (w : W64) : (s.readBarrier t e age w).tb = s.tb := rfl
@[simp] theorem State.readSeconds_tb (t e : Nat) (w : W64) : (s.readSeconds t e w).tb = s.tb := rfl
@[simp] theorem State.readWord_tb (t e : Nat) : (s.readWord t e).tb = s.tb := by
  simp only [State.readWord]
  split <;> simp
@[simp] theorem State.readAll_tb (t e : Nat) :
    (s.readAll t e).tb = s.tb := by simp -implicitDefEqProofs [State.readAll, forKeys_tb]
@[simp] theorem State.putMarkers_tb (t e : Nat) (ws : List W64) : (s.putMarkers t e ws).tb = s.tb := by
  simp -implicitDefEqProofs [State.putMarkers, forKeys_tb, foldl_tb]
@[simp] theorem State.giveItem_tb (t c : Nat) (i : Item) : (s.giveItem t c i).tb = s.tb := rfl
@[simp] theorem State.releaseHit_tb (t c : Nat) (d : DItem) : (s.releaseHit t c d).tb = s.tb := by simp [State.releaseHit]
@[simp] theorem State.releaseBarrier_tb (t c : Nat) (d : DItem) (epoch : Nat) :
    (s.releaseBarrier t c d epoch).tb = s.tb := by simp [State.releaseBarrier]
@[simp] theorem State.releaseStart_tb (t c : Nat) (d : DItem) (epoch : Nat) :
    (s.releaseStart t c d epoch).tb = s.tb := by simp [State.releaseStart]
@[simp] theorem State.useMark_tb (t ord : Nat) (frag : Bool) : (s.useMark t ord frag).tb = s.tb := rfl
@[simp] theorem State.endContext_tb (t e c : Nat) : (s.endContext t e c).tb = s.tb := by
  simp only [State.endContext]
  repeat' split
  all_goals simp -implicitDefEqProofs [forKeys_tb]
@[simp] theorem State.release_tb (t e : Nat) (d : DItem) : (s.release t e d).tb = s.tb := by
  unfold State.release
  repeat' split
  all_goals simp -implicitDefEqProofs [forKeys_tb]
@[simp] theorem State.releaseNext_tb (t e : Nat) : (s.releaseNext t e).tb = s.tb := by
  unfold State.releaseNext
  split <;> simp
@[simp] theorem State.inject_tb (t e : Nat) (d : DItem) : (s.inject t e d).tb = s.tb := rfl
@[simp] theorem State.saveRegs_tb (t e : Nat) : (s.saveRegs t e).tb = s.tb := by simp [State.saveRegs]
@[simp] theorem State.loadRegs_tb (t e c : Nat) : (s.loadRegs t e c).tb = s.tb := rfl
@[simp] theorem State.switchTo_tb (t e c : Nat) (trig : Bool) : (s.switchTo t e c trig).tb = s.tb := by simp [State.switchTo]
@[simp] theorem State.copyBlocks_tb (t e src dst : Nat) : (s.copyBlocks t e src dst).tb = s.tb := by
  simp -implicitDefEqProofs [State.copyBlocks, forKeys_tb]
@[simp] theorem State.ckptStore_tb (t e : Nat) : (s.ckptStore t e).tb = s.tb := by simp [State.ckptStore]
@[simp] theorem State.checkpoint_tb (t e : Nat) : (s.checkpoint t e).tb = s.tb := by simp [State.checkpoint]
@[simp] theorem State.rewindAll_tb (t e : Nat) :
    (s.rewindAll t e).tb = s.tb := by simp -implicitDefEqProofs [State.rewindAll, forKeys_tb]
@[simp] theorem State.restore_tb (t e : Nat) :
    (s.restore t e).tb = s.tb := by simp -implicitDefEqProofs [State.restore, forKeys_tb]
@[simp] theorem State.haltCtx_tb (t c : Nat) : (s.haltCtx t c).tb = s.tb := by
  simp only [State.haltCtx]
  split <;> simp
@[simp] theorem State.moveEngine_tb (t src dst srcSt : Nat) : (s.moveEngine t src dst srcSt).tb = s.tb := rfl
@[simp] theorem State.takeBack_tb (t e : Nat) : (s.takeBack t e).tb = s.tb := by simp [State.takeBack]
@[simp] theorem State.badBlock_tb (t e c : Nat) : (s.badBlock t e c).tb = s.tb := by simp [State.badBlock]

/-! ### The engines (Sys2Proof/Machine/Engines.lean) -/

@[simp] theorem State.setG_tb (t e : Nat) (r : BitVec 5) (v : W64) : (s.setG t e r v).tb = s.tb := by simp [State.setG]
@[simp] theorem State.setA_tb (t e : Nat) (a : BitVec 2) (v : Acc) : (s.setA t e a v).tb = s.tb := rfl
@[simp] theorem State.progFault_tb (t e cause : Nat) :
    (s.progFault t e cause).tb = s.tb := by simp -implicitDefEqProofs [State.progFault, forKeys_tb]
@[simp] theorem State.retireOp_tb (t e cycles : Nat) (pc : Int) :
    (s.retireOp t e cycles pc).tb = s.tb := by simp [State.retireOp]
@[simp] theorem State.emitWord_tb (t e q : Nat) (w : W64) (header : Bool) :
    (s.emitWord t e q w header).tb = s.tb := by simp [State.emitWord]
@[simp] theorem State.commitPacket_tb (t e q : Nat) : (s.commitPacket t e q).tb = s.tb := by
  simp only [State.commitPacket]
  split <;> simp
@[simp] theorem State.deliver_tb (t e : Nat) (i : Item) (imm : BitVec 24) :
    (s.deliver t e i imm).tb = s.tb := by simp [State.deliver]
@[simp] theorem State.opWait_tb (t e : Nat) (imm : BitVec 24) : (s.opWait t e imm).tb = s.tb := by
  unfold State.opWait
  extract_lets y c s' x last endSlice
  split
  · simp
  · have hs : s'.tb = s.tb := by simp [s']
    have he : (endSlice s').tb = s.tb := hs
    clear_value s' x last endSlice
    repeat' split
    all_goals simp [hs, he]
@[simp] theorem State.opCheckpoint_tb (t e : Nat) : (s.opCheckpoint t e).tb = s.tb := by simp [State.opCheckpoint]
theorem State.opRun_tb {t e : Nat} {op : EngOp} {r : State × Int × Bool} (h : s.opRun t e op = .ok r) : r.1.tb = s.tb := by
  cases op
  case ld | st | lda | sta | emit | emith | commit | rewind =>
    unfold State.opRun at h
    dsimp only at h
    split at h
    · cases h <;> simp
    · cases h <;> simp
  all_goals cases h; simp
@[simp] theorem State.opStep_tb (t e : Nat) (op : EngOp) : (s.opStep t e op).tb = s.tb := by
  unfold State.opStep
  split
  next => simp
  next h =>
    have hp := s.opRun_tb h
    split <;> simpa using hp

/-! ### Time transfer (Sys2Proof/Machine/Transfer.lean) -/

@[simp] theorem State.onSlot_epoch (bad : Bool) (f : State → State) (h : ∀ s, (f s).tb.epoch = s.tb.epoch) :
    (s.onSlot bad f).tb.epoch = s.tb.epoch := by
  unfold State.onSlot
  split
  · split
    · rfl
    · exact h s
  · rfl
@[simp] theorem State.ttDiscard_tb (reason : Nat) : (s.ttDiscard reason).tb = s.tb := rfl
@[simp] theorem State.closeExch_tb (id : BitVec 8) : (s.closeExch id).tb = s.tb := rfl
@[simp] theorem State.modExch_tb (id : BitVec 8) (f : Exch → Exch) : (s.modExch id f).tb = s.tb := rfl
@[simp] theorem State.endRun_tb : s.endRun.tb = s.tb := rfl
@[simp] theorem State.growRun_tb (m : Meas) : (s.growRun m).tb = s.tb := by simp [State.growRun]
@[simp] theorem State.blockAct_epoch (th o : Int) : (s.blockAct th o).tb.epoch = s.tb.epoch := by simp [State.blockAct]
@[simp] theorem State.growBlock_epoch (m : Meas) : (s.growBlock m).tb.epoch = s.tb.epoch := by simp [State.growBlock]
@[simp] theorem State.average_epoch (m : Meas) : (s.average m).tb.epoch = s.tb.epoch := by simp [State.average]
@[simp] theorem State.averageAll_epoch (ms : List Meas) :
    (s.averageAll ms).tb.epoch = s.tb.epoch := by simp -implicitDefEqProofs [State.averageAll, foldl_epoch]
@[simp] theorem State.pathChange_epoch (run : List Meas) (m : Meas) :
    (s.pathChange run m).tb.epoch = s.tb.epoch := by simp [State.pathChange]
@[simp] theorem State.pathTest_epoch (m : Meas) : (s.pathTest m).tb.epoch = s.tb.epoch := by simp [State.pathTest]
@[simp] theorem State.endHold_tb : s.endHold.tb = s.tb := by simp [State.endHold]
@[simp] theorem State.measured_epoch (x : Exch) (theta rtt : Int) :
    (s.measured x theta rtt).tb.epoch = s.tb.epoch := by simp [State.measured]
@[simp] theorem State.tryComplete_epoch (id : BitVec 8) : (s.tryComplete id).tb.epoch = s.tb.epoch := by
  unfold State.tryComplete
  repeat' split
  · dsimp only
    split <;> simp
  all_goals rfl
@[simp] theorem State.onExch_epoch (bits_ : BitVec 52) (bad : Bool)
    (f : BitVec 8 → State → State) (h : ∀ k s, (f k s).tb.epoch = s.tb.epoch) :
    (s.onExch bits_ bad f).tb.epoch = s.tb.epoch := by
  refine State.onSlot_epoch _ _ _ (fun s => ?_)
  split
  · dsimp only
    split
    · exact h _ s
    · simp
  · rfl

/-! ### Triggers (Sys2Proof/Machine/Trigger.lean) -/

@[simp] theorem State.scanReads_tb (t : Nat) (p : Trig) :
    (s.scanReads t p).tb = s.tb := by simp -implicitDefEqProofs [State.scanReads, forKeys_tb]
@[simp] theorem State.tref_tb (id code reason epoch : Nat) : (s.tref id code reason epoch).tb = s.tb := by simp [State.tref]
@[simp] theorem State.dropMarks_tb (ord : Nat) :
    (s.dropMarks ord).tb = s.tb := by simp -implicitDefEqProofs [State.dropMarks, forKeys_tb]
@[simp] theorem State.setSlices_tb (t ord n : Nat) : (s.setSlices t ord n).tb = s.tb := rfl
@[simp] theorem State.openGates_tb (p : Trig) :
    (s.openGates p).tb = s.tb := by simp -implicitDefEqProofs [State.openGates, forKeys_tb]
@[simp] theorem State.fragless_tb (p : Trig) :
    (s.fragless p).tb = s.tb := by simp -implicitDefEqProofs [State.fragless, forKeys_tb]
@[simp] theorem State.tacc_tb (p : Trig) (fs : List Frag) : (s.tacc p fs).tb = s.tb := by simp [State.tacc]
@[simp] theorem State.fragMissing_tb (t : Nat) : (s.fragMissing t).tb = s.tb := by simp [State.fragMissing]
@[simp] theorem State.fragWhole_tb (t ord : Nat) : (s.fragWhole t ord).tb = s.tb := by simp [State.fragWhole]
@[simp] theorem State.fragStep_tb (t : Nat) : (s.fragStep t).tb = s.tb := by
  simp only [State.fragStep]
  repeat' split
  all_goals simp
@[simp] theorem State.sliceRead_tb (t c : Nat) (g : Gate) (lead : Bool) (i : Nat) :
    (s.sliceRead t c g lead i).2.tb = s.tb := by simp [State.sliceRead]
@[simp] theorem State.sliceLeads_tb (t c : Nat) (g : Gate) (is : List Nat) : (s.sliceLeads t c g is).2.tb = s.tb := by
  induction is generalizing s with
  | nil => rfl
  | cons x xs ih => simp [State.sliceLeads, ih]
@[simp] theorem State.sliceBody_tb (t c : Nat) (g : Gate) (is : List Nat) (ws : List SliceWord) :
    (s.sliceBody t c g is ws).2.tb = s.tb := by
  induction is generalizing s ws with
  | nil => rfl
  | cons i is ih => simp [State.sliceBody, ih]
@[simp] theorem State.putSlice_tb (t q : Nat) (ws : List SliceWord) :
    (s.putSlice t q ws).tb = s.tb := by simp -implicitDefEqProofs [State.putSlice, forKeys_tb]
@[simp] theorem State.sliceDone_tb (t c : Nat) (g : Gate) : (s.sliceDone t c g).tb = s.tb := rfl

/-! ### The links (Sys2Proof/Machine/Links.lean) -/

@[simp] theorem State.modLane_tb (l : Nat) (f : Lane → Lane) : (s.modLane l f).tb = s.tb := rfl
@[simp] theorem State.restartOn_tb (cls idx : Nat) (v : W64) : (s.restartOn cls idx v).tb = s.tb := rfl
@[simp] theorem State.restartTier1_tb (v : W64) :
    (s.restartTier1 v).tb = s.tb := by simp -implicitDefEqProofs [State.restartTier1, forKeys_tb]
@[simp] theorem State.restartData_tb (v : W64) :
    (s.restartData v).tb = s.tb := by simp -implicitDefEqProofs [State.restartData, forKeys_tb]
@[simp] theorem State.restartAll_tb (cause tile eng : Nat) :
    (s.restartAll cause tile eng).tb = s.tb := by simp [State.restartAll]
@[simp] theorem State.imageRestart_tb : s.imageRestart.tb = s.tb := by
  unfold State.imageRestart
  split <;> simp
@[simp] theorem State.linkUp_tb : s.linkUp.tb = s.tb := by
  unfold State.linkUp
  repeat' split
  all_goals simp -implicitDefEqProofs [forKeys_tb]
@[simp] theorem State.putLane_tb (l : Nat) (st : LaneState) : (s.putLane l st).tb = s.tb := rfl
@[simp] theorem State.noteDown_tb : s.noteDown.tb = s.tb := by simp [State.noteDown]
@[simp] theorem State.trainAll_tb : s.trainAll.tb = s.tb := by simp -implicitDefEqProofs [State.trainAll, forKeys_tb]
@[simp] theorem State.refuseFast_tb : s.refuseFast.tb = s.tb := rfl
@[simp] theorem State.respond_tb (h : CtlHead) (status first : Nat) (data : List W64) :
    (s.respond h status first data).tb = s.tb := by simp [State.respond]
@[simp] theorem State.cutFrame_tb (h : Option CtlHead) : (s.cutFrame h).tb = s.tb := by
  unfold State.cutFrame
  split <;> simp
@[simp] theorem State.stall_tb : s.stall.tb = s.tb := by simp [State.stall]
@[simp] theorem State.closeFrame_tb (i : Nat) : (s.closeFrame i).tb = s.tb := by
  simp only [State.closeFrame]
  split <;> simp
@[simp] theorem State.packItem_tb (i : Nat) (ws : List W64) (clean : Bool) : (s.packItem i ws clean).tb = s.tb := by
  simp only [State.packItem]
  repeat' split
  all_goals simp
@[simp] theorem State.plainPacket_tb (i : Nat) (ws : List W64) : (s.plainPacket i ws).tb = s.tb := by
  unfold State.plainPacket
  split <;> simp
@[simp] theorem State.claimPacket_tb (t q : Nat) : (s.claimPacket t q).2.2.tb = s.tb := by simp [State.claimPacket]
@[simp] theorem State.noteTier1_tb (f : Frame) : (s.noteTier1 f).tb = s.tb := by simp [State.noteTier1]
@[simp] theorem State.sendFrame_tb (l : Nat) (f : Frame) : (s.sendFrame l f).tb = s.tb := by simp [State.sendFrame]
@[simp] theorem State.sendNext_tb (l cls idx : Nat) : (s.sendNext l cls idx).tb = s.tb := by
  unfold State.sendNext
  split <;> simp
@[simp] theorem State.sendNew_tb (l : Nat) : (s.sendNew l).tb = s.tb := by
  simp only [State.sendNew]
  repeat' split
  all_goals simp
@[simp] theorem State.frameDone_tb (f : Frame) : (s.frameDone f).tb = s.tb := by simp [State.frameDone]
@[simp] theorem State.resend_tb (l : Nat) (u : Unacked) : (s.resend l u).tb = s.tb := by simp [State.resend]
@[simp] theorem State.sendFresh_tb (l : Nat) : (s.sendFresh l).tb = s.tb := by
  unfold State.sendFresh
  split <;> simp
@[simp] theorem State.transmit_epoch (l : Nat) : (s.transmit l).tb.epoch = s.tb.epoch := by
  unfold State.transmit
  repeat' split
  all_goals simp
@[simp] theorem State.onLane_epoch (b : BitVec 48) (reserved : Nat) (f : Nat → State → State)
    (h : ∀ l s, (f l s).tb.epoch = s.tb.epoch) :
    (s.onLane b reserved f).tb.epoch = s.tb.epoch := by
  unfold State.onLane
  dsimp only
  split
  · simp
  · exact h _ s
@[simp] theorem State.ignoreAck_tb : s.ignoreAck.tb = s.tb := rfl
@[simp] theorem State.ackLane_tb (l lseq : Nat) :
    (s.ackLane l lseq).tb = s.tb := by simp -implicitDefEqProofs [State.ackLane, foldl_tb]
@[simp] theorem State.nakLane_tb (l lseq : Nat) : (s.nakLane l lseq).tb = s.tb := by simp [State.nakLane]
@[simp] theorem State.upLane_tb (l : Nat) : (s.upLane l).tb = s.tb := by simp -implicitDefEqProofs [State.upLane, forKeys_tb]
@[simp] theorem State.retrainLane_tb (l : Nat) :
    (s.retrainLane l).tb = s.tb := by simp -implicitDefEqProofs [State.retrainLane, forKeys_tb]
@[simp] theorem State.newChal_tb : s.newChal.tb = s.tb := rfl
@[simp] theorem State.noteReset_tb (cause tile eng : Nat) : (s.noteReset cause tile eng).tb = s.tb := rfl
@[simp] theorem State.setDn_epoch (d : DnState) : (s.setDn d).tb.epoch = s.tb.epoch := by simp [State.setDn]
@[simp] theorem State.linkReset_epoch (h : Option CtlHead) :
    (s.linkReset h).tb.epoch = s.tb.epoch := by simp -implicitDefEqProofs [State.linkReset, forKeys_epoch]

/-! ### Calibration (Sys2Proof/Machine/Calibration.lean) -/

@[simp] theorem State.calChoose_tb : s.calChoose.tb = s.tb := by simp [State.calChoose]
@[simp] theorem State.loadTrims_tb (t c : Nat) : (s.loadTrims t c).tb = s.tb := rfl
@[simp] theorem State.stepTrims_tb (t c : Nat) : (s.stepTrims t c).tb = s.tb := by simp [State.stepTrims]
@[simp] theorem State.ageBegin_tb : s.ageBegin.tb = s.tb := rfl
@[simp] theorem State.ageFinish_tb (b : Bool) (t c : Nat) (entry : List Byte) :
    (s.ageFinish b t c entry).tb = s.tb := by simp [State.ageFinish]
@[simp] theorem State.checkAsk_tb (t c : Nat) : (s.checkAsk t c).tb = s.tb := by
  unfold State.checkAsk
  split <;> simp
@[simp] theorem State.checkRelease_tb (t c : Nat) : (s.checkRelease t c).tb = s.tb := by
  simp only [State.checkRelease]
  split <;> simp
@[simp] theorem State.checkEnd_tb (t c : Nat) (o : CheckOutcome) : (s.checkEnd t c o).tb = s.tb := by simp [State.checkEnd]
@[simp] theorem State.setTap_tb (t sel : Nat) : (s.setTap t sel).tb = s.tb := by simp [State.setTap]
@[simp] theorem State.hoRequest_tb (t input : Nat) (dir : Bool) (ovl due : Nat) :
    (s.hoRequest t input dir ovl due).tb = s.tb := by simp [State.hoRequest]
@[simp] theorem State.hoOpen_epoch (t : Nat) : (s.hoOpen t).tb.epoch = s.tb.epoch := by
  unfold State.hoOpen
  split <;> simp
@[simp] theorem State.hoCut_tb (t : Nat) : (s.hoCut t).tb = s.tb := by simp [State.hoCut]
@[simp] theorem State.channelFault_tb (t c : Nat) : (s.channelFault t c).tb = s.tb := by simp [State.channelFault]
@[simp] theorem State.decodeMismatch_tb (t c : Nat) : (s.decodeMismatch t c).tb = s.tb := by simp [State.decodeMismatch]
@[simp] theorem State.captureEdge_tb (t c age sub : Nat) (rise suspect : Bool) :
    (s.captureEdge t c age sub rise suspect).tb = s.tb := by simp [State.captureEdge]
@[simp] theorem State.captureAfter_tb (t c sub : Nat) (rise suspect : Bool) :
    (s.captureAfter t c sub rise suspect).tb = s.tb := by
  unfold State.captureAfter
  split <;> simp
@[simp] theorem State.hoTake_epoch (t : Nat) (out inc : List HoEdge) (diff : Int) :
    (s.hoTake t out inc diff).tb.epoch = s.tb.epoch := by
  simp -implicitDefEqProofs [State.hoTake, forKeys_epoch, foldl_epoch]
@[simp] theorem State.setRun_tb (r : ProofRun) : (s.setRun r).tb = s.tb := rfl
@[simp] theorem State.reply_tb (q : SupReq) (status : Nat) (body : List W64) : (s.reply q status body).tb = s.tb := rfl
@[simp] theorem State.serviceEnd_tb (q : SupReq) (status : Nat) (body : List W64) :
    (s.serviceEnd q status body).tb = s.tb := rfl
@[simp] theorem State.proofEnd_tb (r : ProofRun) (reason : Nat) : (s.proofEnd r reason).tb = s.tb := by
  simp only [State.proofEnd]
  split <;> simp
@[simp] theorem State.proofBack_tb (r : ProofRun) :
    (s.proofBack r).tb = s.tb := by simp -implicitDefEqProofs [State.proofBack]
@[simp] theorem State.proofFail_tb (r : ProofRun) (reason : Nat) :
    (s.proofFail r reason).tb = s.tb := by simp [State.proofFail]
@[simp] theorem State.proofOffset_tb (r : ProofRun) : (s.proofOffset r).tb = s.tb := rfl
@[simp] theorem State.proofHo_tb (t : Nat) : (s.proofHo t).tb = s.tb := by
  unfold State.proofHo
  split <;> simp
@[simp] theorem State.proofStart_tb : s.proofStart.tb = s.tb := by
  simp only [State.proofStart]
  split <;> simp
@[simp] theorem State.ageGone_tb : s.ageGone.tb = s.tb := by simp [State.ageGone]
@[simp] theorem State.proofStop_tb (reset : Bool) : (s.proofStop reset).tb = s.tb := by
  unfold State.proofStop
  split <;> simp
@[simp] theorem State.proofStore_tb : s.proofStore.tb = s.tb := by
  unfold State.proofStore
  split <;> simp
@[simp] theorem State.proofEvaluate_tb (r : ProofRun) (d : PassData) : (s.proofEvaluate r d).tb = s.tb := by
  unfold State.proofEvaluate
  split <;> simp
@[simp] theorem State.proofAdjust_tb (r : ProofRun) : (s.proofAdjust r).tb = s.tb := rfl
@[simp] theorem State.passEnd_tb (d : PassData) : (s.passEnd d).tb = s.tb := by
  unfold State.passEnd
  split <;> simp
@[simp] theorem State.sheetChan_tb (t c span : Nat) : (s.sheetChan t c span).tb = s.tb := by simp [State.sheetChan]
@[simp] theorem State.sheetRefresh_tb :
    s.sheetRefresh.tb = s.tb := by simp -implicitDefEqProofs [State.sheetRefresh, forKeys_tb]

/-! ### Inputs (Sys2Proof/Machine/Inputs.lean) -/

@[simp] theorem State.crossing_tb (t c sub : Nat) (rise mismatch : Bool) :
    (s.crossing t c sub rise mismatch).tb = s.tb := by simp [State.crossing]
@[simp] theorem State.setLatch_tb (t k : Nat) (v : Bool) : (s.setLatch t k v).tb = s.tb := by simp [State.setLatch]
@[simp] theorem State.lmFollow_tb (t : Nat) :
    (s.lmFollow t).tb = s.tb := by simp -implicitDefEqProofs [State.lmFollow, forKeys_tb]
@[simp] theorem State.lmRound_tb (t : Nat) : (s.lmRound t).tb = s.tb := by simp [State.lmRound]
@[simp] theorem State.lmStart_tb (t : Nat) : (s.lmStart t).tb = s.tb := by simp [State.lmStart]
@[simp] theorem State.lmRecord_tb (t k prev new : Nat) (at_ : Kept) : (s.lmRecord t k prev new at_).tb = s.tb := by
  unfold State.lmRecord
  split <;> simp
@[simp] theorem State.lmChanged_tb (t k prev new : Nat) : (s.lmChanged t k prev new).tb = s.tb := by simp [State.lmChanged]
@[simp] theorem State.lmTake_tb (t k x : Nat) : (s.lmTake t k x).tb = s.tb := by simp [State.lmTake]
@[simp] theorem State.lmNext_tb (t k : Nat) : (s.lmNext t k).tb = s.tb := by
  unfold State.lmNext
  split <;> simp
@[simp] theorem State.lmWake_tb (t : Nat) : (s.lmWake t).tb = s.tb := by
  unfold State.lmWake
  split
  · simp only [State.giveMarks_tb]
    refine forKeys_tb (fun k s => ?_) _ s
    split
    · split <;> simp
    · rfl
  · rfl

/-! ### Register writes (Sys2Proof/Machine/Writes.lean) -/

@[simp] theorem State.unmask_tb (first old new n : Nat) :
    (s.unmask first old new n).tb = s.tb := by simp -implicitDefEqProofs [State.unmask, forKeys_tb]
@[simp] theorem State.setChCfg_tb (t c : Nat) (w : Reg32) : (s.setChCfg t c w).tb = s.tb := by simp [State.setChCfg]
@[simp] theorem State.setChThr_tb (t c : Nat) (w : Reg32) : (s.setChThr t c w).tb = s.tb := by simp [State.setChThr]
@[simp] theorem State.setLmCtrl_tb (t : Nat) (w : Reg32) : (s.setLmCtrl t w).tb = s.tb := by simp [State.setLmCtrl]
@[simp] theorem State.setField_epoch (a : Nat) (w : Reg32) : (s.setField a w).tb.epoch = s.tb.epoch := by
  unfold State.setField
  repeat' split
  all_goals simp

/-! ### The image (Sys2Proof/Machine/Image.lean) -/

@[simp] theorem State.stage_tb (p : Place × W64) : (s.stage p).tb = s.tb := by
  unfold State.stage
  split <;> simp
@[simp] theorem State.stageRecs_tb (rs : List Rec) :
    (s.stageRecs rs).tb = s.tb := by simp -implicitDefEqProofs [State.stageRecs, foldl_tb]
@[simp] theorem State.bare_tb : s.bare.tb = s.tb := by simp -implicitDefEqProofs [State.bare, forKeys_tb]
@[simp] theorem State.stagedFull_tb (i : Image) : (s.stagedFull i).tb = s.tb := by simp [State.stagedFull]
@[simp] theorem State.stagedUpd_tb (i : Image) :
    (s.stagedUpd i).tb = s.tb := by simp -implicitDefEqProofs [State.stagedUpd, forKeys_tb]

/-! ### Prompt measurements (Sys2Proof/Machine/Prompt.lean) -/

@[simp] theorem State.prVote_tb (p : Nat) : (s.prVote p).tb = s.tb := by simp [State.prVote]
@[simp] theorem State.prSlot_tb : s.prSlot.tb = s.tb := by simp -implicitDefEqProofs [State.prSlot, forKeys_tb]
@[simp] theorem State.prForget_tb : s.prForget.tb = s.tb := by simp -implicitDefEqProofs [State.prForget, forKeys_tb]

/-! ### Configuration (Sys2Proof/Machine/Configuration.lean) -/

@[simp] theorem State.cfgResult_tb (reason tile rec_ : Nat) : (s.cfgResult reason tile rec_).tb = s.tb := rfl
@[simp] theorem State.cfgRefuse_tb (reason : Nat) : (s.cfgRefuse reason).tb = s.tb := rfl
@[simp] theorem State.slotSpoil_tb (b : Bool) : (s.slotSpoil b).tb = s.tb := rfl
@[simp] theorem State.slotBegin_tb (b : Bool) (len : Nat) : (s.slotBegin b len).tb = s.tb := rfl
@[simp] theorem State.slotFinish_tb (b : Bool) : (s.slotFinish b).tb = s.tb := rfl
@[simp] theorem State.slotClose_tb : s.slotClose.tb = s.tb := by
  simp only [State.slotClose]
  repeat' split
  all_goals simp
@[simp] theorem State.slotClear_tb : s.slotClear.tb = s.tb := by simp [State.slotClear]
@[simp] theorem State.imageSlot_tb (off : Nat) (b : List Byte) : (s.imageSlot off b).2.tb = s.tb := by
  unfold State.imageSlot
  repeat' split
  all_goals simp
@[simp] theorem State.imageStaged_tb (off : Nat) (b : List Byte) : (s.imageStaged off b).2.tb = s.tb := by
  unfold State.imageStaged
  repeat' split
  all_goals simp
@[simp] theorem State.imageBoot_tb (off : Nat) (b : List Byte) : (s.imageBoot off b).2.tb = s.tb := by
  unfold State.imageBoot
  repeat' split
  all_goals simp
@[simp] theorem State.imageWords_tb (off : Nat) (ws : List Reg32) : (s.imageWords off ws).2.tb = s.tb := by
  simp only [State.imageWords]
  repeat' split
  all_goals simp
@[simp] theorem State.putWrite_epoch (p : Place × W64) : (s.putWrite p).tb.epoch = s.tb.epoch := by
  unfold State.putWrite
  split <;> simp
@[simp] theorem State.dropWords_tb (t q : Nat) :
    (s.dropWords t q).tb = s.tb := by simp -implicitDefEqProofs [State.dropWords, forKeys_tb]
@[simp] theorem State.engineStart_tb (t e : Nat) (ctxs : List Nat) :
    (s.engineStart t e ctxs).tb = s.tb := by simp [State.engineStart]
@[simp] theorem State.tileStart_tb (t : Nat) :
    (s.tileStart t).tb = s.tb := by simp -implicitDefEqProofs [State.tileStart, forKeys_tb]
@[simp] theorem State.regroup_tb : s.regroup.tb = s.tb := by simp -implicitDefEqProofs [State.regroup, forKeys_tb]
@[simp] theorem State.applyImage_epoch (i : Image) (source : Nat) : (s.applyImage i source).tb.epoch = s.tb.epoch := by
  simp -implicitDefEqProofs [State.applyImage, forKeys_epoch, foldl_epoch]
@[simp] theorem State.loadSlots_epoch : s.loadSlots.tb.epoch = s.tb.epoch := by
  simp only [State.loadSlots]
  split <;> simp
@[simp] theorem State.loadBytes_epoch (m : Memory) (top cap source : Nat) :
    (s.loadBytes m top cap source).tb.epoch = s.tb.epoch := by
  simp only [State.loadBytes]
  repeat' split
  all_goals simp
@[simp] theorem State.bootImage_epoch : s.bootImage.tb.epoch = s.tb.epoch := by
  unfold State.bootImage
  split <;> simp
@[simp] theorem State.commitWaiting_tb (t c : Nat) : (s.commitWaiting t c).tb = s.tb := by
  refine forKeys_tb (fun k s => ?_) _ s
  split <;> simp
@[simp] theorem State.lbEmpty_tb (t : Nat) :
    (s.lbEmpty t).tb = s.tb := by simp -implicitDefEqProofs [State.lbEmpty, forKeys_tb]
@[simp] theorem State.reloadAsk_tb : s.reloadAsk.tb = s.tb := by simp -implicitDefEqProofs [State.reloadAsk, forKeys_tb]
@[simp] theorem State.reloadEnd_epoch : s.reloadEnd.tb.epoch = s.tb.epoch := by
  unfold State.reloadEnd
  split <;> simp
@[simp] theorem State.luFail_tb (reason tile rec_ : Nat) : (s.luFail reason tile rec_).tb = s.tb := by simp [State.luFail]
@[simp] theorem State.prepareAsk_tb : s.prepareAsk.tb = s.tb := by
  simp only [State.prepareAsk]
  repeat' split
  all_goals simp
@[simp] theorem State.prepareEnd_tb : s.prepareEnd.tb = s.tb := by
  simp only [State.prepareEnd]
  repeat' split
  all_goals simp
@[simp] theorem State.fixAsk_tb (arrived : Time) : (s.fixAsk arrived).tb = s.tb := by simp [State.fixAsk]
@[simp] theorem State.cancelAsk_tb : s.cancelAsk.tb = s.tb := by simp [State.cancelAsk]
@[simp] theorem State.fixRefused_tb (tile : Nat) : (s.fixRefused tile).tb = s.tb := by simp [State.fixRefused]
@[simp] theorem State.fixDecideNow_epoch : s.fixDecideNow.tb.epoch = s.tb.epoch := by
  simp only [State.fixDecideNow]
  repeat' split
  all_goals simp
@[simp] theorem State.modBoth_tb (t e c : Nat) (f : Ctx → Ctx) : (s.modBoth t e c f).tb = s.tb := rfl
@[simp] theorem State.retireCtx_tb (t e c : Nat) (x : FixAt) : (s.retireCtx t e c x).tb = s.tb := by simp [State.retireCtx]
@[simp] theorem State.startCtx_tb (t e k : Nat) (x : FixAt) : (s.startCtx t e k x).tb = s.tb := by simp [State.startCtx]
@[simp] theorem State.putBlock_tb (t c : Nat) (ws : List W64) : (s.putBlock t c ws).tb = s.tb := by simp [State.putBlock]
@[simp] theorem State.fixContexts_tb (old : State) (t : Nat) (ws : List (Place × W64)) (x : FixAt) :
    (s.fixContexts old t ws x).tb = s.tb := by
  simp -implicitDefEqProofs [State.fixContexts, forKeys_tb, foldl_tb]
@[simp] theorem State.fixTile_epoch (t : Nat) (rs : List Rec) (x : FixAt) : (s.fixTile t rs x).tb.epoch = s.tb.epoch := by
  simp only [State.fixTile, State.modTile_tb, State.fixContexts_tb]
  refine foldl_epoch (fun s p => ?_) _ s
  split <;> simp
@[simp] theorem State.fixNow_epoch : s.fixNow.tb.epoch = s.tb.epoch := by
  unfold State.fixNow
  split <;> simp -implicitDefEqProofs [forKeys_epoch, foldl_epoch]
@[simp] theorem State.fixLate_epoch (t : Nat) : (s.fixLate t).tb.epoch = s.tb.epoch := by
  unfold State.fixLate
  split <;> simp
@[simp] theorem State.repairAt_tb (want : State) (p : Place) : (s.repairAt want p).tb = s.tb := by
  unfold State.repairAt
  split <;> simp
@[simp] theorem State.countRepair_tb (t : Option Nat) : (s.countRepair t).tb = s.tb := by
  unfold State.countRepair
  split <;> simp
@[simp] theorem State.scrubRec_tb (want : State) (t : Nat) (r : Rec) :
    (s.scrubRec want t r).tb = s.tb := by simp -implicitDefEqProofs [State.scrubRec, foldl_tb]
@[simp] theorem State.scrubTiles_tb : s.scrubTiles.tb = s.tb := by
  simp -implicitDefEqProofs [State.scrubTiles, forKeys_tb, foldl_tb]
@[simp] theorem State.scrubPromptWord_tb (want : State) (a : Nat) : (s.scrubPromptWord want a).tb = s.tb := by
  simp -implicitDefEqProofs [State.scrubPromptWord, foldl_tb]
@[simp] theorem State.scrubPrompt_tb :
    s.scrubPrompt.tb = s.tb := by simp -implicitDefEqProofs [State.scrubPrompt, forKeys_tb]

/-! ### Dependability (Sys2Proof/Machine/Dependability.lean) -/

@[simp] theorem State.countRestart_tb : s.countRestart.tb = s.tb := rfl
@[simp] theorem State.countFailover_tb : s.countFailover.tb = s.tb := rfl
@[simp] theorem State.engRestart_tb (t e : Nat) : (s.engRestart t e).tb = s.tb := by simp [State.engRestart]
@[simp] theorem State.engFault_tb (t e : Nat) : (s.engFault t e).tb = s.tb := by simp [State.engFault]
@[simp] theorem State.unserve_tb (t e : Nat) : (s.unserve t e).tb = s.tb := by simp [State.unserve]
@[simp] theorem State.failover_tb (t e : Nat) : (s.failover t e).tb = s.tb := by simp [State.failover]
@[simp] theorem State.restartAsk_tb (t e : Nat) : (s.restartAsk t e).tb = s.tb := by simp [State.restartAsk]
@[simp] theorem State.ckptAsk_tb (t e : Nat) : (s.ckptAsk t e).tb = s.tb := by simp [State.ckptAsk]
@[simp] theorem State.testAsk_tb (t e : Nat) : (s.testAsk t e).tb = s.tb := rfl
@[simp] theorem State.testEnd_tb (t e : Nat) (pass : Bool) : (s.testEnd t e pass).tb = s.tb := by simp [State.testEnd]
@[simp] theorem State.replaceMember_tb (t p : Nat) (odd : Bool) :
    (s.replaceMember t p odd).tb = s.tb := by simp [State.replaceMember]
@[simp] theorem State.voteOff_tb (t e : Nat) : (s.voteOff t e).tb = s.tb := rfl
@[simp] theorem State.pairMismatch_tb (t p : Nat) (who : LockCopy) : (s.pairMismatch t p who).tb = s.tb := by
  unfold State.pairMismatch
  split <;> simp
@[simp] theorem State.replayOver_tb (t e : Nat) : (s.replayOver t e).tb = s.tb := by simp [State.replayOver]
@[simp] theorem State.tileReset_tb (t : Nat) : (s.tileReset t).tb = s.tb := by
  simp only [State.tileReset]
  repeat' split
  all_goals simp
@[simp] theorem State.rewriteTile_tb (t : Nat) :
    (s.rewriteTile t).tb = s.tb := by simp -implicitDefEqProofs [State.rewriteTile, foldl_tb]
@[simp] theorem State.tileOut_epoch (t : Nat) :
    (s.tileOut t).tb.epoch = s.tb.epoch := by simp -implicitDefEqProofs [State.tileOut, forKeys_epoch]
@[simp] theorem State.tileResetEnd_epoch (t : Nat) : (s.tileResetEnd t).tb.epoch = s.tb.epoch := by simp [State.tileResetEnd]

/-! ### Power (Sys2Proof/Machine/Power.lean) -/

@[simp] theorem State.injectAll_tb (kind cls : Nat) (word : W64) : (s.injectAll kind cls word).tb = s.tb := by
  simp -implicitDefEqProofs [State.injectAll, forKeys_tb]
@[simp] theorem State.goRun_tb : s.goRun.tb = s.tb := by simp -implicitDefEqProofs [State.goRun, forKeys_tb]
@[simp] theorem State.refuseAll_tb : s.refuseAll.tb = s.tb := by simp -implicitDefEqProofs [State.refuseAll, foldl_tb]
@[simp] theorem State.doomAll_tb (reason : Nat) : (s.doomAll reason).tb = s.tb := rfl
@[simp] theorem State.goSafelight_tb :
    s.goSafelight.tb = s.tb := by simp -implicitDefEqProofs [State.goSafelight, forKeys_tb]
@[simp] theorem State.powerRefused_tb (reason : Nat) : (s.powerRefused reason).tb = s.tb := by simp [State.powerRefused]
@[simp] theorem State.askDark_tb (entry : Bool) (arrived : Time) :
    (s.askDark entry arrived).tb = s.tb := by simp [State.askDark]
@[simp] theorem State.askPower_tb (req : Nat) (arrived : Time) : (s.askPower req arrived).tb = s.tb := by
  unfold State.askPower
  split <;> simp
@[simp] theorem State.powerCancel_tb : s.powerCancel.tb = s.tb := by
  unfold State.powerCancel
  split <;> simp
@[simp] theorem State.gateChan_tb (t c : Nat) : (s.gateChan t c).tb = s.tb := by
  unfold State.gateChan
  split <;> simp
@[simp] theorem State.gateTile_tb (t : Nat) :
    (s.gateTile t).tb = s.tb := by simp -implicitDefEqProofs [State.gateTile, forKeys_tb]
@[simp] theorem State.loadTile_tb (t : Nat) :
    (s.loadTile t).tb = s.tb := by simp -implicitDefEqProofs [State.loadTile, forKeys_tb]
@[simp] theorem State.lightTile_tb (t : Nat) : (s.lightTile t).tb = s.tb := rfl
@[simp] theorem State.wakeTile_tb (t : Nat) : (s.wakeTile t).tb = s.tb := by simp [State.wakeTile]
@[simp] theorem State.wakeSup_tb : s.wakeSup.tb = s.tb := by simp -implicitDefEqProofs [State.wakeSup, forKeys_tb]
@[simp] theorem State.regateAsk_tb (mask : BitVec 64) :
    (s.regateAsk mask).tb = s.tb := by simp -implicitDefEqProofs [State.regateAsk, forKeys_tb]
@[simp] theorem State.levelPairs_tb : s.levelPairs.tb = s.tb := by simp -implicitDefEqProofs [State.levelPairs, forKeys_tb]
@[simp] theorem State.switchRate_epoch (dark : Bool) :
    (s.switchRate dark).tb.epoch = s.tb.epoch := by simp [State.switchRate]
@[simp] theorem State.goDark_epoch :
    s.goDark.tb.epoch = s.tb.epoch := by simp -implicitDefEqProofs [State.goDark, forKeys_epoch]
@[simp] theorem State.exitTile_tb (t : Nat) (ws : List W64) :
    (s.exitTile t ws).tb = s.tb := by simp -implicitDefEqProofs [State.exitTile, forKeys_tb]
@[simp] theorem State.leaveDark_epoch :
    s.leaveDark.tb.epoch = s.tb.epoch := by simp -implicitDefEqProofs [State.leaveDark, forKeys_epoch]
@[simp] theorem State.darkOver_tb : s.darkOver.tb = s.tb := by simp -implicitDefEqProofs [State.darkOver, forKeys_tb]
@[simp] theorem State.countBoot_tb : s.countBoot.tb = s.tb := rfl
@[simp] theorem State.startUp_tb (bootsel : BitVec 2) (flash : List Byte) :
    (s.startUp bootsel flash).tb = s.tb := by simp [State.startUp]
@[simp] theorem State.sheetBoot_tb (t c : Nat) : (s.sheetBoot t c).tb = s.tb := rfl
@[simp] theorem State.bootEnd_epoch :
    s.bootEnd.tb.epoch = s.tb.epoch := by simp -implicitDefEqProofs [State.bootEnd, forKeys_epoch]
@[simp] theorem State.supDown_tb : s.supDown.tb = s.tb := rfl
@[simp] theorem State.supUp_tb : s.supUp.tb = s.tb := by simp -implicitDefEqProofs [State.supUp, forKeys_tb]
@[simp] theorem State.rewriteSpine_tb :
    s.rewriteSpine.tb = s.tb := by simp -implicitDefEqProofs [State.rewriteSpine, foldl_tb]
@[simp] theorem State.softAsk_epoch (h : Option CtlHead) :
    (s.softAsk h).tb.epoch = s.tb.epoch := by simp -implicitDefEqProofs [State.softAsk, forKeys_epoch]
@[simp] theorem State.softEnd_epoch :
    s.softEnd.tb.epoch = s.tb.epoch := by simp -implicitDefEqProofs [State.softEnd, forKeys_epoch]
@[simp] theorem State.linkAsk_epoch (h : Option CtlHead) : (s.linkAsk h).tb.epoch = s.tb.epoch := by simp [State.linkAsk]

/-! ### Snapshots (Sys2Proof/Machine/Snapshot.lean) -/

@[simp] theorem State.freezeAsk_tb (src : Bool) : (s.freezeAsk src).tb = s.tb := by simp [State.freezeAsk]
@[simp] theorem State.commitAll_tb (t : Nat) (d : Dest) : (s.commitAll t d).tb = s.tb := by
  refine forKeys_tb (fun k s => ?_) _ s
  split <;> simp
@[simp] theorem State.freezeNow_epoch (q : Nat) :
    (s.freezeNow q).tb.epoch = s.tb.epoch := by simp -implicitDefEqProofs [State.freezeNow, forKeys_epoch]
theorem State.epoch_of_dep_tb (d : Depend) (b : Timebase) : ({ s with dep := d, tb := b } : State).tb.epoch = b.epoch := rfl

@[simp] theorem State.thaw_epoch : s.thaw.tb.epoch = s.tb.epoch := by
  unfold State.thaw
  extract_lets d wraps src src' u v
  have hv : v.tb.epoch = s.tb.epoch := (u.addCause_epoch _ _).trans (s.epoch_of_dep_tb _ _)
  clear_value wraps v
  split
  · exact (v.addCause_epoch _ _).trans hv
  · exact hv

/-! ### Register commands (Sys2Proof/Machine/Registers.lean) -/

@[simp] theorem State.msgRead_tb (o : Nat) : (s.msgRead o).2.tb = s.tb := by
  unfold State.msgRead
  split <;> simp
@[simp] theorem State.busRead_tb (a : Nat) : (s.busRead a).2.tb = s.tb := by
  unfold State.busRead
  repeat' split
  all_goals simp
@[simp] theorem State.msgWrite_tb (o : Nat) (w : Reg32) : (s.msgWrite o w).tb = s.tb := rfl
@[simp] theorem State.ringBox_tb (src : Src) (ch : Nat) : (s.ringBox src ch).tb = s.tb := by simp [State.ringBox]
@[simp] theorem State.takeBox_tb (ch : Nat) : (s.takeBox ch).tb = s.tb := by simp -implicitDefEqProofs [State.takeBox]
@[simp] theorem State.bumpHost_tb : s.bumpHost.tb = s.tb := rfl
@[simp] theorem State.cfgCommands_tb (w : Nat) : (s.cfgCommands w).tb = s.tb := by simp [State.cfgCommands]
@[simp] theorem State.pwCommands_epoch (w : Nat) (h : Option CtlHead) :
    (s.pwCommands w h).tb.epoch = s.tb.epoch := by simp [State.pwCommands]
@[simp] theorem State.lkCommands_epoch (w : Nat) (h : Option CtlHead) :
    (s.lkCommands w h).tb.epoch = s.tb.epoch := by simp [State.lkCommands]
@[simp] theorem State.cntClear_tb : s.cntClear.tb = s.tb := rfl
@[simp] theorem State.sheetClear_tb (i w : Nat) :
    (s.sheetClear i w).tb = s.tb := by simp -implicitDefEqProofs [State.sheetClear, forKeys_tb]
@[simp] theorem State.capstatWrite_tb (t c w : Nat) : (s.capstatWrite t c w).tb = s.tb := by simp [State.capstatWrite]
@[simp] theorem State.tqWrite_tb (t q w : Nat) : (s.tqWrite t q w).tb = s.tb := by simp [State.tqWrite]
@[simp] theorem State.engWrite_tb (t e w : Nat) : (s.engWrite t e w).tb = s.tb := by simp [State.engWrite]
@[simp] theorem State.latchWrite_tb (t w : Nat) : (s.latchWrite t w).tb = s.tb := rfl
@[simp] theorem State.hoWrite_tb (t w : Nat) : (s.hoWrite t w).tb = s.tb := by simp [State.hoWrite]
@[simp] theorem State.calWrite_tb (w : Nat) : (s.calWrite w).tb = s.tb := by simp [State.calWrite]
@[simp] theorem State.actChip_epoch (src : Src) (r : Reg) (i w : Nat) (h : Option CtlHead) :
    (s.actChip src r i w h).tb.epoch = s.tb.epoch := by
  unfold State.actChip
  split <;> simp
@[simp] theorem State.actTile_tb (t : Nat) (r : Reg) (i w : Nat) : (s.actTile t r i w).tb = s.tb := by
  unfold State.actTile
  split <;> simp
@[simp] theorem State.applyWrite_epoch (src : Src) (a : Nat) (w : Reg32) (h : Option CtlHead) :
    (s.applyWrite src a w h).tb.epoch = s.tb.epoch := by
  unfold State.applyWrite
  repeat' split
  all_goals simp
@[simp] theorem State.reportStart_tb (a w : Nat) : (s.reportStart a w).tb = s.tb := by
  unfold State.reportStart
  repeat' split
  all_goals simp
@[simp] theorem State.busWrite_epoch (src : Src) (a : Nat) (w : Reg32) (h : Option CtlHead) :
    (s.busWrite src a w h).2.tb.epoch = s.tb.epoch := by
  unfold State.busWrite
  split <;> simp
@[simp] theorem State.writeAt_epoch (src : Src) (a : Nat) (w : Reg32) (h : Option CtlHead) :
    (s.writeAt src a w h).tb.epoch = s.tb.epoch := by simp [State.writeAt]
@[simp] theorem State.hostSet_epoch (a : Nat) (fs : List (Nat × Nat × Nat)) :
    (s.hostSet a fs).tb.epoch = s.tb.epoch := by simp [State.hostSet]

/-! ### Services (Sys2Proof/Machine/Services.lean) -/

@[simp] theorem State.authPass_tb : s.authPass.tb = s.tb := by simp [State.authPass]
@[simp] theorem State.authFail_tb : s.authFail.tb = s.tb := by simp [State.authFail]
@[simp] theorem State.ctlWrite_epoch (a j : Nat) (ws : List Reg32) : (s.ctlWrite a j ws).2.tb.epoch = s.tb.epoch := by
  induction ws generalizing s j with
  | nil => rfl
  | cons x xs ih => simp [State.ctlWrite, ih]
@[simp] theorem State.ctlRead_tb (addrs : List Nat) : (s.ctlRead addrs).2.tb = s.tb := by
  induction addrs generalizing s with
  | nil => rfl
  | cons x xs ih => simp [State.ctlRead, ih]
@[simp] theorem State.ctlOperate_epoch (op : Nat) (f : CtlFrame) (h : CtlHead) :
    (s.ctlOperate op f h).tb.epoch = s.tb.epoch := by simp [State.ctlOperate]
@[simp] theorem State.ctlChecked_epoch (op : Nat) (f : CtlFrame) (h : CtlHead) :
    (s.ctlChecked op f h).tb.epoch = s.tb.epoch := by
  unfold State.ctlChecked
  split <;> simp
@[simp] theorem State.ctlFrame_epoch (op : Nat) (f : CtlFrame) :
    (s.ctlFrame op f).tb.epoch = s.tb.epoch := by simp [State.ctlFrame]
@[simp] theorem State.msgWord_tb (o : Nat) : (s.msgWord o).2.tb = s.tb := by
  unfold State.msgWord
  split <;> simp
@[simp] theorem State.msgWords_tb (pos n : Nat) : (s.msgWords pos n).2.tb = s.tb := by
  induction n generalizing s pos with
  | zero => rfl
  | succ n ih => simp [State.msgWords, ih]
@[simp] theorem State.takeRequest_tb (ch : Nat) : (s.takeRequest ch).tb = s.tb := by
  simp only [State.takeRequest]
  split <;> simp
@[simp] theorem State.putReply_tb (o : Nat) (ws : List W64) : (s.putReply o ws).tb = s.tb := rfl
@[simp] theorem State.onService_epoch (code : Nat) (f : SupReq → State → State) (h : ∀ q s, (f q s).tb.epoch = s.tb.epoch) :
    (s.onService code f).tb.epoch = s.tb.epoch := by
  unfold State.onService
  split
  · split
    · exact h _ s
    · rfl
  · rfl
@[simp] theorem State.serviceBegun_tb (code : Nat) : (s.serviceBegun code).tb = s.tb := rfl
@[simp] theorem State.holdTracking_tb (on : Bool) : (s.holdTracking on).tb = s.tb := rfl
@[simp] theorem State.storeReply_tb (code reason : Nat) (ok : Bool) : (s.storeReply code reason ok).tb = s.tb := by
  unfold State.storeReply
  split <;> simp
@[simp] theorem State.slotDone_tb (b ok : Bool) : (s.slotDone b ok).tb = s.tb := by simp [State.slotDone]
@[simp] theorem State.clearDone_tb (b ok : Bool) : (s.clearDone b ok).tb = s.tb := by
  unfold State.clearDone
  split <;> simp
@[simp] theorem State.listEntries_tb (pos n : Nat) : (s.listEntries pos n).2.tb = s.tb := by
  induction n generalizing s pos with
  | zero => rfl
  | succ n ih =>
    unfold State.listEntries
    split
    · rfl
    · dsimp only
      split <;> simp [ih]

/-! ### Epochs that open (R44, R448) -/

@[simp] theorem Timebase.opened_epoch (b : Timebase) : b.opened.epoch = nextEpoch b.epoch := rfl

theorem State.openEpoch_epoch (pre : List W64) : (s.openEpoch pre).tb.epoch = nextEpoch s.tb.epoch := by
  simp only [State.openEpoch]
  repeat' split
  all_goals simp -implicitDefEqProofs [forKeys_tb]

theorem State.openDue_epoch : s.openDue.tb.epoch = if s.tb.causes = 0 then s.tb.epoch else nextEpoch s.tb.epoch := by
  unfold State.openDue
  split
  · rfl
  · rw [State.openEpoch_epoch, State.advanceTo_epoch]

/-- What the release does once its epoch is open (R448, R449, R499). -/
def State.thawRest (s : State) : State :=
  let s := forKeys (List.range s.nTiles) (fun t s => forKeys (List.range 17) (fun c s => s.modChan t c Chan.oweIu) s) s
  let s := forKeys (s.tt.opened.map (fun _ => 0)) (fun _ s => s.ttDiscard 3) s
  let s := ({ s with tt := { s.tt with opened := [], stale := true } }).trainAll
  let s := (s.updQuality).raise (chipSrc 32)
  if s.dep.heldSoft then ({ s with dep := { s.dep with heldSoft := false } }).softAsk none else s

theorem State.thawRest_epoch : s.thawRest.tb.epoch = s.tb.epoch := by simp -implicitDefEqProofs [State.thawRest, forKeys_tb]

theorem State.thawAll_eq : ∃ m, s.thawAll = ((s.thaw.doomAll 5).openEpoch [m]).thawRest := ⟨_, rfl⟩

theorem State.thawAll_epoch : s.thawAll.tb.epoch = nextEpoch s.tb.epoch := by
  obtain ⟨m, hm⟩ := s.thawAll_eq
  rw [hm, State.thawRest_epoch, State.openEpoch_epoch, State.doomAll_tb, State.thaw_epoch]

/-! ### The commands that open no epoch -/

/-- Whatever state an outcome answers, the epoch number is that of `s`. -/
structure KeepsEpoch (s : State) (o : Host.Outcome State Fault Refusal) : Prop where
  epoch : ∀ t, o = .next t → t.tb.epoch = s.tb.epoch

variable {s}

theorem keepsEpoch_next {t : State} (h : t.tb.epoch = s.tb.epoch) : KeepsEpoch s (.next t) where
  epoch _ ht := by cases ht; exact h

theorem keepsEpoch_guard {p : Prop} [Decidable p] {o : Host.Outcome State Fault Refusal} {r : Fault}
    (h : KeepsEpoch s o) : KeepsEpoch s (if p then o else .fault r) := by
  split
  · exact h
  · exact ⟨fun _ ht => by cases ht⟩

section

variable {f : State → State} (hf : ∀ s, (f s).tb.epoch = s.tb.epoch)
include hf

theorem keepsEpoch_ite {p : Prop} [Decidable p] : KeepsEpoch s (.next (if p then f s else s)) :=
  keepsEpoch_next (by split; exacts [hf s, rfl])

theorem onChip_keepsEpoch : KeepsEpoch s (onChip s f) := keepsEpoch_ite hf

theorem onTile_keepsEpoch {t : Nat} : KeepsEpoch s (onTile t s f) := keepsEpoch_guard (keepsEpoch_ite hf)

theorem onChan_keepsEpoch {t c : Nat} : KeepsEpoch s (onChan t c s f) := keepsEpoch_guard (onTile_keepsEpoch hf)

theorem onEng_keepsEpoch {t e : Nat} : KeepsEpoch s (onEng t e s f) := keepsEpoch_guard (onTile_keepsEpoch hf)

theorem onCtx_keepsEpoch {t c : Nat} : KeepsEpoch s (onCtx t c s f) := keepsEpoch_guard (onTile_keepsEpoch hf)

theorem onUnit_keepsEpoch {k n : Nat} : KeepsEpoch s (onUnit k n s f) := keepsEpoch_guard (onChip_keepsEpoch hf)

theorem onBox_keepsEpoch {ch : Nat} : KeepsEpoch s (onBox ch s f) := keepsEpoch_guard (onChip_keepsEpoch hf)

theorem hostTile_keepsEpoch {t : Nat} : KeepsEpoch s (hostTile t s f) := keepsEpoch_guard (onChip_keepsEpoch hf)

theorem hostChan_keepsEpoch {t c : Nat} : KeepsEpoch s (hostChan t c s f) := keepsEpoch_guard (hostTile_keepsEpoch hf)

theorem hostEng_keepsEpoch {t e : Nat} : KeepsEpoch s (hostEng t e s f) := keepsEpoch_guard (hostTile_keepsEpoch hf)

theorem hostQueue_keepsEpoch {t q : Nat} : KeepsEpoch s (hostQueue t q s f) := keepsEpoch_guard (hostTile_keepsEpoch hf)

theorem onJtag_keepsEpoch : KeepsEpoch s (onJtag s f) := keepsEpoch_next (by split; exacts [rfl, hf s])

theorem onSlot_keepsEpoch (bad : Bool) : KeepsEpoch s (onChip s (fun s => s.onSlot bad f)) :=
  onChip_keepsEpoch (fun s => s.onSlot_epoch bad f hf)

end

theorem engStep_keepsEpoch (t e : Nat) (op : EngOp) : KeepsEpoch s (engStep t e op s) :=
  onEng_keepsEpoch (fun s => by split <;> simp)

/-- The words written may depend on the state. -/
theorem hostSet_keepsEpoch {a : Nat} {fs : State → List (Nat × Nat × Nat)} :
    KeepsEpoch s (onChip s (fun s => s.hostSet a (fs s))) := onChip_keepsEpoch (fun s => s.hostSet_epoch ..)

theorem onLane_keepsEpoch {f : Nat → State → State} (hf : ∀ l s t, f l s = t → t.tb = s.tb) {bad : Bool} {b : BitVec 48}
    {reserved : Nat} : KeepsEpoch s (onChip s (fun s => s.onSlot bad (fun s => s.onLane b reserved f))) :=
  onSlot_keepsEpoch (fun s => s.onLane_epoch b reserved f (fun l s => congrArg Timebase.epoch (hf l s _ rfl))) bad

theorem onService_keepsEpoch {f : SupReq → State → State} (hf : ∀ q s t, f q s = t → t.tb.epoch = s.tb.epoch) {kind : Nat} :
    KeepsEpoch s (onChip s (fun s => s.onService kind f)) :=
  onChip_keepsEpoch (fun s => s.onService_epoch kind f (fun q s => hf q s _ rfl))

theorem execTtSync_keepsEpoch (b : BitVec 52) (sub : BitVec 13) (bad : Bool) : KeepsEpoch s (execTtSync b sub bad s) := by
  refine onSlot_keepsEpoch (fun s => ?_) bad
  extract_lets id u _ v x
  have hu : u.tb = s.tb := by simp [u]
  have hv : v.tb = s.tb := by
    simp only [v]
    clear_value u
    split
    · split
      · exact (State.ttDiscard_tb _ _).trans hu
      · exact hu
    · exact hu
  clear_value v x
  split
  · exact congrArg Timebase.epoch hv
  · rfl

theorem execTrigger_keepsEpoch (b : BitVec 56) (bad : Bool) : KeepsEpoch s (execTrigger b bad s) := by
  refine onSlot_keepsEpoch (fun s => ?_) bad
  split
  · rfl
  · dsimp only
    split
    · simp
    · exact congrArg Timebase.epoch (forKeys_tb (fun t s => s.modTile_tb t _) _ s)

theorem execFragmentCopy_keepsEpoch (t words : Nat) : KeepsEpoch s (execFragmentCopy t words s) := by
  refine onTile_keepsEpoch (fun s => ?_)
  split
  · rfl
  · dsimp only
    split
    · split
      · rfl
      · refine congrArg Timebase.epoch (forKeys_tb (fun k s => ?_) _ s)
        split
        · split <;> simp
        · rfl
    · rfl

theorem execFciChange_keepsEpoch (k : Nat) (level : Bool) : KeepsEpoch s (execFciChange k level s) := by
  refine keepsEpoch_guard (keepsEpoch_next (congrArg Timebase.epoch ?_))
  extract_lets _ u
  have hu : u.tb = s.tb := rfl
  clear_value u
  split
  · rfl
  · split
    · exact (forKeys_tb (fun i s => s.closeFrame_tb i) _ _).trans hu
    · exact hu

theorem execProofRun_keepsEpoch : KeepsEpoch s (execProofRun s) := by
  refine onService_keepsEpoch (fun q s t ht => ?_)
  extract_lets w running bad u v at ht
  have hu : u.tb = s.tb := by simp only [u, State.tb_ite, State.serviceBegun_tb, ite_self]
  have hv : v.tb.epoch = s.tb.epoch := (u.writeAt_epoch ..).trans (congrArg Timebase.epoch hu)
  have he : ∀ n r, (v.serviceEnd q n r).tb.epoch = s.tb.epoch :=
    fun n r => (congrArg Timebase.epoch (v.serviceEnd_tb q n r)).trans hv
  clear_value u v bad w
  rw [← ht]
  split
  · exact he _ _
  · split
    · exact he _ _
    · exact hv

theorem execSlotWrite_keepsEpoch : KeepsEpoch s (execSlotWrite s) := by
  refine onService_keepsEpoch (fun q s t ht => congrArg Timebase.epoch ?_)
  rw [← ht]
  extract_lets n
  split
  next r u hr =>
  have hu : u.tb = s.tb := by
    refine (congrArg (·.2.tb) hr : _ = u.tb).symm.trans ?_
    repeat' split
    · rfl
    · rfl
    · exact s.imageSlot_tb _ _
  clear hr
  dsimp only
  repeat' split
  all_goals simp [hu]

theorem execLbExpiry_keepsEpoch (t : Nat) : KeepsEpoch s (execLbExpiry t s) := onTile_keepsEpoch (fun s => by simp)
theorem execFcoDeassert_keepsEpoch (k : Nat) : KeepsEpoch s (execFcoDeassert k s) := onUnit_keepsEpoch (fun s => by simp)
theorem execHitCommit_keepsEpoch (t c : Nat) (d : Dest) : KeepsEpoch s (execHitCommit t c d s) := by
  refine onChan_keepsEpoch (fun s => ?_)
  split <;> simp
theorem execCommitLateRefuse_keepsEpoch (t c : Nat) (d : Dest) : KeepsEpoch s (execCommitLateRefuse t c d s) := by
  refine onChan_keepsEpoch (fun s => ?_)
  split <;> simp
theorem execSecondBoundary_keepsEpoch : KeepsEpoch s (execSecondBoundary s) := onChip_keepsEpoch (fun s => by simp)
theorem execReplicaCheck_keepsEpoch : KeepsEpoch s (execReplicaCheck s) :=
  onChip_keepsEpoch (fun s => by simp -implicitDefEqProofs [forKeys_tb])
theorem execReplicaReload_keepsEpoch (t : Nat) : KeepsEpoch s (execReplicaReload t s) := onTile_keepsEpoch (fun s => by simp)
theorem execReplicaPairMismatch_keepsEpoch (t : Nat) : KeepsEpoch s (execReplicaPairMismatch t s) :=
  onTile_keepsEpoch (fun s => by simp)
theorem execLockComplete_keepsEpoch : KeepsEpoch s (execLockComplete s) := onChip_keepsEpoch (fun s => by simp)
theorem execUnlockDeclared_keepsEpoch : KeepsEpoch s (execUnlockDeclared s) := onChip_keepsEpoch (fun s => s.unlock_epoch ..)
theorem execLoscMissing_keepsEpoch : KeepsEpoch s (execLoscMissing s) := onChip_keepsEpoch (fun s => by simp)
theorem execLoscClockPresent_keepsEpoch : KeepsEpoch s (execLoscClockPresent s) := onChip_keepsEpoch (fun s => by simp)
theorem execReferencePresent_keepsEpoch (err : Int) : KeepsEpoch s (execReferencePresent err s) :=
  onChip_keepsEpoch (fun s => by simp)
theorem execReferenceRemeasured_keepsEpoch (err : Int) : KeepsEpoch s (execReferenceRemeasured err s) :=
  onChip_keepsEpoch (fun s => by simp)
theorem execRampProfileStart_keepsEpoch : KeepsEpoch s (execRampProfileStart s) := by
  refine onChip_keepsEpoch (fun s => ?_)
  repeat' split
  all_goals simp
theorem execRampSegmentEnd_keepsEpoch : KeepsEpoch s (execRampSegmentEnd s) := by
  refine onChip_keepsEpoch (fun s => ?_)
  split <;> simp
theorem execRampPhaseStep_keepsEpoch : KeepsEpoch s (execRampPhaseStep s) := by
  refine onChip_keepsEpoch (fun s => ?_)
  split <;> simp
theorem execRampAutoReplace_keepsEpoch : KeepsEpoch s (execRampAutoReplace s) := by
  refine onChip_keepsEpoch (fun s => ?_)
  split <;> simp
theorem execItemRelease_keepsEpoch (t e : Nat) : KeepsEpoch s (execItemRelease t e s) := onEng_keepsEpoch (fun s => by simp)
theorem execSliceSwitch_keepsEpoch (t e : Nat) : KeepsEpoch s (execSliceSwitch t e s) := by
  refine onEng_keepsEpoch (fun s => ?_)
  repeat' split
  all_goals simp
theorem execTimeGateBoundary_keepsEpoch (t e : Nat) : KeepsEpoch s (execTimeGateBoundary t e s) := by
  refine onEng_keepsEpoch (fun s => ?_)
  dsimp only
  repeat' split
  all_goals simp -implicitDefEqProofs [forKeys_tb]
theorem execContextTimer_keepsEpoch (t c : Nat) : KeepsEpoch s (execContextTimer t c s) := by
  refine onCtx_keepsEpoch (fun s => ?_)
  dsimp only
  repeat' split
  all_goals simp
theorem execEngineEpochMarkers_keepsEpoch (t e : Nat) : KeepsEpoch s (execEngineEpochMarkers t e s) :=
  onEng_keepsEpoch (fun s => by simp -implicitDefEqProofs [forKeys_tb])
theorem execCheckpointTake_keepsEpoch (t e : Nat) : KeepsEpoch s (execCheckpointTake t e s) :=
  onEng_keepsEpoch (fun s => by simp)
theorem execSliceCycleLimit_keepsEpoch (t e : Nat) : KeepsEpoch s (execSliceCycleLimit t e s) :=
  onEng_keepsEpoch (fun s => by simp)
theorem execFollowUpS_keepsEpoch (b : BitVec 52) (bad : Bool) : KeepsEpoch s (execFollowUpS b bad s) :=
  onChip_keepsEpoch (fun s => by simp)
theorem execFollowUpNf_keepsEpoch (b : BitVec 52) (bad : Bool) : KeepsEpoch s (execFollowUpNf b bad s) :=
  onChip_keepsEpoch (fun s => by simp)
theorem execDelayRespS_keepsEpoch (b : BitVec 52) (bad : Bool) : KeepsEpoch s (execDelayRespS b bad s) :=
  onChip_keepsEpoch (fun s => by simp)
theorem execDelayRespNf_keepsEpoch (b : BitVec 52) (bad : Bool) : KeepsEpoch s (execDelayRespNf b bad s) :=
  onChip_keepsEpoch (fun s => by simp)
theorem execTtUnknownSlot_keepsEpoch (msg : BitVec 4) (b : BitVec 52) (bad : Bool) :
    KeepsEpoch s (execTtUnknownSlot msg b bad s) :=
  onChip_keepsEpoch (fun s => by simp)
theorem execExchangeTimeout_keepsEpoch (id : BitVec 8) : KeepsEpoch s (execExchangeTimeout id s) := by
  refine onChip_keepsEpoch (fun s => ?_)
  split <;> simp
theorem execQualityStale_keepsEpoch : KeepsEpoch s (execQualityStale s) := by
  refine onChip_keepsEpoch (fun s => ?_)
  split <;> simp
theorem execTriggerDecide_keepsEpoch : KeepsEpoch s (execTriggerDecide s) := by
  refine onChip_keepsEpoch (fun s => ?_)
  dsimp only
  repeat' split
  all_goals simp -implicitDefEqProofs [forKeys_tb]
theorem execFragmentDeadline_keepsEpoch (t : Nat) : KeepsEpoch s (execFragmentDeadline t s) := by
  refine onTile_keepsEpoch (fun s => ?_)
  split <;> simp
theorem execEventSend_keepsEpoch : KeepsEpoch s (execEventSend s) := by
  refine onChip_keepsEpoch (fun s => ?_)
  split <;> simp -implicitDefEqProofs [forKeys_tb]
theorem execTriggerSliceCopy_keepsEpoch (t c : Nat) : KeepsEpoch s (execTriggerSliceCopy t c s) := by
  refine onCtx_keepsEpoch (fun s => ?_)
  split <;> simp
theorem execDnClockRecovered_keepsEpoch : KeepsEpoch s (execDnClockRecovered s) := onChip_keepsEpoch (fun s => by simp)
theorem execDnCommaLock_keepsEpoch : KeepsEpoch s (execDnCommaLock s) := onChip_keepsEpoch (fun s => by simp)
theorem execDnSlotLock_keepsEpoch : KeepsEpoch s (execDnSlotLock s) := onChip_keepsEpoch (fun s => by simp)
theorem execDnSlotLost_keepsEpoch : KeepsEpoch s (execDnSlotLost s) := onChip_keepsEpoch (fun s => by simp)
theorem execDnSignalLost_keepsEpoch : KeepsEpoch s (execDnSignalLost s) := onChip_keepsEpoch (fun s => by simp)
theorem execIdleSlot_keepsEpoch (b : BitVec 56) (bad : Bool) : KeepsEpoch s (execIdleSlot b bad s) :=
  onChip_keepsEpoch (fun s => by simp)
theorem execBlockClose_keepsEpoch (b : BitVec 52) (bad : Bool) : KeepsEpoch s (execBlockClose b bad s) :=
  onChip_keepsEpoch (fun s => by simp -implicitDefEqProofs [forKeys_tb])
theorem execSync_keepsEpoch (b : BitVec 52) (bad : Bool) : KeepsEpoch s (execSync b bad s) :=
  onChip_keepsEpoch (fun s => by simp)
theorem execPause_keepsEpoch (b : BitVec 48) (bad : Bool) : KeepsEpoch s (execPause b bad s) :=
  onChip_keepsEpoch (fun s => by simp)
theorem execResume_keepsEpoch (b : BitVec 48) (bad : Bool) : KeepsEpoch s (execResume b bad s) :=
  onChip_keepsEpoch (fun s => by simp)
theorem execUnknownLinkOperation_keepsEpoch (op : BitVec 4) (b : BitVec 48) (bad : Bool) :
    KeepsEpoch s (execUnknownLinkOperation op b bad s) :=
  onChip_keepsEpoch (fun s => by simp)
theorem execOrphanControlSlot_keepsEpoch (b : BitVec 56) (bad : Bool) : KeepsEpoch s (execOrphanControlSlot b bad s) :=
  onChip_keepsEpoch (fun s => by simp)
theorem execFrameTransmit_keepsEpoch (l : Nat) : KeepsEpoch s (execFrameTransmit l s) :=
  onUnit_keepsEpoch (fun s => s.transmit_epoch ..)
theorem execStreamReadPacket_keepsEpoch (t : Nat) (packed : Bool) : KeepsEpoch s (execStreamReadPacket t packed s) := by
  refine onTile_keepsEpoch (fun s => ?_)
  dsimp only
  repeat' split
  all_goals simp
theorem execResultFrameClose_keepsEpoch (i : Nat) : KeepsEpoch s (execResultFrameClose i s) := by
  refine onUnit_keepsEpoch (fun s => ?_)
  split <;> simp
theorem execLinkPllLock_keepsEpoch : KeepsEpoch s (execLinkPllLock s) :=
  onChip_keepsEpoch (fun s => by simp -implicitDefEqProofs [forKeys_tb])
theorem execLinkPllLoss_keepsEpoch : KeepsEpoch s (execLinkPllLoss s) :=
  onChip_keepsEpoch (fun s => by simp -implicitDefEqProofs [forKeys_tb])
theorem execLaneDegraded_keepsEpoch (l : Nat) : KeepsEpoch s (execLaneDegraded l s) := onUnit_keepsEpoch (fun s => by simp)
theorem execFciHoldExpiry_keepsEpoch (k : Nat) : KeepsEpoch s (execFciHoldExpiry k s) := by
  refine onUnit_keepsEpoch (fun s => ?_)
  split <;> simp
theorem execPauseExpiry_keepsEpoch (cls idx : Nat) : KeepsEpoch s (execPauseExpiry cls idx s) := by
  refine onUnit_keepsEpoch (fun s => ?_)
  split <;> simp
theorem execAckTimeout_keepsEpoch (l : Nat) : KeepsEpoch s (execAckTimeout l s) := by
  refine onUnit_keepsEpoch (fun s => ?_)
  split <;> simp
theorem execStallEnd_keepsEpoch : KeepsEpoch s (execStallEnd s) := by
  refine onChip_keepsEpoch (fun s => ?_)
  split <;> simp
theorem execTtReplySend_keepsEpoch (sub : BitVec 13) : KeepsEpoch s (execTtReplySend sub s) := by
  refine onChip_keepsEpoch (fun s => ?_)
  split <;> simp -implicitDefEqProofs [forKeys_epoch]
theorem execCheckComplete_keepsEpoch (t c : Nat) (o : CheckOutcome) : KeepsEpoch s (execCheckComplete t c o s) := by
  refine onChan_keepsEpoch (fun s => ?_)
  split
  · dsimp only
    split
    · split <;> simp
    · simp
  · rfl
theorem execHandoverOpen_keepsEpoch (t : Nat) : KeepsEpoch s (execHandoverOpen t s) := onTile_keepsEpoch (fun s => by simp)
theorem execHandoverInstant_keepsEpoch (t : Nat) (out inc : List HoEdge) (diff : Int) :
    KeepsEpoch s (execHandoverInstant t out inc diff s) := by
  refine onTile_keepsEpoch (fun s => ?_)
  split <;> simp
theorem execTapRelease_keepsEpoch (t : Nat) : KeepsEpoch s (execTapRelease t s) := onTile_keepsEpoch (fun s => by simp)
theorem execProofPassEnd_keepsEpoch (d : PassData) : KeepsEpoch s (execProofPassEnd d s) :=
  onChip_keepsEpoch (fun s => by simp)
theorem execProofPassTimeout_keepsEpoch (d : PassData) : KeepsEpoch s (execProofPassTimeout d s) := by
  refine onChip_keepsEpoch (fun s => ?_)
  split <;> simp
theorem execProofStoreDone_keepsEpoch (ok : Bool) : KeepsEpoch s (execProofStoreDone ok s) := by
  refine onChip_keepsEpoch (fun s => ?_)
  dsimp only
  split <;> simp
theorem execTrackTick_keepsEpoch (temps : List (Option Int)) : KeepsEpoch s (execTrackTick temps s) :=
  onChip_keepsEpoch (fun s => by simp -implicitDefEqProofs [forKeys_tb])
theorem execDacStep_keepsEpoch : KeepsEpoch s (execDacStep s) :=
  onChip_keepsEpoch (fun s => by simp -implicitDefEqProofs [forKeys_tb])
theorem execContactSheetRefresh_keepsEpoch : KeepsEpoch s (execContactSheetRefresh s) := onChip_keepsEpoch (fun s => by simp)
theorem execDmmInterval_keepsEpoch : KeepsEpoch s (execDmmInterval s) :=
  onChip_keepsEpoch (fun s => by simp -implicitDefEqProofs [forKeys_tb])
theorem execEdge_keepsEpoch (t c : Nat) (v : Swing) (sub : BitVec 13) (mismatch : Bool) :
    KeepsEpoch s (execEdge t c v sub mismatch s) :=
  onChan_keepsEpoch (fun s => by simp)
theorem execLmSample_keepsEpoch (t : Nat) (nv errLo errHi : Int) : KeepsEpoch s (execLmSample t nv errLo errHi s) :=
  onTile_keepsEpoch (fun s => by simp)
theorem execPromptWord_keepsEpoch : KeepsEpoch s (execPromptWord s) := onChip_keepsEpoch (fun s => by simp)
theorem execReloadDone_keepsEpoch : KeepsEpoch s (execReloadDone s) := onChip_keepsEpoch (fun s => by simp)
theorem execPrepareDone_keepsEpoch : KeepsEpoch s (execPrepareDone s) := onChip_keepsEpoch (fun s => by simp)
theorem execFixDecide_keepsEpoch : KeepsEpoch s (execFixDecide s) := onChip_keepsEpoch (fun s => by simp)
theorem execFixTakeEffect_keepsEpoch : KeepsEpoch s (execFixTakeEffect s) := onChip_keepsEpoch (fun s => by simp)
theorem execScrub_keepsEpoch : KeepsEpoch s (execScrub s) := onChip_keepsEpoch (fun s => by simp)
theorem execReplayEnd_keepsEpoch (t e : Nat) : KeepsEpoch s (execReplayEnd t e s) := onEng_keepsEpoch (fun s => by simp)
theorem execEngineFaultDetect_keepsEpoch (t e : Nat) : KeepsEpoch s (execEngineFaultDetect t e s) :=
  onEng_keepsEpoch (fun s => by simp)
theorem execEngineStallWatchdog_keepsEpoch (t e : Nat) : KeepsEpoch s (execEngineStallWatchdog t e s) := by
  refine onEng_keepsEpoch (fun s => ?_)
  dsimp only
  split <;> simp
theorem execFailover_keepsEpoch (t e : Nat) : KeepsEpoch s (execFailover t e s) := onEng_keepsEpoch (fun s => by simp)
theorem execLockstepMismatch_keepsEpoch (t p : Nat) (who : LockCopy) : KeepsEpoch s (execLockstepMismatch t p who s) :=
  keepsEpoch_guard (onTile_keepsEpoch (fun s => congrArg Timebase.epoch (s.pairMismatch_tb ..)))
theorem execEngineSelfTestDone_keepsEpoch (t e : Nat) (pass : Bool) : KeepsEpoch s (execEngineSelfTestDone t e pass s) :=
  onEng_keepsEpoch (fun s => congrArg Timebase.epoch (s.testEnd_tb ..))
theorem execTmrPersistentFault_keepsEpoch (t : Nat) : KeepsEpoch s (execTmrPersistentFault t s) :=
  onTile_keepsEpoch (fun s => by simp)
theorem execTileResetDone_keepsEpoch (t : Nat) : KeepsEpoch s (execTileResetDone t s) :=
  onTile_keepsEpoch (fun s => s.tileResetEnd_epoch ..)
theorem execPorEnd_keepsEpoch (bootsel : BitVec 2) (flash : List Byte) : KeepsEpoch s (execPorEnd bootsel flash s) :=
  keepsEpoch_next (by simp)
theorem execResetNRelease_keepsEpoch (bootsel : BitVec 2) (flash : List Byte) :
    KeepsEpoch s (execResetNRelease bootsel flash s) :=
  keepsEpoch_next (by simp)
theorem execBootComplete_keepsEpoch : KeepsEpoch s (execBootComplete s) := onChip_keepsEpoch (fun s => by simp)
theorem execSoftResetDone_keepsEpoch : KeepsEpoch s (execSoftResetDone s) := onChip_keepsEpoch (fun s => by simp)
theorem execEnterRun_keepsEpoch : KeepsEpoch s (execEnterRun s) := by
  refine onChip_keepsEpoch (fun s => ?_)
  split <;> simp
theorem execEnterSafelight_keepsEpoch : KeepsEpoch s (execEnterSafelight s) := by
  refine onChip_keepsEpoch (fun s => ?_)
  split <;> simp
theorem execDarkDecide_keepsEpoch : KeepsEpoch s (execDarkDecide s) := by
  refine onChip_keepsEpoch (fun s => ?_)
  dsimp only
  repeat' split
  all_goals simp
theorem execDarkEntry_keepsEpoch : KeepsEpoch s (execDarkEntry s) := by
  refine onChip_keepsEpoch (fun s => ?_)
  split <;> simp
theorem execDarkExit_keepsEpoch : KeepsEpoch s (execDarkExit s) := by
  refine onChip_keepsEpoch (fun s => ?_)
  split <;> simp
theorem execDarkExitComplete_keepsEpoch : KeepsEpoch s (execDarkExitComplete s) := onChip_keepsEpoch (fun s => by simp)
theorem execTileWake_keepsEpoch (t : Nat) : KeepsEpoch s (execTileWake t s) := onTile_keepsEpoch (fun s => by simp)
theorem execPwRegate_keepsEpoch (mask : BitVec 64) : KeepsEpoch s (execPwRegate mask s) :=
  onChip_keepsEpoch (fun s => by simp)
theorem execSupervisorWake_keepsEpoch : KeepsEpoch s (execSupervisorWake s) := onChip_keepsEpoch (fun s => by simp)
theorem execSupervisorRestart_keepsEpoch : KeepsEpoch s (execSupervisorRestart s) := onChip_keepsEpoch (fun s => by simp)
theorem execSupervisorRestartDone_keepsEpoch : KeepsEpoch s (execSupervisorRestartDone s) :=
  onChip_keepsEpoch (fun s => by simp)
theorem execSnapshot_keepsEpoch (b : BitVec 52) (bad : Bool) : KeepsEpoch s (execSnapshot b bad s) :=
  onChip_keepsEpoch (fun s => by simp)
theorem execSnapNFall_keepsEpoch : KeepsEpoch s (execSnapNFall s) := keepsEpoch_next (by simp)
theorem execSnapNRise_keepsEpoch : KeepsEpoch s (execSnapNRise s) := keepsEpoch_next (by simp)
theorem execSnapFreeze_keepsEpoch : KeepsEpoch s (execSnapFreeze s) :=
  onChip_keepsEpoch (fun s => congrArg Timebase.epoch (s.freezeAsk_tb ..))
theorem execSnapRelease_keepsEpoch : KeepsEpoch s (execSnapRelease s) := onJtag_keepsEpoch (fun s => by simp)
theorem execSnapSel_keepsEpoch (v : BitVec 8) : KeepsEpoch s (execSnapSel v s) := onJtag_keepsEpoch (fun s => by simp)
theorem execSnapRead_keepsEpoch : KeepsEpoch s (execSnapRead s) := onJtag_keepsEpoch (fun s => by simp)
theorem execSnapMem_keepsEpoch (v : BitVec 56) : KeepsEpoch s (execSnapMem v s) := onJtag_keepsEpoch (fun s => by simp)
theorem execFreeze_keepsEpoch : KeepsEpoch s (execFreeze s) := by
  refine onChip_keepsEpoch (fun s => ?_)
  split <;> simp
theorem execRampStart_keepsEpoch (last : BitVec 4) : KeepsEpoch s (execRampStart last s) :=
  onChip_keepsEpoch (fun s => s.hostSet_epoch ..)
theorem execRampAbort_keepsEpoch : KeepsEpoch s (execRampAbort s) := onChip_keepsEpoch (fun s => s.hostSet_epoch ..)
theorem execTbLatch_keepsEpoch : KeepsEpoch s (execTbLatch s) := onChip_keepsEpoch (fun s => s.hostSet_epoch ..)
theorem execTbSet_keepsEpoch : KeepsEpoch s (execTbSet s) := onChip_keepsEpoch (fun s => s.hostSet_epoch ..)
theorem execAcceptSym_keepsEpoch : KeepsEpoch s (execAcceptSym s) := onChip_keepsEpoch (fun s => s.hostSet_epoch ..)
theorem execEvForce_keepsEpoch (src : BitVec 11) : KeepsEpoch s (execEvForce src s) :=
  onChip_keepsEpoch (fun s => s.hostSet_epoch ..)
theorem execSlotClose_keepsEpoch : KeepsEpoch s (execSlotClose s) := onChip_keepsEpoch (fun s => s.hostSet_epoch ..)
theorem execSlotEmpty_keepsEpoch : KeepsEpoch s (execSlotEmpty s) := onChip_keepsEpoch (fun s => s.hostSet_epoch ..)
theorem execReload_keepsEpoch : KeepsEpoch s (execReload s) := onChip_keepsEpoch (fun s => s.hostSet_epoch ..)
theorem execPrepare_keepsEpoch : KeepsEpoch s (execPrepare s) := onChip_keepsEpoch (fun s => s.hostSet_epoch ..)
theorem execFix_keepsEpoch : KeepsEpoch s (execFix s) := onChip_keepsEpoch (fun s => s.hostSet_epoch ..)
theorem execCancel_keepsEpoch : KeepsEpoch s (execCancel s) := onChip_keepsEpoch (fun s => s.hostSet_epoch ..)
theorem execCalStart_keepsEpoch (w : BitVec 18) : KeepsEpoch s (execCalStart w s) := hostSet_keepsEpoch
theorem execCalAbort_keepsEpoch : KeepsEpoch s (execCalAbort s) := hostSet_keepsEpoch
theorem execSoftRst_keepsEpoch (h : Option CtlHead) : KeepsEpoch s (execSoftRst h s) := keepsEpoch_next (by simp)
theorem execUnknownOpControlFrame_keepsEpoch (op : BitVec 4) (f : CtlFrame) :
    KeepsEpoch s (execUnknownOpControlFrame op f s) :=
  onChip_keepsEpoch (fun s => by simp)
theorem execControlFrameTimeout_keepsEpoch (h : CtlHead) : KeepsEpoch s (execControlFrameTimeout h s) :=
  onChip_keepsEpoch (fun s => congrArg Timebase.epoch (s.respond_tb ..))
theorem execSupTakeRequest_keepsEpoch (ch : Nat) : KeepsEpoch s (execSupTakeRequest ch s) :=
  onBox_keepsEpoch (fun s => by simp)
theorem execSupReplyPost_keepsEpoch (ch : Nat) : KeepsEpoch s (execSupReplyPost ch s) := by
  refine onBox_keepsEpoch (fun s => ?_)
  split <;> simp
theorem execInfo_keepsEpoch : KeepsEpoch s (execInfo s) :=
  onChip_keepsEpoch (fun s => s.onService_epoch _ _ (fun q s => by simp))
theorem execAgeingRead_keepsEpoch : KeepsEpoch s (execAgeingRead s) :=
  onChip_keepsEpoch (fun s => s.onService_epoch _ _ (fun q s => by simp))
theorem execAgeingClear_keepsEpoch : KeepsEpoch s (execAgeingClear s) :=
  onChip_keepsEpoch (fun s => s.onService_epoch _ _ (fun q s => by simp))
theorem execSvcSlotEmpty_keepsEpoch : KeepsEpoch s (execSvcSlotEmpty s) :=
  onChip_keepsEpoch (fun s => s.onService_epoch _ _ (fun q s => by simp))
theorem execTrackHold_keepsEpoch : KeepsEpoch s (execTrackHold s) :=
  onChip_keepsEpoch (fun s => s.onService_epoch _ _ (fun q s => by simp))
theorem execTrackResume_keepsEpoch : KeepsEpoch s (execTrackResume s) :=
  onChip_keepsEpoch (fun s => s.onService_epoch _ _ (fun q s => by simp))
theorem execTempRead_keepsEpoch : KeepsEpoch s (execTempRead s) :=
  onChip_keepsEpoch (fun s => s.onService_epoch _ _ (fun q s => by simp))
theorem execContactRefresh_keepsEpoch : KeepsEpoch s (execContactRefresh s) :=
  onChip_keepsEpoch (fun s => s.onService_epoch _ _ (fun q s => by simp))
theorem execLogRead_keepsEpoch : KeepsEpoch s (execLogRead s) :=
  onChip_keepsEpoch (fun s => s.onService_epoch _ _ (fun q s => by simp))
theorem execStoreWriteDone_keepsEpoch (ok : Bool) : KeepsEpoch s (execStoreWriteDone ok s) := by
  refine onChip_keepsEpoch (fun s => ?_)
  split <;> simp
theorem execTileCmdList_keepsEpoch (t : Nat) : KeepsEpoch s (execTileCmdList t s) :=
  onTile_keepsEpoch (fun s => by simp -implicitDefEqProofs [foldl_epoch])
theorem execLogSecond_keepsEpoch : KeepsEpoch s (execLogSecond s) := onChip_keepsEpoch (fun s => by simp)
theorem execEventMboxPost_keepsEpoch : KeepsEpoch s (execEventMboxPost s) := by
  refine onChip_keepsEpoch (fun s => ?_)
  split <;> simp

/-- The commands at which an epoch may open, and those that bring epoch 0 back. -/
def changesEpoch : Instr → Bool
  | .epochOpen | .realign | .timeStep | .snapshotRelease | .porAssert | .resetNLow => true
  | _ => false

/-- Every other command keeps the number of the epoch. -/
theorem exec_keepsEpoch (c : Instr) (hc : changesEpoch c = false) : KeepsEpoch s (exec c s) := by
  cases c
  case epochOpen | realign | timeStep | snapshotRelease | porAssert | resetNLow => cases hc
  case nop | add | sub | and | or | xor | shl | shr | sar | min | max | mul | ext | ins | divu | divs | remu | macs
      | macu | aclr | aadd | aadda | asuba | ashl | asar | agetl | ageth | aset | adiv | adivr | asqrt | seq | slt |
      sltu | beq | bne | blt | bge | bltu | bgeu | beqi | bnei | bbs | bbc | jmp | jal | jr | ld | st | lda | sta |
      gnext | gstat | wait | checkpoint | emit | emith | commit | rewind | tmset | tmclr => apply engStep_keepsEpoch
  case registerWrite | ttAsymWrite | lreset | lkRetrain | bump | secClose | prCtrlWrite | reqRun | reqSafelight | reqDark
      | pwCancel | cntClr => exact onChip_keepsEpoch (fun s => s.writeAt_epoch ..)
  case depEngRet | restart | ckptNow | peakClr => exact hostEng_keepsEpoch (fun s => s.hostSet_epoch ..)
  case depTileRst | hoStart | hoAbort => exact hostTile_keepsEpoch (fun s => s.hostSet_epoch ..)
  case tcXbarWrite => exact hostTile_keepsEpoch (fun s => s.writeAt_epoch ..)
  case chCfgWrite | chThrWrite => exact hostChan_keepsEpoch (fun s => s.writeAt_epoch ..)
  case checkStart | captureClr => exact hostChan_keepsEpoch (fun s => s.hostSet_epoch ..)
  case flush | queueClr => exact hostQueue_keepsEpoch (fun s => s.hostSet_epoch ..)
  case ring | take => exact onBox_keepsEpoch (fun s => s.writeAt_epoch ..)
  case evMaskWrite r _ =>
    cases r with
    | chip i => exact onUnit_keepsEpoch (fun s => s.writeAt_epoch ..)
    | tile t => exact hostTile_keepsEpoch (fun s => s.writeAt_epoch ..)
  case write | read | image => exact onSlot_keepsEpoch (fun s => s.ctlFrame_epoch ..) _
  case ack => exact onLane_keepsEpoch (fun _ s _ => (· ▸ s.ackLane_tb ..))
  case nak => exact onLane_keepsEpoch (fun _ s _ => (· ▸ s.nakLane_tb ..))
  case laneUp => exact onLane_keepsEpoch (fun _ s _ => (· ▸ s.upLane_tb ..))
  case retrain => exact onLane_keepsEpoch (fun _ s _ => (· ▸ s.retrainLane_tb ..))
  case ttSync => exact execTtSync_keepsEpoch ..
  case trigger => exact execTrigger_keepsEpoch ..
  case fragmentCopy => exact execFragmentCopy_keepsEpoch ..
  case fciChange => exact execFciChange_keepsEpoch ..
  case proofRun => exact execProofRun_keepsEpoch
  case slotWrite => exact execSlotWrite_keepsEpoch
  case lbExpiry => exact execLbExpiry_keepsEpoch ..
  case fcoDeassert => exact execFcoDeassert_keepsEpoch ..
  case hitCommit => exact execHitCommit_keepsEpoch ..
  case commitLateRefuse => exact execCommitLateRefuse_keepsEpoch ..
  case secondBoundary => exact execSecondBoundary_keepsEpoch
  case replicaCheck => exact execReplicaCheck_keepsEpoch
  case replicaReload => exact execReplicaReload_keepsEpoch ..
  case replicaPairMismatch => exact execReplicaPairMismatch_keepsEpoch ..
  case lockComplete => exact execLockComplete_keepsEpoch
  case unlockDeclared => exact execUnlockDeclared_keepsEpoch
  case loscMissing => exact execLoscMissing_keepsEpoch
  case loscClockPresent => exact execLoscClockPresent_keepsEpoch
  case referencePresent => exact execReferencePresent_keepsEpoch ..
  case referenceRemeasured => exact execReferenceRemeasured_keepsEpoch ..
  case rampProfileStart => exact execRampProfileStart_keepsEpoch
  case rampSegmentEnd => exact execRampSegmentEnd_keepsEpoch
  case rampPhaseStep => exact execRampPhaseStep_keepsEpoch
  case rampAutoReplace => exact execRampAutoReplace_keepsEpoch
  case itemRelease => exact execItemRelease_keepsEpoch ..
  case sliceSwitch => exact execSliceSwitch_keepsEpoch ..
  case timeGateBoundary => exact execTimeGateBoundary_keepsEpoch ..
  case contextTimer => exact execContextTimer_keepsEpoch ..
  case engineEpochMarkers => exact execEngineEpochMarkers_keepsEpoch ..
  case checkpointTake => exact execCheckpointTake_keepsEpoch ..
  case sliceCycleLimit => exact execSliceCycleLimit_keepsEpoch ..
  case followUpS => exact execFollowUpS_keepsEpoch ..
  case followUpNf => exact execFollowUpNf_keepsEpoch ..
  case delayRespS => exact execDelayRespS_keepsEpoch ..
  case delayRespNf => exact execDelayRespNf_keepsEpoch ..
  case ttUnknownSlot msg b bad => exact execTtUnknownSlot_keepsEpoch msg b bad
  case exchangeTimeout => exact execExchangeTimeout_keepsEpoch ..
  case qualityStale => exact execQualityStale_keepsEpoch
  case triggerDecide => exact execTriggerDecide_keepsEpoch
  case fragmentDeadline => exact execFragmentDeadline_keepsEpoch ..
  case eventSend => exact execEventSend_keepsEpoch
  case triggerSliceCopy => exact execTriggerSliceCopy_keepsEpoch ..
  case dnClockRecovered => exact execDnClockRecovered_keepsEpoch
  case dnCommaLock => exact execDnCommaLock_keepsEpoch
  case dnSlotLock => exact execDnSlotLock_keepsEpoch
  case dnSlotLost => exact execDnSlotLost_keepsEpoch
  case dnSignalLost => exact execDnSignalLost_keepsEpoch
  case idleSlot b bad => exact execIdleSlot_keepsEpoch b bad
  case blockClose => exact execBlockClose_keepsEpoch ..
  case sync => exact execSync_keepsEpoch ..
  case pause => exact execPause_keepsEpoch ..
  case resume => exact execResume_keepsEpoch ..
  case unknownLinkOperation op b bad => exact execUnknownLinkOperation_keepsEpoch op b bad
  case orphanControlSlot b bad => exact execOrphanControlSlot_keepsEpoch b bad
  case frameTransmit => exact execFrameTransmit_keepsEpoch ..
  case streamReadPacket => exact execStreamReadPacket_keepsEpoch ..
  case resultFrameClose => exact execResultFrameClose_keepsEpoch ..
  case linkPllLock => exact execLinkPllLock_keepsEpoch
  case linkPllLoss => exact execLinkPllLoss_keepsEpoch
  case laneDegraded => exact execLaneDegraded_keepsEpoch ..
  case fciHoldExpiry => exact execFciHoldExpiry_keepsEpoch ..
  case pauseExpiry => exact execPauseExpiry_keepsEpoch ..
  case ackTimeout => exact execAckTimeout_keepsEpoch ..
  case stallEnd => exact execStallEnd_keepsEpoch
  case ttReplySend => exact execTtReplySend_keepsEpoch ..
  case checkComplete => exact execCheckComplete_keepsEpoch ..
  case handoverOpen => exact execHandoverOpen_keepsEpoch ..
  case handoverInstant => exact execHandoverInstant_keepsEpoch ..
  case tapRelease => exact execTapRelease_keepsEpoch ..
  case proofPassEnd => exact execProofPassEnd_keepsEpoch ..
  case proofPassTimeout => exact execProofPassTimeout_keepsEpoch ..
  case proofStoreDone => exact execProofStoreDone_keepsEpoch ..
  case trackTick => exact execTrackTick_keepsEpoch ..
  case dacStep => exact execDacStep_keepsEpoch
  case contactSheetRefresh => exact execContactSheetRefresh_keepsEpoch
  case dmmInterval => exact execDmmInterval_keepsEpoch
  case edge => exact execEdge_keepsEpoch ..
  case lmSample => exact execLmSample_keepsEpoch ..
  case promptWord => exact execPromptWord_keepsEpoch
  case reloadDone => exact execReloadDone_keepsEpoch
  case prepareDone => exact execPrepareDone_keepsEpoch
  case fixDecide => exact execFixDecide_keepsEpoch
  case fixTakeEffect => exact execFixTakeEffect_keepsEpoch
  case scrub => exact execScrub_keepsEpoch
  case replayEnd => exact execReplayEnd_keepsEpoch ..
  case engineFaultDetect => exact execEngineFaultDetect_keepsEpoch ..
  case engineStallWatchdog => exact execEngineStallWatchdog_keepsEpoch ..
  case failover => exact execFailover_keepsEpoch ..
  case lockstepMismatch => exact execLockstepMismatch_keepsEpoch ..
  case engineSelfTestDone => exact execEngineSelfTestDone_keepsEpoch ..
  case tmrPersistentFault => exact execTmrPersistentFault_keepsEpoch ..
  case tileResetDone => exact execTileResetDone_keepsEpoch ..
  case porEnd => exact execPorEnd_keepsEpoch ..
  case resetNRelease => exact execResetNRelease_keepsEpoch ..
  case bootComplete => exact execBootComplete_keepsEpoch
  case softResetDone => exact execSoftResetDone_keepsEpoch
  case enterRun => exact execEnterRun_keepsEpoch
  case enterSafelight => exact execEnterSafelight_keepsEpoch
  case darkDecide => exact execDarkDecide_keepsEpoch
  case darkEntry => exact execDarkEntry_keepsEpoch
  case darkExit => exact execDarkExit_keepsEpoch
  case darkExitComplete => exact execDarkExitComplete_keepsEpoch
  case tileWake => exact execTileWake_keepsEpoch ..
  case pwRegate => exact execPwRegate_keepsEpoch ..
  case supervisorWake => exact execSupervisorWake_keepsEpoch
  case supervisorRestart => exact execSupervisorRestart_keepsEpoch
  case supervisorRestartDone => exact execSupervisorRestartDone_keepsEpoch
  case snapshot => exact execSnapshot_keepsEpoch ..
  case snapNFall => exact execSnapNFall_keepsEpoch
  case snapNRise => exact execSnapNRise_keepsEpoch
  case snapFreeze => exact execSnapFreeze_keepsEpoch
  case snapRelease => exact execSnapRelease_keepsEpoch
  case snapSel => exact execSnapSel_keepsEpoch ..
  case snapRead => exact execSnapRead_keepsEpoch
  case snapMem => exact execSnapMem_keepsEpoch ..
  case freeze => exact execFreeze_keepsEpoch
  case rampStart => exact execRampStart_keepsEpoch ..
  case rampAbort => exact execRampAbort_keepsEpoch
  case tbLatch => exact execTbLatch_keepsEpoch
  case tbSet => exact execTbSet_keepsEpoch
  case acceptSym => exact execAcceptSym_keepsEpoch
  case evForce => exact execEvForce_keepsEpoch ..
  case slotClose => exact execSlotClose_keepsEpoch
  case slotEmpty => exact execSlotEmpty_keepsEpoch
  case reload => exact execReload_keepsEpoch
  case prepare => exact execPrepare_keepsEpoch
  case fix => exact execFix_keepsEpoch
  case cancel => exact execCancel_keepsEpoch
  case calStart => exact execCalStart_keepsEpoch ..
  case calAbort => exact execCalAbort_keepsEpoch
  case softRst => exact execSoftRst_keepsEpoch ..
  case unknownOpControlFrame => exact execUnknownOpControlFrame_keepsEpoch ..
  case controlFrameTimeout => exact execControlFrameTimeout_keepsEpoch ..
  case supTakeRequest => exact execSupTakeRequest_keepsEpoch ..
  case supReplyPost => exact execSupReplyPost_keepsEpoch ..
  case info => exact execInfo_keepsEpoch
  case ageingRead => exact execAgeingRead_keepsEpoch
  case ageingClear => exact execAgeingClear_keepsEpoch
  case svcSlotEmpty => exact execSvcSlotEmpty_keepsEpoch
  case trackHold => exact execTrackHold_keepsEpoch
  case trackResume => exact execTrackResume_keepsEpoch
  case tempRead => exact execTempRead_keepsEpoch
  case contactRefresh => exact execContactRefresh_keepsEpoch
  case logRead => exact execLogRead_keepsEpoch
  case storeWriteDone => exact execStoreWriteDone_keepsEpoch ..
  case tileCmdList => exact execTileCmdList_keepsEpoch ..
  case logSecond => exact execLogSecond_keepsEpoch
  case eventMboxPost => exact execEventMboxPost_keepsEpoch

/-! ### The commands at which an epoch opens, and those that bring epoch 0 back -/

variable (s)

/-- An epoch number below 16 and the number after it (R44). -/
theorem nextEpoch_cases {e : Nat} (h : e < 16) : (e < 15 ∧ nextEpoch e = e + 1) ∨ (e = 15 ∧ nextEpoch e = 1) := by
  unfold nextEpoch
  split <;> omega

/-- The epoch goes on, or the next one has opened. -/
def State.EpochGoesOn (s t : State) : Prop := t.tb.epoch = s.tb.epoch ∨ t.tb.epoch = nextEpoch s.tb.epoch

variable {s} in
theorem epochGoesOn_ite {p : Prop} [Decidable p] {t : State} (h : s.EpochGoesOn t) : s.EpochGoesOn (if p then t else s) := by
  split
  · exact h
  · exact .inl rfl

theorem State.epochGoesOn_openDue : s.EpochGoesOn s.openDue := by
  rw [State.EpochGoesOn, s.openDue_epoch]
  split
  · exact .inl rfl
  · exact .inr rfl

theorem exec_epochOpen : exec .epochOpen s = .next (if s.up then s.openDue else s) := rfl

theorem exec_snapshotRelease :
    exec .snapshotRelease s = .next (if s.dep.frozen && !s.dep.latch && s.dep.snapN then s.thawAll else s) := rfl

theorem exec_realign_epoch {t : State} (h : exec .realign s = .next t) : s.EpochGoesOn t := by
  obtain ⟨rfl⟩ : _ = t := Host.Outcome.next.inj h
  refine epochGoesOn_ite ?_
  dsimp only
  split
  · refine .inr ?_
    rw [State.openEpoch_epoch, State.addCause_epoch]
    simp
  · exact .inl rfl

theorem exec_timeStep_epoch {t : State} (h : exec .timeStep s = .next t) : s.EpochGoesOn t := by
  obtain ⟨rfl⟩ : _ = t := Host.Outcome.next.inj h
  refine epochGoesOn_ite ?_
  dsimp only
  split
  · refine epochGoesOn_ite ?_
    rw [State.EpochGoesOn, State.tb_ite, State.raise_tb, ite_self]
    exact State.epochGoesOn_openDue _
  · exact .inl rfl

/-- POR and RESET_N leave the epoch where they have no effect, and bring epoch 0 back otherwise (R43, R502). -/
theorem exec_reset_epoch {c : Instr} {t : State} (hc : c = .porAssert ∨ c = .resetNLow) (h : exec c s = .next t) :
    t.tb.epoch = s.tb.epoch ∨ t.tb.epoch = 0 := by
  rcases hc with rfl | rfl
  · exact .inr (Host.Outcome.next.inj h ▸ rfl)
  · obtain ⟨rfl⟩ : _ = t := Host.Outcome.next.inj h
    split
    · exact .inl rfl
    · exact .inr rfl

/-- A command keeps the epoch, opens the next one, or is a reset that brings epoch 0 back. -/
theorem exec_epoch {c : Instr} {t : State} (h : exec c s = .next t) :
    s.EpochGoesOn t ∨ ((c = .porAssert ∨ c = .resetNLow) ∧ t.tb.epoch = 0) := by
  by_cases hc : changesEpoch c = false
  · exact .inl (.inl ((exec_keepsEpoch c hc).epoch t h))
  · unfold changesEpoch at hc
    split at hc
    · rw [exec_epochOpen] at h
      exact .inl (Host.Outcome.next.inj h ▸ epochGoesOn_ite s.epochGoesOn_openDue)
    · exact .inl (exec_realign_epoch s h)
    · exact .inl (exec_timeStep_epoch s h)
    · rw [exec_snapshotRelease] at h
      exact .inl (Host.Outcome.next.inj h ▸ epochGoesOn_ite (.inr s.thawAll_epoch))
    · exact (exec_reset_epoch s (.inl rfl) h).imp .inl (⟨.inl rfl, ·⟩)
    · exact (exec_reset_epoch s (.inr rfl) h).imp .inl (⟨.inr rfl, ·⟩)
    · exact absurd rfl hc


/-- Settles O7: every command but six keeps the number, four of those let the next epoch open at most once, and POR and
RESET_N bring epoch 0 back. -/
theorem epochNumbers : Obligations.EpochNumbers := by
  refine ⟨fun c s t he h => ?_, fun s ws he => ?_, fun s ws he => ?_⟩
  · rcases exec_epoch s h with (hk | hn) | hr
    · exact .inl hk
    · rcases nextEpoch_cases he with ⟨hl, hs⟩ | ⟨hl, hs⟩
      · exact .inr (.inl ⟨hl, hn.trans hs⟩)
      · exact .inr (.inr (.inl ⟨hl, hn.trans hs⟩))
    · exact .inr (.inr (.inr hr))
  · rw [State.openEpoch_epoch, nextEpoch, if_neg (by omega)]
  · rw [State.openEpoch_epoch, he]
    rfl
end Sys2Proof.Machine
end

section
namespace Sys2Proof.Machine
open Sys2Proof

/-! ## O2, O5: the idle step and the state after reset (R40, R43, R522) -/

theorem step_idle (s : State) (h : s.pending = []) : step s = .next (s.advance 1) := by rw [step, h]

/-- Settles O2: an idle step is the passing of one slot, which outside resets and freezes moves the timebase alone. -/
theorem emptyQueuePassesOneSlot : Obligations.EmptyQueuePassesOneSlot := by
  intro s hp hu
  refine ⟨_, step_idle s hp, ?_⟩
  rw [s.advance_up 1 hu]
  exact ⟨rfl, rfl, rfl⟩

/-- After reset no sticky bit is set (R474). -/
theorem evSet_reset (k : Nat) : State.reset.evSet k = false := by
  unfold State.evSet
  split <;> exact BitVec.getLsbD_zero

/-- Settles O5: every memory, table and queue of the state after reset is empty, and each field stands at its default. -/
theorem resetState : Obligations.ResetState :=
  ⟨⟨rfl, rfl, rfl, rfl⟩, rfl, rfl, rfl, rfl, evSet_reset, rfl, rfl, fun _ => rfl, rfl, rfl⟩

end Sys2Proof.Machine
end

section
namespace Sys2Proof.Machine
open Sys2Proof

/-! ## O18: the instant of a commit (R154, R155) -/

/-- The first slot 4 slots after an entry's age lies 32 ns or more after its stamp just where the stamp lies in the slot that
the age names, or at its end. -/
theorem Hit.stamp_due_iff (h : Hit) : h.age * 8192 + h.sub + 4 * 8192 ≤ h.due 4 * 8192 ↔ h.sub ≤ 8192 := by
  unfold Hit.due
  split <;> omega

/-- An empty commit buffer has room (R154). -/
theorem State.commitRoom_of_empty (s : State) {t : Nat} {d : Dest} (h : ((s.tile t).commitBuf d).level = 0) :
    s.commitRoom t d = true := by
  rw [State.commitRoom, CommitBuf.levelAt, h, Nat.zero_sub]
  rfl

/-- An entry at slot age 0 whose stamp lies 8,193 fine units on, past the end of that slot. No edge leaves such an entry: the
statement does not ask for `sub` below 8,192. -/
def lateSubHit : Hit :=
  { stamp := {}, age := 0, sub := 8193, epoch := 0, rise := true, cs := false, st := false, spare := false, input := 0,
    lb := .waiting, eq := .waiting }

/-- A device whose channel 0 of tile 0 holds that entry, with room at its latency buffer, queue 0. -/
def lateSubState : State := { regs := [(0x101000, 0x10)], tiles := [(0, { chans := [(0, { fifo := [lateSubHit] })] })] }

end Sys2Proof.Machine
open Sys2Proof Sys2Proof.Machine

/-- Refutes O18: HIT_COMMIT of an entry with `sub` 8,193 falls at slot age 5, 1 fine unit less than 32 ns after the stamp; the
first clause bounds `sub` nowhere. -/
theorem not_hitsCommitOrAreRefused : ¬ Obligations.HitsCommitOrAreRefused := by
  unfold Obligations.HitsCommitOrAreRefused
  rintro ⟨hcommit, -⟩
  obtain ⟨hroom, -⟩ := hcommit lateSubState 0 0 .lb lateSubHit (by decide) (by decide) (by decide) (by decide) (by decide)
    (by decide) (by decide) (by decide)
  obtain ⟨t, -, -, hstamp, -⟩ := hroom (by decide) (by decide) (State.commitRoom_of_empty _ rfl)
  exact absurd (lateSubHit.stamp_due_iff.1 hstamp) (by decide)

end

section
namespace Sys2Proof.Machine
open Sys2Proof
variable (s : State)

/-! ## O10: the second boundary and the opening of an epoch (R44 to R48, R73) -/

/-! ### What the passing of time leaves of the timebase -/

theorem Timebase.note_eq (b : Timebase) (a : Nat) : ∃ cs, b.note a = { b with conds := cs } := by
  simp only [Timebase.note]
  split
  · split
    · exact ⟨_, rfl⟩
    · exact ⟨_, rfl⟩
  · exact ⟨_, rfl⟩

theorem Timebase.rampTo_eq (b : Timebase) (a : Nat) : ∃ c m, b.rampTo a = { b with acc := c, moved := m } := by
  unfold Timebase.rampTo
  split
  · exact ⟨_, _, rfl⟩
  · exact ⟨_, _, rfl⟩

/-- Time moves the clock, the slot age, the causes, the ramp's accumulator and phase and the conditions noted, nothing else. -/
theorem Timebase.run_frame (b : Timebase) (n : Nat) :
    { b.run n with
      time := b.time, age := b.age, openDue := b.openDue, causes := b.causes, acc := b.acc, moved := b.moved
      conds := b.conds } = b := by
  obtain ⟨cs, hn⟩ := b.note_eq b.age
  obtain ⟨c, m, hr⟩ := (b.note b.age).rampTo_eq (b.age + n)
  rw [Timebase.run, hr, hn]

@[simp] theorem Timebase.run_st (b : Timebase) (n : Nat) : (b.run n).st = b.st := (congrArg Timebase.st (b.run_frame n) :)
@[simp] theorem Timebase.run_prof (b : Timebase) (n : Nat) : (b.run n).prof = b.prof :=
  (congrArg Timebase.prof (b.run_frame n) :)
@[simp] theorem Timebase.run_setVal (b : Timebase) (n : Nat) : (b.run n).setVal = b.setVal :=
  (congrArg Timebase.setVal (b.run_frame n) :)
@[simp] theorem Timebase.run_realignVal (b : Timebase) (n : Nat) : (b.run n).realignVal = b.realignVal :=
  (congrArg Timebase.realignVal (b.run_frame n) :)
@[simp] theorem Timebase.run_stepVal (b : Timebase) (n : Nat) : (b.run n).stepVal = b.stepVal :=
  (congrArg Timebase.stepVal (b.run_frame n) :)

/-! ### The second boundary -/

/-- The nanoseconds of a clock that goes on by whole slots. -/
theorem Time.addNs_ns (t : Time) (n : Nat) (h : t.fine < 1024) : (t.addNs (8 * n)).ns = (t.ns + 8 * n) % 1000000000 := by
  simp only [Time.addNs, Time.addFine, nsPerSec]
  omega

theorem Time.ns_lt {t : Time} (h : t.wf = true) : t.ns < 1000000000 := by
  simp only [Time.wf, Bool.and_eq_true, decide_eq_true_eq] at h
  exact h.1.2

theorem Time.fine_lt {t : Time} (h : t.wf = true) : t.fine < 1024 := by
  simp only [Time.wf, Bool.and_eq_true, decide_eq_true_eq] at h
  exact h.2

/-- The next second boundary lies ahead, and a clock that has reached it stands in the second's first slot (R40). -/
theorem State.toSecond_pos (h : s.now.wf = true) : 0 < s.toSecond := by
  have hns := Time.ns_lt h
  unfold State.toSecond
  omega

theorem State.ns_advance_toSecond (hu : s.up = true) (h : s.now.wf = true) : (s.advance s.toSecond).now.ns < 8 := by
  rw [s.advance_up _ hu]
  show (s.now.addNs (8 * s.toSecond)).ns < 8
  have hns := Time.ns_lt h
  rw [Time.addNs_ns _ _ (Time.fine_lt h), State.toSecond]
  omega

theorem State.advance_cs (n : Nat) (hu : s.up = true) : (s.advance n).cs = s.cs := by
  rw [s.advance_up n hu, State.cs, Timebase.run_st]
  rfl

theorem State.advance_st (n : Nat) (hu : s.up = true) : (s.advance n).st = s.st := by
  rw [s.advance_up n hu, State.st, Timebase.run_prof]
  rfl

theorem exec_secondBoundary (hu : s.up = true) (u : State)
    (h : (if s.now.ns = 0 ∧ s.tb.secAge ≠ s.tb.age then s else s.advance s.toSecond) = u) :
    exec .secondBoundary s =
      .next (({ u with tb := { u.tb with secAge := u.tb.age } } : State).markAll 0
        [secondsMarker u.tb.epoch u.cs u.st u.now.s]) := by
  rw [← h]
  show execSecondBoundary s = _
  rw [execSecondBoundary, onChip_up s _ hu]
  rfl

/-! ### What markers, event sources and watermarks leave -/

/-- `t` is `s` but for what the giving of markers and the setting of event sources can change: tiles, flow-control outputs,
event sources with their routes and log, streams, the time quality, and a pending Dark request. -/
def State.MarkFrame (s t : State) : Prop :=
  { t with tiles := s.tiles, fco := s.fco, ev := s.ev, nv := s.nv, sup := s.sup, lk := s.lk, tt := s.tt, pw := s.pw } = s

variable {s} in
theorem State.MarkFrame.trans {t u : State} (h : s.MarkFrame t) (k : t.MarkFrame u) : s.MarkFrame u := by
  unfold State.MarkFrame at *
  rw [← h, ← k]

/-- Of the streams, the event stream is as it was (R334). -/
structure State.MarksApart (s t : State) : Prop where
  rest : s.MarkFrame t
  stream : t.stream 1 0 = s.stream 1 0

theorem State.MarksApart.refl (s : State) : s.MarksApart s := ⟨rfl, rfl⟩

theorem State.MarksApart.trans {s t u : State} (h : s.MarksApart t) (k : t.MarksApart u) : s.MarksApart u :=
  ⟨h.rest.trans k.rest, k.stream.trans h.stream⟩

theorem State.MarksApart.ite {s t u : State} {p : Prop} [Decidable p] (h : s.MarksApart t) (k : s.MarksApart u) :
    s.MarksApart (if p then t else u) := by
  split
  · exact h
  · exact k

theorem State.marksApart_modTile (t : Nat) (f : Tile → Tile) : s.MarksApart (s.modTile t f) := ⟨rfl, rfl⟩

theorem State.marksApart_send (c i : Nat) (ws : List W64) (h : streamKey c i ≠ streamKey 1 0) :
    s.MarksApart (s.send c i ws) :=
  ⟨rfl, (s.stream_setStream c i 1 0 _).trans (if_neg h.symm)⟩

theorem State.marksApart_setSticky (k : Nat) : s.MarksApart (s.setSticky k) := .ite (s.marksApart_modTile _ _) ⟨rfl, rfl⟩

theorem State.marksApart_log (kind source detail : Nat) : s.MarksApart (s.log kind source detail) :=
  .ite (.refl s) (.ite ⟨rfl, rfl⟩ ⟨rfl, rfl⟩)

theorem State.marksApart_routeAlert (k : Nat) (at_ : Time) (unmask : Bool) : s.MarksApart (s.routeAlert k at_ unmask) := by
  have h : s.MarksApart (if bit (s.evRoute k) 0 then s.send 3 0 [alertRecord k s.tb.epoch unmask, alertTime at_] else s) :=
    .ite (s.marksApart_send 3 0 _ (by decide)) (.refl s)
  exact .ite (h.trans ((State.marksApart_log _ 0 k 0).trans ⟨rfl, rfl⟩)) h

theorem State.marksApart_raiseQuiet (k : Nat) : s.MarksApart (s.raiseQuiet k) :=
  .ite (.refl s) (.ite (s.marksApart_setSticky k) ((s.marksApart_setSticky k).trans (State.marksApart_routeAlert ..)))

theorem State.marksApart_placePost (k : Nat) : s.MarksApart (s.placePost k) :=
  State.MarksApart.trans (t := s.setSlot _ _) ⟨rfl, rfl⟩ (State.marksApart_send _ 6 0 _ (by decide))

theorem State.marksApart_routeBox (k : Nat) : s.MarksApart (s.routeBox k) :=
  .ite (.ite (.ite ⟨rfl, rfl⟩
    (State.MarksApart.trans (t := { s with ev := { s.ev with lost := satAdd (2 ^ 32 - 1) s.ev.lost 1 } }) ⟨rfl, rfl⟩
      (State.marksApart_raiseQuiet ..))) (s.marksApart_placePost k)) (.refl s)

theorem State.marksApart_raise (k : Nat) : s.MarksApart (s.raise k) :=
  .ite (.refl s) (.ite (s.marksApart_setSticky k) ((s.marksApart_setSticky k).trans
    ((State.marksApart_routeAlert ..).trans (State.marksApart_routeBox ..))))

theorem State.marksApart_qSticky (t q : Nat) (f : Queue → Queue) : s.MarksApart (s.qSticky t q f) := ⟨rfl, rfl⟩

theorem State.marksApart_qRefuse (t q n : Nat) : s.MarksApart (s.qRefuse t q n) :=
  .ite (s.marksApart_qSticky ..) ((s.marksApart_qSticky ..).trans (State.marksApart_raise ..))

theorem State.marksApart_fcoRise (k : Nat) : s.MarksApart (s.fcoRise k) := .ite ⟨rfl, rfl⟩ (.refl s)

theorem State.marksApart_fcoReturn (k : Nat) : s.MarksApart (s.fcoReturn k) := .ite ⟨rfl, rfl⟩ (.refl s)

/-- A watermark that is passed: its sticky bit, and its event where the queue has it. -/
theorem State.marksApart_passed (t q k : Nat) (f : Queue → Queue) (b : Bool) :
    s.MarksApart (if b then (s.qSticky t q f).raise k else s.qSticky t q f) :=
  .ite ((s.marksApart_qSticky ..).trans (State.marksApart_raise ..)) (s.marksApart_qSticky ..)

theorem State.marksApart_qEval (t q : Nat) : s.MarksApart (s.qEval t q) :=
  .ite (.ite ((s.marksApart_modTile ..).trans (State.marksApart_fcoReturn ..)) (.refl s))
    (.ite ((s.marksApart_passed ..).trans (State.marksApart_fcoRise ..))
      (.ite ((s.marksApart_passed ..).trans (State.marksApart_fcoReturn ..)) (.refl s)))

theorem State.marksApart_putWords (t q pos age : Nat) (ws : List (W64 × Option SliceTag)) :
    s.MarksApart (s.putWords t q pos age ws) := by
  induction ws generalizing s pos with
  | nil => exact .refl s
  | cons w ws ih => exact (s.marksApart_modTile ..).trans (ih _ _)

theorem State.marksApart_qOffer (t q age : Nat) (ws : List W64) : s.MarksApart (s.qOffer t q age ws).2 := by
  unfold State.qOffer
  split
  · exact (s.marksApart_putWords ..).trans ((State.marksApart_modTile ..).trans (State.marksApart_qEval ..))
  · exact s.marksApart_qRefuse ..

theorem State.marksApart_lbExpire (t : Nat) : s.MarksApart (s.lbExpire t) :=
  (State.MarksApart.ite (s.marksApart_modTile ..) (.refl s)).trans
    ((State.marksApart_modTile ..).trans (State.marksApart_qEval ..))

theorem State.marksApart_capOffer (t q age : Nat) (w : W64) : s.MarksApart (s.capOffer t q age w).2 := by
  unfold State.capOffer State.lbOffer
  dsimp only
  split
  · split
    · exact (s.marksApart_lbExpire t).trans (State.marksApart_qOffer ..)
    · exact s.marksApart_qOffer ..
  · exact s.marksApart_qOffer ..

theorem State.marksApart_flushHeld (t q : Nat) (limit : Option Nat) (ms : List HeldMark) :
    s.MarksApart (s.flushHeld t q limit ms).1 := by
  induction ms generalizing s with
  | nil => exact .refl s
  | cons m ms ih =>
    unfold State.flushHeld
    extract_lets ready
    clear_value ready
    split
    · exact .refl s
    · split
      · exact (s.marksApart_capOffer ..).trans (ih _)
      · split
        · exact .refl s
        · exact s.marksApart_qRefuse ..

theorem State.marksApart_settleHeld (t q : Nat) (limit : Option Nat) : s.MarksApart (s.settleHeld t q limit) :=
  (s.marksApart_flushHeld t q limit (s.heldAt t q)).trans ⟨rfl, rfl⟩

theorem State.marksApart_giveMarks (t q : Nat) (ms : List HeldMark) : s.MarksApart (s.giveMarks t q ms) :=
  (s.marksApart_modTile ..).trans (State.marksApart_settleHeld ..)

theorem State.marksApart_markAll (barrier : Nat) (ws : List W64) : s.MarksApart (s.markAll barrier ws) :=
  forKeys_keeps State.MarksApart.refl State.MarksApart.trans (fun _ s => .ite
    (forKeys_keeps State.MarksApart.refl State.MarksApart.trans (fun _ s => s.marksApart_giveMarks ..) _ s) (.refl s)) _ s

theorem State.marksApart_hoRestart : s.MarksApart s.hoRestart :=
  forKeys_keeps State.MarksApart.refl State.MarksApart.trans (fun _ s => s.marksApart_modTile ..) _ s

theorem State.marksApart_dropDark (reason : Nat) : s.MarksApart (s.dropDark reason) :=
  .ite (State.MarksApart.trans (t := { s with pw := { s.pw with dark := none, reason := reason } }) ⟨rfl, rfl⟩
    (State.marksApart_raise ..)) (.refl s)

theorem State.marksApart_updQuality : s.MarksApart s.updQuality :=
  .ite (.refl s) (State.MarksApart.trans (t := { s with tt := { s.tt with quality := s.qualityCode } }) ⟨rfl, rfl⟩
    (State.marksApart_raise ..))

/-! ### The opening of an epoch -/

/-- The state in which the epoch has opened, ahead of its markers and events: the first half of State.openEpoch. -/
def State.reopened (s : State) : State :=
  let causes := s.tb.causes
  let res := s.tb.residual
  let s := { s with
    tb := s.tb.opened
    tt := { s.tt.dropped with block := [], last := none }
    eb := { s.eb with pending := doomTriggers s.tb.age s.eb.pending }
    cfg := if s.cfg.decided then { s.cfg with fixAge := s.tb.age } else s.cfg
    pw := if s.pw.st = PwState.dark then { s.pw with darkCauses := s.pw.darkCauses ||| causes } else s.pw }
  match res with
  | some r => { s with tb := { s.tb with autoReq := some ⟨r * rampUnit, s.steerMax, 0⟩ } }
  | none => s

/-- The words that every capture destination and uplink stream receives at the opening (R47, R51). -/
def State.openWords (s : State) (pre : List W64) : List W64 :=
  pre ++ [epochMarker s.reopened.tb.epoch s.tb.epoch s.tb.causes.toNat s.reopened.now.ns, s.reopened.secMark]

/-- The opening with its markers at the capture destinations. -/
def State.openMarked (s : State) (pre : List W64) : State :=
  s.reopened.hoRestart.markAll (fineAge s.reopened.tb.age 0) (s.openWords pre)

/-- A host profile runs, which the opening preempts (R73). -/
def State.hostRuns (s : State) : Bool :=
  match s.tb.prof with
  | some ⟨false, _, _⟩ => true
  | _ => false

/-- The opening once every stream has its markers: the events and the time quality (R47, R73). -/
def State.openEvents (s : State) (host : Bool) : State :=
  (((if host then s.raise (chipSrc 5) else s).dropDark 3).raise (chipSrc 6)).updQuality

theorem State.openEpoch_eq (pre : List W64) : s.openEpoch pre =
    (forKeys [1, 3, 4, 5, 6, 7] (fun c t => t.sendOwn c 0 (s.openWords pre)) (s.openMarked pre)).openEvents s.hostRuns := rfl

theorem State.marksApart_openMarked (pre : List W64) : s.reopened.MarksApart (s.openMarked pre) :=
  (State.marksApart_hoRestart _).trans (State.marksApart_markAll ..)

theorem State.marksApart_openEvents (host : Bool) : s.MarksApart (s.openEvents host) :=
  (State.MarksApart.ite (s.marksApart_raise _) (.refl s)).trans
    ((State.marksApart_dropDark _ 3).trans ((State.marksApart_raise ..).trans (State.marksApart_updQuality _)))

theorem forKeys_cons (k : Nat) (ks : List Nat) (f : Nat → State → State) :
    forKeys (k :: ks) f s = forKeys ks f (f k s) := rfl

theorem State.sendAll_frame (cs : List Nat) (ws : List W64) : s.MarkFrame (forKeys cs (fun c t => t.sendOwn c 0 ws) s) :=
  @forKeys_keeps State.MarkFrame (fun _ => rfl) State.MarkFrame.trans (fun c t => t.sendOwn c 0 ws) (fun _ _ => rfl) cs s

theorem State.stream_sendOwn_ne {c i d j : Nat} (h : streamKey d j ≠ streamKey c i) (ws : List W64) :
    (s.sendOwn c i ws).stream d j = s.stream d j :=
  (s.stream_setStream c i d j _).trans (if_neg h)

theorem State.stream_sendAll_ne {d j : Nat} (cs : List Nat) (ws : List W64)
    (h : ∀ c ∈ cs, streamKey d j ≠ streamKey c 0) :
    (forKeys cs (fun c t => t.sendOwn c 0 ws) s).stream d j = s.stream d j := by
  induction cs generalizing s with
  | nil => rfl
  | cons c cs ih =>
    rw [forKeys_cons, ih _ (fun k hk => h k (.tail _ hk)), s.stream_sendOwn_ne (h c (.head _))]

/-- The event stream takes the markers of an opening once (R47). -/
theorem State.wait_sendAll (ws : List W64) : ((forKeys [1, 3, 4, 5, 6, 7] (fun c t => t.sendOwn c 0 ws) s).stream 1 0).wait =
    (s.stream 1 0).wait ++ [{ words := ws }] := by
  rw [forKeys_cons, State.stream_sendAll_ne _ _ _ (by decide), s.stream_sendOwn_same]

theorem State.reopened_tb : ∃ r, s.reopened.tb = { s.tb.opened with autoReq := r } := by
  unfold State.reopened
  dsimp only
  split
  · exact ⟨_, rfl⟩
  · exact ⟨_, rfl⟩

theorem State.reopened_frame : { s.reopened with tb := s.tb, tt := s.tt, eb := s.eb, cfg := s.cfg, pw := s.pw } = s := by
  unfold State.reopened
  dsimp only
  split
  · rfl
  · rfl

theorem State.reopened_rest : s.reopened.regs = s.regs ∧ s.reopened.msg = s.msg ∧ s.reopened.cal = s.cal ∧
    s.reopened.pr = s.pr ∧ s.reopened.lk = s.lk :=
  ⟨(congrArg State.regs s.reopened_frame :), (congrArg State.msg s.reopened_frame :), (congrArg State.cal s.reopened_frame :),
    (congrArg State.pr s.reopened_frame :), (congrArg State.lk s.reopened_frame :)⟩

/-- The opening is the state with the epoch open but for its markers and events. -/
theorem State.openEpoch_frame (pre : List W64) : s.reopened.MarkFrame (s.openEpoch pre) := by
  rw [s.openEpoch_eq pre]
  exact (s.marksApart_openMarked pre).rest.trans ((State.sendAll_frame ..).trans (State.marksApart_openEvents ..).rest)

theorem State.openEpoch_tb (pre : List W64) : (s.openEpoch pre).tb = s.reopened.tb :=
  (congrArg State.tb (s.openEpoch_frame pre) :)

/-- The event stream receives the words of an opening in one piece (R47). -/
theorem State.openEpoch_wait (pre : List W64) :
    ((s.openEpoch pre).stream 1 0).wait = (s.stream 1 0).wait ++ [{ words := s.openWords pre }] := by
  obtain ⟨-, -, -, -, hlk⟩ := s.reopened_rest
  have hs : s.reopened.stream 1 0 = s.stream 1 0 := by rw [State.stream, hlk, State.stream]
  rw [s.openEpoch_eq pre, (State.marksApart_openEvents ..).stream, State.wait_sendAll, (s.marksApart_openMarked pre).stream, hs]

theorem State.openEpoch_rest (pre : List W64) : (s.openEpoch pre).regs = s.regs ∧ (s.openEpoch pre).msg = s.msg ∧
    (s.openEpoch pre).cal = s.cal ∧ (s.openEpoch pre).pr = s.pr := by
  have h := s.openEpoch_frame pre
  obtain ⟨hregs, hmsg, hcal, hpr, -⟩ := s.reopened_rest
  exact ⟨(congrArg State.regs h :).trans hregs, (congrArg State.msg h :).trans hmsg, (congrArg State.cal h :).trans hcal,
    (congrArg State.pr h :).trans hpr⟩

/-- What an opening leaves of the timebase: no cause and no profile, and device time of the one cause
that prevails (R45, R73). -/
theorem State.openEpoch_timebase (pre : List W64) : (s.openEpoch pre).tb.causes = 0 ∧ (s.openEpoch pre).tb.prof = none ∧
    (s.openEpoch pre).tb.moved = 0 ∧ (s.openEpoch pre).tb.st = s.tb.st ∧ (s.openEpoch pre).tb.time = s.tb.opened.time := by
  obtain ⟨r, h⟩ := s.reopened_tb
  rw [s.openEpoch_tb pre, h]
  exact ⟨rfl, rfl, rfl, rfl, rfl⟩

theorem nextEpoch_eq {e : Nat} (h : e < 16) : nextEpoch e = if e = 15 then 1 else e + 1 := by
  unfold nextEpoch
  split <;> split <;> omega

/-- The words of an opening, read off the state after it. -/
theorem State.openWords_nil : s.openWords [] =
    [epochMarker (s.openEpoch []).tb.epoch s.tb.epoch s.tb.causes.toNat (s.openEpoch []).tb.time.ns,
      secondsMarker (s.openEpoch []).tb.epoch s.cs false (s.openEpoch []).tb.time.s] := by
  have h := s.openEpoch_timebase []
  rw [s.openEpoch_tb []] at *
  obtain ⟨-, hprof, -, hst, -⟩ := h
  rw [State.openWords, State.secMark, State.cs, State.st, hprof, hst]
  rfl

theorem State.advanceTo_rest (a : Nat) (hu : s.up = true) : (s.advanceTo a).regs = s.regs ∧ (s.advanceTo a).msg = s.msg ∧
    (s.advanceTo a).cal = s.cal ∧ (s.advanceTo a).pr = s.pr ∧ (s.advanceTo a).stream 1 0 = s.stream 1 0 := by
  rw [s.advanceTo_eq a hu]
  exact ⟨rfl, rfl, rfl, rfl, rfl⟩

theorem State.advanceTo_values (a : Nat) (hu : s.up = true) : (s.advanceTo a).tb.setVal = s.tb.setVal ∧
    (s.advanceTo a).tb.realignVal = s.tb.realignVal ∧ (s.advanceTo a).tb.stepVal = s.tb.stepVal := by
  rw [s.advanceTo_eq a hu]
  exact ⟨s.tb.run_setVal _, s.tb.run_realignVal _, s.tb.run_stepVal _⟩

theorem State.advanceTo_cs (a : Nat) (hu : s.up = true) : (s.advanceTo a).cs = s.cs := s.advance_cs _ hu

theorem exec_epochOpen_due (hu : s.up = true) (hc : s.tb.causes ≠ 0) :
    exec .epochOpen s = .next ((s.advanceTo s.tb.openDue).openEpoch []) := by
  rw [exec_epochOpen, if_pos hu, State.openDue, if_neg hc]

end Sys2Proof.Machine
open Sys2Proof Sys2Proof.Machine

/-- Settles O10: time runs on to the boundary and leaves epoch, lock and ramp as they are, and the opening is the state with the
epoch open but for the markers and events that follow. -/
theorem secondsAndEpochs : Obligations.SecondsAndEpochs := by
  refine ⟨fun s hu hwf hns => ⟨s.toSecond, s.toSecond_pos hwf, s.ns_advance_toSecond hu hwf, ?_⟩, fun s hu hns hsec => ?_,
    fun s hu hc he => ⟨_, exec_epochOpen_due s hu hc, ?_⟩⟩
  · rw [exec_secondBoundary s hu _ (if_neg fun h => hns h.1), s.advance_cs _ hu, s.advance_st _ hu, State.advance_epoch,
      s.advance_age _ hu]
  · exact exec_secondBoundary s hu s (if_pos ⟨hns, hsec⟩)
  · obtain ⟨hcauses, hprof, hmoved, -, htime⟩ := (s.advanceTo s.tb.openDue).openEpoch_timebase []
    obtain ⟨hregs, hmsg, hcal, hpr⟩ := (s.advanceTo s.tb.openDue).openEpoch_rest []
    obtain ⟨hregs', hmsg', hcal', hpr', hlk⟩ := s.advanceTo_rest s.tb.openDue hu
    obtain ⟨hset, hrealign, hstep⟩ := s.advanceTo_values s.tb.openDue hu
    refine ⟨?_, hcauses, hprof, hmoved, hregs.trans hregs', hmsg.trans hmsg', hcal.trans hcal', hpr.trans hpr', ?_, ?_⟩
    · rw [State.openEpoch_epoch, State.advanceTo_epoch, nextEpoch_eq he]
    · rw [State.openEpoch_wait, State.openWords_nil, State.advanceTo_epoch, hlk, s.advanceTo_cs _ hu]
    · rw [htime, ← hset, ← hrealign, ← hstep]
      rfl

end

section
namespace Sys2Proof.Machine
open Sys2Proof
variable (s : State)

/-! ## O12: the holdover oscillator, the replica counters and the commands of the timebase (R62, R69 to R79, R83) -/

@[simp] theorem Timebase.run_replCnt (b : Timebase) (n : Nat) : (b.run n).replCnt = b.replCnt :=
  (congrArg Timebase.replCnt (b.run_frame n) :)

/-! ### The holdover oscillator -/

theorem exec_loscMissing (hu : s.up = true) :
    exec .loscMissing s = .next (if bit (s.rv 0x1000) 2 then
      ({ s with tb := { s.tb with loscOk := false } } : State).raise (chipSrc 2)
        else { s with tb := { s.tb with loscOk := false } }) :=
  show execLoscMissing s = _ from onChip_up s _ hu

theorem exec_loscClockPresent (hu : s.up = true) :
    exec .loscClockPresent s = .next { s with tb := { s.tb with loscOk := true } } :=
  show execLoscClockPresent s = _ from onChip_up s _ hu

/-! ### The check of the replicas at a 1.024 µs boundary -/

/-- What the check makes of a tile that has power. -/
def Tile.checked (x : Tile) (a : Nat) : Tile :=
  if !x.powered then x else if x.pairLoad then x.replicaLoad a else if x.rep ≠ 0 then x.replicaDoubt a else x

theorem Tile.checked_of_pairLoad {x : Tile} (a : Nat) (hp : x.powered = true) (h : x.pairLoad = true) :
    x.checked a = x.replicaLoad a := by
  simp [Tile.checked, hp, h]

theorem Tile.checked_of_no_pairLoad {x : Tile} (a : Nat) (hp : x.powered = true) (h : x.pairLoad = false) :
    x.checked a = if x.rep = 0 then x else x.replicaDoubt a := by
  simp [Tile.checked, hp, h]

/-- A tile in doubt carries CS from now or from before, its counters as they were. -/
theorem Tile.replicaDoubt_eq (x : Tile) (a : Nat) : ∃ k, x.replicaDoubt a = { x with repLoad := true, repFrom := k } := by
  unfold Tile.replicaDoubt
  split
  next h => exact ⟨x.repFrom, by rw [← h]⟩
  next => exact ⟨a, rfl⟩

theorem Tile.pairLoad_checked {x : Tile} (a : Nat) (hp : x.powered = true) : (x.checked a).pairLoad = false := by
  by_cases h : x.pairLoad = true
  · rw [Tile.checked_of_pairLoad a hp h]
    rfl
  · have h : x.pairLoad = false := by simpa using h
    obtain ⟨k, hk⟩ := x.replicaDoubt_eq a
    rw [Tile.checked_of_no_pairLoad a hp h, hk]
    split <;> exact h

theorem Tile.checked_counters {x : Tile} (a : Nat) (hp : x.powered = true) (h : x.pairLoad = false) :
    (x.checked a).rep = x.rep ∧ (x.checked a).repLoad = if x.rep = 0 then x.repLoad else true := by
  obtain ⟨k, hk⟩ := x.replicaDoubt_eq a
  rw [Tile.checked_of_no_pairLoad a hp h, hk]
  split <;> exact ⟨rfl, rfl⟩

/-- The check of the first `n` tiles. -/
def State.checkTiles (s : State) (n : Nat) : State :=
  forKeys (List.range n) (fun t s => s.modTile t (fun x => x.checked s.tb.age)) s

theorem State.checkTiles_succ (n : Nat) :
    s.checkTiles (n + 1) = (s.checkTiles n).modTile n (fun x => x.checked (s.checkTiles n).tb.age) := by
  simp [State.checkTiles, forKeys, List.range_succ]

theorem State.checkTiles_frame (n : Nat) : { s.checkTiles n with tiles := s.tiles } = s := by
  induction n with
  | zero => rfl
  | succ n ih =>
    rw [s.checkTiles_succ n]
    exact ih

theorem State.tile_checkTiles {n u : Nat} (h : u < n) : (s.checkTiles n).tile u = (s.tile u).checked s.tb.age := by
  have hlate : ∀ n, n ≤ u → (s.checkTiles n).tile u = s.tile u := by
    intro n hn
    induction n with
    | zero => rfl
    | succ n ih => rw [s.checkTiles_succ n, State.tile_modTile_ne _ _ _ (by omega), ih (by omega)]
  induction n with
  | zero => omega
  | succ n ih =>
    have htb : (s.checkTiles n).tb = s.tb := (congrArg State.tb (s.checkTiles_frame n) :)
    rw [s.checkTiles_succ n, htb]
    by_cases hn : u = n
    · rw [hn, State.tile_modTile_same, ← hn, hlate u le_rfl]
    · rw [State.tile_modTile_ne _ _ _ hn, ih (by omega)]

/-- The check's boundary, at which the master broadcasts its time. -/
def State.atCheck (s : State) : State :=
  let x := if s.now.engine % (128 * 8192) = 0 then s else s.advance (s.toBoundary 128)
  { x with tb := { x.tb with checkAge := x.tb.age } }

theorem exec_replicaCheck (hu : s.up = true) : exec .replicaCheck s = .next (s.atCheck.checkTiles s.atCheck.nTiles) :=
  show execReplicaCheck s = _ from onChip_up s _ hu

/-- Up to the check only the timebase moves. -/
theorem State.atCheck_eq (hu : s.up = true) : ∃ b : Timebase, s.atCheck = { s with tb := b } ∧ b.checkAge = b.age ∧
    b.age = s.tb.age + if s.now.engine % (128 * 8192) = 0 then 0 else s.toBoundary 128 := by
  unfold State.atCheck
  split
  · exact ⟨_, rfl, rfl, rfl⟩
  · rw [s.advance_up _ hu]
    exact ⟨_, rfl, rfl, rfl⟩

/-! ### The loading of a replica, and a pair that disagrees -/

theorem State.evSet_raiseAt (k : Nat) (at_ : Time) (h : k < 1152) : (s.raiseAt k at_).evSet k = true := by
  unfold State.raiseAt
  split
  · assumption
  · split
    · exact s.evSet_setSticky k h
    · exact State.evSet_routes_mono _ _ _ _ _ (s.evSet_setSticky k h)

/-- A mismatch is counted, and its event sets (R76, R77). -/
theorem State.apart_replicaMiss (t : Nat) (at_ : Time) :
    ({ s with tb := { s.tb with replCnt := satAdd 65535 s.tb.replCnt 1, replTile := t } } : State).EventsApart
      (s.replicaMiss t at_) :=
  State.apart_raiseAt _ _ _

theorem State.replicaMiss_tb (t : Nat) (at_ : Time) :
    (s.replicaMiss t at_).tb = { s.tb with replCnt := min 65535 (s.tb.replCnt + 1), replTile := t } :=
  (congrArg State.tb (s.apart_replicaMiss t at_).1 :)

theorem State.tile_replicaMiss (t : Nat) (at_ : Time) (v : Nat) :
    { (s.replicaMiss t at_).tile v with te := 0 } = ({ s.tile v with te := 0 } : Tile) :=
  (s.apart_replicaMiss t at_).2 v

theorem State.evSet_replicaMiss {t : Nat} (at_ : Time) (h : t < s.nTiles) :
    (s.replicaMiss t at_).evSet (tileSrc t 3) = true := by
  have := s.nTiles_le
  exact State.evSet_raiseAt _ _ _ (by unfold tileSrc; omega)

/-- An entry stamped from slot age `a` on carries CS (R58). -/
def Hit.doubtFrom (a : Nat) (h : Hit) : Hit := if a ≤ h.age then { h with cs := true } else h

theorem Hit.cs_of_doubtFrom {a : Nat} {h : Hit} (ha : a ≤ (h.doubtFrom a).age) : (h.doubtFrom a).cs = true := by
  unfold Hit.doubtFrom at *
  split
  · rfl
  next hlt =>
    rw [if_neg hlt] at ha
    exact absurd ha hlt

/-- A tile whose replica differed from the check at slot age `a` on. -/
def Tile.doubtFrom (x : Tile) (a : Nat) : Tile :=
  { x.replicaDoubt a with chans := x.chans.map (fun p => (p.1, { p.2 with fifo := p.2.fifo.map (Hit.doubtFrom a) })) }

/-- A table mapped by a function that keeps the default. -/
theorem mapGet_map {α : Type} {d : Nat → α} {f : α → α} (hd : ∀ k, f (d k) = d k) (m : Map α) (k : Nat) :
    mapGet d (m.map (fun p => (p.1, f p.2))) k = f (mapGet d m k) := by
  induction m with
  | nil => exact (hd k).symm
  | cons p m ih =>
    obtain ⟨j, v⟩ := p
    simp only [List.map_cons, mapGet, ih]
    split <;> rfl

theorem Tile.fifo_doubtFrom (x : Tile) (a c : Nat) : ((x.doubtFrom a).chan c).fifo = (x.chan c).fifo.map (Hit.doubtFrom a) := by
  have h : (x.doubtFrom a).chan c = { x.chan c with fifo := (x.chan c).fifo.map (Hit.doubtFrom a) } :=
    mapGet_map (d := fun _ => ({} : Chan)) (f := fun y => { y with fifo := y.fifo.map (Hit.doubtFrom a) })
      (fun _ => rfl) x.chans c
  rw [h]

/-- Every entry that stands at an age from `a` on carries CS. -/
theorem Tile.cs_of_doubtFrom (x : Tile) {a : Nat} (c : Nat) {h : Hit} (hm : h ∈ ((x.doubtFrom a).chan c).fifo)
    (ha : a ≤ h.age) : h.cs = true := by
  rw [x.fifo_doubtFrom a c, List.mem_map] at hm
  obtain ⟨g, -, rfl⟩ := hm
  exact Hit.cs_of_doubtFrom ha

/-- The state one slot after the check at slot age `a`, in which the tile has the broadcast value. -/
def State.reloaded (s : State) (t a : Nat) : State :=
  let x := (s.modTile t (fun x => x.doubtFrom a)).advanceTo (a + 1)
  x.modTile t (fun y => y.replicaLoad x.tb.age)

theorem exec_replicaReload {t : Nat} (hu : s.up = true) (ht : t < s.nTiles) (hp : (s.tile t).powered = true)
    (x : State) (hx : s.reloaded t s.tb.checkAge = x) :
    exec (.replicaReload t) s = .next (x.replicaMiss t (x.now.addNs (-8 * ((x.tb.age - s.tb.checkAge : Nat) : Int)))) := by
  rw [← hx]
  show execReplicaReload t s = _
  rw [execReplicaReload, onTile_up s t _ hu ht, if_pos hp]
  rfl

theorem State.nTiles_reloaded (t a : Nat) : (s.reloaded t a).nTiles = s.nTiles := (s.modTile t _).advance_nTiles _

theorem State.reloaded_tb (t a : Nat) (hu : s.up = true) : (s.reloaded t a).tb = s.tb.run (a + 1 - s.tb.age) :=
  congrArg State.tb ((s.modTile t (fun x => x.doubtFrom a)).advanceTo_eq (a + 1) hu)

theorem State.tile_reloaded (t a : Nat) :
    (s.reloaded t a).tile t = ((s.tile t).doubtFrom a).replicaLoad (s.reloaded t a).tb.age := by
  unfold State.reloaded
  dsimp only
  rw [State.tile_modTile_same, State.advanceTo, State.advance_tile, State.tile_modTile_same]
  rfl

theorem State.tile_reloaded_ne {t v : Nat} (a : Nat) (h : v ≠ t) : (s.reloaded t a).tile v = s.tile v := by
  unfold State.reloaded
  dsimp only
  rw [State.tile_modTile_ne _ _ _ h, State.advanceTo, State.advance_tile, State.tile_modTile_ne _ _ _ h]

/-- The state in which a tile's pair disagrees: the two counters take values of their own (R77). -/
def State.pairSplit (s : State) (t : Nat) : State :=
  let a := Config.replicaDrift s.fresh false
  let b := Config.replicaDrift s.fresh true
  s.draw.2.modTile t (fun x => { x.replicaDoubt s.tb.age with pairLoad := true, rep := a, repB := if b = a then a + 1 else b })

theorem exec_replicaPairMismatch {t : Nat} (hu : s.up = true) (ht : t < s.nTiles) (hp : (s.tile t).powered = true)
    (hb : s.bracket = true) : exec (.replicaPairMismatch t) s = .next ((s.pairSplit t).replicaMiss t s.now) := by
  show execReplicaPairMismatch t s = _
  rw [execReplicaPairMismatch, onTile_up s t _ hu ht, hp, hb]
  rfl

theorem State.tile_pairSplit (t : Nat) : ∃ k a b, a ≠ b ∧
    (s.pairSplit t).tile t = { s.tile t with repLoad := true, repFrom := k, pairLoad := true, rep := a, repB := b } := by
  obtain ⟨k, hk⟩ := (s.tile t).replicaDoubt_eq s.tb.age
  have hd : s.draw.2.tile t = s.tile t := rfl
  unfold State.pairSplit
  generalize Config.replicaDrift s.fresh false = a
  generalize Config.replicaDrift s.fresh true = b
  refine ⟨k, a, if b = a then a + 1 else b, ?_, ?_⟩
  · split <;> omega
  · dsimp only
    rw [State.tile_modTile_same, hd, hk]

theorem State.tile_pairSplit_ne {t v : Nat} (h : v ≠ t) : (s.pairSplit t).tile v = s.tile v :=
  State.tile_modTile_ne _ _ _ h

/-! ### Writes of TB_RAMP_CTRL (R70, R83) -/

theorem regAt_rampCtrl : regAt 0x1040 = some ⟨⟨.tbRampCtrl, 0x1040, 1, 4, 0xf0, 0, 0, 3⟩, 0, none⟩ := by decide +kernel

/-- LAST may be written with a profile running where it is written as it stands (R83). -/
theorem State.writeReason_rampCtrl (w : Reg32) (hv : bits w.toNat 1 0 ≠ 3)
    (hl : s.tb.prof = none ∨ bits w.toNat 7 4 = s.fld 0x1040 7 4) : s.writeReason .host 0x1040 w = none := by
  rw [State.writeReason_reg _ .host w (by decide) regAt_rampCtrl]
  have hstate : s.stateReason .host .tbRampCtrl 0 0 w.toNat = none := by
    rcases hl with hp | hf
    · simp [State.stateReason, hp]
    · simp [State.stateReason, hf]
  simp [Reg.valueBad, hv, srcBarred, hstate]

theorem State.applyWrite_rampCtrl (w : Reg32) (x : State) (hx : s.setReg 0x1040 (BitVec.ofNat 32 (Nat.land w.toNat 0xf0)) = x) :
    s.applyWrite .host 0x1040 w none =
      (let y := if bit w.toNat 0 then x.rampAsk else x
       if bit w.toNat 1 then { y with tb := y.tb.rampCut } else y) := by
  rw [State.applyWrite, msgOffset_of_regAt regAt_rampCtrl, regAt_rampCtrl, ← hx]
  rfl

/-- The word that a ramp command of the host writes: LAST and one bit of START and ABORT. -/
theorem rampWord (l : Nat) (hl : l < 16) (b : Nat) (hb : b < 2) :
    packW [(b, 1, 1), (4, 4, l)] = 16 * l + 2 ^ b ∧ bits (16 * l + 2 ^ b) 1 0 = 2 ^ b ∧ bits (16 * l + 2 ^ b) 7 4 = l ∧
      Nat.land (16 * l + 2 ^ b) 0xf0 = 16 * l ∧ bit (16 * l + 2 ^ b) 0 = decide (b = 0) ∧
      bit (16 * l + 2 ^ b) 1 = decide (b = 1) ∧ 16 * l + 2 ^ b < 2 ^ 32 ∧ 2 ^ b ≠ 3 := by
  revert l b
  decide +kernel

theorem State.advance_prof (n : Nat) (hu : s.up = true) : (s.advance n).tb.prof = s.tb.prof := by
  rw [s.advance_up n hu]
  exact s.tb.run_prof n

/-- A ramp command of the host with LAST `l`: START where `b` is 0, ABORT where it is 1. -/
theorem State.hostSet_rampCtrl {l b : Nat} (hu : s.up = true) (hl : l < 16) (hb : b < 2)
    (hlast : s.tb.prof = none ∨ l = s.fld 0x1040 7 4) (x : State)
    (hx : (s.advance 1).setReg 0x1040 (BitVec.ofNat 32 (16 * l)) = x) :
    s.hostSet 0x1040 [(b, 1, 1), (4, 4, l)] = if b = 0 then x.rampAsk else { x with tb := x.tb.rampCut } := by
  obtain ⟨hpack, hcmd, hfld, hland, hstart, habort, hlt, hval⟩ := rampWord l hl b hb
  have hw : (BitVec.ofNat 32 (16 * l + 2 ^ b)).toNat = 16 * l + 2 ^ b := BitVec.toNat_ofNat .. ▸ Nat.mod_eq_of_lt hlt
  have hreason : (s.advance 1).writeReason .host 0x1040 (BitVec.ofNat 32 (16 * l + 2 ^ b)) = none := by
    apply State.writeReason_rampCtrl
    · rw [hw, hcmd]
      exact hval
    · rw [hw, hfld, s.advance_prof 1 hu, State.fld, State.advance_rv]
      exact hlast
  rw [State.hostSet, hpack, s.writeAt_applied hreason, State.applyWrite_rampCtrl _ _ x (by rw [hw, hland, hx]), hw,
    hstart, habort]
  interval_cases b
  · rfl
  · rfl

theorem exec_rampStart (l : BitVec 4) (hu : s.up = true) (hl : s.tb.prof = none ∨ l.toNat = s.fld 0x1040 7 4) (x : State)
    (hx : (s.advance 1).setReg 0x1040 (BitVec.ofNat 32 (16 * l.toNat)) = x) : exec (.rampStart l) s = .next x.rampAsk := by
  show execRampStart l s = _
  rw [execRampStart, onChip_up s _ hu, s.hostSet_rampCtrl hu l.isLt (b := 0) (by decide) hl x hx]
  rfl

theorem State.fld_last_lt : s.fld 0x1040 7 4 < 16 := Nat.mod_lt _ (by decide)

theorem exec_rampAbort (hu : s.up = true) (x : State)
    (hx : (s.advance 1).setReg 0x1040 (BitVec.ofNat 32 (16 * s.fld 0x1040 7 4)) = x) :
    exec .rampAbort s = .next { x with tb := x.tb.rampCut } := by
  show execRampAbort s = _
  rw [execRampAbort, onChip_up s _ hu, s.hostSet_rampCtrl hu s.fld_last_lt (b := 1) (by decide) (.inr rfl) x hx]
  rfl

/-- START is refused while a profile runs and where a rate is too high (R70). -/
theorem State.rampAsk_refused (h : s.tb.prof.isSome = true ∨ s.hostTooFast = true) : s.rampAsk = s.raise (chipSrc 4) := by
  rw [State.rampAsk, if_pos (by simpa using h)]

theorem State.rampAsk_waits (hp : s.tb.prof = none) (h : s.hostTooFast = false) :
    s.rampAsk = { s with tb := { s.tb with hostReq := some s.hostSegs } } := by
  rw [State.rampAsk, if_neg (by simp [hp, h])]

/-! ### Writes of TB_CTRL (R79) -/

theorem regAt_tbCtrl : regAt 0x1000 = some ⟨⟨.tbCtrl, 0x1000, 1, 4, 7, 0, 0, 0x18⟩, 0, none⟩ := by decide +kernel

theorem State.writeReason_tbCtrl (w : Reg32) (hv : bits w.toNat 1 0 ≠ 3) : s.writeReason .host 0x1000 w = none := by
  rw [State.writeReason_reg _ .host w (by decide) regAt_tbCtrl]
  simp [Reg.valueBad, hv, srcBarred, State.stateReason]

/-- REFSRC written as it stands switches no reference (R53). -/
theorem State.setField_tbCtrl (v : Reg32) (h : bits v.toNat 1 0 = s.fld 0x1000 1 0) :
    s.setField 0x1000 v = s.setReg 0x1000 v := by
  have hf : (s.setReg 0x1000 v).fld 0x1000 1 0 = s.fld 0x1000 1 0 := by rw [State.fld, State.rv_setReg, if_pos rfl, h]
  have hr : (s.setReg 0x1000 v).refClk = s.refClk := by
    unfold State.refClk
    rw [hf]
    rfl
  rw [State.setField, regAt_tbCtrl]
  exact if_pos hr

theorem State.applyWrite_tbCtrl (w : Reg32) (x : State) (hx : s.setReg 0x1000 (BitVec.ofNat 32 (Nat.land w.toNat 7)) = x)
    (h : bits (Nat.land w.toNat 7) 1 0 = s.fld 0x1000 1 0) :
    s.applyWrite .host 0x1000 w none =
      (let y := if bit w.toNat 3 then x.latchTime else x
       if bit w.toNat 4 then y.setTime y.tb.age else y) := by
  have hs := s.setField_tbCtrl (BitVec.ofNat 32 (Nat.land w.toNat 7)) (by rw [toNat_land, h])
  rw [hx] at hs
  rw [State.applyWrite, msgOffset_of_regAt regAt_tbCtrl, regAt_tbCtrl]
  show State.actChip (s.setField 0x1000 _) _ _ _ _ _ = _
  rw [hs]
  rfl

/-- The word that a time command of the host writes: the register's RW fields as they stand and one bit. -/
theorem timeWord (f : Nat) (hf : f < 8) (b : Nat) (hb : b < 2) :
    packW [(0, 3, f), (b + 3, 1, 1)] = f + 2 ^ (b + 3) ∧ bits (f + 2 ^ (b + 3)) 1 0 = f % 4 ∧
      Nat.land (f + 2 ^ (b + 3)) 7 = f ∧ bit (f + 2 ^ (b + 3)) 3 = decide (b = 0) ∧
      bit (f + 2 ^ (b + 3)) 4 = decide (b = 1) ∧ f + 2 ^ (b + 3) < 2 ^ 32 := by
  revert f b
  decide +kernel

/-- A time command of the host: LATCH where `b` is 0, SET where it is 1. -/
theorem State.hostSet_tbCtrl {b : Nat} (hb : b < 2) (hv : s.fld 0x1000 1 0 ≠ 3) (x : State)
    (hx : (s.advance 1).setReg 0x1000 (BitVec.ofNat 32 (s.fld 0x1000 2 0)) = x) :
    s.hostSet 0x1000 [(0, 3, s.fld 0x1000 2 0), (b + 3, 1, 1)] = if b = 0 then x.latchTime else x.setTime x.tb.age := by
  have hsrc : s.fld 0x1000 2 0 % 4 = s.fld 0x1000 1 0 := by
    simp only [State.fld, bits]
    omega
  obtain ⟨hpack, hval, hland, hlatch, hset, hlt⟩ := timeWord (s.fld 0x1000 2 0) (Nat.mod_lt _ (by decide)) b hb
  generalize s.fld 0x1000 2 0 = f at *
  have hw : (BitVec.ofNat 32 (f + 2 ^ (b + 3))).toNat = f + 2 ^ (b + 3) := BitVec.toNat_ofNat .. ▸ Nat.mod_eq_of_lt hlt
  have hreason : (s.advance 1).writeReason .host 0x1000 (BitVec.ofNat 32 (f + 2 ^ (b + 3))) = none := by
    apply State.writeReason_tbCtrl
    rw [hw, hval, hsrc]
    exact hv
  have hkeep : bits f 1 0 = (s.advance 1).fld 0x1000 1 0 := by
    rw [State.fld, State.advance_rv]
    exact (show bits f 1 0 = f % 4 by simp [bits]).trans hsrc
  rw [State.hostSet, hpack, s.writeAt_applied hreason,
    State.applyWrite_tbCtrl _ _ x (by rw [hw, hland, hx]) (by rw [hw, hland, hkeep]), hw, hlatch, hset]
  interval_cases b
  · rfl
  · rfl

theorem exec_tbLatch (hu : s.up = true) (hv : s.fld 0x1000 1 0 ≠ 3) (x : State)
    (hx : (s.advance 1).setReg 0x1000 (BitVec.ofNat 32 (s.fld 0x1000 2 0)) = x) : exec .tbLatch s = .next x.latchTime := by
  show execTbLatch s = _
  rw [execTbLatch, onChip_up s _ hu, s.hostSet_tbCtrl (b := 0) (by decide) hv x hx]
  rfl

theorem exec_tbSet (hu : s.up = true) (hv : s.fld 0x1000 1 0 ≠ 3) (x : State)
    (hx : (s.advance 1).setReg 0x1000 (BitVec.ofNat 32 (s.fld 0x1000 2 0)) = x) :
    exec .tbSet s = .next (x.setTime x.tb.age) := by
  show execTbSet s = _
  rw [execTbSet, onChip_up s _ hu, s.hostSet_tbCtrl (b := 1) (by decide) hv x hx]
  rfl

theorem State.setTime_setVal (due : Nat) :
    (s.setTime due).tb.setVal = some { s := s.rv 0x1020, ns := s.fld 0x1024 29 0, fine := 0 } := rfl

theorem State.setTime_cause (due : Nat) : (s.setTime due).tb.causes.getLsbD 4 = true := by
  show (s.tb.causes ||| BitVec.ofNat 8 (2 ^ 4)).getLsbD 4 = true
  rw [BitVec.getLsbD_or]
  exact Bool.or_true _

theorem Timebase.rampCut_host {b : Timebase} {g : Seg} {gs : List Seg} {st : Nat} (h : b.prof = some ⟨false, g :: gs, st⟩) :
    b.rampCut.prof = some ⟨false, [{ g with dur := min g.dur ((b.age - st) / 128 + 1) }], st⟩ := by
  unfold Timebase.rampCut
  rw [h]

theorem Timebase.rampCut_frame (b : Timebase) : { b.rampCut with prof := b.prof } = b := by
  unfold Timebase.rampCut
  split <;> rfl

end Sys2Proof.Machine
open Sys2Proof Sys2Proof.Machine

/-- Settles O12: each command by what it makes of the timebase and of the tile that it names; the four writes of the host are
applied one slot on, with the RW fields as they stand. -/
theorem oscillatorReplicasAndWrites : Obligations.OscillatorReplicasAndWrites := by
  unfold Obligations.OscillatorReplicasAndWrites
  refine ⟨⟨?missing, ?present, ?check, ?reload, ?pair⟩, ?running, ?start, ?abort, ?latch, ?set⟩
  case missing =>
    intro s hu
    refine ⟨_, exec_loscMissing s hu, ?_⟩
    split
    · have h := State.apart_raise { s with tb := { s.tb with loscOk := false } } (chipSrc 2)
      exact ⟨(congrArg (fun t : State => t.tb.loscOk) h.1 :), fun _ => State.evSet_raise _ _ (by decide), h⟩
    next hf => exact ⟨rfl, fun h => absurd h hf, .refl _⟩
  case present => exact fun s hu => exec_loscClockPresent s hu
  case check =>
    intro s u hu ht hp
    refine ⟨_, exec_replicaCheck s hu, ?_⟩
    obtain ⟨b, hb, hcheck, hage⟩ := s.atCheck_eq hu
    rw [hb]
    have hframe := State.checkTiles_frame { s with tb := b } s.nTiles
    have htile : (State.checkTiles { s with tb := b } s.nTiles).tile u = (s.tile u).checked b.age :=
      State.tile_checkTiles { s with tb := b } ht
    have htb : (State.checkTiles { s with tb := b } s.nTiles).tb = b := (congrArg State.tb hframe :)
    rw [show ({ s with tb := b } : State).nTiles = s.nTiles from rfl, htb, htile]
    refine ⟨hage, hcheck, fun hl => ?_, fun hl => Tile.checked_counters b.age hp hl, Tile.pairLoad_checked b.age hp,
      (congrArg (fun t : State => { t with tb := s.tb }) hframe :)⟩
    rw [Tile.checked_of_pairLoad b.age hp hl]
    exact ⟨rfl, rfl, rfl⟩
  case reload =>
    intro s u hu ht hp
    refine ⟨_, exec_replicaReload s hu ht hp _ rfl, ?_⟩
    have hn : u < (s.reloaded u s.tb.checkAge).nTiles := by rw [s.nTiles_reloaded]; exact ht
    generalize Time.addNs _ _ = at_
    have htb := (s.reloaded u s.tb.checkAge).replicaMiss_tb u at_
    have htile := State.tile_replicaMiss (s.reloaded u s.tb.checkAge) u at_
    have hu' := htile u
    rw [s.tile_reloaded u s.tb.checkAge] at hu'
    refine ⟨(congrArg Tile.rep hu' :), (congrArg Tile.repB hu' :), (congrArg Tile.repLoad hu' :), ?_, ?_,
      (congrArg Timebase.replTile htb :), State.evSet_replicaMiss _ at_ hn, fun c h hm ha => ?_, fun v hv => ?_⟩
    · rw [htb, s.reloaded_tb u _ hu]
      show s.tb.age + (s.tb.checkAge + 1 - s.tb.age) = _
      omega
    · rw [htb, s.reloaded_tb u _ hu]
      exact congrArg (fun n => min 65535 (n + 1)) (s.tb.run_replCnt _)
    · have hf : (((s.reloaded u s.tb.checkAge).replicaMiss u at_).chan u c).fifo =
          (((s.tile u).doubtFrom s.tb.checkAge).chan c).fifo := (congrArg (fun x : Tile => (x.chan c).fifo) hu' :)
      exact (s.tile u).cs_of_doubtFrom c (hf ▸ hm) ha
    · rw [htile v, s.tile_reloaded_ne _ hv]
  case pair =>
    intro s u hu ht hp hb
    refine ⟨_, exec_replicaPairMismatch s hu ht hp hb, ?_⟩
    have htb := (s.pairSplit u).replicaMiss_tb u s.now
    have htile := State.tile_replicaMiss (s.pairSplit u) u s.now
    obtain ⟨k, a, b, hab, hs⟩ := s.tile_pairSplit u
    have hu' := htile u
    rw [hs] at hu'
    have hrep : (((s.pairSplit u).replicaMiss u s.now).tile u).rep = a := (congrArg Tile.rep hu' :)
    have hrepB : (((s.pairSplit u).replicaMiss u s.now).tile u).repB = b := (congrArg Tile.repB hu' :)
    refine ⟨(congrArg Tile.repLoad hu' :), (congrArg Tile.pairLoad hu' :), ?_, (congrArg Timebase.replCnt htb :),
      (congrArg Timebase.replTile htb :), State.evSet_replicaMiss _ _ ht, fun c => (congrArg (fun x : Tile => x.chan c) hu' :),
      fun v hv => ?_⟩
    · rw [hrep, hrepB]
      exact hab
    · rw [htile v, s.tile_pairSplit_ne hv]
  case running =>
    intro s hu hp
    have hl : (BitVec.ofNat 4 (s.fld 0x1040 7 4)).toNat = s.fld 0x1040 7 4 :=
      BitVec.toNat_ofNat .. ▸ Nat.mod_eq_of_lt s.fld_last_lt
    refine ⟨_, exec_rampStart s _ hu (.inr hl) _ rfl, ?_⟩
    rw [hl, State.rampAsk_refused _ (.inl (by rw [State.setReg_tb, s.advance_prof 1 hu, hp]))]
    exact ⟨State.evSet_raise _ _ (by decide), State.apart_raise _ _⟩
  case start =>
    intro s x l hu hp hx
    have he := exec_rampStart s l hu (.inl hp) x hx.symm
    have hprof : x.tb.prof = none := by rw [hx, State.setReg_tb, s.advance_prof 1 hu, hp]
    refine ⟨fun hf => ?_, fun hf => ⟨_, he, ?_⟩⟩
    · rw [he, x.rampAsk_waits hprof hf]
    · rw [x.rampAsk_refused (.inr hf)]
      exact ⟨State.evSet_raise _ _ (by decide), State.apart_raise _ _⟩
  case abort =>
    intro s g gs st hu hp
    refine ⟨_, exec_rampAbort s hu _ rfl, ?_, ?_, ?_, ?_, ?_⟩
    · have hr := Timebase.rampCut_host ((s.advance_prof 1 hu).trans hp)
      rw [s.advance_age 1 hu] at hr
      exact hr
    · exact (congrArg Timebase.time (s.advance 1).tb.rampCut_frame :)
    · exact (congrArg Timebase.moved (s.advance 1).tb.rampCut_frame :)
    · exact s.advance_tiles 1
    · exact s.advance_lk 1
  case latch =>
    intro s hu hv
    exact ⟨_, exec_tbLatch s hu hv _ rfl, rfl, rfl, rfl, s.advance_epoch 1, s.advance_tiles 1, s.advance_lk 1⟩
  case set =>
    intro s hu hv
    refine ⟨_, exec_tbSet s hu hv _ rfl, ?_, ?_, rfl, s.advance_tiles 1, s.advance_lk 1⟩
    · have hr (w : Reg32) (b : Nat) (hb : b ≠ 0x1000) : ((s.advance 1).setReg 0x1000 w).rv b = s.rv b := by
        rw [State.rv_setReg, if_neg hb, State.advance_rv]
      have hns (w : Reg32) : ((s.advance 1).setReg 0x1000 w).fld 0x1024 29 0 = s.fld 0x1024 29 0 :=
        congrArg (bits · 29 0) (hr w 0x1024 (by decide))
      rw [State.setTime_setVal, hr _ 0x1020 (by decide), hns]
    · exact State.setTime_cause _ _

end

section
namespace Sys2Proof.Machine
open Sys2Proof
variable (s : State)

/-! ## O14: the slots of an exchange, and the writes that end a path hold (R86 to R93, R105, R109, R317) -/

/-! ### Slots and open exchanges (R86 to R93) -/

/-- The exchange id of a time-transfer slot (R92). -/
def slotId (b : BitVec 52) : BitVec 8 := BitVec.ofNat 8 (bits b.toNat 51 44)

theorem State.onSlot_bad (f : State → State) (hl : s.lk.dn = .slot) :
    s.onSlot true f = { s with lk := { s.lk with dnDisc := min 65535 (s.lk.dnDisc + 1) } } := if_pos hl

theorem State.onSlot_good (f : State → State) (hl : s.lk.dn = .slot) : s.onSlot false f = f s := if_pos hl

/-- A slot without an error acts on the open exchange that it names. -/
theorem State.onExch_open {b : BitVec 52} {x : Exch} (f : BitVec 8 → State → State) (hl : s.lk.dn = .slot)
    (he : bit (s.rv 0x2000) 0 = true) (hx : s.exch (slotId b) = some x) : s.onExch b false f = f (slotId b) s := by
  rw [State.onExch, s.onSlot_good _ hl, if_pos he]
  exact if_pos (Option.isSome_of_mem hx)

variable {s} in
theorem State.exch_id {id : BitVec 8} {x : Exch} (h : s.exch id = some x) : x.id = id := by
  simpa using List.find?_some h

theorem State.exch_congr {t : State} (h : t.tt.opened = s.tt.opened) (id : BitVec 8) : t.exch id = s.exch id := by
  rw [State.exch, State.exch, h]

/-- A changed exchange is found by its id as before. -/
theorem State.exch_modExch {id : BitVec 8} {x : Exch} {f : Exch → Exch} (hf : ∀ y, (f y).id = y.id)
    (h : s.exch id = some x) : (s.modExch id f).exch id = some (f x) := by
  have hid := State.exch_id h
  have hp : ((fun y : Exch => decide (y.id = id)) ∘ fun y => if y.id = id then f y else y) = fun y => decide (y.id = id) := by
    funext y
    by_cases hy : y.id = id <;> simp [hy, hf]
  rw [State.exch, State.modExch, List.find?_map, hp]
  rw [State.exch] at h
  simp [h, hid]

theorem State.exch_closeExch (id : BitVec 8) : (s.closeExch id).exch id = none := by
  simp [State.exch, State.closeExch]

/-- An exchange without t3 or without the seconds of t1 is not complete (R86). -/
theorem State.tryComplete_waits {id : BitVec 8} {x : Exch} (hx : s.exch id = some x) (h : x.t3 = none ∨ x.t1s = none) :
    s.tryComplete id = s := by
  rw [State.tryComplete, hx]
  dsimp only
  split
  next h3 h1 _ _ _ =>
    rcases h with h | h
    · cases h.symm.trans h3
    · cases h.symm.trans h1
  next => rfl

/-- A part of t1 or t4 for an exchange that is not answered yet is stored (R86). -/
theorem State.store_unanswered {id : BitVec 8} {x : Exch} {f : Exch → Exch} (hx : s.exch id = some x) (h3 : x.t3 = none)
    (hid : ∀ y, (f y).id = y.id) (hf : ∀ y, (f y).t3 = y.t3) : (s.modExch id f).tryComplete id = s.modExch id f :=
  State.tryComplete_waits _ (s.exch_modExch hid hx) (.inl ((hf x).trans h3))

section
variable {b : BitVec 52} {x : Exch} (hu : s.up = true) (hl : s.lk.dn = .slot) (he : bit (s.rv 0x2000) 0 = true)
include hu hl he

/-- A SYNC slot of an id that is not open, with room for one more exchange (R86, R89). -/
theorem exec_ttSync_opens (sub : BitVec 13) (hx : s.exch (slotId b) = none) (h4 : s.tt.opened.length < 4) :
    exec (.ttSync b sub false) s = .next { s with tt := { s.tt with opened := s.tt.opened ++
      [{ id := slotId b, t2 := s.now.addFine sub.toNat, t2Age := s.tb.age, t2Epoch := s.tb.epoch, t2Opens := s.tb.opens,
         t2Moved := s.tb.moved, quality := s.qualityCode }] } } := by
  show execTtSync b sub false s = _
  rw [execTtSync, onChip_up s _ hu, s.onSlot_good _ hl, if_pos he]
  refine congrArg Host.Outcome.next ?_
  extract_lets id u _ v x
  have hfree : u = s := if_neg (by rw [show s.exch id = none from hx]; simp)
  have hroom : v = s := by
    simp only [v]
    clear_value u
    subst hfree
    split
    · exact if_neg (by omega)
    · rfl
  clear_value v
  subst hroom
  rfl

theorem exec_followUpS (hx : s.exch (slotId b) = some x) : exec (.followUpS b false) s =
    .next ((s.modExch (slotId b) (fun y => { y with t1s := some (bits b.toNat 31 0) })).tryComplete (slotId b)) := by
  show execFollowUpS b false s = _
  rw [execFollowUpS, onChip_up s _ hu, s.onExch_open _ hl he hx]

theorem exec_delayRespS (hx : s.exch (slotId b) = some x) : exec (.delayRespS b false) s =
    .next ((s.modExch (slotId b) (fun y => { y with t4s := some (bits b.toNat 31 0) })).tryComplete (slotId b)) := by
  show execDelayRespS b false s = _
  rw [execDelayRespS, onChip_up s _ hu, s.onExch_open _ hl he hx]

theorem exec_followUpNf (hx : s.exch (slotId b) = some x) (hns : bits b.toNat 39 10 < 1000000000) :
    exec (.followUpNf b false) s =
      .next ((s.modExch (slotId b) (fun y => { y with t1nf := some (nfOf b) })).tryComplete (slotId b)) := by
  have hk : ¬ nsPerSec ≤ (nfOf b).1 := Nat.not_le.2 hns
  show execFollowUpNf b false s = _
  rw [execFollowUpNf, onChip_up s _ hu, s.onExch_open _ hl he hx, if_neg hk]

theorem exec_delayRespNf (hx : s.exch (slotId b) = some x) (hn : b.getLsbD 40 = false)
    (hns : bits b.toNat 39 10 < 1000000000) : exec (.delayRespNf b false) s =
      .next ((s.modExch (slotId b) (fun y => { y with t4nf := some (nfOf b) })).tryComplete (slotId b)) := by
  have hk : ¬ nsPerSec ≤ (nfOf b).1 := Nat.not_le.2 hns
  show execDelayRespNf b false s = _
  rw [execDelayRespNf, onChip_up s _ hu, s.onExch_open _ hl he hx, if_neg (ne_true_of_eq_false hn), if_neg hk]

/-- A slot whose message type is none of R92's is counted. -/
theorem exec_ttUnknownSlot {m : BitVec 4} (hm : m = 0 ∨ 6 ≤ m.toNat) : exec (.ttUnknownSlot m b false) s =
    .next { s with tt := { s.tt with unknown := min 255 (s.tt.unknown + 1) } } := by
  have hk : (decide (1 ≤ m.toNat) && decide (m.toNat ≤ 5)) = false := by
    rcases hm with rfl | hm
    · rfl
    · rw [decide_eq_false (Nat.not_le.2 hm), Bool.and_false]
  show execTtUnknownSlot m b false s = _
  rw [execTtUnknownSlot, onChip_up s _ hu, s.onSlot_good _ hl, he, hk]
  rfl

end

/-- A SYNC slot with a code violation is discarded and counted (R317). -/
theorem exec_ttSync_bad (b : BitVec 52) (sub : BitVec 13) (hu : s.up = true) (hl : s.lk.dn = .slot) :
    exec (.ttSync b sub true) s = .next { s with lk := { s.lk with dnDisc := min 65535 (s.lk.dnDisc + 1) } } := by
  show execTtSync b sub true s = _
  rw [execTtSync, onChip_up s _ hu, s.onSlot_bad _ hl]

/-! ### The time quality and the end of a path hold (R105, R107) -/

variable {s} in
theorem State.EventsApart.tt {t : State} (h : s.EventsApart t) : t.tt = s.tt := (congrArg State.tt h.1 :)

@[simp] theorem State.raise_tt (k : Nat) : (s.raise k).tt = s.tt := (s.apart_raise k).tt

/-- Taking the time quality changes that and event sources (R107). -/
theorem State.apart_updQuality : ({ s with tt := { s.tt with quality := s.qualityCode } } : State).EventsApart s.updQuality := by
  unfold State.updQuality
  split
  next h => rw [h]; exact .refl s
  next => exact State.apart_raise ..

theorem State.updQuality_tt : s.updQuality.tt = { s.tt with quality := s.qualityCode } := s.apart_updQuality.tt

/-- The end of a path hold changes time transfer and event sources (R105). -/
theorem State.apart_endHold : ({ s with tt := s.endHold.tt } : State).EventsApart s.endHold := by
  unfold State.endHold
  split
  · rw [State.updQuality_tt]
    exact State.apart_updQuality _
  · exact .refl s

theorem State.endHold_hold : s.endHold.tt.hold = false := by
  unfold State.endHold
  split
  · rw [State.updQuality_tt]
  next h => exact eq_false_of_ne_true h

/-- After a hold a block starts whose mean round trip becomes the reference (R105). -/
theorem State.endHold_newRef (h : s.tt.hold = true) : s.endHold.tt.block = [] ∧ s.endHold.tt.newRef = true := by
  rw [State.endHold, if_pos h, State.updQuality_tt]
  exact ⟨rfl, rfl⟩

/-- A register write that ends a path hold: it changes the timebase, time transfer, that register and event sources. -/
theorem State.writeEndHold_apart (a : Nat) (w : Reg32) (hu : s.up = true) (t : State)
    (ht : ((s.advance 1).setReg a w).endHold = t) :
    t.rv a = w.toNat ∧ t.tt.hold = false ∧ (s.tt.hold = true → t.tt.block = [] ∧ t.tt.newRef = true) ∧
      ({ s with tb := t.tb, tt := t.tt, regs := t.regs } : State).EventsApart t := by
  have hh := ((s.advance 1).setReg a w).sameRegs_endHold
  have ha := ((s.advance 1).setReg a w).apart_endHold
  have hold := ((s.advance 1).setReg a w).endHold_hold
  have href := ((s.advance 1).setReg a w).endHold_newRef
  rw [ht] at hh ha hold href
  obtain ⟨hregs, htb, -⟩ := id hh
  refine ⟨?_, hold, fun h => href ?_, ?_⟩
  · rw [hh.rv, State.rv_setReg, if_pos rfl]
  · rwa [State.setReg_tt, State.advance_tt]
  · rw [hregs, htb]
    rw [s.advance_up 1 hu] at ha ⊢
    exact ha

/-! ### Writes of TT_ASYM and TT_CTRL (R105) -/

theorem regAt_ttAsym : regAt 0x2014 = some ⟨⟨.ttAsym, 0x2014, 1, 4, 0xffffffff, 0, 0, 0⟩, 0, none⟩ := by decide +kernel

theorem regAt_ttCtrl : regAt 0x2000 = some ⟨⟨.ttCtrl, 0x2000, 1, 4, 3, 0, 0, 4⟩, 0, none⟩ := by decide +kernel

/-- A value of TT_ASYM is refused where it is beyond 2^24 fine units, and for nothing else (R105). -/
theorem State.writeReason_ttAsym (w : Reg32) :
    s.writeReason .host 0x2014 w = if 2 ^ 24 < (signed 32 w.toNat).natAbs then some 3 else none := by
  rw [s.writeReason_reg .host w (by decide) regAt_ttAsym]
  simp [Reg.valueBad, srcBarred, State.stateReason]

theorem State.writeReason_ttCtrl (w : Reg32) : s.writeReason .host 0x2000 w = none := by
  rw [s.writeReason_reg .host w (by decide) regAt_ttCtrl]
  simp [Reg.valueBad, srcBarred, State.stateReason]

theorem State.applyWrite_ttAsym (w : Reg32) : s.applyWrite .host 0x2014 w none = (s.setReg 0x2014 w).endHold := by
  have hw : BitVec.ofNat 32 (Nat.land w.toNat 0xffffffff) = w := by
    apply BitVec.eq_of_toNat_eq
    rw [toNat_land]
    exact (Nat.and_two_pow_sub_one_eq_mod w.toNat 32).trans (Nat.mod_eq_of_lt w.isLt)
  rw [s.applyWrite_field .host w none regAt_ttAsym rfl rfl (by decide), hw, State.setField, regAt_ttAsym]

theorem exec_ttAsymWrite (w : BitVec 32) (hu : s.up = true) :
    exec (.ttAsymWrite w) s = .next (s.writeAt .host 0x2014 w none) :=
  show execTtAsymWrite w s = _ from onChip_up s _ hu

theorem exec_ttAsymWrite_stored {w : BitVec 32} (hu : s.up = true) (h : (signed 32 w.toNat).natAbs ≤ 2 ^ 24) :
    exec (.ttAsymWrite w) s = .next ((s.advance 1).setReg 0x2014 w).endHold := by
  rw [exec_ttAsymWrite s w hu, s.writeAt_applied, State.applyWrite_ttAsym]
  rw [State.writeReason_ttAsym, if_neg (Nat.not_lt.2 h)]

theorem exec_ttAsymWrite_refused {w : BitVec 32} (hu : s.up = true) (h : 2 ^ 24 < (signed 32 w.toNat).natAbs) :
    exec (.ttAsymWrite w) s = .next { s.advance 1 with
      refAddr := 0x2014, refReason := 3, refSrc := 0, refCnt := min 65535 (s.refCnt + 1) } := by
  have hr : (s.advance 1).writeReason .host 0x2014 w = some 3 := by rw [State.writeReason_ttAsym, if_pos h]
  have hs : (s.advance 1).reportStart 0x2014 w.toNat = s.advance 1 :=
    State.reportStart_none _ (fun x hx => by rw [regAt_ttAsym] at hx; cases hx; decide) (.inr (by decide))
  rw [exec_ttAsymWrite s w hu, State.writeAt, State.busWrite_refused _ hr, hs, ← s.advance_refCnt 1]
  rfl

/-- The word that ACCEPT_SYM writes: the RW fields of TT_CTRL as they stand, and bit 2. -/
theorem acceptWord {f : Nat} (hf : f < 4) : (BitVec.ofNat 32 (packW [(0, 2, f), (2, 1, 1)])).toNat = f + 4 ∧
    Nat.land (f + 4) 3 = f ∧ bit (f + 4) 2 = true ∧ bits f 1 0 = f := by
  revert f
  decide +kernel

theorem State.applyWrite_ttCtrl (w : Reg32) (hb : bit w.toNat 2 = true) :
    s.applyWrite .host 0x2000 w none = (s.setReg 0x2000 (BitVec.ofNat 32 (Nat.land w.toNat 3))).endHold := by
  have hs (v : Reg32) : s.setField 0x2000 v = s.setReg 0x2000 v := by rw [State.setField, regAt_ttCtrl]
  rw [State.applyWrite, msgOffset_of_regAt regAt_ttCtrl, regAt_ttCtrl, ← hs]
  exact if_pos hb

theorem exec_acceptSym (hu : s.up = true) : exec .acceptSym s =
    .next ((s.advance 1).setReg 0x2000 (BitVec.ofNat 32 (s.fld 0x2000 1 0))).endHold := by
  obtain ⟨hw, hland, hbit, -⟩ := acceptWord (f := s.fld 0x2000 1 0) (Nat.mod_lt _ (by decide))
  show execAcceptSym s = _
  rw [execAcceptSym, onChip_up s _ hu, State.hostSet, s.writeAt_applied (State.writeReason_ttCtrl _ _),
    State.applyWrite_ttCtrl _ _ (by rw [hw, hbit]), hw, hland]

end Sys2Proof.Machine
open Sys2Proof Sys2Proof.Machine

/-- Settles O14: the slots by what each makes of the open exchange that it names; the two writes are applied one slot on and
end a path hold. -/
theorem transferSlots : Obligations.TransferSlots := by
  unfold Obligations.TransferSlots
  refine ⟨⟨?sync, ?bad, ?parts, ?unknown⟩, ?asym, ?beyond, ?accept⟩
  case sync => exact fun s b sub hu hl he hx h4 => exec_ttSync_opens s hu hl he sub hx h4
  case bad => exact fun s b sub hu hl => exec_ttSync_bad s b sub hu hl
  case parts =>
    intro s b x hu hl he hx h3
    have stored := fun f hid hf => s.store_unanswered (f := f) hx h3 hid hf
    exact ⟨(exec_followUpS s hu hl he hx).trans (congrArg _ (stored _ (fun _ => rfl) fun _ => rfl)),
      (exec_delayRespS s hu hl he hx).trans (congrArg _ (stored _ (fun _ => rfl) fun _ => rfl)),
      fun hns => (exec_followUpNf s hu hl he hx hns).trans (congrArg _ (stored _ (fun _ => rfl) fun _ => rfl)),
      fun hns hn => (exec_delayRespNf s hu hl he hx hn hns).trans (congrArg _ (stored _ (fun _ => rfl) fun _ => rfl))⟩
  case unknown => exact fun s m b hu hl he hm => exec_ttUnknownSlot s hu hl he hm
  case asym => exact fun s w hu hw => ⟨_, exec_ttAsymWrite_stored s hu hw, s.writeEndHold_apart 0x2014 w hu _ rfl⟩
  case beyond => exact fun s w hu hw => exec_ttAsymWrite_refused s hu hw
  case accept =>
    intro s hu
    have hf : s.fld 0x2000 1 0 < 4 := Nat.mod_lt _ (by decide)
    obtain ⟨-, -, -, hbits⟩ := acceptWord hf
    obtain ⟨hrv, hold, href, hapart⟩ := s.writeEndHold_apart 0x2000 (BitVec.ofNat 32 (s.fld 0x2000 1 0)) hu _ rfl
    refine ⟨_, exec_acceptSym s hu, hold, href, ?_, hapart⟩
    rw [State.fld, hrv, BitVec.toNat_ofNat, Nat.mod_eq_of_lt (by omega), hbits]

end

section
namespace Sys2Proof.Machine
open Sys2Proof
variable (s : State)

/-! ## O15: the completion of an exchange (R95, R110) -/

/-! ### What the averages leave: exchanges, counts, device time and registers -/

/-- The exchanges open, done and last, device time and the registers: what no average, run or path test of an exchange
changes. -/
structure ExchView where
  opened : List Exch
  done : Nat
  lastId : BitVec 8
  last : Option LastEx
  time : Time
  regs : Map Reg32

/-- The view of a state. -/
def State.exchView (s : State) : ExchView :=
  { opened := s.tt.opened, done := s.tt.done, lastId := s.tt.lastId, last := s.tt.last, time := s.tb.time, regs := s.regs }

variable {s} in
theorem State.EventsApart.exchView {t : State} (h : s.EventsApart t) : t.exchView = s.exchView :=
  (congrArg State.exchView h.1 :)

@[simp] theorem State.raise_exchView (k : Nat) : (s.raise k).exchView = s.exchView := (s.apart_raise k).exchView

@[simp] theorem State.updQuality_exchView : s.updQuality.exchView = s.exchView := s.apart_updQuality.exchView

/-- What is cut off a run changes the run, its step and the count of discards (R97). -/
theorem TimeTransfer.cut_eq (x : TimeTransfer) (kept : List Meas) : ∃ r c a d l,
    x.cut kept = { x with run := r, confirmed := c, stepAsk := a, disc := d, lastReason := l } := by
  unfold TimeTransfer.cut
  split <;> exact ⟨_, _, _, _, _, rfl⟩

@[simp] theorem State.growRun_exchView (m : Meas) : (s.growRun m).exchView = s.exchView := by
  obtain ⟨r, c, a, d, l, hcut⟩ := s.tt.cut_eq (s.runKept m)
  simp only [State.growRun, hcut]
  split
  · split <;> rfl
  · rfl

@[simp] theorem State.blockAct_exchView (th o : Int) : (s.blockAct th o).exchView = s.exchView := by
  unfold State.blockAct
  split
  · rfl
  · split <;> rfl

@[simp] theorem State.growBlock_exchView (m : Meas) : (s.growBlock m).exchView = s.exchView := by
  simp only [State.growBlock]
  split
  · rw [State.blockAct_exchView]
    rfl
  · rfl

@[simp] theorem State.endRun_exchView : s.endRun.exchView = s.exchView := rfl

@[simp] theorem State.average_exchView (m : Meas) : (s.average m).exchView = s.exchView := by
  unfold State.average
  split <;> split <;> simp

@[simp] theorem State.averageAll_exchView (ms : List Meas) : (s.averageAll ms).exchView = s.exchView := by
  unfold State.averageAll
  exact List.foldlRecOn (motive := fun t : State => t.exchView = s.exchView) _ State.average rfl
    fun t ht m _ => (t.average_exchView m).trans ht

@[simp] theorem State.pathChange_exchView (run : List Meas) (m : Meas) : (s.pathChange run m).exchView = s.exchView := by
  simp only [State.pathChange, State.raise_exchView]
  split
  · rw [State.averageAll_exchView]
    rfl
  · rw [State.average_exchView]
    rfl

@[simp] theorem State.pathTest_exchView (m : Meas) : (s.pathTest m).exchView = s.exchView := by
  unfold State.pathTest
  extract_lets old _ u kept gone run v w
  have hu : u.exchView = s.exchView := rfl
  have hw : w.exchView = s.exchView := by
    show State.exchView (if _ then _ else _) = _
    split
    · rw [State.averageAll_exchView]
      rfl
    · rfl
  clear_value u w
  split
  · rw [State.average_exchView]
    split
    · rw [State.averageAll_exchView, hu]
    · exact hu
  · split
    · rw [State.pathChange_exchView, hw]
    · split
      · exact hw
      · rw [State.average_exchView, hw]

/-! ### Completion -/

/-- An exchange with all four stamps, within one epoch, is closed and measured (R86, R95). -/
theorem State.tryComplete_whole {id : BitVec 8} {x : Exch} {t3 : Time} {s1 n1 f1 s4 n4 f4 : Nat} (hx : s.exch id = some x)
    (ho : x.t2Opens = s.tb.opens) (h3 : x.t3 = some t3) (h1 : x.t1s = some s1) (h1nf : x.t1nf = some (n1, f1))
    (h4 : x.t4s = some s4) (h4nf : x.t4nf = some (n4, f4)) :
    s.tryComplete id = (s.closeExch id).measured x
      ((x.t2.diff { s := s1, ns := n1, fine := f1 } - Time.diff { s := s4, ns := n4, fine := f4 } t3 - s.ttAsym).tdiv 2)
      (x.t2.diff { s := s1, ns := n1, fine := f1 } + Time.diff { s := s4, ns := n4, fine := f4 } t3) := by
  rw [State.tryComplete, hx]
  simp only [h3, h1, h1nf, h4, h4nf]
  exact if_neg (not_not.2 ho)

/-- A measured exchange is the last one, and one more is done (R95, R110). -/
theorem State.measured_exchView (x : Exch) (theta rtt : Int) : ∃ out path,
    (s.measured x theta rtt).exchView = { s.exchView with
      done := (s.tt.done + 1) % 2 ^ 32, lastId := x.id, last := some ⟨x.id, theta, rtt, out, path⟩ } := by
  simp only [State.measured, State.updQuality_exchView, State.pathTest_exchView]
  exact ⟨_, _, rfl⟩

end Sys2Proof.Machine
open Sys2Proof Sys2Proof.Machine

/-- Settles O15: with its last stamp the exchange holds all four, so that it is closed and measured. -/
theorem exchangeCompletes : Obligations.ExchangeCompletes := by
  intro s b x t3 s1 n1 f1 s4 hu hl he hx ho h3 h1 h1nf h4 hn hns
  change s.exch (slotId b) = some x at hx
  have hstored := s.exch_modExch (f := fun y => { y with t4nf := some (nfOf b) }) (fun _ => rfl) hx
  have hexec := exec_delayRespNf s hu hl he hx hn hns
  rw [State.tryComplete_whole _ hstored ho h3 h1 h1nf h4 rfl] at hexec
  obtain ⟨out, path, hview⟩ := State.measured_exchView ((s.modExch (slotId b) _).closeExch (slotId b)) _ _ _
  refine ⟨_, hexec, ?_, congrArg ExchView.done hview, congrArg ExchView.lastId hview, congrArg ExchView.time hview,
    congrArg ExchView.regs hview, _, congrArg ExchView.last hview, rfl, rfl, rfl⟩
  exact (State.exch_congr _ (congrArg ExchView.opened hview) _).trans (State.exch_closeExch _ _)

end

section
namespace Sys2Proof.Machine
open Sys2Proof
variable (s : State)

/-! ## O16: replies, discarded exchanges, time steps, stale quality (R86, R89, R94, R99, R107) -/

/-! ### A frame that is sent (R25, R331) -/

/-- Sending changes the links and the event builder only. -/
theorem State.sendNext_frame (l c i : Nat) : { s.sendNext l c i with lk := s.lk, eb := s.eb } = s := by
  have hf (f : Frame) : { s.sendFrame l f with lk := s.lk } = s := by
    unfold State.sendFrame State.noteTier1
    split <;> rfl
  unfold State.sendNext
  split
  next f rest _ =>
    have h := hf f
    dsimp only
    split
    · exact (congrArg (fun t : State => { t with eb := s.eb }) h :)
    · exact (congrArg (fun t : State => { t with eb := s.eb }) h :)
  next => rfl

theorem State.sendFrame_stream (l c i : Nat) (f : Frame) : (s.sendFrame l f).stream c i = s.stream c i := by
  unfold State.sendFrame State.noteTier1
  split <;> rfl

theorem State.nextFrame_some {c i : Nat} (h : (s.stream c i).wait ≠ []) : ∃ f rest, s.nextFrame c i = some (f, rest) := by
  unfold State.nextFrame
  dsimp only
  split
  next hw => exact absurd hw h
  next => exact ⟨_, _, rfl⟩

/-- A stream whose payload is sent counts one frame more (R331). -/
theorem State.sendNext_seq {l c i : Nat} (h : (s.stream c i).wait ≠ []) :
    ((s.sendNext l c i).stream c i).seq = ((s.stream c i).seq + 1) % 2 ^ 32 := by
  obtain ⟨f, rest, hf⟩ := s.nextFrame_some h
  have hstream (x : Stream) : ((s.sendFrame l f).setStream c i x).stream c i = x := by
    rw [State.stream_setStream, if_pos rfl]
  rw [State.sendNext, hf, ← s.sendFrame_stream l c i f]
  dsimp only
  split
  · exact congrArg Stream.seq (hstream _)
  · rw [hstream]

/-! ### The reply of an exchange (R86, R90, R94) -/

/-- Time goes on until the transmitter of lane 0 is free. -/
def State.atLane (s : State) : State := s.advanceTo (s.lane 0).free

/-- The reply of an exchange goes out on lane 0 with t3 as its departure time (R94). -/
def State.replied (s : State) (x : Exch) (t3 : Time) : State := (s.sendOwn 5 0 (s.replyWords x t3)).sendNext 0 5 0

theorem State.replied_frame (x : Exch) (t3 : Time) : { s.replied x t3 with lk := s.lk, eb := s.eb } = s :=
  (congrArg (fun t : State => { t with lk := s.lk }) ((s.sendOwn 5 0 (s.replyWords x t3)).sendNext_frame 0 5 0) :)

theorem State.replied_seq (x : Exch) (t3 : Time) :
    ((s.replied x t3).stream 5 0).seq = ((s.stream 5 0).seq + 1) % 2 ^ 32 := by
  rw [State.replied, State.sendNext_seq _ (by simp), State.sendOwn, State.sendWait, State.stream_setStream, if_pos rfl]

/-- With nothing ahead of it in its stream and room for it, the reply is sent as soon as lane 0 is free (R86, R344). -/
theorem exec_ttReplySend {x : Exch} (sub : BitVec 13) (hu : s.up = true)
    (hx : s.tt.opened.find? (fun y => y.t3.isNone) = some x) (hl : s.leadUp 0 = true) (hused : s.usedLane 0 = true)
    (hroom : s.replayUsed + 8 ≤ 131072) (hw : (s.stream 5 0).wait = []) (t3 : Time)
    (h3 : s.atLane.now.addFine sub.toNat = t3) : exec (.ttReplySend sub) s =
      .next (((s.atLane.replied x t3).modExch x.id (fun y => { y with t3 := some t3 })).tryComplete x.id) := by
  have hnone (f : Nat → State → State) : forKeys (List.range (s.stream 5 0).wait.length) f s = s := by rw [hw]; rfl
  have hgo : (s.leadUp 0 && s.usedLane 0 && (s.stream 5 0).wait.isEmpty && decide (s.replayUsed + 8 ≤ 131072)) = true := by
    simp [hl, hused, hw, hroom]
  show execTtReplySend sub s = _
  rw [execTtReplySend, onChip_up s _ hu, hx, ← h3]
  simp only [hnone, ite_self, hgo, if_true]
  rfl

/-! ### An exchange that is not completed in time (R89) -/

theorem State.advanceTo_age (a : Nat) (hu : s.up = true) : (s.advanceTo a).tb.age = max s.tb.age a := by
  rw [State.advanceTo, s.advance_age _ hu]
  omega

theorem exec_exchangeTimeout {id : BitVec 8} {x : Exch} (hu : s.up = true) (hx : s.exch id = some x) :
    exec (.exchangeTimeout id) s = .next (((s.advanceTo (x.t2Age + 2 * s.ttPeriod)).closeExch id).ttDiscard 1) := by
  show execExchangeTimeout id s = _
  rw [execExchangeTimeout, onChip_up s _ hu, hx]

/-! ### Markers leave time transfer -/

theorem forKeys_tt {f : Nat → State → State} (h : ∀ k s, (f k s).tt = s.tt) (ks : List Nat) (s : State) :
    (forKeys ks f s).tt = s.tt :=
  forKeys_keeps (R := fun s t => t.tt = s.tt) (fun _ => rfl) (fun h k => k.trans h) h ks s

@[simp] theorem State.tt_ite {p : Prop} [Decidable p] (s t : State) :
    (if p then s else t).tt = if p then s.tt else t.tt := apply_ite _ p s t
@[simp] theorem State.qSticky_tt (t q : Nat) (f : Queue → Queue) : (s.qSticky t q f).tt = s.tt := rfl
@[simp] theorem State.setQWord_tt (t q pos : Nat) (w : QWord) : (s.setQWord t q pos w).tt = s.tt := rfl
@[simp] theorem State.qRefuse_tt (t q n : Nat) : (s.qRefuse t q n).tt = s.tt := by simp [State.qRefuse]
@[simp] theorem State.fcoRise_tt (k : Nat) : (s.fcoRise k).tt = s.tt := by simp [State.fcoRise]
@[simp] theorem State.fcoReturn_tt (k : Nat) : (s.fcoReturn k).tt = s.tt := by simp [State.fcoReturn]
@[simp] theorem State.qEval_tt (t q : Nat) : (s.qEval t q).tt = s.tt := by simp [State.qEval]
@[simp] theorem State.putWords_tt (t q pos age : Nat) (ws : List (W64 × Option SliceTag)) :
    (s.putWords t q pos age ws).tt = s.tt := by
  induction ws generalizing s pos with
  | nil => rfl
  | cons w ws ih => simp [State.putWords, ih]
@[simp] theorem State.qOffer_tt (t q age : Nat) (ws : List W64) : (s.qOffer t q age ws).2.tt = s.tt := by
  unfold State.qOffer
  split <;> simp [State.qPut]
@[simp] theorem State.lbExpire_tt (t : Nat) : (s.lbExpire t).tt = s.tt := by simp [State.lbExpire]
@[simp] theorem State.capOffer_tt (t q age : Nat) (w : W64) : (s.capOffer t q age w).2.tt = s.tt := by
  simp only [State.capOffer, State.lbOffer]
  split
  · split <;> simp
  · simp
@[simp] theorem State.flushHeld_tt (t q : Nat) (limit : Option Nat) (ms : List HeldMark) :
    (s.flushHeld t q limit ms).1.tt = s.tt := by
  induction ms generalizing s with
  | nil => rfl
  | cons m ms ih => cases limit <;> simp [State.flushHeld, apply_ite Prod.fst, ih]
@[simp] theorem State.giveMarks_tt (t q : Nat) (ms : List HeldMark) : (s.giveMarks t q ms).tt = s.tt := by
  simp [State.giveMarks, State.settleHeld]
@[simp] theorem State.markAll_tt (barrier : Nat) (ws : List W64) : (s.markAll barrier ws).tt = s.tt :=
  forKeys_tt (fun t s => by
    split
    · exact forKeys_tt (fun q s => s.giveMarks_tt t q _) _ s
    · rfl) _ s
@[simp] theorem State.hoRestart_tt : s.hoRestart.tt = s.tt := forKeys_tt (fun t s => s.modTile_tt t _) _ s
@[simp] theorem State.dropDark_tt (reason : Nat) : (s.dropDark reason).tt = s.tt := by simp [State.dropDark]
@[simp] theorem State.sendAll_tt (cs : List Nat) (ws : List W64) :
    (forKeys cs (fun c t => t.sendOwn c 0 ws) s).tt = s.tt := forKeys_tt (fun c t => t.sendOwn_tt c 0 ws) cs s

/-! ### A time step (R45, R99, R100) -/

theorem State.reopened_tt : s.reopened.tt = { s.tt.dropped with block := [], last := none } := by
  unfold State.reopened
  dsimp only
  split <;> rfl

/-- An opening drops a step that was asked for (R45). -/
theorem State.openEpoch_stepAsk (pre : List W64) : (s.openEpoch pre).tt.stepAsk = none := by
  have ht (b : Bool) (u : State) : (u.openEvents b).tt.stepAsk = u.tt.stepAsk := by
    rw [State.openEvents, State.updQuality_tt]
    cases b <;> simp
  rw [State.openEpoch_eq, ht, State.sendAll_tt, State.openMarked, State.markAll_tt, State.hoRestart_tt, State.reopened_tt]
  rfl

/-- An opening whose one value is a step: device time moves by the step, rounded to a slot, and the rest is asked for as an
automatic profile (R45, R99). -/
theorem State.openEpoch_step {th : Int} (pre : List W64) (hset : s.tb.setVal = none) (hre : s.tb.realignVal = none)
    (hstep : s.tb.stepVal = some th) : (s.openEpoch pre).tb.time = s.tb.time.addFine (-slotRound th) ∧
      (s.openEpoch pre).tb.autoReq = some ⟨(th - slotRound th) * 976562500, s.steerMax, 0⟩ := by
  have hres : s.tb.residual = some (th - slotRound th) := by rw [Timebase.residual, hset, hre, hstep]
  refine ⟨?_, ?_⟩
  · obtain ⟨-, -, -, -, htime⟩ := s.openEpoch_timebase pre
    rw [htime, Timebase.opened, hset, hre, hstep]
  · rw [s.openEpoch_tb pre, State.reopened, hres]
    rfl

/-- A confirmed step is taken: it waits for the next slot boundary, as the one epoch cause (R45, R99). -/
def State.stepTaken (s : State) (th : Int) : State :=
  ({ s with tb := { s.tb with stepVal := some th }, tt := { s.tt with stepAsk := none } } : State).addCause
    (if s.tb.epoch = 0 then 0 else 1) (s.tb.age + 1)

/-- One slot on, the step is the one value that waits, and the clock reads what it would read without it. -/
theorem State.stepTaken_advance (th : Int) (hu : s.up = true) (hset : s.tb.setVal = none) (hre : s.tb.realignVal = none) :
    ((s.stepTaken th).advance 1).tb.setVal = none ∧ ((s.stepTaken th).advance 1).tb.realignVal = none ∧
      ((s.stepTaken th).advance 1).tb.stepVal = some th ∧ ((s.stepTaken th).advance 1).tb.time = (s.advance 1).now ∧
      ((s.stepTaken th).advance 1).steerMax = s.steerMax := by
  rw [(s.stepTaken th).advance_up 1 hu, s.advance_up 1 hu]
  exact ⟨(Timebase.run_setVal _ 1).trans hset, (Timebase.run_realignVal _ 1).trans hre, Timebase.run_stepVal _ 1, rfl, rfl⟩

/-- Where no other epoch cause waits, the step opens an epoch one slot on and raises the time-step event (R99, R107). -/
theorem exec_timeStep {th : Int} (hu : s.up = true) (ha : s.tt.stepAsk = some th) (hs : s.ttServo = true)
    (hh : s.tt.hold = false) (hset : s.tb.setVal = none) (hre : s.tb.realignVal = none) (hc : s.tb.causes = 0) :
    exec .timeStep s = .next ((((s.stepTaken th).advance 1).openEpoch []).raise (chipSrc 7)) := by
  have hgo : (s.ttServo && !s.tt.hold) = true := by rw [hs, hh]; rfl
  have htaken : (s.tb.setVal.isNone && s.tb.realignVal.isNone) = true := by rw [hset, hre]; rfl
  have hcause : (s.stepTaken th).tb.causes ≠ 0 := by
    show s.tb.causes ||| BitVec.ofNat 8 (2 ^ if s.tb.epoch = 0 then 0 else 1) ≠ 0
    rw [hc]
    split <;> decide
  have hdue : (s.stepTaken th).tb.openDue = s.tb.age + 1 := if_pos hc
  have hadv : (s.stepTaken th).advanceTo (s.tb.age + 1) = (s.stepTaken th).advance 1 :=
    congrArg (s.stepTaken th).advance (Nat.add_sub_cancel_left ..)
  have hopen : (s.stepTaken th).openDue = ((s.stepTaken th).advance 1).openEpoch [] := by
    rw [State.openDue, if_neg hcause, hdue, hadv]
  show execTimeStep s = _
  rw [execTimeStep, onChip_up s _ hu, ha]
  refine congrArg Host.Outcome.next ((if_pos hgo).trans ((if_pos htaken).trans ?_))
  exact congrArg (State.raise · (chipSrc 7)) hopen

/-! ### Stale quality (R107) -/

theorem exec_qualityStale {a : Nat} (hu : s.up = true) (ha : s.tt.lastDone = some a) (u : State)
    (h : s.advanceTo (a + 16 * s.ttPeriod) = u) :
    exec .qualityStale s = .next ({ u with tt := { u.tt with stale := true } } : State).updQuality := by
  show execQualityStale s = _
  rw [execQualityStale, onChip_up s _ hu, ha, ← h]

end Sys2Proof.Machine
open Sys2Proof Sys2Proof.Machine

/-- Settles O16: a reply is a frame of its stream, a discard and a stale quality follow the passing of time, and a time step is
the opening of an epoch whose one cause is the step. -/
theorem transferProgress : Obligations.TransferProgress := by
  refine ⟨?reply, ?timeout, ?step, ?stale⟩
  case reply =>
    intro s sub x hu hfind hx h1 hl hused hroom hw
    obtain ⟨t3, h3⟩ : ∃ t3, s.atLane.now.addFine sub.toNat = t3 := ⟨_, rfl⟩
    have hexec := exec_ttReplySend s sub hu hfind hl hused hroom hw t3 h3
    have hat : s.atLane = { s with tb := s.tb.run ((s.lane 0).free - s.tb.age) } := s.advanceTo_eq _ hu
    have hframe := s.atLane.replied_frame x t3
    have htt : (s.atLane.replied x t3).tt = s.tt := (congrArg State.tt hframe :).trans (by rw [hat])
    have hfound := (s.atLane.replied x t3).exch_modExch (f := fun y => { y with t3 := some t3 }) (fun _ => rfl)
      ((State.exch_congr s (congrArg TimeTransfer.opened htt) x.id).trans hx)
    rw [State.tryComplete_waits _ hfound (.inr h1)] at hexec
    refine ⟨_, hexec, ⟨_, t3, hfound, rfl⟩, (s.atLane.replied_seq x t3).trans ?_, ?_, ?_⟩
    · rw [hat]
      rfl
    · exact (congrArg State.regs hframe :).trans (by rw [hat])
    · exact (congrArg State.tiles hframe :).trans (by rw [hat])
  case timeout =>
    intro s id x hu hx
    refine ⟨_, exec_exchangeTimeout s hu hx, State.exch_closeExch _ id, ?_, rfl, s.advanceTo_age _ hu, ?_⟩
    · rw [s.advanceTo_eq _ hu]
      rfl
    · rw [s.advanceTo_eq _ hu]
      rfl
  case step =>
    intro s th hu ha hs hh hset hre hc he
    refine ⟨_, exec_timeStep s hu ha hs hh hset hre hc, ?_⟩
    obtain ⟨hset', hre', hstep, hnow, hmax⟩ := s.stepTaken_advance th hu hset hre
    obtain ⟨htime, hauto⟩ := State.openEpoch_step _ [] hset' hre' hstep
    obtain ⟨hregs, hmsg, -, -⟩ := ((s.stepTaken th).advance 1).openEpoch_rest []
    obtain ⟨hregs', htb, hmsg', -⟩ := (State.apart_raise (((s.stepTaken th).advance 1).openEpoch []) (chipSrc 7)).sameRegs
    refine ⟨?_, ?_, ?_, ?_, State.evSet_raise _ _ (by decide), ?_, ?_⟩
    · rw [htb, State.openEpoch_epoch, State.advance_epoch]
      exact nextEpoch_eq he
    · rw [htb, htime, hnow]
    · rw [htb, hauto, hmax]
    · rw [State.raise_tt, State.openEpoch_stepAsk]
    · rw [hregs', hregs, State.advance_regs]
      rfl
    · rw [hmsg', hmsg, State.advance_msg]
      rfl
  case stale =>
    intro s a hu ha
    refine ⟨_, exec_qualityStale s hu ha _ rfl, ?_⟩
    rw [s.advanceTo_eq _ hu]
    have hapart := State.apart_updQuality
      { s with tb := s.tb.run (a + 16 * s.ttPeriod - s.tb.age), tt := { s.tt with stale := true } }
    obtain ⟨hregs, htb, hmsg, -⟩ := hapart.sameRegs
    refine ⟨(congrArg TimeTransfer.stale hapart.tt :), ?_, (congrArg TimeTransfer.opened hapart.tt :), hregs, hmsg⟩
    rw [htb]
    have hage := s.advanceTo_age (a + 16 * s.ttPeriod) hu
    rwa [s.advanceTo_eq _ hu] at hage

end

/-! ## O19: writes of a channel's registers (R116 to R130, R515) -/
section
namespace Sys2Proof.Machine
open Sys2Proof

/-! ### Registers of a tile -/

theorem tileBase_aligned (u : Nat) : tileBase u % 4 = 0 := by
  rw [tileBase]
  omega

/-- The register at an offset of a tile block is that of its row (R505, R511). -/
theorem regAt_tileRow {u o i : Nat} {r : RegRow} (hu : u < 64) (ho : o < 0x4000) (hf : findRow tileRows o = some (r, i)) :
    regAt (tileBase u + o) = some ⟨r, i, some u⟩ := by
  have ht : tileOf (tileBase u + o) = some u := by
    rw [tileOf, tileBase, if_pos ⟨by omega, by omega⟩]
    exact congrArg some (by omega)
  have hm : (tileBase u + o - 0x100000) % 0x4000 = o := by
    rw [tileBase]
    omega
  rw [regAt, ht]
  simp only [hm, hf, Option.map_some]

/-- The registers of a channel (R121, R127, R166). -/
theorem findRow_chan : ∀ c < 17,
    findRow tileRows (0x400 + 64 * c) = some (⟨.chCfg, 0x400, 17, 64, 0xf, 0, 0, 0⟩, c) ∧
    findRow tileRows (0x404 + 64 * c) = some (⟨.chThr, 0x404, 17, 64, 0x3ff, 0, 0, 0⟩, c) ∧
    findRow tileRows (0x408 + 64 * c) = some (⟨.chCheck, 0x408, 17, 64, 0xff02, 0, 0, 1⟩, c) ∧
    findRow tileRows (0x420 + 64 * c) = some (⟨.chCapstat, 0x420, 17, 64, 0, 0, 0x10000, 0x20000⟩, c) := by
  decide +kernel

section
variable {u c : Nat} (hu : u < 64)
include hu

theorem regAt_tcXbar : regAt (tileBase u + 0x40) = some ⟨⟨.tcXbar, 0x40, 1, 4, 0x1f, 0, 0, 0⟩, 0, some u⟩ :=
  regAt_tileRow hu (by omega) (by decide +kernel)

variable (hc : c < 17)
include hc

theorem regAt_chCfgOf :
    regAt (tileBase u + 0x400 + 64 * c) = some ⟨⟨.chCfg, 0x400, 17, 64, 0xf, 0, 0, 0⟩, c, some u⟩ := by
  obtain ⟨h, -, -, -⟩ := findRow_chan c hc
  exact Nat.add_assoc .. ▸ regAt_tileRow hu (by omega) h

theorem regAt_chThr :
    regAt (tileBase u + 0x404 + 64 * c) = some ⟨⟨.chThr, 0x404, 17, 64, 0x3ff, 0, 0, 0⟩, c, some u⟩ := by
  obtain ⟨-, h, -, -⟩ := findRow_chan c hc
  exact Nat.add_assoc .. ▸ regAt_tileRow hu (by omega) h

theorem regAt_chCheck :
    regAt (tileBase u + 0x408 + 64 * c) = some ⟨⟨.chCheck, 0x408, 17, 64, 0xff02, 0, 0, 1⟩, c, some u⟩ := by
  obtain ⟨-, -, h, -⟩ := findRow_chan c hc
  exact Nat.add_assoc .. ▸ regAt_tileRow hu (by omega) h

theorem regAt_chCapstat :
    regAt (tileBase u + 0x420 + 64 * c) = some ⟨⟨.chCapstat, 0x420, 17, 64, 0, 0, 0x10000, 0x20000⟩, c, some u⟩ := by
  obtain ⟨-, -, -, h⟩ := findRow_chan c hc
  exact Nat.add_assoc .. ▸ regAt_tileRow hu (by omega) h

end

/-- The RW bits below `k` of a written word. -/
theorem land_mask (n k : Nat) : Nat.land n (2 ^ k - 1) = n % 2 ^ k := Nat.and_two_pow_sub_one_eq_mod n k

variable (s : State)

theorem State.tileServes_on {u : Nat} (r : Reg) (hu : u < s.nTiles) (hp : (s.tile u).powered = true) :
    s.tileServes u r = true := by
  simp [State.tileServes, State.onPart, hu, hp]

/-- Why the host's write of a register of a powered tile is refused: its value, or the state (R515). -/
theorem State.writeReason_tileReg {a i u : Nat} {row : RegRow} (w : Reg32) (ha : a % 4 = 0)
    (hr : regAt a = some ⟨row, i, some u⟩) (hf : row.rwf = 0) (hn : ¬ (row.rw = 0 ∧ row.w1c = 0 ∧ row.wo = 0))
    (hu : u < s.nTiles) (hp : (s.tile u).powered = true) :
    s.writeReason .host a w =
      if row.reg.valueBad i w.toNat then some 3 else s.stateReason .host row.reg i u w.toNat := by
  rw [s.writeReason_reg .host w ha hr]
  simp only [hf, ne_eq, not_true_eq_false, if_false, if_neg hn, Option.isSome_some, Option.getD_some, s.tileServes_on _ hu hp]
  rfl

/-- A refused write of a tile's register that starts nothing: one slot passes, and the refusal is recorded. -/
theorem State.writeAt_tileReg_refused {a i u r : Nat} {row : RegRow} {w : Reg32} (hr : regAt a = some ⟨row, i, some u⟩)
    (hk : row.reg ≠ .chCheck ∧ row.reg ≠ .tcHoCtrl) (k : (s.advance 1).writeReason .host a w = some r) :
    s.writeAt .host a w none = (s.advance 1).refuse .host a r := by
  have ha : a ≠ 0x8000 := by
    rintro rfl
    exact absurd (tileOf_of_regAt hr rfl) (by simp [tileOf])
  have hs : (s.advance 1).reportStart a w.toNat = s.advance 1 := by
    refine State.reportStart_none _ (fun x hx => ?_) (.inr ha)
    rw [hr] at hx
    cases hx
    exact hk
  rw [State.writeAt, State.busWrite_refused _ k, hs]

/-! ### What changes registers and one tile only -/

/-- Nothing changed but the timebase, registers and tile `u`. -/
def State.OneTile (s t : State) (u : Nat) : Prop :=
  (∀ v, v ≠ u → t.tile v = s.tile v) ∧ { t with tb := s.tb, regs := s.regs, tiles := s.tiles } = s

variable {s}

theorem State.OneTile.refl (s : State) (u : Nat) : s.OneTile s u := ⟨fun _ _ => rfl, rfl⟩

theorem State.OneTile.trans {t r : State} {u : Nat} (h : s.OneTile t u) (k : t.OneTile r u) : s.OneTile r u := by
  obtain ⟨htile, hrest⟩ := h
  obtain ⟨ktile, krest⟩ := k
  refine ⟨fun v hv => (ktile v hv).trans (htile v hv), ?_⟩
  rw [← hrest, ← krest]

theorem State.OneTile.ite {t : State} {u : Nat} {p : Prop} [Decidable p] (h : s.OneTile t u) :
    s.OneTile (if p then t else s) u := by
  split
  · exact h
  · exact .refl s u

/-- Where the registers stand as well, they need not be named. -/
theorem State.OneTile.of_regs {t : State} {u : Nat} (h : s.OneTile t u) (hr : t.regs = s.regs) :
    { t with tb := s.tb, tiles := s.tiles } = s := by
  obtain ⟨-, hrest⟩ := h
  rw [← hr] at hrest
  exact hrest

variable (s)

theorem State.oneTile_advance (n u : Nat) (hu : s.up = true) : s.OneTile (s.advance n) u := by
  rw [s.advance_up n hu]
  exact ⟨fun _ _ => rfl, rfl⟩

theorem State.oneTile_setReg (a : Nat) (w : Reg32) (u : Nat) : s.OneTile (s.setReg a w) u := ⟨fun _ _ => rfl, rfl⟩

theorem State.oneTile_modTile (u : Nat) (f : Tile → Tile) : s.OneTile (s.modTile u f) u :=
  ⟨fun _ hv => s.tile_modTile_ne u f hv, rfl⟩

theorem State.oneTile_modChan (u c : Nat) (f : Chan → Chan) : s.OneTile (s.modChan u c f) u := s.oneTile_modTile u _

theorem State.oneTile_setChCfg (u c : Nat) (w : Reg32) : s.OneTile (s.setChCfg u c w) u :=
  (s.oneTile_setReg ..).trans ((State.OneTile.ite (State.oneTile_modChan ..)).trans (.ite (State.oneTile_modChan ..)))

theorem State.oneTile_setTap (u n : Nat) : s.OneTile (s.setTap u n) u := by
  have htap := (s.oneTile_setReg (tileBase u + 0x40) (BitVec.ofNat 32 n) u).trans
    (State.oneTile_modTile _ u (fun x => { x with ho := { x.ho with tapped := decide (n ≠ 31) } }))
  unfold State.setTap
  dsimp only
  split
  · exact htap
  · exact htap.trans (State.oneTile_modChan ..)

/-! ### CH_CFG (R119, R121, R122) -/

theorem exec_chCfgWrite {u c : Nat} (w : BitVec 32) (hup : s.up = true) (hu : u < 64) (hc : c < 17) :
    exec (.chCfgWrite u c w) s = .next (s.writeAt .host (tileBase u + 0x400 + 64 * c) w none) := by
  show execChCfgWrite u c w s = _
  rw [execChCfgWrite, hostChan, if_pos hc, hostTile, if_pos hu, onChip_up s _ hup]

theorem State.advance_offLine (n u c : Nat) : (s.advance n).offLine u c = s.offLine u c := by simp [State.offLine]

theorem State.advance_chan (n u c : Nat) : (s.advance n).chan u c = s.chan u c := by simp [State.chan]

/-- Why a write of CH_CFG is refused: EN with a tie, or a check or a proof run on the channel (R122, R123, R378). -/
theorem State.writeReason_chCfg {u c : Nat} (w : Reg32) (hu : u < s.nTiles) (hc : c < 17) (hp : (s.tile u).powered = true) :
    s.writeReason .host (tileBase u + 0x400 + 64 * c) w =
      if bit w.toNat 0 && decide (bits w.toNat 3 2 ≠ 0) then some 3
      else if (s.chan u c).check.busy || s.offLine u c then some 4 else none := by
  have ha := tileBase_aligned u
  exact s.writeReason_tileReg w (by omega) (regAt_chCfgOf (hu.trans_le s.nTiles_le) hc) rfl (by simp) hu hp

/-- No register of a tile that is off takes a write, but those of its level monitor. -/
theorem State.writeReason_chCfg_off {u c : Nat} (w : Reg32) (hu : u < 64) (hc : c < 17) (hp : (s.tile u).powered = false) :
    s.writeReason .host (tileBase u + 0x400 + 64 * c) w = some 5 := by
  have ha := tileBase_aligned u
  rw [s.writeReason_reg .host w (by omega) (regAt_chCfgOf hu hc)]
  simp [State.tileServes, hp]

theorem State.writeAt_chCfg {u c : Nat} {w : Reg32} (hu : u < 64) (hc : c < 17)
    (k : (s.advance 1).writeReason .host (tileBase u + 0x400 + 64 * c) w = none) :
    s.writeAt .host (tileBase u + 0x400 + 64 * c) w none =
      (s.advance 1).setChCfg u c (BitVec.ofNat 32 (Nat.land w.toNat 0xf)) := by
  rw [s.writeAt_applied k, State.applyWrite_field _ .host w none (regAt_chCfgOf hu hc) rfl rfl (by simp), State.setField,
    regAt_chCfgOf hu hc]
  rfl

theorem State.rv_setChCfg (u c : Nat) (w : Reg32) (a : Nat) :
    (s.setChCfg u c w).rv a = if a = tileBase u + 0x400 + 64 * c then w.toNat else s.rv a := by
  rw [(s.sameRegs_setChCfg u c w).rv, State.rv_setReg]

/-! ### CH_THR (R116, R123) -/

theorem exec_chThrWrite {u c : Nat} (w : BitVec 32) (hup : s.up = true) (hu : u < 64) (hc : c < 17) :
    exec (.chThrWrite u c w) s = .next (s.writeAt .host (tileBase u + 0x404 + 64 * c) w none) := by
  show execChThrWrite u c w s = _
  rw [execChThrWrite, hostChan, if_pos hc, hostTile, if_pos hu, onChip_up s _ hup]

/-- A powered tile refuses no write of CH_THR. -/
theorem State.writeAt_chThr {u c : Nat} (w : Reg32) (hu : u < s.nTiles) (hc : c < 17) (hp : (s.tile u).powered = true) :
    s.writeAt .host (tileBase u + 0x404 + 64 * c) w none =
      (s.advance 1).setChThr u c (BitVec.ofNat 32 (Nat.land w.toNat 0x3ff)) := by
  have ha := tileBase_aligned u
  have hr := regAt_chThr (hu.trans_le s.nTiles_le) hc
  have k : (s.advance 1).writeReason .host (tileBase u + 0x404 + 64 * c) w = none :=
    State.writeReason_tileReg _ w (by omega) hr rfl (by simp) (by simpa using hu) (by simpa using hp)
  rw [s.writeAt_applied k, State.applyWrite_field _ .host w none hr rfl rfl (by simp), State.setField, hr]
  rfl

theorem State.oneTile_setChThr (u c : Nat) (w : Reg32) : s.OneTile (s.setChThr u c w) u := by
  unfold State.setChThr
  split
  · exact s.oneTile_modChan ..
  · exact s.oneTile_setReg ..

/-! ### TC_XBAR (R129, R130) -/

theorem exec_tcXbarWrite {u : Nat} (w : BitVec 32) (hup : s.up = true) (hu : u < 64) :
    exec (.tcXbarWrite u w) s = .next (s.writeAt .host (tileBase u + 0x40) w none) := by
  show execTcXbarWrite u w s = _
  rw [execTcXbarWrite, hostTile, if_pos hu, onChip_up s _ hup]

theorem State.advance_tapBusy (n u : Nat) : (s.advance n).tapBusy u = s.tapBusy u := by
  simp [State.tapBusy, State.spareServes]

theorem State.advance_tapSel (n u : Nat) : (s.advance n).tapSel u = s.tapSel u := by simp [State.tapSel, State.tfld]

/-- Why a write of TC_XBAR with a tap that exists is refused (R130). -/
theorem State.writeReason_tcXbar {u : Nat} (w : Reg32) (hu : u < s.nTiles) (hp : (s.tile u).powered = true)
    (hw : bits w.toNat 4 0 < 16 ∨ bits w.toNat 4 0 = 31) :
    s.writeReason .host (tileBase u + 0x40) w = if s.tapBusy u then some 4 else none := by
  have ha := tileBase_aligned u
  rw [s.writeReason_tileReg w (by omega) (regAt_tcXbar (hu.trans_le s.nTiles_le)) rfl (by simp) hu hp, if_neg]
  · rfl
  · simp only [Reg.valueBad, Bool.and_eq_true, decide_eq_true_eq]
    omega

/-- The tap moves where the write names another one. -/
theorem State.writeAt_tcXbar {u : Nat} {w : Reg32} (hu : u < 64) (hne : bits w.toNat 4 0 ≠ s.tapSel u)
    (k : (s.advance 1).writeReason .host (tileBase u + 0x40) w = none) :
    s.writeAt .host (tileBase u + 0x40) w none = (s.advance 1).setTap u (bits w.toNat 4 0) := by
  have hsel : bits (BitVec.ofNat 32 (Nat.land w.toNat 0x1f)).toNat 4 0 = bits w.toNat 4 0 := by
    rw [toNat_land, show (0x1f : Nat) = 2 ^ 5 - 1 from rfl, land_mask]
    simp [bits]
  rw [s.writeAt_applied k, State.applyWrite_field _ .host w none (regAt_tcXbar hu) rfl rfl (by simp), State.setField,
    regAt_tcXbar hu]
  show (if (s.advance 1).tapSel u = _ then _ else _) = _
  rw [Option.getD_some, hsel, s.advance_tapSel, if_neg hne.symm]

theorem State.rv_setTap (u a : Nat) {n : Nat} (hn : n < 32) :
    (s.setTap u n).rv a = if a = tileBase u + 0x40 then n else s.rv a := by
  have h : (s.setReg (tileBase u + 0x40) (BitVec.ofNat 32 n)).rv a = if a = tileBase u + 0x40 then n else s.rv a := by
    rw [State.rv_setReg, BitVec.toNat_ofNat, Nat.mod_eq_of_lt (by omega)]
  rw [← h, State.setTap]
  split <;> rfl

theorem State.tapped_setTap (u n : Nat) : ((s.setTap u n).tile u).ho.tapped = decide (n ≠ 31) := by
  unfold State.setTap
  dsimp only
  split
  · rw [State.tile_modTile_same]
  · rw [State.ho_modChan, State.tile_modTile_same]

/-! ### CH_CAPSTAT.CLR (R167) -/

/-- A channel with its counts of refused edges at zero. -/
def Chan.refusalsCleared (y : Chan) : Chan := { y with full := 0, late := 0 }

theorem exec_captureClr {u c : Nat} (hup : s.up = true) (hu : u < s.nTiles) (hc : c < 17) (hp : (s.tile u).powered = true) :
    exec (.captureClr u c) s = .next ((s.advance 1).modChan u c Chan.refusalsCleared) := by
  have hu64 := hu.trans_le s.nTiles_le
  have ha := tileBase_aligned u
  have hr := regAt_chCapstat hu64 hc
  have k : (s.advance 1).writeReason .host (tileBase u + 0x420 + 64 * c) 0x20000 = none :=
    State.writeReason_tileReg _ _ (by omega) hr rfl (by simp) (by simpa using hu) (by simpa using hp)
  show execCaptureClr u c s = _
  rw [execCaptureClr, hostChan, if_pos hc, hostTile, if_pos hu64, onChip_up s _ hup, State.hostSet,
    show BitVec.ofNat 32 (packW [(17, 1, 1)]) = 0x20000 from rfl, s.writeAt_applied k, State.applyWrite,
    msgOffset_of_regAt hr, hr]
  rfl

end Sys2Proof.Machine
open Sys2Proof Sys2Proof.Machine

/-- Settles O19: each command is one write of one register of the tile, applied one slot on as that register's own effect, or
refused for its value, the state or a gated tile. -/
theorem channelWrites : Obligations.ChannelWrites := by
  refine ⟨⟨?cfg, ?thr, ?tap, ?tapBusy, ?clr⟩, ?tied, ?checked, ?gated⟩
  case cfg =>
    intro s u c w hup hu hc hp hb ho hw
    have k : (s.advance 1).writeReason .host (tileBase u + 0x400 + 64 * c) w = none := by
      rw [State.writeReason_chCfg _ w (by simpa using hu) hc (by simpa using hp), s.advance_offLine, s.advance_chan, hb, ho]
      simpa using hw
    obtain ⟨htile, hrest⟩ := (s.oneTile_advance 1 u hup).trans
      ((s.advance 1).oneTile_setChCfg u c (BitVec.ofNat 32 (Nat.land w.toNat 0xf)))
    refine ⟨_, exec_chCfgWrite s w hup (hu.trans_le s.nTiles_le) hc, ?_⟩
    rw [s.writeAt_chCfg (hu.trans_le s.nTiles_le) hc k]
    refine ⟨?_, fun a ha => ?_, ?_, htile, hrest⟩
    · rw [State.rv_setChCfg, if_pos rfl, toNat_land]
      exact land_mask w.toNat 4
    · rw [State.rv_setChCfg, if_neg ha, s.advance_rv]
    · rw [State.setChCfg_tb, s.advance_age 1 hup]
  case thr =>
    intro s u c w hup hu hc hp
    obtain ⟨htile, hrest⟩ := (s.oneTile_advance 1 u hup).trans
      ((s.advance 1).oneTile_setChThr u c (BitVec.ofNat 32 (Nat.land w.toNat 0x3ff)))
    have hval : Nat.land w.toNat 0x3ff = w.toNat % 1024 := land_mask w.toNat 10
    refine ⟨_, exec_chThrWrite s w hup (hu.trans_le s.nTiles_le) hc, ?_⟩
    rw [s.writeAt_chThr w hu hc hp]
    refine ⟨?_, fun hb => ?_, fun hb => ?_, htile, hrest⟩
    · rw [State.setChThr_tb, s.advance_age 1 hup]
    · rw [State.setChThr, s.advance_chan, hb, if_neg Bool.false_ne_true, State.rv_setReg, if_pos rfl, toNat_land]
      exact ⟨hval, s.advance_tiles 1⟩
    · rw [State.setChThr, s.advance_chan, hb, if_pos rfl, State.chan_modChan_same, hval]
      exact ⟨rfl, s.advance_regs 1⟩
  case tap =>
    intro s u w hup hu hp hw hne hb
    have k : (s.advance 1).writeReason .host (tileBase u + 0x40) w = none := by
      rw [State.writeReason_tcXbar _ w (by simpa using hu) (by simpa using hp) hw, s.advance_tapBusy, hb]
      rfl
    have hlt : bits w.toNat 4 0 < 32 := by omega
    obtain ⟨htile, hrest⟩ := (s.oneTile_advance 1 u hup).trans ((s.advance 1).oneTile_setTap u (bits w.toNat 4 0))
    refine ⟨_, exec_tcXbarWrite s w hup (hu.trans_le s.nTiles_le), ?_⟩
    rw [s.writeAt_tcXbar (hu.trans_le s.nTiles_le) hne k]
    refine ⟨?_, State.tapped_setTap _ u _, fun a ha => ?_, htile, hrest⟩
    · rw [State.tapSel, State.tfld, State.rv_setTap _ u _ hlt, if_pos rfl]
      simp [bits]
    · rw [State.rv_setTap _ u a hlt, if_neg ha, s.advance_rv]
  case tapBusy =>
    intro s u w hup hu hp hw hb
    rw [exec_tcXbarWrite s w hup (hu.trans_le s.nTiles_le),
      s.writeAt_tileReg_refused (r := 4) (regAt_tcXbar (hu.trans_le s.nTiles_le)) (by simp)]
    rw [State.writeReason_tcXbar _ w (by simpa using hu) (by simpa using hp) hw, s.advance_tapBusy, hb]
    rfl
  case clr =>
    intro s u c hup hu hc hp
    have honly := (s.oneTile_advance 1 u hup).trans ((s.advance 1).oneTile_modChan u c Chan.refusalsCleared)
    refine ⟨_, exec_captureClr s hup hu hc hp, ?_⟩
    simp only [State.chan_modChan_same, s.advance_chan]
    have hrest := honly.of_regs (s.advance_regs 1)
    obtain ⟨htile, -⟩ := honly
    exact ⟨rfl, rfl, rfl, rfl, s.advance_regs 1, htile, hrest⟩
  case tied =>
    intro s u c w hup hu hc hp he ht
    rw [exec_chCfgWrite s w hup (hu.trans_le s.nTiles_le) hc,
      s.writeAt_tileReg_refused (r := 3) (regAt_chCfgOf (hu.trans_le s.nTiles_le) hc) (by simp)]
    rw [State.writeReason_chCfg _ w (by simpa using hu) hc (by simpa using hp), if_pos (by simp [he, ht])]
  case checked =>
    intro s u c w hup hu hc hp he hb
    rw [exec_chCfgWrite s w hup (hu.trans_le s.nTiles_le) hc,
      s.writeAt_tileReg_refused (r := 4) (regAt_chCfgOf (hu.trans_le s.nTiles_le) hc) (by simp)]
    rw [State.writeReason_chCfg _ w (by simpa using hu) hc (by simpa using hp), if_neg (by simp [he]), s.advance_chan, hb]
    rfl
  case gated =>
    intro s u c w hup hu hc hp
    rw [exec_chCfgWrite s w hup hu hc, s.writeAt_tileReg_refused (r := 5) (regAt_chCfgOf hu hc) (by simp)]
    exact State.writeReason_chCfg_off _ w hu hc (by simpa using hp)

end

/-! ## O20: tie checks and swap checks (R123 to R128) -/
section
namespace Sys2Proof.Machine
open Sys2Proof
variable (s : State)

/-! ### A check is asked for (R123, R128) -/

/-- A channel after CH_CHECK.START with the register value `w`: the refusal `r`, or the check that runs. -/
def Chan.checkAsked (y : Chan) (w : Nat) : Option Nat → Chan
  | some r => { y with check := { y.check with result := 3, reason := r } }
  | none => y.checkBusy (bit w 1) (bits w 15 8)

theorem State.checkAsk_eq (u c : Nat) : s.checkAsk u c =
    s.modChan u c (fun y => y.checkAsked (s.rv (tileBase u + 0x408 + 64 * c)) (s.checkRefusal u c)) := by
  unfold State.checkAsk
  cases s.checkRefusal u c <;> rfl

/-- Whether a check may run depends on CH_CFG, TC_XBAR and the tiles (R123, R128). -/
theorem State.checkRefusal_congr {t : State} {u c : Nat} (ht : t.tiles = s.tiles)
    (hcfg : t.rv (tileBase u + 0x400 + 64 * c) = s.rv (tileBase u + 0x400 + 64 * c))
    (htap : t.rv (tileBase u + 0x40) = s.rv (tileBase u + 0x40)) : t.checkRefusal u c = s.checkRefusal u c := by
  have hen : t.chEn u c = s.chEn u c := congrArg (bit · 0) hcfg
  have hsel : t.tapSel u = s.tapSel u := congrArg (bits · 4 0) htap
  rw [State.checkRefusal, hen, hsel, State.chan, State.tile_congr ht]
  rfl

/-- The word that CHECK_START writes: START, KIND and the margin, of which KIND and the margin are RW. -/
def checkWord (k : Bool) (m : BitVec 8) : Reg32 := BitVec.ofNat 32 (packW [(0, 1, 1), (1, 1, b2n k), (8, 8, m.toNat)])

theorem checkWord_fields : ∀ (k : Bool) (m : BitVec 8),
    bit (checkWord k m).toNat 0 = true ∧ bits (checkWord k m).toNat 15 8 = m.toNat ∧
      bit (BitVec.ofNat 32 (Nat.land (checkWord k m).toNat 0xff02)).toNat 1 = k ∧
      bits (BitVec.ofNat 32 (Nat.land (checkWord k m).toNat 0xff02)).toNat 15 8 = m.toNat := by
  decide +kernel

/-- A write of CH_CHECK with START sets KIND and the margin, and asks for the check. -/
theorem State.applyWrite_chCheck {u c : Nat} {w : Reg32} (hu : u < 64) (hc : c < 17) (hb : bit w.toNat 0 = true) :
    s.applyWrite .host (tileBase u + 0x408 + 64 * c) w none =
      (s.setReg (tileBase u + 0x408 + 64 * c) (BitVec.ofNat 32 (Nat.land w.toNat 0xff02))).checkAsk u c := by
  have hr := regAt_chCheck hu hc
  have hs (v : Reg32) : s.setField (tileBase u + 0x408 + 64 * c) v = s.setReg (tileBase u + 0x408 + 64 * c) v := by
    rw [State.setField, hr]
  rw [State.applyWrite, msgOffset_of_regAt hr, hr, ← hs]
  exact if_pos hb

/-- A powered tile refuses no write of CH_CHECK with a margin. -/
theorem State.writeReason_chCheck {u c : Nat} {w : Reg32} (hu : u < s.nTiles) (hc : c < 17) (hp : (s.tile u).powered = true)
    (hm : bits w.toNat 15 8 ≠ 0) : s.writeReason .host (tileBase u + 0x408 + 64 * c) w = none := by
  have ha := tileBase_aligned u
  rw [s.writeReason_tileReg w (by omega) (regAt_chCheck (hu.trans_le s.nTiles_le) hc) rfl (by simp) hu hp, if_neg]
  · rfl
  · simpa [Reg.valueBad] using hm

/-- CHECK_START asks for its check one slot on, with KIND and the margin as the register's RW fields. -/
theorem exec_checkStart {u c : Nat} (k : Bool) {m : BitVec 8} (hup : s.up = true) (hu : u < s.nTiles) (hc : c < 17)
    (hp : (s.tile u).powered = true) (hm : m ≠ 0) : ∃ v : Reg32, bit v.toNat 1 = k ∧ bits v.toNat 15 8 = m.toNat ∧
      exec (.checkStart u c k m) s = .next (((s.advance 1).setReg (tileBase u + 0x408 + 64 * c) v).checkAsk u c) := by
  obtain ⟨hstart, hmargin, hkind, hmargin'⟩ := checkWord_fields k m
  have hu64 := hu.trans_le s.nTiles_le
  have hm0 : m.toNat ≠ 0 := fun h => hm (BitVec.eq_of_toNat_eq h)
  have hreason : (s.advance 1).writeReason .host (tileBase u + 0x408 + 64 * c) (checkWord k m) = none :=
    State.writeReason_chCheck _ (by simpa using hu) hc (by simpa using hp) (by rwa [hmargin])
  refine ⟨_, hkind, hmargin', ?_⟩
  rw [← State.applyWrite_chCheck _ hu64 hc hstart, ← s.writeAt_applied hreason]
  show execCheckStart u c k m s = _
  rw [execCheckStart, hostChan, if_pos hc, hostTile, if_pos hu64, onChip_up s _ hup]
  rfl

/-! ### A check ends (R123 to R127) -/

theorem Check.finish_busy (k : Check) (o : CheckOutcome) : (k.finish o).busy = false := by
  unfold Check.finish
  cases checkReason o <;> rfl

theorem Check.finish_passed (k : Check) {o : CheckOutcome} (h : checkReason o = none) : (k.finish o).result = 1 := by
  unfold Check.finish
  simp only [h]

theorem Check.finish_failed (k : Check) {o : CheckOutcome} {r : Nat} (h : checkReason o = some r) :
    (k.finish o).result = 2 ∧ (k.finish o).reason = r := by
  unfold Check.finish
  simp only [h, and_self]

/-- The transitions that a swap check finds are stored. -/
theorem Check.finish_swap (k : Check) {n w : List (Nat × Nat)} {cn cs : BitVec 14} (hn : transition false n = some (some cn))
    (hw : transition true w = some (some cs)) : (k.finish (.swap n w)).cn = cn ∧ (k.finish (.swap n w)).cs = cs := by
  unfold Check.finish
  cases checkReason (.swap n w) <;> simp [hn, hw]

/-- A check that has ended, and holds no threshold back any more (R123). -/
def Check.released (k : Check) : Check := { k with busy := false, thr := none }

/-- The end of a check writes the threshold that waited for it, if any. -/
theorem State.checkRelease_eq (u c : Nat) : ∃ m, s.checkRelease u c =
    { s.modChan u c (fun y => { y with check := y.check.released }) with regs := m } := by
  unfold State.checkRelease
  dsimp only
  split
  · exact ⟨_, rfl⟩
  · exact ⟨_, rfl⟩

/-- A channel depends on the tiles alone. -/
theorem State.chan_congr {t : State} (h : t.tiles = s.tiles) (u c : Nat) : t.chan u c = s.chan u c := by
  rw [State.chan, State.chan, State.tile_congr h]

theorem State.EventsApart.chan {t : State} (h : s.EventsApart t) (u c : Nat) : t.chan u c = s.chan u c :=
  (congrArg (fun x : Tile => x.chan c) (h.2 u) :)

/-- What the end of a check leaves before its event. -/
def State.checkStored (s : State) (u c : Nat) (o : CheckOutcome) : State :=
  (s.checkRelease u c).modChan u c (fun y => { y with check := y.check.finish o })

theorem State.checkStored_spec (u c : Nat) (o : CheckOutcome) :
    ((s.checkStored u c o).chan u c).check = (s.chan u c).check.released.finish o ∧ (s.checkStored u c o).msg = s.msg ∧
      (s.checkStored u c o).tb = s.tb := by
  obtain ⟨m, hm⟩ := s.checkRelease_eq u c
  rw [State.checkStored, State.chan_modChan_same, hm]
  have hchan := (State.chan_congr _ rfl u c).trans (s.chan_modChan_same u c (fun y => { y with check := y.check.released }))
  exact ⟨congrArg (fun y : Chan => y.check.finish o) hchan, rfl, rfl⟩

/-- The end of a check stores its outcome, and raises the check-failed event where it failed. -/
theorem State.checkEnd_spec (u c : Nat) (o : CheckOutcome) :
    ((s.checkEnd u c o).chan u c).check = (s.chan u c).check.released.finish o ∧ (s.checkEnd u c o).msg = s.msg ∧
      (s.checkEnd u c o).tb = s.tb ∧ (u < 64 → checkReason o ≠ none → (s.checkEnd u c o).evSet (tileSrc u 1) = true) := by
  obtain ⟨hchk, hmsg, htb⟩ := s.checkStored_spec u c o
  have heq : s.checkEnd u c o =
      if (checkReason o).isSome then (s.checkStored u c o).raise (tileSrc u 1) else s.checkStored u c o := rfl
  rcases hr : checkReason o with _ | r
  · rw [heq, hr]
    exact ⟨hchk, hmsg, htb, fun _ h => absurd rfl h⟩
  · have hapart := (s.checkStored u c o).apart_raise (tileSrc u 1)
    obtain ⟨-, htb', hmsg', -⟩ := hapart.sameRegs
    rw [heq, hr]
    refine ⟨(congrArg Chan.check (hapart.chan _ u c)).trans hchk, hmsg'.trans hmsg, htb'.trans htb, fun hu _ => ?_⟩
    exact State.evSet_raise _ _ (by rw [tileSrc]; omega)

/-- CHECK_COMPLETE ends the check; a proof run may go on from it. -/
theorem exec_checkComplete {u c : Nat} {o : CheckOutcome} (hup : s.up = true) (hu : u < s.nTiles) (hc : c < 17)
    (ho : (s.chan u c).check.takes o = true) :
    ∃ t, exec (.checkComplete u c o) s = .next t ∧ t = { s.checkEnd u c o with cal := t.cal } := by
  show ∃ t, execCheckComplete u c o s = .next t ∧ _
  rw [execCheckComplete, onChan_up s u c _ hc hup hu]
  refine ⟨_, rfl, ?_⟩
  simp only [ho, if_true]
  split
  · split <;> rfl
  · rfl

/-! ### The tests of a check (R124, R125, R128) -/

theorem tieReason_eq_none {ps : List (Nat × Nat)} : tieReason ps = none ↔ ∀ p ∈ ps, p.1 = p.2 := by
  induction ps with
  | nil => simp [tieReason]
  | cons p ps ih =>
    obtain ⟨n, want⟩ := p
    by_cases h : n = want <;> simp [tieReason, h, ih]

theorem tieReason_pass {n want : Nat} (h : n = want) (ps : List (Nat × Nat)) : tieReason ((n, want) :: ps) = tieReason ps :=
  if_pos h

/-- A step that fails gives its own reason. -/
theorem tieReason_fail {n want : Nat} (h : n ≠ want) (ps : List (Nat × Nat)) :
    tieReason ((n, want) :: ps) = some (if n = 0 then 1 else if n = 256 then 2 else 3) :=
  if_neg h

/-- The reason of a tie check is that of its counts, whatever the codes. -/
theorem checkReason_tie (f1 f2 f3 f4 : Bool) (k1 k2 k3 k4 a b c d : Nat) :
    checkReason (.tie [(f1, k1, a), (f2, k2, b), (f3, k3, c), (f4, k4, d)]) =
      tieReason [(a, 0), (b, 256), (c, 256), (d, 0)] := rfl

/-- The search ends between two neighbouring codes, the lower with at least half of its decisions and the upper with fewer. -/
theorem bisect_some {g : Nat → Option Nat} {n lo hi x : Nat} (hlt : lo < hi) (hlen : hi ≤ lo + 2 ^ n)
    (hlo : ∃ p, g lo = some p ∧ 128 ≤ p) (hhi : ∃ q, g hi = some q ∧ q < 128) (h : bisect g n lo hi = some x) :
    x < hi ∧ (∃ p, g x = some p ∧ 128 ≤ p) ∧ ∃ q, g (x + 1) = some q ∧ q < 128 := by
  induction n generalizing lo hi with
  | zero =>
    cases h
    have hhi' : hi = x + 1 := by
      rw [Nat.pow_zero] at hlen
      omega
    exact ⟨hlt, hlo, hhi' ▸ hhi⟩
  | succ n ih =>
    rw [bisect] at h
    rw [Nat.pow_succ] at hlen
    split at h
    next => cases h
    next v hv =>
      split at h
      next hv128 => exact ih (by omega) (by omega) ⟨v, hv, hv128⟩ hhi h
      next hv128 =>
        have hne : (lo + hi) / 2 ≠ lo := by
          intro he
          obtain ⟨p, hp, hp128⟩ := hlo
          rw [he, hp] at hv
          cases hv
          exact hv128 hp128
        obtain ⟨hx, hp, hq⟩ := ih (by omega) (by omega) hlo ⟨v, hv, Nat.not_le.mp hv128⟩ h
        exact ⟨by omega, hp, hq⟩

/-- A quotient rounded down, or up where it is not whole, is less than one away from it. -/
theorem rounded_between (x d : Nat) (hd : 0 < d) (up : Bool) :
    x < (x / d + b2n (decide (x % d ≠ 0) && up) + 1) * d ∧ (x / d + b2n (decide (x % d ≠ 0) && up)) * d < x + d := by
  have hx := Nat.div_add_mod' x d
  have hlt := Nat.mod_lt x hd
  by_cases hup : (decide (x % d ≠ 0) && up) = true
  · have h0 : x % d ≠ 0 := by simpa using (Bool.and_eq_true_iff.mp hup).1
    simp only [hup, b2n, if_true, Nat.add_mul, Nat.one_mul]
    omega
  · simp only [hup, b2n, Nat.add_mul, Nat.one_mul]
    simp
    omega

/-- A transition that is found lies on the line between two neighbouring codes (R125). -/
theorem transition_some {sw : Bool} {cs : List (Nat × Nat)} {x : BitVec 14} (h : transition sw cs = some (some x)) :
    ∃ lo p q up, lo < 1023 ∧ decisions sw cs lo = some p ∧ decisions sw cs (lo + 1) = some q ∧ 128 ≤ p ∧ q < 128 ∧
      x = BitVec.ofNat 14 (16 * lo + (16 * (p - 128) / (p - q) +
        b2n (decide (16 * (p - 128) % (p - q) ≠ 0) && up))) := by
  unfold transition at h
  dsimp only at h
  split at h
  next a b ha hb =>
    split at h
    next => cases h
    next hab =>
      split at h
      next => cases h
      next lo hlo =>
        obtain ⟨hlt, ⟨p, hp, hp128⟩, q, hq, hq128⟩ :=
          bisect_some (by decide) (by decide) ⟨a, ha, by omega⟩ ⟨b, hb, by omega⟩ hlo
        rw [hp, hq] at h
        simp only [Option.some.injEq, Nat.add_assoc] at h
        exact ⟨lo, p, q, _, hlt, hp, hq, hp128, hq128, h.symm⟩
  next => cases h

end Sys2Proof.Machine
open Sys2Proof Sys2Proof.Machine

/-- Settles O20: a check asked for is a change of its channel alone, the end of one stores its outcome, a tie check's reason is
that of its first failing count (the model's reading, log entry 54), and a transition lies on the line between the two codes
where its search ends. -/
theorem tieAndSwapChecks : Obligations.TieAndSwapChecks := by
  refine ⟨⟨?start, ?complete, ?tie⟩, ?swap, ?line⟩
  case start =>
    intro s u c k m hup hu hc hp hm
    obtain ⟨v, hkind, hmargin, hexec⟩ := exec_checkStart s k hup hu hc hp hm
    refine ⟨_, hexec, ?_⟩
    have hrefusal : ((s.advance 1).setReg (tileBase u + 0x408 + 64 * c) v).checkRefusal u c = s.checkRefusal u c := by
      refine s.checkRefusal_congr (s.advance_tiles 1) ?_ ?_ <;> rw [State.rv_setReg, if_neg (by omega), s.advance_rv]
    have hchan (d : Nat) : ((s.advance 1).setReg (tileBase u + 0x408 + 64 * c) v).chan u d = s.chan u d :=
      s.chan_congr (s.advance_tiles 1) u d
    have hone := (s.oneTile_advance 1 u hup).trans (State.oneTile_setReg _ (tileBase u + 0x408 + 64 * c) v u)
    rw [State.checkAsk_eq, hrefusal, State.rv_setReg, if_pos rfl]
    obtain ⟨htile, hrest⟩ := hone.trans (State.oneTile_modChan _ u c (fun y => y.checkAsked v.toNat (s.checkRefusal u c)))
    refine ⟨fun hr => ?_, fun r hr => ?_, fun d hd => ?_, htile, hrest⟩
    · rw [State.chan_modChan_same, hr]
      exact ⟨rfl, hkind, hmargin⟩
    · rw [State.chan_modChan_same, hr, hchan]
      rfl
    · rw [State.chan_modChan, if_neg (fun h => hd h.2), hchan]
  case complete =>
    intro s u c o hup hu hc ho
    obtain ⟨t, hexec, ht⟩ := exec_checkComplete s hup hu hc ho
    obtain ⟨hchk, hmsg, htb, hev⟩ := s.checkEnd_spec u c o
    have htiles : t.tiles = (s.checkEnd u c o).tiles := (congrArg State.tiles ht :)
    have hchip : t.ev.chip = (s.checkEnd u c o).ev.chip := (congrArg (fun t : State => t.ev.chip) ht :)
    rw [← State.chan_congr _ htiles] at hchk
    refine ⟨t, hexec, ?_⟩
    beta_reduce
    rw [hchk]
    refine ⟨Check.finish_busy _ o, Check.finish_passed _, fun r hr => ?_, fun n w cn cs hs hn hw => ?_,
      (congrArg State.msg ht :).trans hmsg, (congrArg State.tb ht :).trans htb⟩
    · obtain ⟨hres, hreason⟩ := Check.finish_failed (s.chan u c).check.released hr
      refine ⟨hres, hreason, ?_⟩
      rw [State.evSet_congr htiles hchip]
      exact hev (hu.trans_le s.nTiles_le) (by simp [hr])
    · exact hs ▸ Check.finish_swap _ hn hw
  case tie =>
    intro k a b c d hb hs ha hb' hc hd
    simp only [checkReason_tie]
    refine ⟨?_, ?_, fun h0 h256 => ?_, fun h0 => ?_⟩
    · simp [Check.takes, hb, hs, tieSteps, ha, hb', hc, hd]
    · simp [tieReason_eq_none]
    · rw [tieReason_pass h0, tieReason_fail h256, if_neg h256]
    · rw [tieReason_fail h0, if_neg h0]
  case swap =>
    intro n w cn cs hn hw
    rw [checkReason, hn, hw]
    cases cn <;> cases cs <;> rfl
  case line =>
    intro sw cs x hx
    obtain ⟨lo, p, q, up, hlo, hp, hq, hp128, hq128, rfl⟩ := transition_some hx
    obtain ⟨hlow, hhigh⟩ := rounded_between (16 * (p - 128)) (p - q) (by omega) up
    refine ⟨lo, p, q, hp, hq, hq128, hp128, hlo, ?_⟩
    generalize hn : 16 * (p - 128) / (p - q) + b2n (decide (16 * (p - 128) % (p - q) ≠ 0) && up) = n at *
    have hn16 : n ≤ 16 := by
      have h16 : n * (p - q) < 17 * (p - q) := by omega
      have := Nat.lt_of_mul_lt_mul_right h16
      omega
    rw [BitVec.toNat_ofNat, Nat.mod_eq_of_lt (by omega), Nat.add_assoc]
    constructor
    · rw [Nat.add_mul]
      omega
    · rw [Nat.add_mul]
      omega

end

/-! ## O21: a sample of the level monitor (R133 to R142) -/
section
namespace Sys2Proof.Machine
open Sys2Proof

/-! ### What records, events and latch bits leave -/

/-- What a sample says of the monitor of a tile, the registers and message memory. -/
structure LmView where
  runSt : Map Nat
  rep : Map Nat
  regs : Map Reg32
  msg : Memory

/-- The view of tile `u` in a state. -/
def State.lmView (s : State) (u : Nat) : LmView :=
  { runSt := (s.tile u).lm.runSt, rep := (s.tile u).lm.rep, regs := s.regs, msg := s.msg }

variable (s : State) (u : Nat)

theorem State.lmView_modTile_same (f : Tile → Tile) : (s.modTile u f).lmView u =
    { runSt := (f (s.tile u)).lm.runSt, rep := (f (s.tile u)).lm.rep, regs := s.regs, msg := s.msg } := by
  rw [State.lmView, State.tile_modTile_same]
  rfl

@[simp] theorem State.lmView_ite {p : Prop} [Decidable p] (s t : State) :
    (if p then s else t).lmView u = if p then s.lmView u else t.lmView u := apply_ite (·.lmView u) p s t

/-- A change of a tile that leaves what its monitor reports. -/
@[simp] theorem State.lmView_modTile (t : Nat) (f : Tile → Tile) (hrun : (f (s.tile t)).lm.runSt = (s.tile t).lm.runSt)
    (hrep : (f (s.tile t)).lm.rep = (s.tile t).lm.rep) : (s.modTile t f).lmView u = s.lmView u := by
  by_cases h : u = t
  · rw [h, State.lmView_modTile_same, hrun, hrep]
    rfl
  · rw [State.lmView, s.tile_modTile_ne t f h]
    rfl

@[simp] theorem State.raise_lmView (k : Nat) : (s.raise k).lmView u = s.lmView u := by
  have hapart := s.apart_raise k
  obtain ⟨hregs, -, hmsg, -⟩ := hapart.sameRegs
  have hlm : ((s.raise k).tile u).lm = (s.tile u).lm := (congrArg Tile.lm (hapart.2 u) :)
  rw [State.lmView, hlm, hregs, hmsg]
  rfl

@[simp] theorem State.modQueue_lmView (t q : Nat) (f : Queue → Queue) : (s.modQueue t q f).lmView u = s.lmView u :=
  s.lmView_modTile u t _ rfl rfl
@[simp] theorem State.setQWord_lmView (t q pos : Nat) (w : QWord) : (s.setQWord t q pos w).lmView u = s.lmView u :=
  s.lmView_modTile u t _ rfl rfl
@[simp] theorem State.qSticky_lmView (t q : Nat) (f : Queue → Queue) : (s.qSticky t q f).lmView u = s.lmView u := by
  simp [State.qSticky]
@[simp] theorem State.qRefuse_lmView (t q n : Nat) : (s.qRefuse t q n).lmView u = s.lmView u := by simp [State.qRefuse]
@[simp] theorem State.fcoRise_lmView (k : Nat) : (s.fcoRise k).lmView u = s.lmView u := by
  unfold State.fcoRise
  split <;> rfl
@[simp] theorem State.fcoReturn_lmView (k : Nat) : (s.fcoReturn k).lmView u = s.lmView u := by
  unfold State.fcoReturn
  split <;> rfl
@[simp] theorem State.qEval_lmView (t q : Nat) : (s.qEval t q).lmView u = s.lmView u := by simp [State.qEval]
@[simp] theorem State.putWords_lmView (t q pos age : Nat) (ws : List (W64 × Option SliceTag)) :
    (s.putWords t q pos age ws).lmView u = s.lmView u := by
  induction ws generalizing s pos with
  | nil => rfl
  | cons x xs ih => simp [State.putWords, ih]
@[simp] theorem State.qPut_lmView (t q age : Nat) (ws : List (W64 × Option SliceTag)) :
    (s.qPut t q age ws).lmView u = s.lmView u := by simp [State.qPut]
@[simp] theorem State.qOffer_lmView (t q age : Nat) (ws : List W64) : (s.qOffer t q age ws).2.lmView u = s.lmView u := by
  unfold State.qOffer
  split <;> simp
@[simp] theorem State.lbExpire_lmView (t : Nat) : (s.lbExpire t).lmView u = s.lmView u := by simp [State.lbExpire]
@[simp] theorem State.lbOffer_lmView (t age : Nat) (w : W64) : (s.lbOffer t age w).2.lmView u = s.lmView u := by
  simp only [State.lbOffer]
  split <;> simp
@[simp] theorem State.capOffer_lmView (t q age : Nat) (w : W64) : (s.capOffer t q age w).2.lmView u = s.lmView u := by
  unfold State.capOffer
  split <;> simp
@[simp] theorem State.flushHeld_lmView (t q : Nat) (limit : Option Nat) (ms : List HeldMark) :
    (s.flushHeld t q limit ms).1.lmView u = s.lmView u := by
  induction ms generalizing s with
  | nil => rfl
  | cons m ms ih => cases limit <;> simp [State.flushHeld, apply_ite Prod.fst, ih]
@[simp] theorem State.settleHeld_lmView (t q : Nat) (limit : Option Nat) :
    (s.settleHeld t q limit).lmView u = s.lmView u := by simp [State.settleHeld]

/-! ### The monitor's own steps -/

@[simp] theorem State.setLatch_lmView (t k : Nat) (v : Bool) : (s.setLatch t k v).lmView u = s.lmView u := by
  simp [State.setLatch]
@[simp] theorem State.lmFollow_lmView (t : Nat) : (s.lmFollow t).lmView u = s.lmView u :=
  forKeys_keeps (R := fun s t => t.lmView u = s.lmView u) (fun _ => rfl) (fun h k => k.trans h) (fun k s => by simp) _ s
@[simp] theorem State.lmRound_lmView (t : Nat) : (s.lmRound t).lmView u = s.lmView u := by simp [State.lmRound]
@[simp] theorem State.lmNext_lmView (t k : Nat) : (s.lmNext t k).lmView u = s.lmView u := by
  unfold State.lmNext
  split <;> simp
@[simp] theorem State.lmRecord_lmView (t k prev new : Nat) (at_ : Kept) : (s.lmRecord t k prev new at_).lmView u = s.lmView u := by
  unfold State.lmRecord
  split <;> simp

/-- A wake request is no part of the view. -/
theorem State.lmView_sup (x : Supervisor) : ({ s with sup := x } : State).lmView u = s.lmView u := rfl

/-- A change of reported state is recorded or kept; what the monitor reports is not changed by that. -/
@[simp] theorem State.lmChanged_lmView (t k prev new : Nat) : (s.lmChanged t k prev new).lmView u = s.lmView u := by
  simp only [State.lmChanged]
  split
  · simp
  · rw [State.lmView_sup]
    simp

/-- Samples in a row that agree with a sample `x` of source `k` now (R136). -/
def LevelMon.runOf (m : LevelMon) (k x : Nat) : Nat :=
  if mapGet (fun _ => 3) m.runSt k = x then min 15 (mapGet (fun _ => 0) m.runN k + 1) else 1

/-- The state that source `k` has reported once a sample is `x`: it changes once it has stood long enough (R136). -/
def LevelMon.newState (m : LevelMon) (k x : Nat) : Nat :=
  if x ≠ m.state k ∧ bits (m.win k) 25 22 ≤ m.runOf k x then x else m.state k

/-- A sample sets the run of its source and the state that it reports. -/
theorem State.lmTake_lmView (k x : Nat) : (s.lmTake u k x).lmView u =
    { runSt := mapSet (fun _ => 3) (s.tile u).lm.runSt k x
      rep := mapSet (fun _ => 3) (s.tile u).lm.rep k ((s.tile u).lm.newState k x), regs := s.regs, msg := s.msg } := by
  have hnew : (s.tile u).lm.newState k x =
      if decide (x ≠ (s.tile u).lm.state k) && decide (bits ((s.tile u).lm.win k) 25 22 ≤ (s.tile u).lm.runOf k x) then x
      else (s.tile u).lm.state k := by
    simp only [LevelMon.newState, Bool.and_eq_true, decide_eq_true_eq]
  rw [hnew]
  unfold State.lmTake
  dsimp only
  rw [State.lmView_ite, State.lmChanged_lmView, ite_self, State.setLatch_lmView, State.lmView_modTile_same]
  rfl

/-- A visit that ends at slot age `a` leaves the sample that it took (R135, R136). -/
theorem State.lmVisit_lmView (a k x : Nat) : (((s.advanceTo a).lmTake u k x).lmNext u k).lmView u =
    { runSt := mapSet (fun _ => 3) (s.tile u).lm.runSt k x
      rep := mapSet (fun _ => 3) (s.tile u).lm.rep k ((s.tile u).lm.newState k x), regs := s.regs, msg := s.msg } := by
  rw [State.lmNext_lmView, State.lmTake_lmView, State.advanceTo, s.advance_tile, s.advance_regs, s.advance_msg]

/-- A visit that ends: at its last slot boundary the sample of its source is taken (R134 to R136). -/
theorem exec_lmSample {nv e0 e1 : Int} (hup : s.up = true) (hu : u < s.nTiles) (he : bit (s.rv (tileBase u + 0x840)) 0 = true)
    (hm : (s.tile u).lm.mask ≠ 0) (m : LevelMon) (hlm : (s.tile u).lm = m) (x : Nat)
    (hx : windowState (m.win m.pos) (s.sourceNv u m.pos nv) e0 e1 = x) : ∃ t, exec (.lmSample u nv e0 e1) s = .next t ∧
      t.tb.age = max s.tb.age (m.since + s.tfld u 0x840 23 16) ∧ t.lmView u =
        { runSt := mapSet (fun _ => 3) m.runSt m.pos x, rep := mapSet (fun _ => 3) m.rep m.pos (m.newState m.pos x)
          regs := s.regs, msg := s.msg } := by
  refine ⟨((s.advanceTo (m.since + s.tfld u 0x840 23 16)).lmTake u m.pos x).lmNext u m.pos, ?_, ?_, ?_⟩
  · show execLmSample u nv e0 e1 s = _
    rw [execLmSample, onTile_up s u _ hup hu, if_pos he, if_neg hm, hlm, s.advanceTo_eq _ hup, ← hx]
    subst hlm
    rfl
  · rw [State.lmNext_tb, State.lmTake_tb, s.advanceTo_age _ hup]
  · rw [s.lmVisit_lmView, hlm]

end Sys2Proof.Machine
open Sys2Proof Sys2Proof.Machine

/-- Settles O21: the sample sets the run and the reported state of its source; what follows it, a record, a latch bit and the
next visit, changes neither of them, nor registers, message memory or time. -/
theorem levelSamples : Obligations.LevelSamples := by
  intro s u nv e0 e1 hup hu he hm
  obtain ⟨t, hexec, hage, hview⟩ := exec_lmSample s u (e0 := e0) (e1 := e1) (nv := nv) hup hu he hm _ rfl _ rfl
  have hrun := congrArg (fun v : LmView => mapGet (fun _ => 3) v.runSt (s.tile u).lm.pos) hview
  have hrep := congrArg (fun v : LmView => mapGet (fun _ => 3) v.rep (s.tile u).lm.pos) hview
  exact ⟨t, hexec, hage, hrun.trans (mapGet_set_same ..), hrep.trans (mapGet_set_same ..), congrArg LmView.regs hview,
    congrArg LmView.msg hview⟩

end

/-! ## O32: gate boundaries and context timers (R181, R182, R217, R218) -/
section
namespace Sys2Proof.Machine
open Sys2Proof

/-! ### The least of some engine times (R41) -/

theorem not_timeLt_of_timeLe {a b : W64} (h : timeLe a b = true) : timeLt b a = false := by
  simp only [timeLe, timeLt, decide_eq_true_eq, decide_eq_false_iff_not] at h ⊢
  have hlt : (a - b).toInt < 2 ^ 63 := BitVec.toInt_lt
  rw [← neg_sub a b, BitVec.toInt_neg, Int.bmod_def] at h
  omega

theorem eq_of_timeLe_of_not_timeLt {a b : W64} (h : timeLe a b = true) (k : timeLt a b = false) : a = b := by
  simp only [timeLe, timeLt, decide_eq_true_eq, decide_eq_false_iff_not] at h k
  have hz : (b - a).toInt = (0#64).toInt := by
    rw [BitVec.toInt_zero]
    omega
  exact (sub_eq_zero.mp (BitVec.eq_of_toInt_eq hz)).symm

/-- A fold by `timeLt` ends at a time that lies in the list and at or before all of it. `timeLt` is no order on the circle of
engine times; the proof compares each time of the list with `g` alone. -/
theorem foldl_timeLt_eq {l : List W64} {a g : W64} (hg : g ∈ a :: l) (hle : ∀ x ∈ a :: l, timeLe g x = true) :
    l.foldl (fun a b => if timeLt b a then b else a) a = g := by
  induction l generalizing a with
  | nil => exact (List.mem_singleton.mp hg).symm
  | cons b l ih =>
    obtain ⟨ha, hb, hl⟩ : timeLe g a = true ∧ timeLe g b = true ∧ ∀ x ∈ l, timeLe g x = true := by simpa using hle
    rw [List.foldl_cons]
    simp only [List.mem_cons] at hg
    rcases hlt : timeLt b a
    · rw [if_neg Bool.false_ne_true]
      refine ih (List.mem_cons.mpr ?_) (List.forall_mem_cons.mpr ⟨ha, hl⟩)
      rcases hg with rfl | rfl | hg
      · exact .inl rfl
      · exact .inl (eq_of_timeLe_of_not_timeLt ha hlt)
      · exact .inr hg
    · rw [if_pos rfl]
      refine ih (List.mem_cons.mpr ?_) (List.forall_mem_cons.mpr ⟨hb, hl⟩)
      rcases hg with rfl | hg
      · exact absurd hlt (Bool.eq_false_iff.mp (not_timeLt_of_timeLe hb))
      · exact hg

theorem mem_insItem {x y : DItem} {l : List DItem} : y ∈ insItem x l ↔ y = x ∨ y ∈ l := by
  induction l with
  | nil => simp [insItem]
  | cons z l ih =>
    rw [insItem]
    split
    · simp
    · simp only [List.mem_cons, ih]
      tauto

/-- Without a barrier or a Safelight entry among a context's items, the end behind the last one is the whole list. -/
theorem insLate_eq_insTimer (x : Item) {l : List Item} (h : ∀ y ∈ l, y.kind ≠ 3 ∧ y.kind ≠ 5) :
    insLate x l = insTimer x l := by
  have hn : l.reverse.dropWhile (fun y => !(decide (y.kind = 3) || decide (y.kind = 5))) = [] := by
    rw [List.dropWhile_eq_nil_iff]
    intro y hy
    simpa using h y (List.mem_reverse.mp hy)
  simp only [insLate, hn, List.length_nil, List.take_zero, List.drop_zero, List.nil_append]

/-! ### Engines, contexts and the context store of a tile -/

variable (s : State) (u : Nat)

/-- What a change of a tile leaves of the tile, it leaves of every tile. -/
theorem State.tile_modTile_keeps {α : Type} (p : Tile → α) (t : Nat) (f : Tile → Tile) (h : ∀ x, p (f x) = p x) :
    p ((s.modTile t f).tile u) = p (s.tile u) := by
  by_cases hu : u = t
  · rw [hu, State.tile_modTile_same, h]
  · rw [s.tile_modTile_ne t f hu]

@[simp] theorem State.eng_modCtx (t c e : Nat) (f : Ctx → Ctx) : (s.modCtx t c f).eng u e = s.eng u e :=
  s.tile_modTile_keeps u (·.eng e) t _ (fun _ => rfl)

@[simp] theorem State.ctx_modEng (t e c : Nat) (f : Engine → Engine) : (s.modEng t e f).ctx u c = s.ctx u c :=
  s.tile_modTile_keeps u (·.ctx c) t _ (fun _ => rfl)

@[simp] theorem State.cxWord_modCtx (t c a : Nat) (f : Ctx → Ctx) : (s.modCtx t c f).cxWord u a = s.cxWord u a :=
  s.tile_modTile_keeps u (fun x => mapGet (fun _ => 0) x.cx a) t _ (fun _ => rfl)

@[simp] theorem State.cxWord_modEng (t e a : Nat) (f : Engine → Engine) : (s.modEng t e f).cxWord u a = s.cxWord u a :=
  s.tile_modTile_keeps u (fun x => mapGet (fun _ => 0) x.cx a) t _ (fun _ => rfl)

@[simp] theorem State.advance_eng (n e : Nat) : (s.advance n).eng u e = s.eng u e := by simp [State.eng]

@[simp] theorem State.advance_ctx (n c : Nat) : (s.advance n).ctx u c = s.ctx u c := by simp [State.ctx]

@[simp] theorem State.advance_cxWord (n a : Nat) : (s.advance n).cxWord u a = s.cxWord u a := by simp [State.cxWord]

@[simp] theorem State.advance_liveCtxs (n e : Nat) : (s.advance n).liveCtxs u e = s.liveCtxs u e := by
  simp [State.liveCtxs, State.halted]

@[simp] theorem State.advance_gateLen (n c : Nat) : (s.advance n).gateLen u c = s.gateLen u c := by
  simp [State.gateLen, State.dword]

/-! ### What leaves all but one tile, or one engine and the contexts -/

variable {s u}

theorem State.TileOnly.trans {t w : State} (h : s.TileOnly t u) (k : t.TileOnly w u) : s.TileOnly w u :=
  ⟨(congrArg (fun x : State => { x with tiles := s.tiles }) k.1).trans h.1, fun v hv => (k.2 v hv).trans (h.2 v hv)⟩

/-- A tile changed after time has passed: the timebase has moved on, and nothing else outside the tile. -/
theorem State.TileOnly.of_advance {n : Nat} {t : State} (h : (s.advance n).TileOnly t u) (hup : s.up = true) :
    t.tb.age = s.tb.age + n ∧ (∀ v, v ≠ u → t.tile v = s.tile v) ∧ { t with tb := s.tb, tiles := s.tiles } = s := by
  obtain ⟨hrest, htiles⟩ := h
  refine ⟨?_, fun v hv => by rw [htiles v hv, s.advance_tile], ?_⟩
  · rw [← s.advance_age n hup]
    exact (congrArg (fun x : State => x.tb.age) hrest :)
  · rw [s.advance_up n hup] at hrest
    exact (congrArg (fun x : State => { x with tb := s.tb, tiles := s.tiles }) hrest :)

variable (s u)

theorem State.tileOnly_modTile (f : Tile → Tile) : s.TileOnly (s.modTile u f) u :=
  ⟨rfl, fun _ hv => s.tile_modTile_ne u f hv⟩

theorem State.EngineApart.refl (e : Nat) : s.EngineApart s u e := ⟨⟨rfl, fun _ _ => rfl⟩, fun _ _ => rfl, rfl⟩

variable {s u}

theorem State.EngineApart.trans {t w : State} {e : Nat} (h : s.EngineApart t u e) (k : t.EngineApart w u e) :
    s.EngineApart w u e :=
  ⟨h.1.trans k.1, fun f hf => (k.2.1 f hf).trans (h.2.1 f hf), (congrArg
    (fun x : Tile => { x with engs := (s.tile u).engs, cx := (s.tile u).cx, ctxs := (s.tile u).ctxs }) k.2.2).trans h.2.2⟩

variable (s u)

theorem State.engineApart_modEng (e : Nat) (f : Engine → Engine) : s.EngineApart (s.modEng u e f) u e := by
  refine ⟨s.tileOnly_modTile u _, fun k hk => ?_, ?_⟩
  · rw [State.eng_modEng, if_neg (fun h => hk h.2)]
  · rw [State.modEng, State.tile_modTile_same]
    rfl

theorem State.engineApart_modCtx (e c : Nat) (f : Ctx → Ctx) : s.EngineApart (s.modCtx u c f) u e := by
  refine ⟨s.tileOnly_modTile u _, fun k _ => s.eng_modCtx u u c k f, ?_⟩
  rw [State.modCtx, State.tile_modTile_same]
  rfl

/-! ### TIME_GATE_BOUNDARY (R181, R217) -/

/-- The grid boundary of a context that it takes in the segment being released. -/
def State.dueBoundary (e c : Nat) : Option W64 :=
  match (s.ctx u c).grid with
  | some g => if s.takes u c (s.eng u e).rseg g then some g else none
  | none => none

theorem State.dueBoundary_eq_some {e c : Nat} {g : W64} :
    s.dueBoundary u e c = some g ↔ (s.ctx u c).grid = some g ∧ s.takes u c (s.eng u e).rseg g = true := by
  unfold State.dueBoundary
  rcases (s.ctx u c).grid with _ | h
  · simp
  · simp only [Option.some.injEq, Option.ite_none_right_eq_some, and_comm]
    exact and_congr_right (fun hg => by rw [hg])

/-- The kind 1 item of a boundary for a context. -/
def boundaryItem (seg age : Nat) (g : W64) (c : Nat) : DItem := ⟨seg, g, 0, 0, age, some c, 1, 0, 0⟩

/-- A context's boundary is reached: its item is queued, and the next boundary lies one gate length on. -/
def State.queueBoundary (e seg age : Nat) (g : W64) (c : Nat) : State :=
  (s.pushBuf u e (insItem (boundaryItem seg age g c))).modCtx u c (fun x => { x with grid := some (g + s.gateLen u c) })

/-- The boundary is reached for those of a list of contexts whose boundary it is. -/
def State.queueBoundaries (e seg age : Nat) (g : W64) (due : Nat → Option W64) (cs : List Nat) : State :=
  forKeys cs (fun c s => if due c = some g then s.queueBoundary u e seg age g c else s) s

section
variable (e seg age : Nat) (g : W64) (c : Nat)

theorem State.queueBoundary_engineApart : s.EngineApart (s.queueBoundary u e seg age g c) u e :=
  (s.engineApart_modEng u e _).trans (State.engineApart_modCtx ..)

@[simp] theorem State.queueBoundary_cxWord (a : Nat) : (s.queueBoundary u e seg age g c).cxWord u a = s.cxWord u a := by
  simp [State.queueBoundary, State.pushBuf]

theorem State.queueBoundary_ctx (d : Nat) : (s.queueBoundary u e seg age g c).ctx u d =
    if d = c then { s.ctx u c with grid := some (g + s.gateLen u c) } else s.ctx u d := by
  simp [State.queueBoundary, State.pushBuf, State.ctx_modCtx]

theorem State.queueBoundary_buf : ((s.queueBoundary u e seg age g c).eng u e).buf =
    insItem (boundaryItem seg age g c) (s.eng u e).buf := by
  simp [State.queueBoundary, State.pushBuf, State.eng_modEng]

@[simp] theorem State.queueBoundary_gateLen (d : Nat) : (s.queueBoundary u e seg age g c).gateLen u d = s.gateLen u d := by
  have hanew : ((s.queueBoundary u e seg age g c).ctx u d).anew = (s.ctx u d).anew := by
    rw [State.queueBoundary_ctx]
    split
    next h => rw [h]
    next => rfl
  simp only [State.gateLen, State.dword, hanew, State.queueBoundary_cxWord]

variable (due : Nat → Option W64) (cs : List Nat)

theorem State.queueBoundaries_engineApart : s.EngineApart (s.queueBoundaries u e seg age g due cs) u e := by
  refine forKeys_keeps (R := fun s t => s.EngineApart t u e) (fun s => .refl s u e) .trans (fun c s => ?_) cs s
  split
  · exact s.queueBoundary_engineApart ..
  · exact .refl s u e

theorem State.queueBoundaries_cxWord (a : Nat) : (s.queueBoundaries u e seg age g due cs).cxWord u a = s.cxWord u a := by
  refine forKeys_keeps (R := fun s t => t.cxWord u a = s.cxWord u a) (fun _ => rfl) (fun h k => k.trans h) (fun c s => ?_) cs s
  split
  · exact s.queueBoundary_cxWord ..
  · rfl

theorem State.queueBoundaries_cons : s.queueBoundaries u e seg age g due (c :: cs) =
    (if due c = some g then s.queueBoundary u e seg age g c else s).queueBoundaries u e seg age g due cs := rfl

/-- Of the contexts, those of the list whose boundary it is have their next one, and nothing else moves. -/
theorem State.queueBoundaries_ctx (d : Nat) : (s.queueBoundaries u e seg age g due cs).ctx u d =
    if d ∈ cs ∧ due d = some g then { s.ctx u d with grid := some (g + s.gateLen u d) } else s.ctx u d := by
  induction cs generalizing s with
  | nil => simp [State.queueBoundaries, forKeys]
  | cons c cs ih =>
    rw [State.queueBoundaries_cons, ih]
    by_cases hc : due c = some g
    · rw [if_pos hc, State.queueBoundary_ctx, State.queueBoundary_gateLen]
      rcases eq_or_ne d c with rfl | hd
      · simp [hc]
      · simp [hd]
    · rw [if_neg hc]
      rcases eq_or_ne d c with rfl | hd
      · simp [hc]
      · simp [hd]

/-- The items that come into the buffer are those of the contexts whose boundary it is. -/
theorem State.mem_buf_queueBoundaries {x : DItem} : x ∈ ((s.queueBoundaries u e seg age g due cs).eng u e).buf ↔
    x ∈ (s.eng u e).buf ∨ ∃ c ∈ cs, due c = some g ∧ x = boundaryItem seg age g c := by
  induction cs generalizing s with
  | nil => simp [State.queueBoundaries, forKeys]
  | cons c cs ih =>
    rw [State.queueBoundaries_cons, ih, List.exists_mem_cons_iff, ← or_assoc]
    refine or_congr_left ?_
    by_cases hc : due c = some g
    · simp only [hc, if_true, State.queueBoundary_buf, mem_insItem, true_and, or_comm]
    · simp only [hc, if_false, false_and, or_false]

end

/-- The slot age of an engine time that has passed. -/
def State.ageOf (g : W64) : Nat := s.tb.age - ((BitVec.ofNat 64 s.now.engine - g).toInt / 8192).toNat

/-- The state after the whole slots from now to engine time `g`; none pass where that lies behind. -/
def State.advanceToTime (g : W64) : State := s.advance ((g - BitVec.ofNat 64 s.now.engine).toInt / 8192).toNat

/-- The least boundary `g` of the live contexts, in the present epoch: time runs on to it, and it is queued for each context
whose boundary it is. -/
theorem exec_timeGateBoundary {e c : Nat} {g : W64} (hup : s.up = true) (hu : u < s.nTiles) (he : e < 9)
    (hrun : s.engRuns u e = true) (hep : (s.eng u e).epoch = s.tb.epoch) (hc : c ∈ s.liveCtxs u e)
    (hdue : s.dueBoundary u e c = some g)
    (hle : ∀ d ∈ s.liveCtxs u e, ∀ h, s.dueBoundary u e d = some h → timeLe g h = true) :
    exec (.timeGateBoundary u e) s = .next ((s.advanceToTime g).queueBoundaries u e (s.eng u e).rseg
      ((s.advanceToTime g).ageOf g) g (s.dueBoundary u e) (s.liveCtxs u e)) := by
  have hmem : g ∈ (s.liveCtxs u e).filterMap (s.dueBoundary u e) := List.mem_filterMap.mpr ⟨c, hc, hdue⟩
  have hall : ∀ h ∈ (s.liveCtxs u e).filterMap (s.dueBoundary u e), timeLe g h = true := fun h hh =>
    have ⟨d, hd, hh⟩ := List.mem_filterMap.mp hh
    hle d hd h hh
  show execTimeGateBoundary u e s = _
  rw [execTimeGateBoundary, onEng_up s u e _ he hup hu]
  refine congrArg Host.Outcome.next ?_
  dsimp only
  split
  next g0 rest hgs =>
    replace hgs : (s.liveCtxs u e).filterMap (s.dueBoundary u e) = g0 :: rest := hgs
    rw [hgs] at hmem hall
    rw [foldl_timeLt_eq hmem hall]
    have hlate : ∀ b, (decide (s.tb.epoch ≠ s.tb.epoch) && b) = false := by simp
    simp only [hrun, hep, hlate, if_true, State.advance_epoch, State.advance_liveCtxs]
    rcases s.epochEnd s.tb.epoch with _ | z <;> rfl
  next hgs =>
    replace hgs : (s.liveCtxs u e).filterMap (s.dueBoundary u e) = [] := hgs
    exact absurd (hgs ▸ hmem) List.not_mem_nil

/-! ### CONTEXT_TIMER (R217, R227) -/

/-- The one running engine that holds a context is the one found for it. -/
theorem State.find?_engine_of_ctx {e c : Nat} (he : e < 9) (hrun : s.engRuns u e = true) (hc : c ∈ (s.eng u e).ctxs)
    (hothers : ∀ f, f < 9 → f ≠ e → c ∉ (s.eng u f).ctxs) :
    (List.range 9).find? (fun e => s.engRuns u e && (s.eng u e).ctxs.contains c) = some e := by
  rcases hf : (List.range 9).find? (fun e => s.engRuns u e && (s.eng u e).ctxs.contains c) with _ | f
  · have := List.find?_eq_none.mp hf e (List.mem_range.mpr he)
    simp [hrun, hc] at this
  · have hmem := List.mem_range.mp (List.mem_of_find?_eq_some hf)
    have hp := List.find?_some hf
    simp only [Bool.and_eq_true, List.contains_iff_mem] at hp
    by_contra hne
    exact hothers f hmem (fun h => hne (by rw [h])) hp.2

/-- The state after as many slots as it takes to reach engine time `tau`; none pass where that lies behind. -/
def State.advanceToSlot (tau : W64) : State := s.advance (((tau - BitVec.ofNat 64 s.now.engine).toInt + 8191) / 8192).toNat

/-- The timer of a context is disarmed, and its item is queued. -/
def State.queueTimer (c : Nat) (i : Item) : State :=
  s.modCtx u c (fun x => { x with timer := none, items := insLate i x.items })

theorem State.queueTimer_tileOnly (c : Nat) (i : Item) : s.TileOnly (s.queueTimer u c i) u := s.tileOnly_modTile u _

theorem State.queueTimer_ctx (c d : Nat) (i : Item) : (s.queueTimer u c i).ctx u d =
    if d = c then { s.ctx u c with timer := none, items := insLate i (s.ctx u c).items } else s.ctx u d := by
  simp [State.queueTimer, State.ctx_modCtx]

/-- A timer armed in the present epoch, with no barrier and no Safelight entry among the context's items: time runs on
until its instant is reached, and its item is queued. -/
theorem exec_contextTimer {e c : Nat} {tau : W64} (hup : s.up = true) (hu : u < s.nTiles) (hlt : c < 64) (he : e < 9)
    (hrun : s.engRuns u e = true) (hc : c ∈ (s.eng u e).ctxs) (hothers : ∀ f, f < 9 → f ≠ e → c ∉ (s.eng u f).ctxs)
    (hep : (s.eng u e).epoch = s.tb.epoch) (hsafe : (s.eng u e).safe = false) (hhalt : s.halted u c = false)
    (htimer : (s.ctx u c).timer = some tau) (hitems : ∀ x ∈ (s.ctx u c).items, x.kind ≠ 3 ∧ x.kind ≠ 5) :
    exec (.contextTimer u c) s = .next ((s.advanceToSlot tau).queueTimer u c
      ⟨tau, plainInfo 2 s.tb.epoch, (s.advanceToSlot tau).ageOf tau⟩) := by
  have hnone : (s.ctx u c).items.find? (fun i => decide (i.kind = 3) || decide (i.kind = 5)) = none := by
    simpa using hitems
  have hlate : ∀ p : Prop, ¬(s.tb.epoch ≠ s.tb.epoch ∧ p) := fun _ h => h.1 rfl
  show execContextTimer u c s = _
  rw [execContextTimer, onCtx_up s u c _ hlt hup hu]
  refine congrArg Host.Outcome.next ?_
  simp only [s.find?_engine_of_ctx u he hrun hc hothers, htimer, hhalt, hnone, hep, hsafe, hlate]
  rcases s.epochEnd s.tb.epoch with _ | z <;> rfl

end Sys2Proof.Machine
open Sys2Proof Sys2Proof.Machine

/-- Settles O32: the least boundary is the one that the command reaches, and the loop over the live contexts says which of them
have its item and their next boundary; a timer's context holds no barrier and no Safelight entry, so that its item stands in
key order. -/
theorem gatesAndTimers : Obligations.GatesAndTimers := by
  constructor
  · intro s u e c g hup hu he hrun hep hc hgrid htakes hle
    have hdue : s.dueBoundary u e c = some g := (s.dueBoundary_eq_some u).mpr ⟨hgrid, htakes⟩
    refine ⟨_, exec_timeGateBoundary s u hup hu he hrun hep hc hdue (fun d hd h hh => ?_), ?_⟩
    · have ⟨hh, ht⟩ := (s.dueBoundary_eq_some u).mp hh
      exact hle d hd h hh ht
    · have ⟨htile, hengs, _⟩ := State.queueBoundaries_engineApart (s.advanceToTime g) u e (s.eng u e).rseg
        ((s.advanceToTime g).ageOf g) g (s.dueBoundary u e) (s.liveCtxs u e)
      have ⟨hage, htiles, hrest⟩ := htile.of_advance hup
      have hitem := (State.mem_buf_queueBoundaries (s.advanceToTime g) u e (s.eng u e).rseg ((s.advanceToTime g).ageOf g) g
        (s.dueBoundary u e) (s.liveCtxs u e)).mpr (.inr ⟨c, hc, hdue, rfl⟩)
      refine ⟨?_, ⟨_, hitem, rfl, rfl, rfl, rfl⟩, hage, fun d hd => ?_, fun a => ?_, fun f hf => ?_, htiles, hrest⟩
      · rw [State.queueBoundaries_ctx, if_pos ⟨hc, hdue⟩]
        exact congrArg (fun n => some (g + n)) (s.advance_gateLen ..)
      · rw [State.queueBoundaries_ctx, if_neg (fun h => hd h.1)]
        exact s.advance_ctx ..
      · exact (State.queueBoundaries_cxWord ..).trans (s.advance_cxWord ..)
      · exact (hengs f hf).trans (s.advance_eng ..)
  · intro s u e c tau hup hu hlt he hrun hc hothers hep hsafe hhalt htimer hitems
    have hexec := exec_contextTimer s u hup hu hlt he hrun hc hothers hep hsafe hhalt htimer hitems
    generalize (s.advanceToSlot tau).ageOf tau = age at hexec
    have ⟨hage, htiles, hrest⟩ :=
      ((s.advanceToSlot tau).queueTimer_tileOnly u c ⟨tau, plainInfo 2 s.tb.epoch, age⟩).of_advance hup
    refine ⟨_, hexec, ?_, ⟨age, ?_⟩, hage, fun d hd => ?_, fun f => ?_, fun a => ?_, htiles, hrest⟩
    · rw [State.queueTimer_ctx, if_pos rfl]
    · rw [State.queueTimer_ctx, if_pos rfl, ← insLate_eq_insTimer _ hitems]
      exact congrArg (fun x : Ctx => insLate _ x.items) (s.advance_ctx ..)
    · rw [State.queueTimer_ctx, if_neg hd]
      exact s.advance_ctx ..
    · exact (State.eng_modCtx ..).trans (s.advance_eng ..)
    · exact (State.cxWord_modCtx ..).trans (s.advance_cxWord ..)

end

/-! ## O6: an engine word decodes to the instruction it was encoded from (R225 to R227) -/
section
namespace Sys2Proof.Machine
open Sys2Proof

/-! ### The fields of a word (R225) -/

section
variable (op : Nat) (rd ra rb : BitVec 5) (i : Bool) (imm : BitVec 24)

theorem getLsbD_engWord (k : Nat) : (engWord op rd ra rb i imm).getLsbD k =
    if k < 24 then imm.getLsbD k else if k < 25 then (decide (k = 24) && i) else if k < 30 then rb.getLsbD (k - 25)
    else if k < 35 then ra.getLsbD (k - 30) else if k < 40 then rd.getLsbD (k - 35) else (BitVec.ofNat 8 op).getLsbD (k - 40) := by
  simp only [engWord, BitVec.getLsbD_append, BitVec.getLsbD_ofBool]
  grind

@[simp] theorem opOf_engWord : opOf (engWord op rd ra rb i imm) = BitVec.ofNat 8 op := by
  ext k hk
  rw [opOf, BitVec.getElem_extractLsb', getLsbD_engWord]
  grind

@[simp] theorem rdOf_engWord : rdOf (engWord op rd ra rb i imm) = rd := by
  ext k hk
  rw [rdOf, BitVec.getElem_extractLsb', getLsbD_engWord]
  grind

@[simp] theorem raOf_engWord : raOf (engWord op rd ra rb i imm) = ra := by
  ext k hk
  rw [raOf, BitVec.getElem_extractLsb', getLsbD_engWord]
  grind

@[simp] theorem rbOf_engWord : rbOf (engWord op rd ra rb i imm) = rb := by
  ext k hk
  rw [rbOf, BitVec.getElem_extractLsb', getLsbD_engWord]
  grind

@[simp] theorem immOf_engWord : immOf (engWord op rd ra rb i imm) = imm := by
  ext k hk
  rw [immOf, BitVec.getElem_extractLsb', getLsbD_engWord]
  grind

@[simp] theorem iOf_engWord : iOf (engWord op rd ra rb i imm) = i := by
  rw [iOf, getLsbD_engWord]
  rfl

end

@[simp] theorem accOf_accField (a : BitVec 2) : accOf (accField a) = some a := by
  have hn : (accField a).toNat = a.toNat := BitVec.toNat_setWidth_of_le (by omega)
  rw [accOf, if_pos (by omega)]
  exact congrArg some (BitVec.eq_of_toNat_eq (by rw [BitVec.extractLsb'_toNat, hn, Nat.shiftRight_zero, Nat.mod_eq_of_lt a.isLt]))

/-! ### A word with operand B (R226) -/

section
variable (op : Nat) (rd ra : BitVec 5) (b : OpB)

@[simp] theorem opOf_engWordB : opOf (engWordB op rd ra b) = BitVec.ofNat 8 op := by cases b <;> exact opOf_engWord ..

@[simp] theorem rdOf_engWordB : rdOf (engWordB op rd ra b) = rd := by cases b <;> exact rdOf_engWord ..

@[simp] theorem raOf_engWordB : raOf (engWordB op rd ra b) = ra := by cases b <;> exact raOf_engWord ..

@[simp] theorem opB_engWordB : opB (engWordB op rd ra b) = b := by cases b <;> simp [opB, engWordB]

end

/-! ### The decoder (R227, R232): the case of each instruction's opcode -/

theorem decodeEng_encodeEng_alu (f : AluOp) (rd ra : BitVec 5) (b : OpB) :
    decodeEng (encodeEng (.alu f rd ra b)) = some (.alu f rd ra b) := by
  cases f <;>
    simp [encodeEng, AluOp.code, decodeEng, decodeAcc, decodeImm, brOf, decodeRest, aluOf]

theorem decodeEng_encodeEng_br (c : BrOp) (ra rb : BitVec 5) (imm : BitVec 24) :
    decodeEng (encodeEng (.br c ra rb imm)) = some (.br c ra rb imm) := by
  cases c <;> simp [encodeEng, BrOp.code, decodeEng, decodeAcc, decodeImm, brOf]

theorem decodeEng_encodeEng (op : EngOp) : decodeEng (encodeEng op) = some op := by
  cases op
  case alu f rd ra b => exact decodeEng_encodeEng_alu f rd ra b
  case br c ra rb imm => exact decodeEng_encodeEng_br c ra rb imm
  case mac sg ad ra b => cases sg <;> simp [encodeEng, decodeEng, decodeAcc]
  case brk eq ra k imm => cases eq <;> simp [encodeEng, decodeEng, decodeAcc, decodeImm]
  case bbit set ra k imm => cases set <;> simp [encodeEng, decodeEng, decodeAcc, decodeImm]
  all_goals simp [encodeEng, decodeEng, decodeAcc, decodeImm, brOf, decodeRest]

end Sys2Proof.Machine
open Sys2Proof Sys2Proof.Machine

/-- Settles O6: each field of an encoded word reads back, and each opcode leads the decoder to its instruction. -/
theorem engineWordRoundTrip : Obligations.EngineWordRoundTrip := decodeEng_encodeEng
end

/-! ## Engine instructions: what one writes, and what it leaves (R211, R216, R226, R240) -/
section
namespace Sys2Proof.Machine
open Sys2Proof

/-! ### Two writes of one key -/

theorem mapErase_mapErase {α : Type} (m : Map α) (k : Nat) : mapErase (mapErase m k) k = mapErase m k := by
  induction m with
  | nil => rfl
  | cons p m ih =>
    by_cases h : p.1 = k
    · simp only [mapErase, h, if_true, ih]
    · simp only [mapErase, h, if_false, ih]

theorem mapErase_mapInsert {α : Type} (m : Map α) (k : Nat) (v : α) : mapErase (mapInsert m k v) k = mapErase m k := by
  induction m with
  | nil => simp only [mapInsert, mapErase, if_true]
  | cons p m ih =>
    rw [mapInsert]
    split
    · simp only [mapErase, if_true]
    · simp only [mapErase, ih]

theorem mapSet_mapSet {α : Type} [DecidableEq α] (d : Nat → α) (m : Map α) (k : Nat) (v w : α) :
    mapSet d (mapSet d m k v) k w = mapSet d m k w := by
  have h : mapErase (mapSet d m k v) k = mapErase m k := by
    rw [mapSet]
    split
    · exact mapErase_mapErase m k
    · rw [mapErase_mapInsert, mapErase_mapErase]
  simp only [mapSet] at h ⊢
  rw [h]

theorem Tile.setEng_setEng (x : Tile) (e : Nat) (y z : Engine) : (x.setEng e y).setEng e z = x.setEng e z := by
  simp only [Tile.setEng, mapSet_mapSet]

theorem State.setTile_setTile (s : State) (u : Nat) (x y : Tile) : (s.setTile u x).setTile u y = s.setTile u y := by
  simp only [State.setTile, mapSet_mapSet]

variable (s : State) (u e : Nat)

theorem State.modTile_modTile (f g : Tile → Tile) : (s.modTile u f).modTile u g = s.modTile u (fun x => g (f x)) := by
  rw [State.modTile, State.tile_modTile_same]
  exact s.setTile_setTile ..

theorem State.modEng_modEng (f g : Engine → Engine) : (s.modEng u e f).modEng u e g = s.modEng u e (fun y => g (f y)) := by
  rw [State.modEng, State.modEng, State.modTile_modTile]
  refine congrArg (s.modTile u) (funext fun x => ?_)
  rw [Tile.eng_setEng, if_pos rfl, Tile.setEng_setEng]

/-! ### Writes of an engine, of the context store and of a context -/

@[simp] theorem State.eng_modEng_same (f : Engine → Engine) : (s.modEng u e f).eng u e = f (s.eng u e) := by
  rw [State.eng_modEng, if_pos ⟨rfl, rfl⟩]

@[simp] theorem State.ctx_modCtx_same (c : Nat) (f : Ctx → Ctx) : (s.modCtx u c f).ctx u c = f (s.ctx u c) := by
  rw [State.ctx_modCtx, if_pos ⟨rfl, rfl⟩]

@[simp] theorem State.eng_setCxWord (a : Nat) (w : W64) (v : Nat) : (s.setCxWord u a w).eng v e = s.eng v e :=
  s.tile_modTile_keeps v (·.eng e) u _ (fun _ => rfl)

@[simp] theorem State.ctx_setCxWord (a : Nat) (w : W64) (v c : Nat) : (s.setCxWord u a w).ctx v c = s.ctx v c :=
  s.tile_modTile_keeps v (·.ctx c) u _ (fun _ => rfl)

theorem State.cxWord_setCxWord (a b : Nat) (w : W64) : (s.setCxWord u a w).cxWord u b = if b = a then w else s.cxWord u b := by
  rw [State.cxWord, State.setCxWord, State.tile_modTile_same]
  exact mapGet_set ..

theorem State.engineApart_setCxWord (a : Nat) (w : W64) : s.EngineApart (s.setCxWord u a w) u e := by
  refine ⟨s.tileOnly_modTile u _, fun f _ => s.eng_setCxWord u f a w u, ?_⟩
  rw [State.setCxWord, State.tile_modTile_same]

theorem State.EngineOnly.refl : s.EngineOnly s u e := ⟨.refl s u e, fun _ => rfl, fun _ => rfl⟩

variable {s u e} in
theorem State.EngineOnly.trans {t w : State} (h : s.EngineOnly t u e) (k : t.EngineOnly w u e) : s.EngineOnly w u e :=
  ⟨h.1.trans k.1, fun a => (k.2.1 a).trans (h.2.1 a), fun c => (k.2.2 c).trans (h.2.2 c)⟩

theorem State.engineOnly_modEng (f : Engine → Engine) : s.EngineOnly (s.modEng u e f) u e :=
  ⟨s.engineApart_modEng u e f, fun a => s.cxWord_modEng u u e a f, fun c => s.ctx_modEng u u e c f⟩

/-! ### Registers (R211) -/

variable {s u e} in
/-- A general register is read from the engine's file, or from the item and the number of its context. -/
theorem State.getG_congr {t : State} (hg : (t.eng u e).g = (s.eng u e).g) (hc : (t.eng u e).ctx = (s.eng u e).ctx)
    (hcur : (t.ctx u (s.eng u e).ctx).cur = (s.ctx u (s.eng u e).ctx).cur) (r : BitVec 5) : t.getG u e r = s.getG u e r := by
  simp only [State.getG, hg, hc, hcur]

theorem State.getG_of_lt {r : BitVec 5} (h : r.toNat < 28) : s.getG u e r = mapGet (fun _ => 0) (s.eng u e).g r.toNat := by
  unfold State.getG
  split
  case h_5 => rfl
  all_goals omega

variable {s u e} in
/-- The fixed registers are those of the engine's context. -/
theorem State.getG_congr_ge {t : State} {r : BitVec 5} (hr : 28 ≤ r.toNat) (hc : (t.eng u e).ctx = (s.eng u e).ctx)
    (hcur : (t.ctx u (s.eng u e).ctx).cur = (s.ctx u (s.eng u e).ctx).cur) : t.getG u e r = s.getG u e r := by
  have hlt := r.isLt
  obtain h | h | h | h : r.toNat = 28 ∨ r.toNat = 29 ∨ r.toNat = 30 ∨ r.toNat = 31 := by omega
  all_goals simp only [State.getG, h, hc, hcur]

theorem State.getG_setG (rd : BitVec 5) (v : W64) (r : BitVec 5) :
    (s.setG u e rd v).getG u e r = if r = rd ∧ r.toNat < 28 then v else s.getG u e r := by
  rw [State.setG]
  split
  next hrd =>
    by_cases hr : r.toNat < 28
    · rw [State.getG_of_lt _ _ _ hr, State.getG_of_lt _ _ _ hr, State.eng_modEng_same]
      simp only [mapGet_set, BitVec.toNat_inj, hr, and_true]
    · rw [if_neg (fun h => hr h.2)]
      exact State.getG_congr_ge (by omega) (by rw [State.eng_modEng_same]) (by rw [State.ctx_modEng])
  next hrd => rw [if_neg (fun ⟨hr, hlt⟩ => hrd (hr ▸ hlt))]

theorem State.getA_setA (ad : BitVec 2) (v : Acc) (r : BitVec 2) :
    (s.setA u e ad v).getA u e r = if r = ad then v else s.getA u e r := by
  rw [State.getA, State.setA, State.eng_modEng_same]
  simp only [mapGet_set, BitVec.toNat_inj]
  rfl

theorem State.engineOnly_setG (rd : BitVec 5) (v : W64) : s.EngineOnly (s.setG u e rd v) u e := by
  rw [State.setG]
  split
  · exact s.engineOnly_modEng u e _
  · exact .refl s u e

theorem State.eng_setG (rd : BitVec 5) (v : W64) : { (s.setG u e rd v).eng u e with g := (s.eng u e).g } = s.eng u e := by
  rw [State.setG]
  split
  · rw [State.eng_modEng_same]
  · rfl

/-! ### The end of an instruction (R226, R240) -/

/-- An engine's instruction of `n` cycles is over, and it stands at `pc`. -/
def State.retired (n pc : Nat) : State := s.modEng u e (fun y => y.ran n pc s.tb.age)

variable (n : Nat) {pc : Int}

theorem State.retireOp_eq (hlo : 0 ≤ pc) (hhi : pc < 2048) : s.retireOp u e n pc = s.retired u e n pc.toNat := by
  rw [State.retireOp, if_pos ⟨hlo, hhi⟩, State.modEng_modEng]
  rfl

theorem State.eng_retired (k : Nat) : (s.retired u e n k).eng u e = (s.eng u e).ran n k s.tb.age := s.eng_modEng_same ..

theorem State.engineOnly_retired (k : Nat) : s.EngineOnly (s.retired u e n k) u e := s.engineOnly_modEng u e _

theorem State.getG_retired (k : Nat) (r : BitVec 5) : (s.retired u e n k).getG u e r = s.getG u e r :=
  State.getG_congr (by rw [State.eng_retired]; rfl) (by rw [State.eng_retired]; rfl) (by rw [(s.engineOnly_retired u e n k).2.2]) r

theorem State.getA_retired (k : Nat) (r : BitVec 2) : (s.retired u e n k).getA u e r = s.getA u e r := by
  rw [State.getA, State.eng_retired]
  rfl

theorem State.moved_retired : s.Moved u e n pc (s.retired u e n pc.toNat) :=
  ⟨s.engineOnly_retired u e n _, s.eng_retired u e n _⟩

theorem State.wroteG_retired (k : Nat) (rd : BitVec 5) (v : W64) : s.WroteG u e n k rd v ((s.setG u e rd v).retired u e n k) := by
  refine ⟨(s.engineOnly_setG u e rd v).trans (State.engineOnly_retired ..), ?_, fun r => ?_⟩
  · rw [State.eng_retired, State.setG_tb]
    exact congrArg (Engine.ran · n k s.tb.age) (s.eng_setG u e rd v)
  · rw [State.getG_retired, State.getG_setG]

theorem State.wroteA_retired (ad : BitVec 2) (v : Acc) :
    s.WroteA u e n ad v ((s.setA u e ad v).retired u e n ((s.eng u e).pc + 1)) := by
  refine ⟨(s.engineOnly_modEng u e _).trans (State.engineOnly_retired ..), ?_, fun r => ?_⟩
  · rw [State.eng_retired, State.setA, State.eng_modEng_same]
    rfl
  · rw [State.getA_retired, State.getA_setA]

/-! ### An engine that stands at an instruction (R226) -/

variable {s u e} {op : EngOp} {c : Instr} {t : State} {taken : Bool} {cause : Nat}

theorem engStep_stands (h : s.Stands u e op) : engStep u e op s = .next (s.opStep u e op) := by
  obtain ⟨hup, hu, he, hat⟩ := h
  rw [engStep, onEng_up s u e _ he hup hu, if_pos hat]

/-- An instruction that completes, to a place in program memory. -/
theorem engStep_completes_at (h : s.Stands u e op) (hrun : s.opRun u e op = .ok (t, pc, taken)) (hend : op.endsSlice = false)
    (hlo : 0 ≤ pc) (hhi : pc < 2048) : engStep u e op s = .next (t.retired u e (op.cycles taken) pc.toNat) := by
  rw [engStep_stands h, State.opStep, hrun]
  simp only [hend, Bool.false_eq_true, if_false, t.retireOp_eq u e _ hlo hhi]

/-- An instruction that completes and moves on by one. -/
theorem engStep_next (h : s.Ready u e op) (hrun : s.opRun u e op = .ok (t, (s.eng u e).pc + 1, false))
    (hend : op.endsSlice = false) : engStep u e op s = .next (t.retired u e (op.cycles false) ((s.eng u e).pc + 1)) :=
  engStep_completes_at h.1 hrun hend (by omega) (by have := h.2; omega)

/-- An instruction that moves on by one after a write to a general register. -/
theorem answers_wroteG {rd : BitVec 5} {v : W64} (h : s.Ready u e op) (hc : exec c s = engStep u e op s)
    (hrun : s.opRun u e op = .ok (s.setG u e rd v, (s.eng u e).pc + 1, false)) (hend : op.endsSlice = false) :
    Answers c s (s.WroteG u e (op.cycles false) ((s.eng u e).pc + 1) rd v) :=
  ⟨_, hc.trans (engStep_next h hrun hend), s.wroteG_retired ..⟩

/-- An instruction that moves on by one after a write to an accumulator. -/
theorem answers_wroteA {ad : BitVec 2} {v : Acc} (h : s.Ready u e op) (hc : exec c s = engStep u e op s)
    (hrun : s.opRun u e op = .ok (s.setA u e ad v, (s.eng u e).pc + 1, false)) (hend : op.endsSlice = false) :
    Answers c s (s.WroteA u e (op.cycles false) ad v) :=
  ⟨_, hc.trans (engStep_next h hrun hend), s.wroteA_retired ..⟩

/-- An instruction that changes nothing but the place at which the engine stands. -/
theorem answers_moved (h : s.Stands u e op) (hc : exec c s = engStep u e op s) (hrun : s.opRun u e op = .ok (s, pc, taken))
    (hend : op.endsSlice = false) (hlo : 0 ≤ pc) (hhi : pc < 2048) : Answers c s (s.Moved u e (op.cycles taken) pc) :=
  ⟨_, hc.trans (engStep_completes_at h hrun hend hlo hhi), s.moved_retired ..⟩

end Sys2Proof.Machine
end

/-! ## O24: the instructions that write one register (R211, R226, R227) -/
section
namespace Sys2Proof.Machine
open Sys2Proof

/-! ### Accumulators as numbers (R227) -/

theorem append_eq_ofNat (a b : W64) : (a ++ b : Acc) = BitVec.ofNat 128 (a.toNat * 2 ^ 64 + b.toNat) := by
  refine BitVec.eq_of_toNat_eq ?_
  have ha := a.isLt
  have hb := b.isLt
  rw [BitVec.toNat_append, ← Nat.shiftLeft_add_eq_or_of_lt hb, Nat.shiftLeft_eq, BitVec.toNat_ofNat, Nat.mod_eq_of_lt (by omega)]

theorem Acc.shiftLeft_eq_ofNat (a : Acc) (n : Nat) : a <<< n = BitVec.ofNat 128 (a.toNat * 2 ^ n) :=
  BitVec.eq_of_toNat_eq (by rw [BitVec.toNat_shiftLeft, BitVec.toNat_ofNat, Nat.shiftLeft_eq])

theorem Acc.sshiftRight_eq_ofInt (a : Acc) (n : Nat) : a.sshiftRight n = BitVec.ofInt 128 (a.toInt / 2 ^ n) := by
  rw [BitVec.sshiftRight, Int.shiftRight_eq_div_pow]
  rfl

theorem Acc.setWidth_eq_ofNat (a : Acc) : a.setWidth 64 = BitVec.ofNat 64 a.toNat := (BitVec.ofNat_toNat ..).symm

theorem Acc.high_eq_ofNat (a : Acc) : (a >>> 64).setWidth 64 = BitVec.ofNat 64 (a.toNat / 2 ^ 64) := by
  rw [Acc.setWidth_eq_ofNat, BitVec.toNat_ushiftRight, Nat.shiftRight_eq_div_pow]

end Sys2Proof.Machine
open Sys2Proof Sys2Proof.Machine

/-- Settles O24: each instruction completes with one write of its register, and the value written is the number that the
statement gives. -/
theorem aluAndAccumulatorRows : Obligations.AluAndAccumulatorRows := by
  refine ⟨⟨fun f s u e rd ra b h => ?_, fun s u e rd ra imm h => answers_wroteG h rfl rfl rfl,
      fun s u e rd ra k imm h => answers_wroteG h rfl rfl rfl⟩,
    fun s u e ad ra b => ⟨fun h => answers_wroteA h rfl rfl rfl, fun h => answers_wroteA h rfl rfl rfl, fun h => ?_,
      fun h => answers_wroteA h rfl rfl rfl, fun h => answers_wroteA h rfl rfl rfl⟩,
    fun s u e ad aa b => ⟨fun h => answers_wroteA h rfl rfl rfl, fun h => answers_wroteA h rfl rfl rfl, fun h => ?_, fun h => ?_⟩,
    fun s u e rd aa b => ⟨fun h => ?_, fun h => ?_, fun h => answers_wroteG h rfl rfl rfl, fun h => answers_wroteG h rfl rfl rfl,
      fun h => answers_wroteG h rfl rfl rfl⟩⟩
  · cases f <;> exact answers_wroteG h rfl rfl rfl
  · rw [← append_eq_ofNat]
    exact answers_wroteA h rfl rfl rfl
  · rw [← Acc.shiftLeft_eq_ofNat]
    exact answers_wroteA h rfl rfl rfl
  · rw [← Acc.sshiftRight_eq_ofInt]
    exact answers_wroteA h rfl rfl rfl
  · rw [← Acc.setWidth_eq_ofNat]
    exact answers_wroteG h rfl rfl rfl
  · rw [← Acc.high_eq_ofNat]
    exact answers_wroteG h rfl rfl rfl
end

/-! ## O23: what the operations of an engine compute (R226, R227, R229) -/
section
namespace Sys2Proof.Machine
open Sys2Proof

/-! ### The operations rd := ra op B, over numbers (R227) -/

theorem boolW_decide (p : Prop) [Decidable p] : boolW (decide p) = if p then 1 else 0 := by
  simp only [boolW, decide_eq_true_eq]

theorem toInt_eval_min (a b : W64) : (AluOp.eval .min a b).toInt = min a.toInt b.toInt := by
  simp only [AluOp.eval, BitVec.sle_iff_toInt_le, min_def]
  split <;> rfl

theorem toInt_eval_max (a b : W64) : (AluOp.eval .max a b).toInt = max a.toInt b.toInt := by
  simp only [AluOp.eval, BitVec.sle_iff_toInt_le, max_def']
  split <;> rfl

theorem toNat_eval_shl (a b : W64) : (AluOp.eval .shl a b).toNat = a.toNat * 2 ^ (b.toNat % 64) % 2 ^ 64 := by
  rw [AluOp.eval, BitVec.toNat_shiftLeft, Nat.shiftLeft_eq]

theorem toNat_eval_shr (a b : W64) : (AluOp.eval .shr a b).toNat = a.toNat / 2 ^ (b.toNat % 64) := by
  rw [AluOp.eval, BitVec.toNat_ushiftRight, Nat.shiftRight_eq_div_pow]

theorem toInt_eval_sar (a b : W64) : (AluOp.eval .sar a b).toInt = a.toInt / 2 ^ (b.toNat % 64) := by
  rw [AluOp.eval, BitVec.toInt_sshiftRight, Int.shiftRight_eq_div_pow]
  rfl

/-! ### Division (R229) -/

theorem toNat_divU (a b : W64) : (divU a b).toNat = if b = 0 then 2 ^ 64 - 1 else a.toNat / b.toNat := by
  rw [divU, apply_ite BitVec.toNat, BitVec.toNat_udiv]
  rfl

theorem toInt_divS (a b : W64) : (divS a b).toInt = if b = 0 then 0 else (a.toInt.tdiv b.toInt).bmod (2 ^ 64) := by
  rw [divS, apply_ite BitVec.toInt, BitVec.toInt_sdiv]
  rfl

theorem toNat_remU (a b : W64) : (remU a b).toNat = if b = 0 then a.toNat else a.toNat % b.toNat := by
  rw [remU, apply_ite BitVec.toNat, BitVec.toNat_umod]

/-- A quotient of an accumulator ends at 2^64 - 1, and so does a division by zero. -/
theorem toNat_accDiv (round : Bool) (a : Acc) (b : W64) : (accDiv round a b).toNat =
    if b = 0 then 2 ^ 64 - 1
    else min (2 ^ 64 - 1) (if round then (2 * a.toNat + b.toNat) / (2 * b.toNat) else a.toNat / b.toNat) := by
  unfold accDiv
  generalize (if round then (2 * a.toNat + b.toNat) / (2 * b.toNat) else a.toNat / b.toNat) = q
  by_cases hb : b = 0
  · simp only [hb, true_or, if_true]
    rfl
  · simp only [hb, false_or, if_false]
    split
    · exact (min_eq_left (by omega)).symm
    · rw [BitVec.toNat_ofNat, Nat.mod_eq_of_lt (by omega), min_eq_right (by omega)]

/-! ### The field instructions (R227) -/

theorem toNat_extField (a : W64) (imm : BitVec 24) : (extField a imm).toNat =
    a.toNat / 2 ^ (imm.toNat % 64) % 2 ^ (if imm.toNat / 64 % 64 = 0 then 64 else imm.toNat / 64 % 64) := by
  have hq : a.toNat / 2 ^ (imm.toNat % 64) < 2 ^ 64 := (Nat.div_le_self ..).trans_lt a.isLt
  simp only [extField]
  split
  · rw [BitVec.toNat_ushiftRight, Nat.shiftRight_eq_div_pow, Nat.mod_eq_of_lt hq]
  · have hw : 2 ^ (imm.toNat / 64 % 64) ≤ 2 ^ 63 := Nat.pow_le_pow_right (by decide) (by omega)
    rw [BitVec.toNat_and, BitVec.toNat_ushiftRight, Nat.shiftRight_eq_div_pow, BitVec.toNat_ofNat,
      Nat.mod_eq_of_lt (a := _ - 1) (by omega), Nat.and_two_pow_sub_one_eq_mod]

/-- The bits of the masks with which INS clears its field. -/
theorem insMask_getLsbD : ∀ j < 64, (0xFFFFFF : W64).getLsbD j = decide (j < 24) ∧
    (0xFFFFFF000000 : W64).getLsbD j = decide (24 ≤ j ∧ j < 48) ∧ (0xFFFF000000000000 : W64).getLsbD j = decide (48 ≤ j) := by
  decide

theorem getLsbD_insField (a : W64) {k : BitVec 5} (imm : BitVec 24) {j : Nat} (hk : k.toNat < 3) (hj : j < 64) :
    (insField a k imm).getLsbD j =
      if 24 * k.toNat ≤ j ∧ j < 24 * k.toNat + 24 then imm.getLsbD (j - 24 * k.toNat) else a.getLsbD j := by
  obtain ⟨h0, h1, h2⟩ := insMask_getLsbD j hj
  obtain h | h | h : k.toNat = 0 ∨ k.toNat = 1 ∨ k.toNat = 2 := by omega
  · simp only [insField, h, BitVec.getLsbD_or, BitVec.getLsbD_and, BitVec.getLsbD_not, BitVec.getLsbD_setWidth, h0]
    grind
  · simp only [insField, h, BitVec.getLsbD_or, BitVec.getLsbD_and, BitVec.getLsbD_not, BitVec.getLsbD_setWidth,
      BitVec.getLsbD_shiftLeft, h1]
    grind
  · simp only [insField, h, BitVec.getLsbD_or, BitVec.getLsbD_and, BitVec.getLsbD_not, BitVec.getLsbD_setWidth,
      BitVec.getLsbD_shiftLeft, h2]
    grind

/-! ### Products and the square root (R227) -/

theorem macProduct_eq (sg : Bool) (a b : W64) : macProduct sg a b =
    if sg then BitVec.ofInt 128 (a.toInt * b.toInt) else BitVec.ofNat 128 (a.toNat * b.toNat) := by
  rw [BitVec.ofInt_mul, BitVec.ofNat_mul, BitVec.ofNat_toNat, BitVec.ofNat_toNat]
  rfl

/-- The square root after the bits of the first `k` places have been tried. -/
def isqrtAt (n k : Nat) : Nat :=
  (List.range k).foldl (fun r i => let c := r + 2 ^ (63 - i); if c * c ≤ n then c else r) 0

theorem isqrtAt_succ (n k : Nat) : isqrtAt n (k + 1) =
    if (isqrtAt n k + 2 ^ (63 - k)) * (isqrtAt n k + 2 ^ (63 - k)) ≤ n then isqrtAt n k + 2 ^ (63 - k) else isqrtAt n k := by
  rw [isqrtAt, List.range_succ, List.foldl_concat]
  rfl

/-- The bits tried so far give the root down to the place of the last one. -/
theorem isqrtAt_bounds {n : Nat} (hn : n < 2 ^ 128) {k : Nat} (hk : k ≤ 64) :
    isqrtAt n k * isqrtAt n k ≤ n ∧ n < (isqrtAt n k + 2 ^ (64 - k)) * (isqrtAt n k + 2 ^ (64 - k)) := by
  induction k with
  | zero => exact ⟨Nat.zero_le n, by simpa [isqrtAt] using hn⟩
  | succ k ih =>
    obtain ⟨hlo, hhi⟩ := ih (by omega)
    rw [isqrtAt_succ]
    have hp : 64 - (k + 1) = 63 - k := by omega
    have htwo : 2 ^ (64 - k) = 2 ^ (63 - k) + 2 ^ (63 - k) := by rw [← Nat.two_mul, ← Nat.pow_succ']; congr 1; omega
    rw [hp]
    split
    next hc => exact ⟨hc, by rwa [Nat.add_assoc, ← htwo]⟩
    next hc => exact ⟨hlo, Nat.lt_of_not_le hc⟩

theorem isqrt_bounds (a : Acc) : isqrt a.toNat * isqrt a.toNat ≤ a.toNat ∧
    a.toNat < (isqrt a.toNat + 1) * (isqrt a.toNat + 1) := isqrtAt_bounds a.isLt (k := 64) le_rfl

end Sys2Proof.Machine
open Sys2Proof Sys2Proof.Machine

/-- Settles O23: each operation over numbers is a fact of its definition; the instructions with a divisor of 0 complete as any
others do. -/
theorem engineArithmetic : Obligations.EngineArithmetic := by
  refine ⟨fun a b => ⟨BitVec.toNat_add .., BitVec.toInt_sub, BitVec.toNat_mul .., toNat_eval_shl a b,
      toNat_eval_shr a b, toInt_eval_sar a b, toInt_eval_min a b, toInt_eval_max a b⟩,
    fun a b => ⟨toNat_divU a b, toInt_divS a b, toNat_remU a b⟩,
    fun a b => ⟨boolW_decide _, by rw [AluOp.eval, BitVec.slt_eq_decide, boolW_decide],
      by rw [AluOp.eval, BitVec.ult_eq_decide, boolW_decide]⟩,
    fun a b j => ⟨BitVec.getLsbD_and, BitVec.getLsbD_or, BitVec.getLsbD_xor⟩,
    toNat_extField, fun a k imm j hk hj => getLsbD_insField a imm hk hj,
    fun a b => ⟨toNat_accDiv false a b, toNat_accDiv true a b⟩, isqrt_bounds, macProduct_eq,
    fun s u e rd ra aa b hb => ?_⟩
  refine ⟨fun h => ?_, fun h => ?_, fun h => ?_, fun h => ?_, fun h => ?_⟩
  all_goals exact answers_wroteG h rfl (by rw [State.opRun, hb]; rfl) rfl
end

/-! ## O25: branches and jumps (R226, R227) -/
section
namespace Sys2Proof.Machine
open Sys2Proof

theorem BrOp.holds_iff (f : BrOp) (a b : W64) : f.holds a b = true ↔ match f with
    | .eq => a = b
    | .ne => a ≠ b
    | .lt => a.toInt < b.toInt
    | .ge => b.toInt ≤ a.toInt
    | .ltu => a.toNat < b.toNat
    | .geu => b.toNat ≤ a.toNat := by
  cases f <;> simp [BrOp.holds, BitVec.slt_eq_decide, BitVec.ult_eq_decide]

theorem eq_setWidth_iff (a : W64) (k : BitVec 5) : a = k.setWidth 64 ↔ a.toNat = k.toNat := by
  rw [← BitVec.toNat_inj, BitVec.toNat_setWidth_of_le (by omega)]

variable {s : State} {u e : Nat} {op : EngOp} {c : Instr} {imm : BitVec 24} {b : Bool} {yes no : Prop}

/-- A branch that is taken goes IMM words from its own place, one that is not goes on by one. -/
theorem answers_branch (h : s.Stands u e op) (hc : exec c s = engStep u e op s)
    (hrun : s.opRun u e op = .ok (s, if b then (s.eng u e).pc + imm.toInt else (s.eng u e).pc + 1, b))
    (hop : op.endsSlice = false) (hcyc : ∀ taken, op.cycles taken = if taken then 2 else 1)
    (hlo : 0 ≤ (s.eng u e).pc + imm.toInt) (hhi : (s.eng u e).pc + imm.toInt < 2048)
    (hyes : yes ↔ b = true) (hno : no ↔ b = false) :
    Answers c s (fun t => (yes → s.Moved u e 2 ((s.eng u e).pc + imm.toInt) t) ∧
      (no → (s.eng u e).pc < 2047 → s.Moved u e 1 ((s.eng u e).pc + 1) t)) := by
  cases b with
  | true =>
    obtain ⟨t, ht, hm⟩ := answers_moved h hc hrun hop hlo hhi
    rw [hcyc] at hm
    exact ⟨t, ht, fun _ => hm, fun hn => absurd (hno.mp hn) (by decide)⟩
  | false =>
    refine ⟨_, hc.trans (engStep_stands h), fun hy => absurd (hyes.mp hy) (by decide), fun _ hpc => ?_⟩
    obtain ⟨t, ht, hm⟩ := answers_moved h hc hrun hop (by simp only [Bool.false_eq_true, if_false]; omega)
      (by simp only [Bool.false_eq_true, if_false]; omega)
    rw [hc.trans (engStep_stands h)] at ht
    rw [hcyc] at hm
    exact Host.Outcome.next.inj ht ▸ hm

end Sys2Proof.Machine
open Sys2Proof Sys2Proof.Machine

/-- Settles O25: a branch is taken where its condition holds, and the jumps always. -/
theorem branchRows : Obligations.BranchRows := by
  constructor
  · intro f s u e ra rb imm h hlo hhi
    have hyes := f.holds_iff (s.getG u e ra) (s.getG u e rb)
    have hno := hyes.not.symm.trans (iff_of_eq (Bool.not_eq_true _))
    cases f <;> exact answers_branch h rfl rfl rfl (fun _ => rfl) hlo hhi hyes.symm hno
  · intro s u e ra k imm hlo hhi
    have heq := eq_setWidth_iff (s.getG u e ra) k
    refine ⟨fun h => ?_, fun h => ?_, fun h => ?_, fun h => ?_, fun h => answers_moved h rfl rfl rfl hlo hhi,
      fun h => ?_, fun h => ?_⟩
    · exact answers_branch h rfl rfl rfl (fun _ => rfl) hlo hhi (by simp [heq]) (by simp [heq])
    · exact answers_branch h rfl rfl rfl (fun _ => rfl) hlo hhi (by simp [heq]) (by simp [heq])
    · exact answers_branch h rfl rfl rfl (fun _ => rfl) hlo hhi (by simp) (by simp)
    · exact answers_branch h rfl rfl rfl (fun _ => rfl) hlo hhi (by simp) (by simp)
    · exact ⟨_, engStep_completes_at h rfl rfl hlo hhi, s.wroteG_retired ..⟩
    · exact answers_moved h rfl rfl rfl (by omega) (by omega)
end

/-! ## O26: loads and stores of the context store (R215, R216, R227, R228) -/
section
namespace Sys2Proof.Machine
open Sys2Proof

theorem toNat_one_w64 : (1 : W64).toNat = 1 := rfl

/-! ### Faults of an access (R216, R231) -/

section
variable {s : State} {u e : Nat} {w : W64}

theorem State.any_ctxs_iff : (s.eng u e).ctxs.any (fun c => decide (c < 64) && decide (c = w.toNat / 64)) = true ↔
    s.liveWord u e w := by
  simp only [List.any_eq_true, Bool.and_eq_true, decide_eq_true_eq, State.liveWord]
  constructor
  · rintro ⟨c, hc, hlt, rfl⟩
    exact ⟨hlt, hc⟩
  · rintro ⟨hlt, hc⟩
    exact ⟨_, hc, hlt, rfl⟩

theorem State.cxFault_not_live (store : Bool) (h : ¬s.liveWord u e w) : s.cxFault u e store w = some 1 := by
  rw [State.cxFault, if_pos]
  rwa [Bool.not_eq_true', ← Bool.not_eq_true, State.any_ctxs_iff]

theorem State.cxFault_live (store : Bool) (h : s.liveWord u e w) :
    s.cxFault u e store w = if store && decide (w.toNat % 64 < 8) then some 2 else none := by
  rw [State.cxFault, State.any_ctxs_iff.mpr h]
  rfl

theorem State.cxFault_load (h : s.liveWord u e w) : s.cxFault u e false w = none := State.cxFault_live false h

theorem State.cxFault_low (h : s.liveWord u e w) (hlow : w.toNat % 64 < 8) : s.cxFault u e true w = some 2 := by
  rw [State.cxFault_live true h, if_pos (by simp [hlow])]

theorem State.cxFault_store (h : s.liveWord u e w) (hlow : 8 ≤ w.toNat % 64) : s.cxFault u e true w = none := by
  rw [State.cxFault_live true h, if_neg (by simp [hlow])]

theorem State.cxFault2_none {store : Bool} (h : s.cxFault u e store w = none) (h1 : s.cxFault u e store (w + 1) = none) :
    s.cxFault2 u e store w = none := by
  simp only [State.cxFault2, h, h1, reduceCtorEq, or_self, if_false, Option.isSome_none, Bool.false_eq_true]

/-- The words of live contexts do not wrap around. -/
theorem State.liveWord.toNat_add_one (h : s.liveWord u e w) : (w + 1).toNat = w.toNat + 1 := by
  have hlt := h.1
  rw [BitVec.toNat_add, toNat_one_w64]
  omega

end

/-! ### An instruction that ends after a change of the tile's contexts -/

section
variable {s t w : State} {u e n k : Nat} {rd : BitVec 5} {v : W64}

theorem State.EngineApart.tb (h : s.EngineApart t u e) : t.tb = s.tb := (congrArg State.tb h.1.1 :)

theorem State.EngineApart.retired (h : s.EngineApart t u e) (heng : t.eng u e = s.eng u e) :
    s.EngineApart (t.retired u e n k) u e ∧ (∀ c, (t.retired u e n k).ctx u c = t.ctx u c) ∧
      (t.retired u e n k).eng u e = (s.eng u e).ran n k s.tb.age ∧ ∀ a, (t.retired u e n k).cxWord u a = t.cxWord u a := by
  obtain ⟨happ, hcx, hctx⟩ := t.engineOnly_retired u e n k
  exact ⟨h.trans happ, hctx, by rw [State.eng_retired, heng, h.tb], hcx⟩

/-- A write to a general register after a change that leaves the engine and its registers. -/
theorem State.WroteG.after (hw : t.WroteG u e n k rd v w) (h : s.EngineApart t u e) (heng : t.eng u e = s.eng u e)
    (hg : ∀ r, t.getG u e r = s.getG u e r) : s.EngineApart w u e ∧
      { w.eng u e with g := (s.eng u e).g } = (s.eng u e).ran n k s.tb.age ∧
      ∀ r, w.getG u e r = if r = rd ∧ r.toNat < 28 then v else s.getG u e r := by
  obtain ⟨happ, hran, hget⟩ := hw
  rw [heng, h.tb] at hran
  exact ⟨h.trans happ.1, hran, fun r => (hget r).trans (by rw [hg])⟩

end

/-! ### GNEXT counts in the low half of its word (R228) -/

theorem lowMask_getLsbD : ∀ j < 64, (0xFFFFFFFF : W64).getLsbD j = decide (j < 32) := by decide

theorem toNat_countLow (w : W64) : ((w &&& ~~~(0xFFFFFFFF : W64)) ||| ((w + 1) &&& 0xFFFFFFFF)).toNat =
    w.toNat / 2 ^ 32 * 2 ^ 32 + (w.toNat + 1) % 2 ^ 32 := by
  have h : (w &&& ~~~(0xFFFFFFFF : W64)) ||| ((w + 1) &&& 0xFFFFFFFF) = w.extractLsb' 32 32 ++ (w + 1).extractLsb' 0 32 := by
    refine BitVec.eq_of_getLsbD_eq fun j hj => ?_
    simp only [BitVec.getLsbD_or, BitVec.getLsbD_and, BitVec.getLsbD_not, lowMask_getLsbD j hj, BitVec.getLsbD_append,
      BitVec.getLsbD_extractLsb']
    grind
  have hlt := w.isLt
  rw [h, BitVec.toNat_append, ← Nat.shiftLeft_add_eq_or_of_lt (BitVec.isLt _), Nat.shiftLeft_eq, BitVec.extractLsb'_toNat,
    BitVec.extractLsb'_toNat, BitVec.toNat_add, toNat_one_w64, Nat.shiftRight_eq_div_pow, Nat.shiftRight_zero]
  omega

/-! ### The instructions that store -/

section
variable {s : State} {u e : Nat} {w : W64} {imm : BitVec 24} {ra : BitVec 5}

theorem exec_st {rb : BitVec 5} (h : s.Ready u e (.st ra rb imm)) (hw : s.getG u e ra + imm.signExtend 64 = w)
    (hlive : s.liveWord u e w) (hlow : 8 ≤ w.toNat % 64) : exec (.st u e ra rb imm) s =
      .next ((s.setCxWord u w.toNat (s.getG u e rb)).retired u e 1 ((s.eng u e).pc + 1)) :=
  engStep_next h (by simp only [State.opRun, hw, State.cxFault_store hlive hlow]) rfl

/-- The two words of an accumulator that STA stores from word `a` on. -/
def State.setCxAcc (s : State) (u a : Nat) (v : Acc) : State :=
  (s.setCxWord u a (v.setWidth 64)).setCxWord u (a + 1) ((v >>> 64).setWidth 64)

theorem State.cxWord_setCxAcc (a b : Nat) (v : Acc) : (s.setCxAcc u a v).cxWord u b =
    if b = a then v.setWidth 64 else if b = a + 1 then (v >>> 64).setWidth 64 else s.cxWord u b := by
  rw [State.setCxAcc, State.cxWord_setCxWord, State.cxWord_setCxWord]
  by_cases h : b = a
  · rw [if_neg (by omega), if_pos h, if_pos h]
  · rw [if_neg h, if_neg h]

theorem State.eng_setCxAcc (a : Nat) (v : Acc) : (s.setCxAcc u a v).eng u e = s.eng u e := by
  simp only [State.setCxAcc, State.eng_setCxWord]

theorem State.ctx_setCxAcc (a c : Nat) (v : Acc) : (s.setCxAcc u a v).ctx u c = s.ctx u c := by
  simp only [State.setCxAcc, State.ctx_setCxWord]

theorem State.engineApart_setCxAcc (a : Nat) (v : Acc) : s.EngineApart (s.setCxAcc u a v) u e :=
  (s.engineApart_setCxWord ..).trans (State.engineApart_setCxWord ..)

theorem exec_sta {ab : BitVec 2} (h : s.Ready u e (.sta ra ab imm)) (hw : s.getG u e ra + imm.signExtend 64 = w)
    (hlive : s.liveWord u e w) (hlive1 : s.liveWord u e (w + 1)) (hlow : 8 ≤ w.toNat % 64) (hlow1 : 8 ≤ (w + 1).toNat % 64) :
    exec (.sta u e ra ab imm) s =
      .next ((s.setCxAcc u w.toNat (s.getA u e ab)).retired u e 2 ((s.eng u e).pc + 1)) :=
  engStep_next h (by simp only [State.opRun, hw, State.cxFault2_none (State.cxFault_store hlive hlow)
    (State.cxFault_store hlive1 hlow1), State.setCxAcc]) rfl

end

/-! ### GNEXT and GSTAT (R215, R228) -/

/-- The word of the running context that holds the next GSEQ, with its low half counted. -/
def State.gseqCounted (s : State) (u e : Nat) : State :=
  let w := s.cxWord u (64 * (s.eng u e).ctx + 26)
  s.setCxWord u (64 * (s.eng u e).ctx + 26) ((w &&& ~~~(0xFFFFFFFF : W64)) ||| ((w + 1) &&& 0xFFFFFFFF))

theorem exec_gnext {s : State} {u e : Nat} {rd : BitVec 5} (h : s.Ready u e (.gnext rd)) : exec (.gnext u e rd) s =
    .next (((s.gseqCounted u e).setG u e rd (s.cxWord u (64 * (s.eng u e).ctx + 26))).retired u e 1 ((s.eng u e).pc + 1)) :=
  engStep_next h rfl rfl

/-- The running context with its GSTAT conditions taken. -/
def State.condsTaken (s : State) (u e : Nat) : State :=
  s.modCtx u (s.eng u e).ctx (fun x => { x with gst := false, gcs := false })

theorem exec_gstat {s : State} {u e : Nat} {rd : BitVec 5} (h : s.Ready u e (.gstat rd)) : exec (.gstat u e rd) s =
    .next (((s.condsTaken u e).setG u e rd (BitVec.ofNat 64 (b2n (s.ctx u (s.eng u e).ctx).gst +
      2 * b2n (s.ctx u (s.eng u e).ctx).gcs))).retired u e 1 ((s.eng u e).pc + 1)) :=
  engStep_next h rfl rfl

theorem State.condsTaken_ctx (s : State) (u e c : Nat) : (s.condsTaken u e).ctx u c =
    if c = (s.eng u e).ctx then { s.ctx u (s.eng u e).ctx with gst := false, gcs := false } else s.ctx u c := by
  simp only [State.condsTaken, State.ctx_modCtx, true_and]

end Sys2Proof.Machine
open Sys2Proof Sys2Proof.Machine

/-- Settles O26: an access to live words does not fault, and then loads as an ALU instruction writes, or stores its words. -/
theorem contextStoreRows : Obligations.ContextStoreRows := by
  refine ⟨fun s u e rd ra imm h hlive => ?_, fun s u e ra rb imm h hlive hlow => ?_, fun s u e ad ra imm h hlive hlive1 => ?_,
    fun s u e ra ab imm h hlive hlive1 hlow hlow1 => ?_, fun s u e rd h => ?_, fun s u e rd h => ?_⟩
  · exact answers_wroteG h rfl (by simp only [State.opRun, State.cxFault_load hlive]) rfl
  · have happ := s.engineApart_setCxWord u e (s.getG u e ra + imm.signExtend 64).toNat (s.getG u e rb)
    obtain ⟨happ, hctx, heng, hcx⟩ := happ.retired (n := 1) (k := (s.eng u e).pc + 1) (s.eng_setCxWord ..)
    exact ⟨_, exec_st h rfl hlive hlow, happ, fun c => (hctx c).trans (s.ctx_setCxWord ..), heng,
      fun a => (hcx a).trans (s.cxWord_setCxWord ..)⟩
  · refine answers_wroteA h rfl ?_ rfl
    simp only [State.opRun, State.cxFault2_none (State.cxFault_load hlive) (State.cxFault_load hlive1), hlive.toNat_add_one]
  · have happ : s.EngineApart (s.setCxAcc u (s.getG u e ra + imm.signExtend 64).toNat (s.getA u e ab)) u e :=
      State.engineApart_setCxAcc ..
    obtain ⟨happ, hctx, heng, hcx⟩ := happ.retired (n := 2) (k := (s.eng u e).pc + 1) (State.eng_setCxAcc ..)
    refine ⟨_, exec_sta h rfl hlive hlive1 hlow hlow1, happ, fun c => (hctx c).trans (State.ctx_setCxAcc ..), heng,
      fun a => (hcx a).trans ?_⟩
    rw [hlive.toNat_add_one, State.cxWord_setCxAcc]
  · have heng : (s.gseqCounted u e).eng u e = s.eng u e := s.eng_setCxWord ..
    have hctx : ∀ c, (s.gseqCounted u e).ctx u c = s.ctx u c := s.ctx_setCxWord u _ _ u
    have hw := (s.gseqCounted u e).wroteG_retired u e 1 ((s.eng u e).pc + 1) rd (s.cxWord u (64 * (s.eng u e).ctx + 26))
    obtain ⟨happ, hran, hget⟩ := hw.after (s.engineApart_setCxWord ..) heng
      (State.getG_congr (by rw [heng]) (by rw [heng]) (by rw [hctx]))
    refine ⟨_, exec_gnext h, happ, fun c => (hw.1.2.2 c).trans (hctx c), hran, hget, ?_, fun a ha => ?_⟩
    · rw [hw.1.2.1, State.gseqCounted, State.cxWord_setCxWord, if_pos rfl, toNat_countLow]
    · rw [hw.1.2.1, State.gseqCounted, State.cxWord_setCxWord, if_neg ha]
  · have heng : (s.condsTaken u e).eng u e = s.eng u e := s.eng_modCtx ..
    have hw := (s.condsTaken u e).wroteG_retired u e 1 ((s.eng u e).pc + 1) rd
      (BitVec.ofNat 64 (b2n (s.ctx u (s.eng u e).ctx).gst + 2 * b2n (s.ctx u (s.eng u e).ctx).gcs))
    obtain ⟨happ, hran, hget⟩ := hw.after (s.engineApart_modCtx ..) heng
      (State.getG_congr (by rw [heng]) (by rw [heng]) (by rw [State.condsTaken_ctx, if_pos rfl]))
    refine ⟨_, exec_gstat h, happ, fun a => (hw.1.2.1 a).trans (s.cxWord_modCtx ..), hran, hget, ?_, fun c hc => ?_⟩
    · rw [hw.1.2.2, State.condsTaken_ctx, if_pos rfl]
    · rw [hw.1.2.2, State.condsTaken_ctx, if_neg hc]
end

/-! ## O27: timers, WAIT and CHECKPOINT (R217, R220, R227, R234) -/
section
namespace Sys2Proof.Machine
open Sys2Proof

variable {s : State} {u e : Nat}

/-! ### The timer of the running context (R227, R233) -/

/-- An instruction that moves on by one after a change of the running context. -/
theorem answers_modCtx {op : EngOp} {i : Instr} {f : Ctx → Ctx} (h : s.Ready u e op) (hc : exec i s = engStep u e op s)
    (hrun : s.opRun u e op = .ok (s.modCtx u (s.eng u e).ctx f, (s.eng u e).pc + 1, false)) (hend : op.endsSlice = false) :
    Answers i s (fun t => s.EngineApart t u e ∧ (∀ a, t.cxWord u a = s.cxWord u a) ∧
      t.eng u e = (s.eng u e).ran (op.cycles false) ((s.eng u e).pc + 1) s.tb.age ∧
      t.ctx u (s.eng u e).ctx = f (s.ctx u (s.eng u e).ctx) ∧ ∀ d, d ≠ (s.eng u e).ctx → t.ctx u d = s.ctx u d) := by
  obtain ⟨happ, hctx, heng, hcx⟩ := (s.engineApart_modCtx u e (s.eng u e).ctx f).retired (n := op.cycles false)
    (k := (s.eng u e).pc + 1) (s.eng_modCtx ..)
  refine ⟨_, hc.trans (engStep_next h hrun hend), happ, fun a => (hcx a).trans (s.cxWord_modCtx ..), heng, ?_, fun d hd => ?_⟩
  · rw [hctx, State.ctx_modCtx_same]
  · rw [hctx, State.ctx_modCtx, if_neg (fun hd' => hd hd'.2)]

/-! ### The delivery of an item (R217, R220) -/

/-- WAIT and CHECKPOINT account for their own cycles and place. -/
theorem engStep_endsSlice {op : EngOp} {t : State} {pc : Int} {taken : Bool} (h : s.Stands u e op)
    (hrun : s.opRun u e op = .ok (t, pc, taken)) (hend : op.endsSlice = true) : engStep u e op s = .next t := by
  rw [engStep_stands h, State.opStep, hrun]
  simp only [hend, if_true]

/-- A context with the item that it has been given. -/
def State.holding (s : State) (u : Nat) (i : Item) (x : Ctx) : Ctx :=
  let x := s.collect u x i
  { x with cur := some i, bar := if i.kind = 3 ∨ i.kind = 5 then 2 else x.bar, dels := if i.kind = 7 then x.dels + 1 else x.dels }

theorem State.holding_items (i : Item) (x : Ctx) : (s.holding u i x).items = x.items := by
  simp only [State.holding, State.collect]
  split
  · split <;> rfl
  · rfl

/-- An engine that has delivered one more item of its slice. -/
def Engine.counted (y : Engine) (i : Item) : Engine :=
  { y with sliceN := y.sliceN + 1, sliceT := if y.sliceN = 0 then i.t else y.sliceT, cycles := 0, delivered := y.delivered + 1 }

/-- Where the program goes on with an item: at its hit entry, or behind WAIT. -/
def Engine.waitTarget (y : Engine) (i : Item) (imm : BitVec 24) : Int := if i.isHit then y.pc + imm.toInt else y.pc + 1

theorem Engine.waitTarget_bounds {y : Engine} {i : Item} {imm : BitVec 24} (hlo : 0 ≤ y.pc + imm.toInt)
    (hhi : y.pc + imm.toInt < 2048) (hpc : i.isHit = false → y.pc < 2047) :
    0 ≤ y.waitTarget i imm ∧ y.waitTarget i imm < 2048 := by
  unfold Engine.waitTarget
  split
  next => exact ⟨hlo, hhi⟩
  next hhit =>
    have := hpc (by simpa using hhit)
    omega

theorem State.deliver_eq {i : Item} {imm : BitVec 24} (hlo : 0 ≤ (s.eng u e).waitTarget i imm)
    (hhi : (s.eng u e).waitTarget i imm < 2048) : s.deliver u e i imm =
      ((s.modCtx u (s.eng u e).ctx (s.holding u i)).modEng u e (·.counted i)).retired u e 2
        ((s.eng u e).waitTarget i imm).toNat := by
  rw [State.deliver]
  exact State.retireOp_eq _ u e 2 hlo hhi

theorem State.deliver_spec {i : Item} {imm : BitVec 24} (hlo : 0 ≤ (s.eng u e).waitTarget i imm)
    (hhi : (s.eng u e).waitTarget i imm < 2048) : s.EngineApart (s.deliver u e i imm) u e ∧
      (∀ a, (s.deliver u e i imm).cxWord u a = s.cxWord u a) ∧
      (s.deliver u e i imm).eng u e = ((s.eng u e).counted i).ran 2 ((s.eng u e).waitTarget i imm).toNat s.tb.age ∧
      (s.deliver u e i imm).ctx u (s.eng u e).ctx = s.holding u i (s.ctx u (s.eng u e).ctx) ∧
      ∀ d, d ≠ (s.eng u e).ctx → (s.deliver u e i imm).ctx u d = s.ctx u d := by
  rw [State.deliver_eq hlo hhi]
  refine ⟨((s.engineApart_modCtx ..).trans (State.engineApart_modEng ..)).trans (State.engineOnly_retired ..).1, fun a => ?_, ?_, ?_,
    fun d hd => ?_⟩
  · rw [(State.engineOnly_retired ..).2.1, State.cxWord_modEng, State.cxWord_modCtx]
  · rw [State.eng_retired, State.eng_modEng_same, State.eng_modCtx]
    rfl
  · rw [(State.engineOnly_retired ..).2.2, State.ctx_modEng, State.ctx_modCtx_same]
  · rw [(State.engineOnly_retired ..).2.2, State.ctx_modEng, State.ctx_modCtx, if_neg (fun hd' => hd hd'.2)]

/-- WAIT with a released item, outside a barrier, a retirement and a trigger slice. -/
theorem State.opWait_items {imm : BitVec 24} {x : Item} {rest : List Item} (hopen : s.hasOpen u e (s.eng u e).ctx = false)
    (hbar : (s.ctx u (s.eng u e).ctx).bar = 0) (hretire : (s.ctx u (s.eng u e).ctx).retire = none)
    (htrig : (s.eng u e).inTrig = false) (hitems : (s.ctx u (s.eng u e).ctx).items = x :: rest) :
    s.opWait u e imm = if s.sliceOver u e (some x) then s.modEng u e (fun y => { y with sliceEnd := true })
      else if s.headReady u e (s.eng u e).ctx x then
        (s.modCtx u (s.eng u e).ctx (fun x => { x with items := rest })).deliver u e x imm
      else s := by
  simp [State.opWait, hopen, hbar, hretire, htrig, hitems]

end Sys2Proof.Machine
open Sys2Proof Sys2Proof.Machine

/-- Settles O27: the timer instructions change the running context; WAIT ends the slice, delivers its head item, or stays; a
slice that CHECKPOINT ends asks for its checkpoint. -/
theorem timerAndWaitRows : Obligations.TimerAndWaitRows := by
  refine ⟨⟨fun s u e h => answers_moved h.1 rfl rfl rfl (by omega) (by have := h.2; omega), fun s u e ra b c tm hc => ?_⟩,
    fun s u e c imm x rest h hpc hc hopen hbar hretire htrig hitems hlo hhi => ?_, fun s u e h hopen => ?_⟩
  · subst hc
    constructor
    · rintro ⟨h, rfl⟩
      exact answers_modCtx h rfl rfl rfl
    · rintro ⟨h, rfl⟩
      exact answers_modCtx h rfl rfl rfl
  · subst hc
    refine ⟨_, engStep_endsSlice h rfl rfl, ?_⟩
    rw [State.opWait_items hopen hbar hretire htrig hitems]
    rcases hover : s.sliceOver u e (some x)
    · rcases hready : s.headReady u e (s.eng u e).ctx x
      · simp [State.EngineApart.refl]
      · have htarget := Engine.waitTarget_bounds hlo hhi hpc
        have heng : (s.modCtx u (s.eng u e).ctx (fun y => { y with items := rest })).eng u e = s.eng u e := s.eng_modCtx ..
        obtain ⟨happ, hcx, hran, hctx, hothers⟩ :=
          State.deliver_spec (s := s.modCtx u (s.eng u e).ctx (fun y => { y with items := rest })) (u := u) (e := e) (i := x)
            (imm := imm) (by rw [heng]; exact htarget.1) (by rw [heng]; exact htarget.2)
        simp only [heng, State.ctx_modCtx_same] at hran hctx hothers
        simp only [Bool.false_eq_true, if_false, if_true, hctx, hran, State.holding_items]
        refine ⟨(s.engineApart_modCtx ..).trans happ, fun a => (hcx a).trans (s.cxWord_modCtx ..), fun _ _ =>
          ⟨rfl, trivial, rfl, rfl, rfl, ?_⟩, False.elim, rfl, rfl, fun d hd => ?_⟩
        · exact Int.toNat_of_nonneg htarget.1
        · rw [hothers d hd, State.ctx_modCtx, if_neg (fun hd' => hd hd'.2)]
    · simp [State.engineApart_modEng, hitems]
  · have hstep : s.opCheckpoint u e = (s.modEng u e (fun y => { y with sliceEnd := true, ckptReq := true, cycles := 0 })).retired
        u e 2 ((s.eng u e).pc + 1) := by
      rw [State.opCheckpoint, if_neg (by simp [hopen])]
      exact State.retireOp_eq _ u e 2 (by omega) (by have := h.2; omega)
    refine ⟨_, engStep_endsSlice h.1 rfl rfl, ?_⟩
    dsimp only
    rw [hstep, State.eng_retired, State.eng_modEng_same]
    exact ⟨(s.engineOnly_modEng ..).trans (State.engineOnly_retired ..), rfl, rfl, rfl, rfl, rfl⟩
end

/-! ## Queues: what the engines' operations on them change, and what they leave (R252 to R276) -/
section
namespace Sys2Proof.Machine
open Sys2Proof

/-! ### What leaves all but the queues of a tile, events and pins -/

/-- A tile without its queues and sticky bits. -/
def Tile.sansQueues (x : Tile) : Tile := { x with te := 0, qs := [], qmem := [], qLast := 0 }

/-- Nothing changed but the queues of tile `u`, with the events and flow-control outputs that their levels drive. -/
structure State.QueuesApart (s t : State) (u : Nat) : Prop where
  rest : { t with tiles := s.tiles, fco := s.fco, ev := s.ev, nv := s.nv, sup := s.sup, lk := s.lk } = s
  tiles : ∀ v, v ≠ u → t.tile v = s.tile v
  tile : (t.tile u).sansQueues = (s.tile u).sansQueues

section
variable {s t w : State} {u : Nat}

theorem State.QueuesApart.refl (s : State) (u : Nat) : s.QueuesApart s u := ⟨rfl, fun _ _ => rfl, rfl⟩

theorem State.QueuesApart.trans (h : s.QueuesApart t u) (k : t.QueuesApart w u) : s.QueuesApart w u where
  rest := by rw [← h.rest, ← k.rest]
  tiles v hv := (k.tiles v hv).trans (h.tiles v hv)
  tile := k.tile.trans h.tile

theorem State.QueuesApart.regs (h : s.QueuesApart t u) : t.regs = s.regs := (congrArg State.regs h.rest :)

theorem State.QueuesApart.tb (h : s.QueuesApart t u) : t.tb = s.tb := (congrArg State.tb h.rest :)

theorem State.QueuesApart.msg (h : s.QueuesApart t u) : t.msg = s.msg := (congrArg State.msg h.rest :)

theorem State.QueuesApart.eng (h : s.QueuesApart t u) (e : Nat) : t.eng u e = s.eng u e := (congrArg (Tile.eng · e) h.tile :)

theorem State.QueuesApart.ctx (h : s.QueuesApart t u) (c : Nat) : t.ctx u c = s.ctx u c := (congrArg (Tile.ctx · c) h.tile :)

theorem State.QueuesApart.cxWord (h : s.QueuesApart t u) (a : Nat) : t.cxWord u a = s.cxWord u a :=
  (congrArg (fun x : Tile => mapGet (fun _ => 0) x.cx a) h.tile :)

theorem State.queuesApart_modTile (s : State) (u : Nat) (f : Tile → Tile)
    (hf : (f (s.tile u)).sansQueues = (s.tile u).sansQueues) : s.QueuesApart (s.modTile u f) u :=
  ⟨rfl, fun _ hv => s.tile_modTile_ne u f hv, by rw [State.tile_modTile_same, hf]⟩

end

/-! ### Events of a tile -/

section
variable (s : State) (k : Nat)

theorem State.log_tiles (a b c : Nat) : (s.log a b c).tiles = s.tiles := by
  unfold State.log
  split
  · rfl
  · split <;> rfl

theorem State.routeAlert_tiles (at_ : Time) (b : Bool) : (s.routeAlert k at_ b).tiles = s.tiles := by
  have h : (if bit (s.evRoute k) 0 then s.send 3 0 [alertRecord k s.tb.epoch b, alertTime at_] else s).tiles = s.tiles := by
    split <;> rfl
  simp only [State.routeAlert]
  split
  · exact (State.log_tiles ..).trans h
  · exact h

theorem State.raiseQuiet_tiles (hk : 1024 ≤ k) : (s.raiseQuiet k).tiles = s.tiles := by
  have h : (s.setSticky k).tiles = s.tiles := by rw [State.setSticky, if_neg (by omega)]
  simp only [State.raiseQuiet]
  split
  · rfl
  · split
    · exact h
    · exact (State.routeAlert_tiles ..).trans h

theorem State.routes_tiles (at_ : Time) (b : Bool) : (s.routes k at_ b).tiles = s.tiles := by
  have h := s.routeAlert_tiles k at_ b
  unfold State.routes State.routeBox
  split
  · split
    · split
      · exact h
      · exact (State.raiseQuiet_tiles _ _ (by decide)).trans h
    · exact h
  · exact h

/-- An event of a tile sets the sticky bit there. -/
theorem State.tile_raise_ne {u v : Nat} (hk : k < 16) (hv : v ≠ u) : (s.raise (tileSrc u k)).tile v = s.tile v := by
  have h : (s.setSticky (tileSrc u k)).tile v = s.tile v := by
    rw [State.setSticky]
    split
    · exact s.tile_modTile_ne _ _ (by unfold tileSrc; omega)
    · rfl
  unfold State.raise State.raiseAt
  split
  · rfl
  · split
    · exact h
    · exact (State.tile_congr (State.routes_tiles ..) v).trans h

theorem State.queuesApart_raise {u : Nat} (hk : k < 16) : s.QueuesApart (s.raise (tileSrc u k)) u where
  rest := (congrArg (fun x : State => { x with tiles := s.tiles, fco := s.fco, ev := s.ev, nv := s.nv, sup := s.sup, lk := s.lk })
    (s.apart_raise (tileSrc u k)).1 :)
  tiles _ hv := s.tile_raise_ne k hk hv
  tile := (congrArg Tile.sansQueues ((s.apart_raise (tileSrc u k)).2 u) :)

theorem State.queue_raise (v p : Nat) : (s.raise k).queue v p = s.queue v p := (congrArg (Tile.queue · p) ((s.apart_raise k).2 v) :)

theorem State.qmem_raise (v : Nat) : ((s.raise k).tile v).qmem = (s.tile v).qmem := (congrArg Tile.qmem ((s.apart_raise k).2 v) :)

end

/-! ### What changes one queue -/

/-- Of the queues of the tile, only queue `q` and the queue memory changed. -/
structure State.QueueApart (s t : State) (u q : Nat) : Prop extends s.QueuesApart t u where
  others : ∀ p, p ≠ q → t.queue u p = s.queue u p

/-- Of queue `q`, only what its watermarks drive changed. -/
structure State.LevelsApart (s t : State) (u q : Nat) : Prop extends s.QueueApart t u q where
  qmem : (t.tile u).qmem = (s.tile u).qmem
  queue : { t.queue u q with hi := (s.queue u q).hi, xup := (s.queue u q).xup, xdn := (s.queue u q).xdn } = s.queue u q

section
variable {s t w : State} {u q : Nat}

theorem State.QueueApart.trans (h : s.QueueApart t u q) (k : t.QueueApart w u q) : s.QueueApart w u q :=
  ⟨h.toQueuesApart.trans k.toQueuesApart, fun p hp => (k.others p hp).trans (h.others p hp)⟩

theorem State.LevelsApart.refl (s : State) (u q : Nat) : s.LevelsApart s u q := ⟨⟨.refl s u, fun _ _ => rfl⟩, rfl, rfl⟩

theorem State.LevelsApart.trans (h : s.LevelsApart t u q) (k : t.LevelsApart w u q) : s.LevelsApart w u q :=
  ⟨h.toQueueApart.trans k.toQueueApart, k.qmem.trans h.qmem, by rw [← h.queue, ← k.queue]⟩

theorem State.LevelsApart.wp (h : s.LevelsApart t u q) : (t.queue u q).wp = (s.queue u q).wp := (congrArg Queue.wp h.queue :)

theorem State.LevelsApart.rmark (h : s.LevelsApart t u q) : (t.queue u q).rmark = (s.queue u q).rmark :=
  (congrArg Queue.rmark h.queue :)

theorem State.LevelsApart.opened (h : s.LevelsApart t u q) : (t.queue u q).opened = (s.queue u q).opened :=
  (congrArg Queue.opened h.queue :)

theorem State.LevelsApart.doomed (h : s.LevelsApart t u q) : (t.queue u q).doomed = (s.queue u q).doomed :=
  (congrArg Queue.doomed h.queue :)

theorem State.LevelsApart.owner (h : s.LevelsApart t u q) : (t.queue u q).owner = (s.queue u q).owner :=
  (congrArg Queue.owner h.queue :)

theorem State.LevelsApart.cDrop (h : s.LevelsApart t u q) : (t.queue u q).cDrop = (s.queue u q).cDrop :=
  (congrArg Queue.cDrop h.queue :)

theorem State.LevelsApart.ite {p : Prop} [Decidable p] (h : s.LevelsApart t u q) (k : s.LevelsApart w u q) :
    s.LevelsApart (if p then t else w) u q := by
  split
  · exact h
  · exact k

variable (s u q)

theorem State.queueApart_modQueue (f : Queue → Queue) : s.QueueApart (s.modQueue u q f) u q :=
  ⟨s.queuesApart_modTile u _ rfl, fun _ hp => by rw [State.queue_modQueue, if_neg (fun h => hp h.2)]⟩

@[simp] theorem State.queue_modQueue_same (f : Queue → Queue) : (s.modQueue u q f).queue u q = f (s.queue u q) := by
  rw [State.queue_modQueue, if_pos ⟨rfl, rfl⟩]

theorem State.queueApart_setQWord (pos : Nat) (x : QWord) : s.QueueApart (s.setQWord u q pos x) u q :=
  ⟨s.queuesApart_modTile u _ rfl, fun p _ => s.tile_modTile_keeps u (·.queue p) u _ (fun _ => rfl)⟩

@[simp] theorem State.queue_setQWord (pos p : Nat) (x : QWord) : (s.setQWord u q pos x).queue u p = s.queue u p :=
  s.tile_modTile_keeps u (·.queue p) u _ (fun _ => rfl)

theorem State.queue_qSticky (f : Queue → Queue) : (s.qSticky u q f).queue u q = f (s.queue u q) :=
  ((s.modQueue u q f).tile_modTile_keeps u (·.queue q) u (fun x => { x with qLast := q }) (fun _ => rfl)).trans
    (s.queue_modQueue_same u q f)

theorem State.queueApart_qSticky (f : Queue → Queue) : s.QueueApart (s.qSticky u q f) u q :=
  (s.queueApart_modQueue u q f).trans
    ⟨State.queuesApart_modTile _ u _ rfl, fun p _ => State.tile_modTile_keeps _ u (·.queue p) u _ (fun _ => rfl)⟩

theorem State.qmem_modQueue (f : Queue → Queue) : ((s.modQueue u q f).tile u).qmem = (s.tile u).qmem :=
  s.tile_modTile_keeps u (·.qmem) u _ (fun _ => rfl)

theorem State.qmem_qSticky (f : Queue → Queue) : ((s.qSticky u q f).tile u).qmem = (s.tile u).qmem :=
  ((s.modQueue u q f).tile_modTile_keeps u (·.qmem) u (fun x => { x with qLast := q }) (fun _ => rfl)).trans
    (s.qmem_modQueue u q f)

/-! ### Watermarks (R269 to R272) -/

theorem State.levelsApart_raise {k : Nat} (hk : k < 16) : s.LevelsApart (s.raise (tileSrc u k)) u q :=
  ⟨⟨s.queuesApart_raise k hk, fun p _ => s.queue_raise _ u p⟩, s.qmem_raise _ u, by rw [State.queue_raise]⟩

theorem State.levelsApart_fcoRise (k : Nat) : s.LevelsApart (s.fcoRise k) u q :=
  .ite ⟨⟨⟨rfl, fun _ _ => rfl, rfl⟩, fun _ _ => rfl⟩, rfl, rfl⟩ (.refl s u q)

theorem State.levelsApart_fcoReturn (k : Nat) : s.LevelsApart (s.fcoReturn k) u q :=
  .ite ⟨⟨⟨rfl, fun _ _ => rfl, rfl⟩, fun _ _ => rfl⟩, rfl, rfl⟩ (.refl s u q)

/-- A watermark that is passed: its sticky bit, and its event where the queue has it. -/
theorem State.levelsApart_passed {f : Queue → Queue} (b : Bool)
    (hf : ∀ x, { f x with hi := x.hi, xup := x.xup, xdn := x.xdn } = x) :
    s.LevelsApart (if b then (s.qSticky u q f).raise (tileSrc u 10) else s.qSticky u q f) u q := by
  have h : s.LevelsApart (s.qSticky u q f) u q :=
    ⟨s.queueApart_qSticky u q f, s.qmem_qSticky u q f, by rw [State.queue_qSticky]; exact hf _⟩
  exact .ite (h.trans (State.levelsApart_raise _ u q (by decide))) h

theorem State.levelsApart_qEval : s.LevelsApart (s.qEval u q) u q := by
  have hlow : s.LevelsApart (s.modQueue u q (fun x => { x with hi := false })) u q :=
    ⟨s.queueApart_modQueue .., s.qmem_modQueue .., by rw [State.queue_modQueue_same]⟩
  have hup := s.levelsApart_passed u q (f := fun x => { x with hi := true, xup := true }) (bit (s.qWm u q) 28) (fun _ => rfl)
  have hdown := s.levelsApart_passed u q (f := fun x => { x with hi := false, xdn := true }) (bit (s.qWm u q) 28) (fun _ => rfl)
  exact .ite (.ite (hlow.trans (State.levelsApart_fcoReturn ..)) (.refl s u q))
    (.ite (hup.trans (State.levelsApart_fcoRise ..)) (.ite (hdown.trans (State.levelsApart_fcoReturn ..)) (.refl s u q)))

end

end Sys2Proof.Machine
end

/-! ## O28: packets of an output queue (R230, R253 to R257) -/
section
namespace Sys2Proof.Machine
open Sys2Proof

variable {s t : State} {u q : Nat}

/-! ### The queue's shape stands in registers -/

theorem State.qCap_congr (h : t.regs = s.regs) : t.qCap u q = s.qCap u q := by
  unfold State.qCap State.qDesc State.lbq State.tfld State.rv
  rw [h]

theorem State.qDrain_congr (h : t.regs = s.regs) : t.qDrain u q = s.qDrain u q := by
  rw [State.qDrain, State.qDesc, State.rv, h]
  rfl

theorem State.qAddr_congr (h : t.regs = s.regs) (pos : Nat) : t.qAddr u q pos = s.qAddr u q pos := by
  rw [State.qAddr, State.qCap_congr h, State.qDesc, State.rv, h]
  rfl

theorem State.qWord_congr (h : t.regs = s.regs) (hm : (t.tile u).qmem = (s.tile u).qmem) (pos : Nat) :
    t.qWord u q pos = s.qWord u q pos := by
  rw [State.qWord, State.qAddr_congr h, hm]
  rfl

theorem State.qWord_setQWord (pos : Nat) (x : QWord) : (s.setQWord u q pos x).qWord u q pos = x := by
  rw [State.qWord, State.setQWord, State.tile_modTile_same]
  exact mapGet_set_same ..

theorem State.qWord_modQueue (f : Queue → Queue) (pos : Nat) : (s.modQueue u q f).qWord u q pos = s.qWord u q pos :=
  State.qWord_congr (s := s) (t := s.modQueue u q f) rfl (s.qmem_modQueue u q f) pos

theorem State.LevelsApart.qWord (h : s.LevelsApart t u q) (pos : Nat) : t.qWord u q pos = s.qWord u q pos :=
  State.qWord_congr h.regs h.qmem pos

/-! ### A word for the open packet (R230, R253, R255, R256) -/

/-- The queue after a context has offered a word to its packet. -/
structure State.Offered (s t : State) (u q : Nat) (w : W64) (owner : Nat) : Prop extends s.QueueApart t u q where
  opened : (t.queue u q).opened = true
  owner : (t.queue u q).owner = owner
  rmark : (t.queue u q).rmark = (s.queue u q).rmark
  taken : 0 < s.qFree u q → (s.qDrain u q = true → ringDist (s.qCap u q) (s.queue u q).rmark (s.queue u q).wp ≠ 1023) →
    t.qWord u q (s.queue u q).wp = storedWord w false 0 none ∧
    (t.queue u q).wp = ringAdd (s.qCap u q) (s.queue u q).wp 1 ∧ (t.queue u q).doomed = false
  refused : s.qFree u q = 0 → (t.queue u q).wp = (s.queue u q).wp ∧ (t.queue u q).doomed = true ∧
    (t.queue u q).cOvr = min (2 ^ 32 - 1) ((s.queue u q).cOvr + 1) ∧ (t.queue u q).ovr = true

theorem State.queue_qRefuse (n : Nat) : (s.qRefuse u q n).queue u q =
    { s.queue u q with ovr := true, cOvr := satAdd (2 ^ 32 - 1) (s.queue u q).cOvr n } := by
  unfold State.qRefuse
  dsimp only
  split
  · exact s.queue_qSticky ..
  · exact (State.queue_raise ..).trans (s.queue_qSticky ..)

theorem State.queueApart_qRefuse (n : Nat) : s.QueueApart (s.qRefuse u q n) u q := by
  unfold State.qRefuse
  dsimp only
  split
  · exact s.queueApart_qSticky ..
  · exact (s.queueApart_qSticky ..).trans (State.levelsApart_raise _ u q (by decide)).toQueueApart

theorem State.qFree_congr (hr : t.regs = s.regs) (hp : (t.queue u q).rp = (s.queue u q).rp) (hw : (t.queue u q).wp = (s.queue u q).wp) :
    t.qFree u q = s.qFree u q := by
  simp only [State.qFree, State.qLevel, State.qCap_congr hr, hp, hw]

/-- A queue whose packet is open. -/
def Queue.begun (x : Queue) : Queue := { x with opened := true }

/-- A queue that has refused a word of its packet, which that dooms. -/
def Queue.turnedAway (x : Queue) : Queue := { x with ovr := true, cOvr := satAdd (2 ^ 32 - 1) x.cOvr 1, doomed := true }

/-- The state in which a queue has refused a word of its packet. -/
def State.wordRefused (s : State) (u q : Nat) : State := (s.qRefuse u q 1).modQueue u q (fun x => { x with doomed := true })

/-- The state in which a packet of a DRAIN queue has been found too long. -/
def State.longNoted (s : State) (u : Nat) : State :=
  { s with lk := { s.lk with longCnt := satAdd 65535 s.lk.longCnt 1, longTile := u } }

/-- The state in which a word stands at WP and WP has moved on, ahead of the watermarks. -/
def State.wordPlaced (s : State) (u q : Nat) (w : W64) : State :=
  (s.setQWord u q (s.queue u q).wp (storedWord w false 0 none)).modQueue u q
    (fun x => { x with wp := ringAdd (s.qCap u q) x.wp 1 })

theorem State.queue_wordRefused : (s.wordRefused u q).queue u q = (s.queue u q).turnedAway := by
  rw [State.wordRefused, State.queue_modQueue_same, State.queue_qRefuse]
  rfl

theorem State.queueApart_wordRefused : s.QueueApart (s.wordRefused u q) u q :=
  (State.queueApart_qRefuse 1).trans (State.queueApart_modQueue ..)

theorem State.queueApart_longNoted : s.QueueApart (s.longNoted u) u q := ⟨⟨rfl, fun _ _ => rfl, rfl⟩, fun _ _ => rfl⟩

theorem State.queueApart_wordPlaced (w : W64) : s.QueueApart (s.wordPlaced u q w) u q :=
  (s.queueApart_setQWord ..).trans (State.queueApart_modQueue ..)

theorem State.queue_wordPlaced (w : W64) :
    (s.wordPlaced u q w).queue u q = { s.queue u q with wp := ringAdd (s.qCap u q) (s.queue u q).wp 1 } := by
  rw [State.wordPlaced, State.queue_modQueue_same, State.queue_setQWord]

theorem State.qWord_wordPlaced (w : W64) : (s.wordPlaced u q w).qWord u q (s.queue u q).wp = storedWord w false 0 none := by
  rw [State.wordPlaced, State.qWord_modQueue, State.qWord_setQWord]

/-- What becomes of a word that is offered to a packet which may take words. -/
theorem State.qEmit_eq (w : W64) (hf : (s.queue u q).flushed = false) (hd : (s.queue u q).doomed = false) {s1 : State}
    (h1 : s.modQueue u q (fun x => { x with opened := true }) = s1) : s.qEmit u q w =
      if s1.qFree u q = 0 then s1.wordRefused u q
      else if s1.qDrain u q && decide (ringDist (s1.qCap u q) (s1.queue u q).rmark (s1.queue u q).wp = 1023) then
        (s1.wordRefused u q).longNoted u
      else (s1.wordPlaced u q w).qEval u q := by
  have hq : s1.queue u q = (s.queue u q).begun := h1 ▸ s.queue_modQueue_same ..
  unfold State.qEmit
  rw [h1, if_neg (by simp [hq, Queue.begun, hf]), if_neg (by simp [hq, Queue.begun, hd])]
  rfl

/-- A word that is offered is taken at WP, or refused and dooms the packet; a packet of a DRAIN queue that has its 1,023 words
is doomed as well. -/
theorem State.offered_qEmit (w : W64) (hf : (s.queue u q).flushed = false) (hd : (s.queue u q).doomed = false) :
    s.Offered (s.qEmit u q w) u q w (s.queue u q).owner := by
  obtain ⟨s1, h1⟩ : ∃ s1, s.modQueue u q (fun x => { x with opened := true }) = s1 := ⟨_, rfl⟩
  have hq : s1.queue u q = (s.queue u q).begun := h1 ▸ s.queue_modQueue_same ..
  have happ : s.QueueApart s1 u q := h1 ▸ s.queueApart_modQueue ..
  have hcap : s1.qCap u q = s.qCap u q := State.qCap_congr happ.regs
  have hdrain : s1.qDrain u q = s.qDrain u q := State.qDrain_congr happ.regs
  have hfree : s1.qFree u q = s.qFree u q := State.qFree_congr happ.regs (by rw [hq]; rfl) (by rw [hq]; rfl)
  rw [State.qEmit_eq w hf hd h1, hfree, hcap, hdrain, hq]
  split
  next hfull =>
    have hdoomed := hq ▸ State.queue_wordRefused (s := s1) (u := u) (q := q)
    exact ⟨happ.trans State.queueApart_wordRefused, by rw [hdoomed]; rfl, by rw [hdoomed]; rfl, by rw [hdoomed]; rfl,
      fun h => absurd h (by omega), fun _ => by rw [hdoomed]; exact ⟨rfl, rfl, rfl, rfl⟩⟩
  next hroom =>
    split
    next hlong =>
      rw [Bool.and_eq_true, decide_eq_true_eq] at hlong
      have hdoomed : ((s1.wordRefused u q).longNoted u).queue u q = (s.queue u q).begun.turnedAway :=
        State.queue_wordRefused.trans (congrArg Queue.turnedAway hq)
      exact ⟨happ.trans (State.queueApart_wordRefused.trans State.queueApart_longNoted), by rw [hdoomed]; rfl,
        by rw [hdoomed]; rfl, by rw [hdoomed]; rfl, fun _ h => absurd hlong.2 (h hlong.1), fun h => absurd h hroom⟩
    next hshort =>
      have hlevels := (s1.wordPlaced u q w).levelsApart_qEval u q
      have hplaced := State.queue_wordPlaced (s := s1) (u := u) (q := q) w
      rw [hq, hcap] at hplaced
      refine ⟨happ.trans ((State.queueApart_wordPlaced w).trans hlevels.toQueueApart), ?_, ?_, ?_, fun _ _ => ⟨?_, ?_, ?_⟩,
        fun h => absurd h hroom⟩
      · rw [hlevels.opened, hplaced]; rfl
      · rw [hlevels.owner, hplaced]; rfl
      · rw [hlevels.rmark, hplaced]; rfl
      · rw [hlevels.qWord, ← State.qWord_wordPlaced w, hq]; rfl
      · rw [hlevels.wp, hplaced]; rfl
      · rw [hlevels.doomed, hplaced]; exact hd

/-! ### The end of a packet (R254, R256, R257) -/

/-- A queue whose packet has been taken back, with the words that this counts. -/
def Queue.rewound (x : Queue) (n : Nat) : Queue :=
  let y := { x with wp := x.rmark, opened := false, doomed := false, flushed := false, head := none }
  if x.flushed then { y with cFlush := satAdd (2 ^ 32 - 1) y.cFlush n }
  else if x.doomed then { y with cDrop := satAdd (2 ^ 32 - 1) y.cDrop 1 } else y

theorem State.qRewind_opened (ho : (s.queue u q).opened = true) : s.qRewind u q = (s.modQueue u q (fun _ =>
    (s.queue u q).rewound (ringDist (s.qCap u q) (s.queue u q).rmark (s.queue u q).wp))).qEval u q := if_pos ho

theorem State.qRewind_closed (ho : (s.queue u q).opened = false) : s.qRewind u q = s := if_neg (by simp [ho])

theorem State.queueApart_qRewind : s.QueueApart (s.qRewind u q) u q := by
  rcases ho : (s.queue u q).opened
  · rw [State.qRewind_closed ho]
    exact (State.LevelsApart.refl s u q).toQueueApart
  · rw [State.qRewind_opened ho]
    exact (s.queueApart_modQueue ..).trans (State.levelsApart_qEval ..).toQueueApart

theorem Queue.rewound_eq (x : Queue) (n : Nat) : { x.rewound n with cFlush := x.cFlush, cDrop := x.cDrop } =
    { x with wp := x.rmark, opened := false, doomed := false, flushed := false, head := none } := by
  unfold Queue.rewound
  split
  · rfl
  · split <;> rfl

theorem Queue.rewound_cDrop {x : Queue} (n : Nat) (hd : x.doomed = true) (hf : x.flushed = false) :
    (x.rewound n).cDrop = min (2 ^ 32 - 1) (x.cDrop + 1) := by
  simp only [Queue.rewound, hd, hf, Bool.false_eq_true, if_false, if_true, satAdd]

theorem State.qRewind_spec (ho : (s.queue u q).opened = true) : ((s.qRewind u q).queue u q).wp = (s.queue u q).rmark ∧
    ((s.qRewind u q).queue u q).rmark = (s.queue u q).rmark ∧ ((s.qRewind u q).queue u q).opened = false ∧
    ((s.qRewind u q).queue u q).doomed = false ∧ ((s.queue u q).doomed = true → (s.queue u q).flushed = false →
      ((s.qRewind u q).queue u q).cDrop = min (2 ^ 32 - 1) ((s.queue u q).cDrop + 1)) := by
  rw [State.qRewind_opened ho]
  generalize ringDist (s.qCap u q) (s.queue u q).rmark (s.queue u q).wp = n
  have h := (s.modQueue u q (fun _ => (s.queue u q).rewound n)).levelsApart_qEval u q
  have hx := (s.queue u q).rewound_eq n
  rw [h.wp, h.rmark, h.opened, h.doomed, h.cDrop, State.queue_modQueue_same]
  exact ⟨(congrArg Queue.wp hx :), (congrArg Queue.rmark hx :), (congrArg Queue.opened hx :), (congrArg Queue.doomed hx :),
    Queue.rewound_cDrop n⟩

/-- A packet without words is closed; one with words is committed, its last word marked (R254, R259). -/
theorem State.qCommit_live (hd : (s.queue u q).doomed = false) {n : Nat}
    (hn : ringDist (s.qCap u q) (s.queue u q).rmark (s.queue u q).wp = n) : s.qCommit u q =
      if n = 0 then s.modQueue u q (fun x => { x with opened := false, head := none })
      else (s.setQWord u q (ringAdd (s.qCap u q) (s.queue u q).rmark (n - 1))
          { s.qWord u q (ringAdd (s.qCap u q) (s.queue u q).rmark (n - 1)) with fin := true }).modQueue u q
        (fun x => { x with rmark := x.wp, opened := false, head := none, cCommit := (x.cCommit + n) % 2 ^ 32 }) := by
  subst hn
  unfold State.qCommit
  simp only [hd, Bool.false_eq_true, if_false]

theorem State.qCommit_doomed (hd : (s.queue u q).doomed = true) : s.qCommit u q = s.qRewind u q := if_pos hd

theorem State.queueApart_qCommit : s.QueueApart (s.qCommit u q) u q := by
  rcases hd : (s.queue u q).doomed
  · rw [State.qCommit_live hd rfl]
    split
    · exact s.queueApart_modQueue ..
    · exact (s.queueApart_setQWord ..).trans (State.queueApart_modQueue ..)
  · rw [State.qCommit_doomed hd]
    exact State.queueApart_qRewind

theorem State.qCommit_words {n : Nat} (hd : (s.queue u q).doomed = false)
    (hn : ringDist (s.qCap u q) (s.queue u q).rmark (s.queue u q).wp = n) (hpos : 0 < n) :
    ((s.qCommit u q).queue u q).rmark = (s.queue u q).wp ∧ ((s.qCommit u q).queue u q).wp = (s.queue u q).wp ∧
      ((s.qCommit u q).qWord u q (ringAdd (s.qCap u q) (s.queue u q).rmark (n - 1))).fin = true ∧
      ((s.qCommit u q).queue u q).cCommit = ((s.queue u q).cCommit + n) % 2 ^ 32 := by
  rw [State.qCommit_live hd hn, if_neg (by omega), State.queue_modQueue_same, State.queue_setQWord, State.qWord_modQueue,
    State.qWord_setQWord]
  exact ⟨rfl, rfl, rfl, rfl⟩

theorem State.qCommit_closes (h : (s.queue u q).doomed = false ∨ (s.queue u q).opened = true) :
    ((s.qCommit u q).queue u q).opened = false := by
  rcases hd : (s.queue u q).doomed
  · rw [State.qCommit_live hd rfl]
    split <;> rw [State.queue_modQueue_same]
  · rw [State.qCommit_doomed hd]
    have ⟨_, _, hopened, _⟩ := State.qRewind_spec (h.resolve_left (by simp [hd]))
    exact hopened

/-! ### The instructions (R227, R230) -/

variable {e : Nat} {b : OpB}

theorem State.nameQ_mem {w : W64} (hq : q = w.toNat) (hm : q ∈ s.outQs u e) : s.nameQ u e w = some q := by
  subst hq
  have h : ((s.outQs u e).find? (fun q => decide (q = w.toNat))).isSome := List.find?_isSome.mpr ⟨_, hm, by simp⟩
  obtain ⟨k, hk⟩ := Option.isSome_iff_exists.mp h
  have : k = w.toNat := by simpa using List.find?_some hk
  rw [State.nameQ, hk, this]

theorem State.queue_retired (e n k p : Nat) : (s.retired u e n k).queue u p = s.queue u p :=
  s.tile_modTile_keeps u (·.queue p) u _ (fun _ => rfl)

theorem State.qWord_retired (e n k pos : Nat) : (s.retired u e n k).qWord u q pos = s.qWord u q pos :=
  State.qWord_congr (s := s) (t := s.retired u e n k) rfl (s.tile_modTile_keeps u (·.qmem) u _ (fun _ => rfl)) pos

/-- An instruction that ends after a change of one queue of its tile. -/
theorem State.QueueApart.retired (h : s.QueueApart t u q) (n k : Nat) :
    (t.retired u e n k).eng u e = (s.eng u e).ran n k s.tb.age ∧
      (∀ p, p ≠ q → (t.retired u e n k).queue u p = s.queue u p) ∧ (∀ v, v ≠ u → (t.retired u e n k).tile v = s.tile v) ∧
      (t.retired u e n k).tb = s.tb ∧ (t.retired u e n k).regs = s.regs ∧ (t.retired u e n k).msg = s.msg :=
  ⟨by rw [State.eng_retired, h.eng, h.tb], fun p hp => (State.queue_retired ..).trans (h.others p hp),
    fun v hv => (t.tile_modTile_ne u _ hv).trans (h.tiles v hv), h.tb, h.regs, h.msg⟩

/-- The word that EMIT and EMITH give a packet. -/
def State.emitted (s : State) (u e : Nat) (w : W64) (header : Bool) : W64 :=
  if header then (w &&& ~~~(0x00F0000000000000 : W64)) ||| (BitVec.ofNat 64 (s.asg u e) <<< 52) else w

/-- A change of the packet's owner and header ahead of the word does not show in what becomes of the word. -/
theorem State.Offered.after {r : State} {w : W64} {c : Nat} (h : t.Offered r u q w c) (happ : s.QueueApart t u q)
    (hq : { t.queue u q with owner := (s.queue u q).owner, head := (s.queue u q).head } = s.queue u q) : s.Offered r u q w c where
  toQueueApart := happ.trans h.toQueueApart
  opened := h.opened
  owner := h.owner
  rmark := h.rmark.trans (congrArg Queue.rmark hq :)
  taken := by
    have hfree : t.qFree u q = s.qFree u q := State.qFree_congr happ.regs (congrArg Queue.rp hq :) (congrArg Queue.wp hq :)
    have hwp : (t.queue u q).wp = (s.queue u q).wp := (congrArg Queue.wp hq :)
    have hrmark : (t.queue u q).rmark = (s.queue u q).rmark := (congrArg Queue.rmark hq :)
    rw [← hfree, ← State.qDrain_congr happ.regs, ← State.qCap_congr happ.regs, ← hwp, ← hrmark]
    exact h.taken
  refused := by
    have hfree : t.qFree u q = s.qFree u q := State.qFree_congr happ.regs (congrArg Queue.rp hq :) (congrArg Queue.wp hq :)
    have hwp : (t.queue u q).wp = (s.queue u q).wp := (congrArg Queue.wp hq :)
    have hovr : (t.queue u q).cOvr = (s.queue u q).cOvr := (congrArg Queue.cOvr hq :)
    rw [← hfree, ← hwp, ← hovr]
    exact h.refused

theorem State.offered_emitWord (w : W64) (header : Bool) (hf : (s.queue u q).flushed = false)
    (hd : (s.queue u q).doomed = false) :
    s.Offered (s.emitWord u e q w header) u q (s.emitted u e w header) (s.eng u e).ctx := by
  unfold State.emitWord
  extract_lets w' fresh s0
  have hq : s0.queue u q = { s.queue u q with
      owner := (s.eng u e).ctx, head := if fresh then (if header then some w' else none) else (s.queue u q).head } :=
    s.queue_modQueue_same ..
  have hoff := State.offered_qEmit (s := s0) (u := u) (q := q) w' (by rw [hq]; exact hf) (by rw [hq]; exact hd)
  rw [hq] at hoff
  exact hoff.after (s.queueApart_modQueue ..) (by rw [hq])

end Sys2Proof.Machine
open Sys2Proof Sys2Proof.Machine

/-- Settles O28: the queue named is the one that changes, and what becomes of its packet is what the queue makes of a word
offered, of a packet committed and of one taken back. -/
theorem packetRows : Obligations.PacketRows := by
  refine ⟨fun s u e ra b hd q hq hm h hf hdoom => ?_, fun s u e b q hq hm h hhead => ?_, fun s u e b q hq hm h hopen => ?_⟩
  · have hexec : exec (if hd then .emith u e ra b else .emit u e ra b) s =
        .next ((s.emitWord u e q (s.getG u e ra) hd).retired u e 1 ((s.eng u e).pc + 1)) := by
      cases hd <;> exact engStep_next h (by simp only [State.opRun, State.nameQ_mem hq hm]) rfl
    have hoff := State.offered_emitWord (e := e) (s.getG u e ra) hd hf hdoom
    refine ⟨_, hexec, ?_⟩
    dsimp only
    rw [State.queue_retired, State.qWord_retired]
    exact ⟨hoff.taken, hoff.refused, hoff.opened, hoff.owner, hoff.rmark, hoff.toQueueApart.retired 1 _⟩
  · have hexec : exec (.commit u e b) s = .next ((s.qCommit u q).retired u e 1 ((s.eng u e).pc + 1)) :=
      engStep_next h (by simp only [State.opRun, State.nameQ_mem hq hm, State.commitPacket, hhead]) rfl
    refine ⟨_, hexec, ?_⟩
    dsimp only
    rw [State.queue_retired, State.qWord_retired]
    refine ⟨fun hd hpos => State.qCommit_words hd rfl hpos, fun hd hopen hf => ?_, State.qCommit_closes,
      State.queueApart_qCommit.retired 1 _⟩
    obtain ⟨hwp, hrmark, -, -, hdrop⟩ := State.qRewind_spec hopen
    rw [State.qCommit_doomed hd]
    exact ⟨hwp, hrmark, hdrop hd hf⟩
  · have hexec : exec (.rewind u e b) s = .next ((s.qRewind u q).retired u e 1 ((s.eng u e).pc + 1)) :=
      engStep_next h (by simp only [State.opRun, State.nameQ_mem hq hm]) rfl
    obtain ⟨hwp, hrmark, hopened, hdoomed, -⟩ := State.qRewind_spec hopen
    refine ⟨_, hexec, ?_⟩
    dsimp only
    rw [State.queue_retired]
    exact ⟨hwp, hrmark, hopened, hdoomed, State.queueApart_qRewind.retired 1 _⟩
end

/-! ## The context store of a tile, and what stays outside a tile (R211, R215, R234) -/
section
namespace Sys2Proof.Machine
open Sys2Proof

/-! ### What stays outside a tile -/

/-- Whatever else changed, the clock, the registers, the message store and the other tiles did not. -/
structure State.Outside (s t : State) (u : Nat) : Prop where
  tb : t.tb = s.tb
  regs : t.regs = s.regs
  msg : t.msg = s.msg
  tiles : ∀ v, v ≠ u → t.tile v = s.tile v

section
variable {s t w : State} {u e : Nat}

theorem State.Outside.refl (s : State) (u : Nat) : s.Outside s u := ⟨rfl, rfl, rfl, fun _ _ => rfl⟩

theorem State.Outside.trans (h : s.Outside t u) (k : t.Outside w u) : s.Outside w u :=
  ⟨k.tb.trans h.tb, k.regs.trans h.regs, k.msg.trans h.msg, fun v hv => (k.tiles v hv).trans (h.tiles v hv)⟩

theorem State.TileOnly.outside (h : s.TileOnly t u) : s.Outside t u :=
  ⟨(congrArg State.tb h.1 :), (congrArg State.regs h.1 :), (congrArg State.msg h.1 :), h.2⟩

theorem State.QueuesApart.outside (h : s.QueuesApart t u) : s.Outside t u := ⟨h.tb, h.regs, h.msg, h.tiles⟩

theorem State.outside_modEng (s : State) (u e : Nat) (f : Engine → Engine) : s.Outside (s.modEng u e f) u :=
  (s.tileOnly_modTile u _).outside

theorem State.outside_raise (s : State) (u : Nat) {k : Nat} (hk : k < 16) : s.Outside (s.raise (tileSrc u k)) u :=
  (s.queuesApart_raise k hk).outside

end

/-! ### What an event and a write of an engine leave -/

section
variable {s t : State} {u e : Nat}

theorem State.ctx_raise (s : State) (k v c : Nat) : (s.raise k).ctx v c = s.ctx v c :=
  (congrArg (Tile.ctx · c) ((s.apart_raise k).2 v) :)

theorem State.eng_raise (s : State) (k v f : Nat) : (s.raise k).eng v f = s.eng v f :=
  (congrArg (Tile.eng · f) ((s.apart_raise k).2 v) :)

theorem State.cxWord_raise (s : State) (k v a : Nat) : (s.raise k).cxWord v a = s.cxWord v a :=
  (congrArg (fun x : Tile => mapGet (fun _ => 0) x.cx a) ((s.apart_raise k).2 v) :)

theorem State.eng_modEng_ne (s : State) (u : Nat) {e f : Nat} (g : Engine → Engine) (h : f ≠ e) :
    (s.modEng u e g).eng u f = s.eng u f := by
  rw [State.eng_modEng, if_neg (fun hf => h hf.2)]

theorem State.dep_modEng (s : State) (u e : Nat) (f : Engine → Engine) : (s.modEng u e f).dep = s.dep := rfl

theorem State.dep_raise (s : State) (k : Nat) : (s.raise k).dep = s.dep := (congrArg State.dep (s.apart_raise k).1 :)

theorem State.evSet_raise_tile (s : State) {u k : Nat} (hu : u < 64) (hk : k < 16) :
    (s.raise (tileSrc u k)).evSet (tileSrc u k) = true :=
  s.evSet_raise _ (by unfold tileSrc; omega)

theorem State.modEng_congr {f g : Engine → Engine} (h : f (s.eng u e) = g (s.eng u e)) : s.modEng u e f = s.modEng u e g :=
  congrArg (fun y => s.setTile u ((s.tile u).setEng e y)) h

theorem State.halted_congr {v c : Nat} (h : t.cxWord v (64 * c + 27) = s.cxWord v (64 * c + 27)) : t.halted v c = s.halted v c := by
  rw [State.halted, h]
  rfl

end

/-! ### Open packets are rewound (R231, R434) -/

theorem State.queuesApart_rewinds (s : State) (u : Nat) (p : Nat → State → Prop) [∀ q t, Decidable (p q t)] (qs : List Nat) :
    s.QueuesApart (forKeys qs (fun q t => if p q t then t.qRewind u q else t) s) u := by
  refine forKeys_keeps (R := fun s t => s.QueuesApart t u) (fun s => .refl s u) .trans (fun q s => ?_) qs s
  split
  · exact State.queueApart_qRewind.toQueuesApart
  · exact .refl s u

/-! ### What changes the context store alone -/

/-- Nothing changed but the context store of tile `u`. -/
structure State.StoreOnly (s t : State) (u : Nat) : Prop where
  rest : { t with tiles := s.tiles } = s
  tiles : ∀ v, v ≠ u → t.tile v = s.tile v
  tile : { t.tile u with cx := (s.tile u).cx } = s.tile u

section
variable {s t w : State} {u : Nat}

theorem State.StoreOnly.refl (s : State) (u : Nat) : s.StoreOnly s u := ⟨rfl, fun _ _ => rfl, rfl⟩

theorem State.StoreOnly.trans (h : s.StoreOnly t u) (k : t.StoreOnly w u) : s.StoreOnly w u :=
  ⟨by rw [← h.rest, ← k.rest], fun v hv => (k.tiles v hv).trans (h.tiles v hv), by rw [← h.tile, ← k.tile]⟩

theorem State.StoreOnly.outside (h : s.StoreOnly t u) : s.Outside t u := State.TileOnly.outside ⟨h.rest, h.tiles⟩

theorem State.StoreOnly.eng (h : s.StoreOnly t u) (e : Nat) : t.eng u e = s.eng u e := (congrArg (Tile.eng · e) h.tile :)

theorem State.StoreOnly.ctx (h : s.StoreOnly t u) (c : Nat) : t.ctx u c = s.ctx u c := (congrArg (Tile.ctx · c) h.tile :)

theorem State.StoreOnly.queue (h : s.StoreOnly t u) (q : Nat) : t.queue u q = s.queue u q := (congrArg (Tile.queue · q) h.tile :)

theorem State.StoreOnly.engineApart (h : s.StoreOnly t u) (e : Nat) : s.EngineApart t u e := by
  refine ⟨⟨h.rest, h.tiles⟩, fun f _ => h.eng f, ?_⟩
  rw [← h.tile]

variable (s u)

theorem State.storeOnly_setCxWord (a : Nat) (w : W64) : s.StoreOnly (s.setCxWord u a w) u :=
  ⟨rfl, fun _ hv => s.tile_modTile_ne u _ hv, by rw [State.setCxWord, State.tile_modTile_same]⟩

theorem State.storeOnly_setCxWords (a : Nat) (ws : List W64) : s.StoreOnly (s.setCxWords u a ws) u := by
  induction ws generalizing s a with
  | nil => exact .refl s u
  | cons w ws ih => exact (s.storeOnly_setCxWord u a w).trans (ih ..)

theorem State.cxWord_setCxWords (a b : Nat) (ws : List W64) :
    (s.setCxWords u a ws).cxWord u b = if a ≤ b ∧ b < a + ws.length then ws.getD (b - a) 0 else s.cxWord u b := by
  induction ws generalizing s a with
  | nil => rw [State.setCxWords, if_neg (by simp)]
  | cons w ws ih =>
    rw [State.setCxWords, ih, State.cxWord_setCxWord, List.length_cons]
    by_cases h : a + 1 ≤ b ∧ b < a + 1 + ws.length
    · rw [if_pos h, if_pos (by omega), show b - a = b - (a + 1) + 1 by omega, List.getD_cons_succ]
    · rw [if_neg h]
      by_cases hb : b = a
      · rw [if_pos hb, if_pos (by omega), hb, Nat.sub_self, List.getD_cons_zero]
      · rw [if_neg hb, if_neg (by omega)]

/-- A run of words that is written is read back word by word. -/
theorem State.cxWord_setCxWords_range (a n k : Nat) (f : Nat → W64) (hk : k < n) :
    (s.setCxWords u a ((List.range n).map f)).cxWord u (a + k) = f k := by
  rw [State.cxWord_setCxWords, if_pos (by simp [hk]), Nat.add_sub_cancel_left]
  simp [hk]

theorem State.cxWord_setCxWords_apart (a b : Nat) (ws : List W64) (h : b < a ∨ a + ws.length ≤ b) :
    (s.setCxWords u a ws).cxWord u b = s.cxWord u b := by
  rw [State.cxWord_setCxWords, if_neg (by omega)]

/-! ### The running context's registers (R211, R215) -/

theorem State.storeOnly_saveRegs (e : Nat) : s.StoreOnly (s.saveRegs u e) u := by
  unfold State.saveRegs
  dsimp only
  split
  · exact ((s.storeOnly_setCxWord ..).trans (State.storeOnly_setCxWords ..)).trans (State.storeOnly_setCxWords ..)
  · exact .refl s u

end

end Sys2Proof.Machine
end

/-! ## O29: program faults (R216, R231) -/
section
namespace Sys2Proof.Machine
open Sys2Proof

variable {s t : State} {u e cause : Nat}

/-! ### A context is halted (R231) -/

/-- A context none of whose items, parts and instants is left. -/
def Ctx.skipped (x : Ctx) : Ctx :=
  { x with items := [], trig := [], part := [], timer := none, grid := none, bar := 0, dels := x.opens }

theorem State.haltCtx_eq {c : Nat} (h : (s.ctx u c).retire = none) : s.haltCtx u c =
    (s.setCxWord u (64 * c + 27) (s.cxWord u (64 * c + 27) ||| 0x800)).modCtx u c Ctx.skipped := by
  have hretire : (((s.setCxWord u (64 * c + 27) (s.cxWord u (64 * c + 27) ||| 0x800)).modCtx u c Ctx.skipped).ctx u c).retire =
      none := by
    rw [State.ctx_modCtx_same, State.ctx_setCxWord]
    exact h
  unfold State.haltCtx
  dsimp only
  split
  next e _ hsome => exact absurd (hretire.symm.trans hsome) (by simp)
  next => rfl

theorem State.haltCtx_spec {c : Nat} (hc : c < 64) (h : (s.ctx u c).retire = none) : s.Outside (s.haltCtx u c) u ∧
    (∀ f, (s.haltCtx u c).eng u f = s.eng u f) ∧ (s.haltCtx u c).halted u c = true ∧ ((s.haltCtx u c).ctx u c).items = [] := by
  rw [State.haltCtx_eq h]
  refine ⟨(s.storeOnly_setCxWord ..).outside.trans (State.tileOnly_modTile ..).outside, fun f => ?_, ?_, ?_⟩
  · rw [State.eng_modCtx, State.eng_setCxWord]
  · have hbit : (0x800 : W64).getLsbD 11 = true := by decide
    rw [State.halted, State.cxWord_modCtx, State.cxWord_setCxWord, if_pos rfl, BitVec.getLsbD_or, hbit, Bool.or_true, Bool.and_true,
      decide_eq_true hc]
  · rw [State.ctx_modCtx_same]
    rfl

/-! ### What a program fault does (R231) -/

/-- An engine with the record of its program fault. -/
def Engine.faulted (y : Engine) (c cause : Nat) : Engine :=
  { y with loaded := false, sliceEnd := true, fCtx := c, fPc := y.pc, fCause := cause, fCount := satAdd 255 y.fCount 1 }

/-- The state of a program fault once the context's packets are rewound and its registers saved. -/
def State.packetsBack (s : State) (u e : Nat) : State :=
  (forKeys (s.outQs u e) (fun q t =>
    if (t.queue u q).opened && decide ((t.queue u q).owner = (s.eng u e).ctx) then t.qRewind u q else t) s).saveRegs u e

theorem State.progFault_eq : s.progFault u e cause = (((s.packetsBack u e).haltCtx u (s.eng u e).ctx).modEng u e
    (·.faulted (s.eng u e).ctx cause)).raise (tileSrc u 5) := rfl

theorem State.packetsBack_spec : s.Outside (s.packetsBack u e) u ∧ (s.packetsBack u e).eng u e = s.eng u e ∧
    ∀ c, (s.packetsBack u e).ctx u c = s.ctx u c := by
  have hrewind := s.queuesApart_rewinds u
    (fun q t => (t.queue u q).opened && decide ((t.queue u q).owner = (s.eng u e).ctx)) (s.outQs u e)
  have hsave := State.storeOnly_saveRegs (forKeys (s.outQs u e) (fun q t =>
    if (t.queue u q).opened && decide ((t.queue u q).owner = (s.eng u e).ctx) then t.qRewind u q else t) s) u e
  exact ⟨hrewind.outside.trans hsave.outside, (hsave.eng e).trans (hrewind.eng e), fun c => (hsave.ctx c).trans (hrewind.ctx c)⟩

theorem State.faulted_progFault (hu : u < s.nTiles) (hc : (s.eng u e).ctx < 64)
    (hretire : (s.ctx u (s.eng u e).ctx).retire = none) : s.Faulted u e cause (s.progFault u e cause) := by
  obtain ⟨hback, heng, hctx⟩ := s.packetsBack_spec (u := u) (e := e)
  obtain ⟨hhalt, hengs, hhalted, hitems⟩ := State.haltCtx_spec (s := s.packetsBack u e) (u := u) hc (by rw [hctx, hretire])
  have hrecord : ((((s.packetsBack u e).haltCtx u (s.eng u e).ctx).modEng u e (·.faulted (s.eng u e).ctx cause)).raise
      (tileSrc u 5)).eng u e = (s.eng u e).faulted (s.eng u e).ctx cause := by
    rw [State.eng_raise, State.eng_modEng_same, hengs, heng]
  have hout := (hback.trans hhalt).trans ((State.outside_modEng _ u e (·.faulted (s.eng u e).ctx cause)).trans
    (State.outside_raise _ u (k := 5) (by decide)))
  rw [State.progFault_eq]
  refine ⟨by rw [hrecord]; rfl, by rw [hrecord]; rfl, by rw [hrecord]; rfl, by rw [hrecord]; rfl, ?_, ?_, ?_, hout.tb, hout.regs,
    hout.msg, hout.tiles⟩
  · rw [State.halted_congr ((State.cxWord_raise ..).trans (State.cxWord_modEng ..)), hhalted]
  · rw [State.ctx_raise, State.ctx_modEng, hitems]
  · exact State.evSet_raise_tile _ (hu.trans_le s.nTiles_le) (by decide)

/-- An engine after the cycles of an instruction. -/
def Engine.spent (y : Engine) (n age : Nat) : Engine := { y with cycles := y.cycles + n, busy := y.busy + n, lastRun := age }

/-- The cycles of the instruction at which the fault comes do not show in it. -/
theorem State.Faulted.of_spent {n age : Nat} (h : (s.modEng u e (·.spent n age)).Faulted u e cause t) : s.Faulted u e cause t := by
  have hout := s.outside_modEng u e (·.spent n age)
  unfold State.Faulted at h ⊢
  rw [State.eng_modEng_same, hout.tb, hout.regs, hout.msg] at h
  obtain ⟨h1, h2, h3, h4, h5, h6, h7, h8, h9, h10, h11⟩ := h
  exact ⟨h1, h2, h3, h4, h5, h6, h7, h8, h9, h10, fun v hv => (h11 v hv).trans (hout.tiles v hv)⟩

/-- An instruction that leaves program memory. -/
theorem State.faulted_retireOp {n : Nat} {pc : Int} (hu : u < s.nTiles) (hc : (s.eng u e).ctx < 64)
    (hretire : (s.ctx u (s.eng u e).ctx).retire = none) (hpc : 2048 ≤ pc) : s.Faulted u e 5 (s.retireOp u e n pc) := by
  have hspent : s.retireOp u e n pc = (s.modEng u e (·.spent n s.tb.age)).progFault u e 5 := if_neg (by omega)
  rw [hspent]
  refine State.Faulted.of_spent (State.faulted_progFault hu ?_ ?_)
  · rw [State.eng_modEng_same]
    exact hc
  · rw [State.eng_modEng_same, State.ctx_modEng]
    exact hretire

/-! ### The causes -/

theorem State.nameQ_not_mem {w : W64} (h : w.toNat ∉ s.outQs u e) : s.nameQ u e w = none := by
  refine List.find?_eq_none.mpr fun q hq heq => h ?_
  rw [← of_decide_eq_true heq]
  exact hq

theorem engStep_fault {op : EngOp} (h : s.Stands u e op) (hrun : s.opRun u e op = .error cause) :
    engStep u e op s = .next (s.progFault u e cause) := by
  rw [engStep_stands h, State.opStep, hrun]

end Sys2Proof.Machine
open Sys2Proof Sys2Proof.Machine

/-- Settles O29: each cause ends in the one operation that records a program fault. -/
theorem programFaults : Obligations.ProgramFaults := by
  intro s u e hc hretire
  have hfault : ∀ {op cause} {i : Instr}, exec i s = engStep u e op s → s.Stands u e op → s.opRun u e op = .error cause →
      Answers i s (s.Faulted u e cause) := fun hi h hrun =>
    ⟨_, hi.trans (engStep_fault h hrun), State.faulted_progFault h.2.1 hc hretire⟩
  refine ⟨fun rd ra imm h hlive => ?_, fun ra rb imm h hlive hlow => ?_, fun ra b hq => ?_, fun imm hopen => ?_,
    fun imm h hpc => ?_, fun hup hu he hrun hloaded hend hcyc => ?_⟩
  · exact hfault rfl h (by simp only [State.opRun, State.cxFault_not_live false hlive])
  · exact hfault rfl h (by simp only [State.opRun, State.cxFault_low hlive hlow])
  · have hnone := State.nameQ_not_mem hq
    refine ⟨fun h => hfault rfl h ?_, fun h => hfault rfl h ?_, fun h => hfault rfl h ?_, fun h => hfault rfl h ?_⟩
    all_goals simp only [State.opRun, hnone]
  · refine ⟨fun h => ?_, fun h => ?_⟩
    · exact ⟨_, engStep_endsSlice h rfl rfl, by
        rw [State.opWait, if_pos hopen]; exact State.faulted_progFault h.2.1 hc hretire⟩
    · exact ⟨_, engStep_endsSlice h rfl rfl, by
        rw [State.opCheckpoint, if_pos hopen]; exact State.faulted_progFault h.2.1 hc hretire⟩
  · have hexec : exec (.jmp u e imm) s = .next (s.opStep u e (.jmp imm)) := engStep_stands h
    have hstep : s.opStep u e (.jmp imm) = s.retireOp u e 2 ((s.eng u e).pc + imm.toInt) := rfl
    exact ⟨_, hexec, hstep ▸ State.faulted_retireOp h.2.1 hc hretire hpc⟩
  · refine ⟨_, onEng_up s u e _ he hup hu, ?_⟩
    dsimp only
    rw [if_pos (by simp [hrun, hloaded, hend, hcyc])]
    exact State.faulted_progFault hu hc hretire
end

/-! ## O30: the release of a hit (R212, R217, R219) -/
section
namespace Sys2Proof.Machine
open Sys2Proof

variable {s t : State} {u e c k : Nat} {d : DItem}

/-! ### A hit for one context (R217) -/

/-- The item of a hit in some roles of a context. -/
def State.hitItem (s : State) (u c : Nat) (d : DItem) (r : Nat) : Item :=
  ⟨d.t, hitInfo d.word r (d.word.getLsbD 52 || (s.ctx u c).brk.getLsbD d.input) false, d.age⟩

/-- A context after the release of a hit: it has the hit with its roles and the break, or carries the break on, or does not
take the hit. -/
def State.hitGiven (s : State) (u c : Nat) (d : DItem) : Ctx :=
  if s.gateKind u c = 3 || !s.takes u c d.seg d.t then s.ctx u c
  else if s.roles u c d.input (d.word.getLsbD 55) = 0 then { s.ctx u c with
    brk := if d.word.getLsbD 52 then (s.ctx u c).brk ||| BitVec.ofNat 16 (2 ^ d.input) else (s.ctx u c).brk }
  else { s.ctx u c with
    items := insBack (s.hitItem u c d (s.roles u c d.input (d.word.getLsbD 55))) (s.ctx u c).items
    brk := (s.ctx u c).brk &&& ~~~(BitVec.ofNat 16 (2 ^ d.input)) }

theorem State.releaseHit_ctx : (s.releaseHit u c d).ctx u k = if k = c then s.hitGiven u c d else s.ctx u k := by
  unfold State.releaseHit State.hitGiven
  dsimp only
  split
  next => split <;> simp_all
  next =>
    split
    next =>
      split
      next => simp only [State.ctx_modCtx, true_and]
      next => split <;> simp_all
    next =>
      simp only [State.giveItem, State.ctx_modCtx, true_and]
      split
      · rfl
      · rfl

theorem State.releaseHit_keeps : s.EngineApart (s.releaseHit u c d) u e ∧ (s.releaseHit u c d).eng u e = s.eng u e ∧
    ∀ a, (s.releaseHit u c d).cxWord u a = s.cxWord u a := by
  have hrefl : s.EngineApart s u e ∧ s.eng u e = s.eng u e ∧ ∀ a, s.cxWord u a = s.cxWord u a := ⟨.refl s u e, rfl, fun _ => rfl⟩
  have hmod : ∀ (r : State) f, r.EngineApart (r.modCtx u c f) u e ∧ (r.modCtx u c f).eng u e = r.eng u e ∧
      ∀ a, (r.modCtx u c f).cxWord u a = r.cxWord u a := fun r f =>
    ⟨r.engineApart_modCtx .., r.eng_modCtx .., fun _ => r.cxWord_modCtx ..⟩
  unfold State.releaseHit
  dsimp only
  split
  · exact hrefl
  · split
    · split
      · exact hmod ..
      · exact hrefl
    · obtain ⟨h1, h2, h3⟩ := hmod s (fun _ => ((s.ctx u c).carry d.input (d.word.getLsbD 52)).2)
      rw [State.giveItem]
      obtain ⟨k1, k2, k3⟩ := hmod (s.modCtx u c (fun _ => ((s.ctx u c).carry d.input (d.word.getLsbD 52)).2)) _
      exact ⟨h1.trans k1, k2.trans h2, fun a => (k3 a).trans (h3 a)⟩

/-- What a context makes of a hit depends on that context and its block. -/
theorem State.hitGiven_congr (hcx : ∀ a, t.cxWord u a = s.cxWord u a) (hctx : t.ctx u c = s.ctx u c) :
    t.hitGiven u c d = s.hitGiven u c d := by
  have hdword : ∀ n, t.dword u c n = s.dword u c n := fun n => by simp only [State.dword, hctx, hcx]
  have hdsc : ∀ hi lo, t.dsc u c hi lo = s.dsc u c hi lo := fun hi lo => by rw [State.dsc, hdword, State.dsc]
  have hkind : t.gateKind u c = s.gateKind u c := hdsc 23 22
  have hroles : ∀ i b, t.roles u c i b = s.roles u c i b := fun i b => by
    simp only [State.roles, hkind, hdsc, State.func]
  have htakes : ∀ seg tau, t.takes u c seg tau = s.takes u c seg tau := fun seg tau => by
    simp only [State.takes, State.halted_congr (hcx _), hctx]
  simp only [State.hitGiven, State.hitItem, hkind, hroles, htakes, hctx]

/-! ### A hit for the contexts of an engine -/

theorem State.releaseHits_keeps (cs : List Nat) : s.EngineApart (forKeys cs (fun c t => t.releaseHit u c d) s) u e ∧
    (forKeys cs (fun c t => t.releaseHit u c d) s).eng u e = s.eng u e ∧
    ∀ a, (forKeys cs (fun c t => t.releaseHit u c d) s).cxWord u a = s.cxWord u a := by
  refine forKeys_keeps (R := fun s t => s.EngineApart t u e ∧ t.eng u e = s.eng u e ∧ ∀ a, t.cxWord u a = s.cxWord u a)
    (fun s => ⟨.refl s u e, rfl, fun _ => rfl⟩) ?_ (fun _ _ => State.releaseHit_keeps) cs s
  rintro r t w ⟨h1, h2, h3⟩ ⟨k1, k2, k3⟩
  exact ⟨h1.trans k1, k2.trans h2, fun a => (k3 a).trans (h3 a)⟩

/-- Each context of the list gets the hit as it stood before. -/
theorem State.releaseHits_ctx (cs : List Nat) (hnodup : cs.Nodup) (k : Nat) :
    (forKeys cs (fun c t => t.releaseHit u c d) s).ctx u k = if k ∈ cs then s.hitGiven u k d else s.ctx u k := by
  induction cs generalizing s with
  | nil => rw [if_neg List.not_mem_nil]; rfl
  | cons c cs ih =>
    obtain ⟨hc, hcs⟩ := List.nodup_cons.mp hnodup
    rw [forKeys_cons, ih hcs]
    rcases eq_or_ne k c with rfl | hk
    · rw [if_neg hc, State.releaseHit_ctx, if_pos rfl, if_pos List.mem_cons_self]
    · have hctx : (s.releaseHit u c d).ctx u k = s.ctx u k := by rw [State.releaseHit_ctx, if_neg hk]
      rw [State.hitGiven_congr (State.releaseHit_keeps (e := 0)).2.2 hctx, hctx]
      simp only [List.mem_cons, hk, false_or]

/-! ### ITEM_RELEASE (R218, R219) -/

/-- The dispatcher with the item of least key taken from its buffer. -/
def State.bufTaken (s : State) (u e : Nat) (rest : List DItem) : State := s.modEng u e (fun y => { y with buf := rest })

theorem exec_itemRelease {rest : List DItem} (hup : s.up = true) (hu : u < s.nTiles) (he : e < 9) (hrun : s.engRuns u e = true)
    (hread : s.unread u e = 0) (hbuf : (s.eng u e).buf = d :: rest) (hrel : s.releasable u e d = true) (hkind : d.kind = 0)
    (hall : d.ctx = none) (hsafe : (s.eng u e).safe = false) : exec (.itemRelease u e) s =
      .next (forKeys (s.eng u e).ctxs (fun c t => t.releaseHit u c d) (s.bufTaken u e rest)) := by
  have hnone : s.readAll u e = s := by rw [State.readAll, hread]; rfl
  have heng : (s.bufTaken u e rest).eng u e = { s.eng u e with buf := rest } := s.eng_modEng_same ..
  have hrelease : (s.bufTaken u e rest).release u e d =
      forKeys (s.eng u e).ctxs (fun c t => t.releaseHit u c d) (s.bufTaken u e rest) := by
    simp only [State.release, State.targets, hkind, hall, heng, hsafe, Bool.false_eq_true, if_false]
  refine (onEng_up s u e _ he hup hu).trans (congrArg Host.Outcome.next ?_)
  rw [if_pos hrun, hnone, State.releaseNext, hbuf]
  dsimp only
  rw [if_pos hrel]
  exact hrelease

end Sys2Proof.Machine
open Sys2Proof Sys2Proof.Machine

/-- Settles O30: the contexts of the engine get the hit one after the other, and what one of them makes of it does not depend
on the others. -/
theorem hitsReachTheirContexts : Obligations.HitsReachTheirContexts := by
  intro s u e d rest hup hu he hrun hread hbuf hrel hkind hall hsafe hnodup
  refine ⟨_, exec_itemRelease hup hu he hrun hread hbuf hrel hkind hall hsafe, ?_⟩
  obtain ⟨htaken, hcx, hctx⟩ := s.engineOnly_modEng u e (fun y => { y with buf := rest })
  obtain ⟨happ, heng, hcxs⟩ := State.releaseHits_keeps (s := s.bufTaken u e rest) (u := u) (e := e) (d := d) (s.eng u e).ctxs
  have hgiven : ∀ k, (s.bufTaken u e rest).hitGiven u k d = s.hitGiven u k d := fun k => State.hitGiven_congr hcx (hctx k)
  have hget := State.releaseHits_ctx (s := s.bufTaken u e rest) (u := u) (d := d) (s.eng u e).ctxs hnodup
  simp only [hgiven] at hget
  refine ⟨htaken.trans happ, fun a => (hcxs a).trans (hcx a), ?_, fun c hc hgate htakes => ⟨fun hr => ?_, fun hr => ?_⟩, fun c hc => ?_⟩
  · rw [heng, State.bufTaken, State.eng_modEng_same]
  · rw [hget, if_pos hc, State.hitGiven, if_neg (by simp [hgate, htakes]), if_neg hr]
    rfl
  · rw [hget, if_pos hc, State.hitGiven, if_neg (by simp [hgate, htakes]), if_pos hr]
  · rw [hget]
    split
    next hmem =>
      rw [State.hitGiven, if_pos]
      simpa using hc.resolve_left (fun h => h hmem)
    next => exact hctx c
end

/-! ## O31: the switch of a slice (R211, R215, R220, R221) -/
section
namespace Sys2Proof.Machine
open Sys2Proof

variable {s t : State} {u e c : Nat}

/-! ### A register file as a map and as words -/

/-- A map that a run of keys has been written to. -/
theorem mapGet_foldl_range {α : Type} [DecidableEq α] (d f : Nat → α) (n k : Nat) :
    mapGet d ((List.range n).foldl (fun m k => mapSet d m k (f k)) []) k = if k < n then f k else d k := by
  induction n with
  | zero => rfl
  | succ n ih =>
    rw [List.range_succ, List.foldl_append, List.foldl_cons, List.foldl_nil, mapGet_set, ih]
    rcases eq_or_ne k n with rfl | hk
    · rw [if_pos rfl, if_pos (Nat.lt_succ_self _)]
    · simp only [hk, if_false, show k < n + 1 ↔ k < n by omega]

/-- The accumulators as the words of a block hold them, the low half first. -/
def Engine.accWords (y : Engine) : List W64 :=
  (List.range 4).flatMap (fun k => [(mapGet (fun _ => 0) y.a k).setWidth 64, (mapGet (fun _ => 0) y.a k >>> 64).setWidth 64])

theorem Engine.length_accWords (y : Engine) : y.accWords.length = 8 := rfl

theorem Engine.accWords_getD (y : Engine) {k : Nat} (hk : k < 4) : y.accWords.getD (2 * k) 0 = (mapGet (fun _ => 0) y.a k).setWidth 64 ∧
    y.accWords.getD (1 + 2 * k) 0 = (mapGet (fun _ => 0) y.a k >>> 64).setWidth 64 := by
  match k, hk with
  | 0, _ | 1, _ | 2, _ | 3, _ => exact ⟨rfl, rfl⟩

theorem halves_append (v : Acc) : (v >>> 64).setWidth 64 ++ v.setWidth 64 = v := by
  refine BitVec.eq_of_getLsbD_eq fun j hj => ?_
  simp only [BitVec.getLsbD_append, BitVec.getLsbD_setWidth, BitVec.getLsbD_ushiftRight]
  grind

/-- The resume word with a PC, its other bits kept. -/
def resumeWord (w : W64) (pc : Nat) : W64 := (w &&& ~~~(0x7FF : W64)) ||| BitVec.ofNat 64 (pc % 2048)

theorem fieldOf_resumeWord (w : W64) (pc : Nat) : fieldOf (resumeWord w pc) 10 0 = pc % 2048 := by
  have hmask : (~~~(0x7FF : W64)).toNat % 2 ^ 11 = 0 := by decide
  have hpc : (BitVec.ofNat 64 (pc % 2048)).toNat % 2 ^ 11 = pc % 2048 := by
    rw [BitVec.toNat_ofNat]
    omega
  show (resumeWord w pc).toNat / 2 ^ 0 % 2 ^ 11 = _
  rw [Nat.pow_zero, Nat.div_one, resumeWord, BitVec.toNat_or, BitVec.toNat_and, Nat.or_mod_two_pow, Nat.and_mod_two_pow, hmask, hpc,
    Nat.and_zero, Nat.zero_or]

/-! ### The registers of the context that ran (R211, R215) -/

theorem State.saveRegs_unloaded (h : (s.eng u e).loaded = false) : s.saveRegs u e = s := if_neg (by simp [h])

/-- A state with the resume word and the general registers of an engine in its context's block. -/
def State.generalsSaved (s : State) (u e : Nat) : State :=
  (s.setCxWord u (64 * (s.eng u e).ctx + 27) (resumeWord (s.cxWord u (64 * (s.eng u e).ctx + 27)) (s.eng u e).pc)).setCxWords u
    (64 * (s.eng u e).ctx + 28) ((List.range 28).map (fun k => mapGet (fun _ => 0) (s.eng u e).g k))

theorem State.saveRegs_loaded (h : (s.eng u e).loaded = true) : s.saveRegs u e =
    (s.generalsSaved u e).setCxWords u (64 * (s.eng u e).ctx + 56) (s.eng u e).accWords := if_pos h

theorem State.cxWord_generalsSaved (a : Nat) (h : a < 64 * (s.eng u e).ctx + 27 ∨ 64 * (s.eng u e).ctx + 56 ≤ a) :
    (s.generalsSaved u e).cxWord u a = s.cxWord u a := by
  rw [State.generalsSaved, State.cxWord_setCxWords_apart _ _ _ _ _ (by simp; omega), State.cxWord_setCxWord, if_neg (by omega)]

theorem State.cxWord_saveRegs_apart (a : Nat)
    (h : (s.eng u e).loaded = false ∨ a < 64 * (s.eng u e).ctx + 27 ∨ 64 * (s.eng u e).ctx + 64 ≤ a) :
    (s.saveRegs u e).cxWord u a = s.cxWord u a := by
  rcases hl : (s.eng u e).loaded
  · rw [State.saveRegs_unloaded hl]
  · replace h := h.resolve_left (by simp [hl])
    rw [State.saveRegs_loaded hl, State.cxWord_setCxWords_apart _ _ _ _ _ (by rw [Engine.length_accWords]; omega),
      State.cxWord_generalsSaved a (by omega)]

theorem State.cxWord_saveRegs_resume (h : (s.eng u e).loaded = true) : (s.saveRegs u e).cxWord u (64 * (s.eng u e).ctx + 27) =
    resumeWord (s.cxWord u (64 * (s.eng u e).ctx + 27)) (s.eng u e).pc := by
  rw [State.saveRegs_loaded h, State.cxWord_setCxWords_apart _ _ _ _ _ (by omega), State.generalsSaved,
    State.cxWord_setCxWords_apart _ _ _ _ _ (by omega), State.cxWord_setCxWord, if_pos rfl]

theorem State.cxWord_saveRegs_general (h : (s.eng u e).loaded = true) {k : Nat} (hk : k < 28) :
    (s.saveRegs u e).cxWord u (64 * (s.eng u e).ctx + 28 + k) = mapGet (fun _ => 0) (s.eng u e).g k := by
  rw [State.saveRegs_loaded h, State.cxWord_setCxWords_apart _ _ _ _ _ (by omega), State.generalsSaved,
    State.cxWord_setCxWords_range _ _ _ _ _ _ hk]

theorem State.cxWord_saveRegs_acc (h : (s.eng u e).loaded = true) {k : Nat} (hk : k < 4) :
    (s.saveRegs u e).cxWord u (64 * (s.eng u e).ctx + 57 + 2 * k) ++ (s.saveRegs u e).cxWord u (64 * (s.eng u e).ctx + 56 + 2 * k) =
      mapGet (fun _ => 0) (s.eng u e).a k := by
  obtain ⟨hlow, hhigh⟩ := (s.eng u e).accWords_getD hk
  have hlen := (s.eng u e).length_accWords
  rw [State.saveRegs_loaded h, State.cxWord_setCxWords, State.cxWord_setCxWords, if_pos (by omega), if_pos (by omega),
    show 64 * (s.eng u e).ctx + 57 + 2 * k - (64 * (s.eng u e).ctx + 56) = 1 + 2 * k by omega,
    show 64 * (s.eng u e).ctx + 56 + 2 * k - (64 * (s.eng u e).ctx + 56) = 2 * k by omega, hlow, hhigh, halves_append]

/-! ### The registers of the context that takes the slice (R211, R215, R221) -/

/-- An engine with the registers of a context that takes a slice. -/
def State.switched (s : State) (u c : Nat) (trig : Bool) (y : Engine) : Engine :=
  { y with
    loaded := true, ctx := c, pc := fieldOf (s.cxWord u (64 * c + 27)) 10 0
    g := (List.range 28).foldl (fun m k => mapSet (fun _ => 0) m k (s.cxWord u (64 * c + 28 + k))) []
    a := (List.range 4).foldl (fun m k =>
      mapSet (fun _ => 0) m k (s.cxWord u (64 * c + 57 + 2 * k) ++ s.cxWord u (64 * c + 56 + 2 * k) : BitVec 128)) []
    sliceEnd := false, sliceN := 0, inTrig := trig, cycles := 0, busy := y.busy + 2 }

theorem State.switchTo_eq (trig : Bool) :
    s.switchTo u e c trig = (s.saveRegs u e).modEng u e ((s.saveRegs u e).switched u c trig) := by
  rw [State.switchTo, State.loadRegs, State.modEng_modEng]
  rfl

theorem State.switched_generals (trig : Bool) (y : Engine) {k : Nat} (hk : k < 28) :
    mapGet (fun _ => 0) (s.switched u c trig y).g k = s.cxWord u (64 * c + 28 + k) :=
  (mapGet_foldl_range (fun _ => 0) (fun k => s.cxWord u (64 * c + 28 + k)) 28 k).trans (if_pos hk)

theorem State.switched_accs (trig : Bool) (y : Engine) {k : Nat} (hk : k < 4) : mapGet (fun _ => 0) (s.switched u c trig y).a k =
    s.cxWord u (64 * c + 57 + 2 * k) ++ s.cxWord u (64 * c + 56 + 2 * k) :=
  (mapGet_foldl_range (fun _ => (0 : Acc)) (fun k => s.cxWord u (64 * c + 57 + 2 * k) ++ s.cxWord u (64 * c + 56 + 2 * k)) 4 k).trans
    (if_pos hk)

theorem exec_sliceSwitch {trig : Bool} (hup : s.up = true) (hu : u < s.nTiles) (he : e < 9) (hrun : s.engRuns u e = true)
    (hend : (s.eng u e).loaded = false ∨ (s.eng u e).sliceEnd = true) (hnext : s.nextSlice u e = some (c, trig))
    (hgood : s.bad2 (.context u) (64 * c) 64 = false) : exec (.sliceSwitch u e) s = .next (s.switchTo u e c trig) := by
  refine (onEng_up s u e _ he hup hu).trans (congrArg Host.Outcome.next ?_)
  rw [if_pos (by simpa [hrun] using hend), hnext]
  simp only [hgood, Bool.false_eq_true, if_false]

end Sys2Proof.Machine
open Sys2Proof Sys2Proof.Machine

/-- Settles O31: what is saved does not touch the block of another context, from which the registers then come. -/
theorem slicesSwitch : Obligations.SlicesSwitch := by
  intro s u e c p trig hup hu he hrun hend hnext hgood hp
  subst hp
  refine ⟨_, exec_sliceSwitch hup hu he hrun hend hnext hgood, ?_⟩
  have hsave := s.storeOnly_saveRegs u e
  have heng : (s.switchTo u e c trig).eng u e = (s.saveRegs u e).switched u c trig (s.eng u e) := by
    rw [State.switchTo_eq, State.eng_modEng_same, hsave.eng]
  have hcx : ∀ a, (s.switchTo u e c trig).cxWord u a = (s.saveRegs u e).cxWord u a := fun a => by
    rw [State.switchTo_eq, State.cxWord_modEng]
  have happ : s.EngineApart (s.switchTo u e c trig) u e := by
    rw [State.switchTo_eq]
    exact (hsave.engineApart e).trans (State.engineApart_modEng ..)
  have hctx : ∀ d, (s.switchTo u e c trig).ctx u d = s.ctx u d := fun d => by
    rw [State.switchTo_eq, State.ctx_modEng, hsave.ctx]
  simp only [heng, hcx]
  refine ⟨happ, hctx, rfl, rfl, rfl, rfl, rfl, rfl, rfl, fun hother => ⟨?_, fun k hk => ?_, fun k hk => ?_⟩,
    fun hl => ⟨?_, fun k hk => ?_, fun k hk => ?_⟩, fun a ha => ?_⟩
  · exact congrArg (fun w => fieldOf w 10 0) (State.cxWord_saveRegs_apart _ (hother.imp_right (by omega)))
  · rw [State.switched_generals _ _ hk, State.cxWord_saveRegs_apart _ (hother.imp_right (by omega))]
  · rw [State.switched_accs _ _ hk, State.cxWord_saveRegs_apart _ (hother.imp_right (by omega)),
      State.cxWord_saveRegs_apart _ (hother.imp_right (by omega))]
  · rw [State.cxWord_saveRegs_resume hl, fieldOf_resumeWord]
  · exact State.cxWord_saveRegs_general hl hk
  · exact State.cxWord_saveRegs_acc hl hk
  · exact State.cxWord_saveRegs_apart a ha
end

/-! ## The restore of an engine from its checkpoint (R234, R236, R238) -/
section
namespace Sys2Proof.Machine
open Sys2Proof

variable {s t w : State} {u e c : Nat}

/-! ### Open packets (R239, R434) -/

theorem State.queue_rp_qRewind (q p : Nat) : ((s.qRewind u q).queue u p).rp = (s.queue u p).rp := by
  rcases eq_or_ne p q with rfl | hp
  · rcases ho : (s.queue u p).opened
    · rw [State.qRewind_closed ho]
    · rw [State.qRewind_opened ho]
      generalize ringDist (s.qCap u p) (s.queue u p).rmark (s.queue u p).wp = n
      have hlevels := ((s.modQueue u p (fun _ => (s.queue u p).rewound n)).levelsApart_qEval u p).queue
      have hrewound := (s.queue u p).rewound_eq n
      rw [State.queue_modQueue_same] at hlevels
      exact (congrArg Queue.rp hlevels :).trans (congrArg Queue.rp hrewound :)
  · rw [State.queueApart_qRewind.others p hp]

theorem State.rewindAll_spec : s.QueuesApart (s.rewindAll u e) u ∧
    ∀ q, ((s.rewindAll u e).queue u q).rp = (s.queue u q).rp := by
  refine ⟨s.queuesApart_rewinds u (fun q t => (t.queue u q).opened = true) _, fun q => ?_⟩
  refine forKeys_keeps (R := fun s t => (t.queue u q).rp = (s.queue u q).rp) (fun _ => rfl) (fun h k => k.trans h) (fun p t => ?_) _ s
  split
  · exact t.queue_rp_qRewind p q
  · rfl

/-! ### Blocks come back from their shadows (R215, R236) -/

/-- The block of a context copied from its shadow. -/
def State.blockBack (s : State) (u c : Nat) : State :=
  s.setCxWords u (64 * (0 + c)) ((List.range 64).map (fun k => s.cxWord u (64 * (64 + c) + k)))

theorem State.cxWord_blockBack_apart (a : Nat) (h : a < 64 * c ∨ 64 * c + 64 ≤ a) :
    (s.blockBack u c).cxWord u a = s.cxWord u a := by
  rw [State.blockBack, Nat.zero_add, State.cxWord_setCxWords_apart _ _ _ _ _ (by simpa using h)]

theorem State.cxWord_blockBack (k : Nat) (hk : k < 64) : (s.blockBack u c).cxWord u (64 * c + k) = s.cxWord u (64 * (64 + c) + k) := by
  rw [State.blockBack, Nat.zero_add, State.cxWord_setCxWords_range _ _ _ _ _ _ hk]

theorem State.storeOnly_blocksBack (cs : List Nat) : s.StoreOnly (forKeys cs (fun c t => t.blockBack u c) s) u :=
  forKeys_keeps (R := fun s t => s.StoreOnly t u) (fun s => .refl s u) .trans (fun _ t => t.storeOnly_setCxWords ..) cs s

/-- The shadows lie behind the blocks of all contexts, so that no copy changes what another one reads. -/
theorem State.cxWord_blocksBack (cs : List Nat) (hcs : ∀ c ∈ cs, c < 64) (hc : c < 64) (k : Nat) (hk : k < 64) :
    (forKeys cs (fun c t => t.blockBack u c) s).cxWord u (64 * c + k) =
      if c ∈ cs then s.cxWord u (64 * (64 + c) + k) else s.cxWord u (64 * c + k) := by
  induction cs generalizing s with
  | nil => rw [if_neg List.not_mem_nil]; rfl
  | cons d cs ih =>
    have hd := hcs d List.mem_cons_self
    rw [forKeys_cons, ih (fun c hc => hcs c (List.mem_cons_of_mem d hc)),
      State.cxWord_blockBack_apart (64 * (64 + c) + k) (by omega)]
    rcases eq_or_ne c d with rfl | hne
    · rw [State.cxWord_blockBack k hk, if_pos List.mem_cons_self, ite_self]
    · rw [State.cxWord_blockBack_apart (64 * c + k) (by omega)]
      simp only [List.mem_cons, hne, false_or]

/-! ### The restore -/

/-- The contexts as the checkpoint of an engine has them. -/
def State.ctxsBack (s : State) (u : Nat) (k : Ckpt) : State :=
  forKeys k.keys (fun c s => s.modCtx u c (fun x => x.restored (mapGet (fun _ => {}) k.ctxs c))) s

theorem State.ctxsBack_spec (k : Ckpt) : s.TileOnly (s.ctxsBack u k) u ∧ (∀ f, (s.ctxsBack u k).eng u f = s.eng u f) ∧
    (∀ a, (s.ctxsBack u k).cxWord u a = s.cxWord u a) ∧ ∀ q, (s.ctxsBack u k).queue u q = s.queue u q := by
  refine forKeys_keeps (R := fun s t => s.TileOnly t u ∧ (∀ f, t.eng u f = s.eng u f) ∧ (∀ a, t.cxWord u a = s.cxWord u a) ∧
    ∀ q, t.queue u q = s.queue u q) (fun s => ⟨⟨rfl, fun _ _ => rfl⟩, fun _ => rfl, fun _ => rfl, fun _ => rfl⟩) ?_ (fun c s => ?_) _ s
  · rintro r t w ⟨h1, h2, h3, h4⟩ ⟨k1, k2, k3, k4⟩
    exact ⟨h1.trans k1, fun f => (k2 f).trans (h2 f), fun a => (k3 a).trans (h3 a), fun q => (k4 q).trans (h4 q)⟩
  · exact ⟨s.tileOnly_modTile u _, fun f => s.eng_modCtx .., fun a => s.cxWord_modCtx ..,
      fun q => s.tile_modTile_keeps u (·.queue q) u _ (fun _ => rfl)⟩

/-- An engine restored from its checkpoint, its dispatcher at `dpos`, after `cost` cycles. -/
def Engine.resumed (y : Engine) (dpos cost : Nat) : Engine :=
  { y with
    st := if max y.replay y.delivered = 0 then 1 else 2
    loaded := false, sliceEnd := true, cycles := 0, ctxs := y.ckpt.keys
    dpos := dpos
    buf := y.hist.foldl (fun b d => insFirst d b) y.ckpt.buf
    seg := y.ckpt.seg, rseg := y.ckpt.rseg, secs := y.ckpt.secs, epoch := y.ckpt.epoch, safe := y.ckpt.safe
    marks := y.ckpt.marks, top := y.ckpt.top
    marksSkip := max y.marksSkip y.marksDone, marksDone := 0
    replay := max y.replay y.delivered, delivered := 0, busy := y.busy + cost }

/-- The state of a restore before the engine itself: packets, blocks and contexts. -/
def State.backAtCkpt (s : State) (u e : Nat) : State :=
  (forKeys ((s.eng u e).ctxs.filter (fun c => decide (c < 64))) (fun c t => t.blockBack u c) (s.rewindAll u e)).ctxsBack u
    (s.eng u e).ckpt

theorem State.inq_congr (hr : t.regs = s.regs) (h8 : t.eng u 8 = s.eng u 8) : t.inq u e = s.inq u e := by
  have hasg : t.asg u e = s.asg u e := congrArg (fun y : Engine => if e = 8 then y.serving else e) h8
  rw [State.inq, State.inq, State.engCfg, State.engCfg, State.rv, State.rv, hr, hasg]

/-- What a restore does ahead of the engine itself. -/
structure State.BackAtCkpt (s t : State) (u e : Nat) : Prop extends s.Outside t u where
  dep : t.dep = s.dep
  eng : ∀ f, t.eng u f = s.eng u f
  rp : ∀ q, (t.queue u q).rp = (s.queue u q).rp
  blocks : ∀ c ∈ (s.eng u e).ctxs, c < 64 → ∀ k, k < 64 → t.cxWord u (64 * c + k) = s.cxWord u (64 * (64 + c) + k)

theorem State.backAtCkpt_spec : s.BackAtCkpt (s.backAtCkpt u e) u e := by
  obtain ⟨hrewind, hrp⟩ := s.rewindAll_spec (u := u) (e := e)
  have hblocks := State.storeOnly_blocksBack (s := s.rewindAll u e) (u := u) ((s.eng u e).ctxs.filter (fun c => decide (c < 64)))
  obtain ⟨hctxs, heng, hcx, hqueue⟩ := State.ctxsBack_spec (u := u) (s := forKeys ((s.eng u e).ctxs.filter (fun c => decide (c < 64)))
    (fun c t => t.blockBack u c) (s.rewindAll u e)) (s.eng u e).ckpt
  refine ⟨(hrewind.outside.trans hblocks.outside).trans hctxs.outside, ?_, fun f => ?_, fun q => ?_, fun c hc hlt k hk => ?_⟩
  · exact ((congrArg State.dep hctxs.1 :).trans (congrArg State.dep hblocks.rest :)).trans (congrArg State.dep hrewind.rest :)
  · exact (heng f).trans ((hblocks.eng f).trans (hrewind.eng f))
  · exact (congrArg Queue.rp (hqueue q)).trans ((congrArg Queue.rp (hblocks.queue q)).trans (hrp q))
  · have hmem : c ∈ (s.eng u e).ctxs.filter (fun c => decide (c < 64)) := List.mem_filter.mpr ⟨hc, decide_eq_true hlt⟩
    refine (hcx _).trans ?_
    rw [State.cxWord_blocksBack _ (fun d hd => of_decide_eq_true (List.mem_filter.mp hd).2) hlt k hk, if_pos hmem, hrewind.cxWord]

theorem State.restore_eq : s.restore u e = (s.backAtCkpt u e).modEng u e
    (·.resumed (s.queue u (s.inq u e)).rp ((s.backAtCkpt u e).ckptCost u e)) := by
  obtain ⟨hrewind, -⟩ := s.rewindAll_spec (u := u) (e := e)
  have hback := s.backAtCkpt_spec (u := u) (e := e)
  have hcopy : (s.rewindAll u e).copyBlocks u e 64 0 =
      forKeys ((s.eng u e).ctxs.filter (fun c => decide (c < 64))) (fun c t => t.blockBack u c) (s.rewindAll u e) := by
    rw [← hrewind.eng]
    rfl
  have heng : ((s.rewindAll u e).copyBlocks u e 64 0).eng u e = s.eng u e := by
    rw [hcopy, (State.storeOnly_blocksBack _).eng, hrewind.eng]
  have hrp : ((s.backAtCkpt u e).queue u ((s.backAtCkpt u e).inq u e)).rp = (s.queue u (s.inq u e)).rp := by
    rw [State.inq_congr hback.regs (hback.eng 8), hback.rp]
  unfold State.restore
  rw [← hrp]
  dsimp only
  rw [heng, hcopy]
  refine State.modEng_congr (s := s.backAtCkpt u e) ?_
  rw [hback.eng]
  rfl

/-- What a restore of an engine does, and what it leaves. -/
structure State.RestoreDone (s t : State) (u e : Nat) : Prop extends s.Outside t u where
  dep : t.dep = s.dep
  others : ∀ f, f ≠ e → t.eng u f = s.eng u f
  eng : ∃ cost, t.eng u e = (s.eng u e).resumed (s.queue u (s.inq u e)).rp cost
  restored : s.Restored u e e t

theorem State.restoreDone : s.RestoreDone (s.restore u e) u e := by
  have hback := s.backAtCkpt_spec (u := u) (e := e)
  have heng : (s.restore u e).eng u e =
      (s.eng u e).resumed (s.queue u (s.inq u e)).rp ((s.backAtCkpt u e).ckptCost u e) := by
    rw [State.restore_eq, State.eng_modEng_same, hback.eng]
  refine ⟨?_, ?_, fun f hf => ?_, ⟨_, heng⟩, ?_⟩
  · rw [State.restore_eq]
    exact hback.toOutside.trans (State.outside_modEng ..)
  · rw [State.restore_eq]
    exact hback.dep
  · rw [State.restore_eq, State.eng_modEng, if_neg (fun h => hf h.2), hback.eng]
  · have hblocks : ∀ c ∈ (s.eng u e).ctxs, c < 64 → ∀ k, k < 64 →
        (s.restore u e).cxWord u (64 * c + k) = s.cxWord u (64 * (64 + c) + k) := fun c hc hlt k hk => by
      rw [State.restore_eq, State.cxWord_modEng, hback.blocks c hc hlt k hk]
    unfold State.Restored
    rw [heng]
    exact ⟨rfl, rfl, rfl, rfl, rfl, rfl, rfl, rfl, rfl, hblocks⟩

/-- The marks of a lockstep pair do not show in a restore. -/
theorem State.Restored.after {d : Nat} (h : s.Restored u e d t) (hcx : ∀ a, w.cxWord u a = t.cxWord u a)
    (heng : { w.eng u d with mismatched := (t.eng u d).mismatched, voting := (t.eng u d).voting } = t.eng u d) :
    s.Restored u e d w := by
  unfold State.Restored at h ⊢
  rw [← heng] at h
  simpa only [hcx] using h

end Sys2Proof.Machine
end

/-! ## O36: lockstep pairs (R239, R438, R439) -/
section
namespace Sys2Proof.Machine
open Sys2Proof

variable {s r : State} {u p : Nat}

/-! ### The two copies and engine 8 -/

/-- An engine that has failed. -/
def Engine.failed (y : Engine) : Engine := { y with st := 5 }

/-- An engine 8 that serves another engine. -/
def Engine.servingOf (y : Engine) (e : Nat) : Engine := { y with serving := e }

/-- A copy in a mismatch since the last checkpoint, with a vote or without. -/
def Engine.mismatch (y : Engine) (vote : Bool) : Engine := { y with mismatched := true, voting := vote }

theorem Engine.mismatch_marks (y : Engine) (vote : Bool) :
    { y.mismatch vote with mismatched := y.mismatched, voting := y.voting } = y := rfl

theorem State.eng_countRestart (s : State) (u e : Nat) : s.countRestart.eng u e = s.eng u e := rfl

theorem State.restarts_countRestart (s : State) : s.countRestart.dep.restarts = min 65535 (s.dep.restarts + 1) := rfl

theorem State.outside_countRestart (s : State) (u : Nat) : s.Outside s.countRestart u := ⟨rfl, rfl, rfl, fun _ _ => rfl⟩

theorem State.Restored.counted {e d : Nat} (h : s.Restored u e d r) : s.Restored u e d r.countRestart := h

/-- A pair that runs stands on its even engine. -/
theorem State.pairRunner_even (hp : p < 4) (hb : s.bracket = true) (hrun : s.engRuns u (2 * p) = true) :
    s.pairRunner u (2 * p) = 2 * p := by
  have hst : ((s.tile u).eng (2 * p)).st ≠ 5 := by
    intro h5
    replace h5 : (s.eng u (2 * p)).st = 5 := h5
    simp [State.engRuns, h5] at hrun
  rw [State.pairRunner, if_neg (by omega), if_pos hb, Nat.mul_mod_right, Nat.sub_zero, Tile.runner, if_neg (fun h => hst h.1)]

/-! ### What becomes of a copy (R438, R439) -/

/-- Engine 8 stands in for the odd copy of a pair. -/
structure State.OddReplaced (r t : State) (u p : Nat) : Prop extends r.Outside t u where
  failed : (t.eng u (2 * p + 1)).st = 5
  serving : (t.eng u 8).serving = 2 * p + 1
  counted : t.dep.failovers = min 65535 (r.dep.failovers + 1)
  event : t.evSet (tileSrc u 4) = true
  even : t.eng u (2 * p) = r.eng u (2 * p)
  cxWord : ∀ a, t.cxWord u a = r.cxWord u a

theorem State.oddReplaced (hu : u < 64) (hp : p < 4) : r.OddReplaced (r.replaceMember u p true) u p := by
  have heq : r.replaceMember u p true =
    (((r.modEng u (2 * p + 1) Engine.failed).modEng u 8 (·.servingOf (2 * p + 1))).countFailover).raise (tileSrc u 4) := rfl
  have hcount : ∀ w : State, w.Outside w.countFailover u := fun _ => ⟨rfl, rfl, rfl, fun _ _ => rfl⟩
  have heng : ∀ w : State, ∀ f, w.countFailover.eng u f = w.eng u f := fun _ _ => rfl
  have hcx : ∀ w : State, ∀ a, w.countFailover.cxWord u a = w.cxWord u a := fun _ _ => rfl
  have hout := ((r.outside_modEng u (2 * p + 1) Engine.failed).trans (State.outside_modEng _ u 8 (·.servingOf (2 * p + 1)))).trans
    ((hcount _).trans (State.outside_raise _ u (k := 4) (by decide)))
  rw [heq]
  refine ⟨hout, ?_, ?_, ?_, State.evSet_raise_tile _ hu (by decide), ?_, fun a => ?_⟩
  · rw [State.eng_raise, heng, State.eng_modEng_ne _ _ _ (by omega), State.eng_modEng_same]
    rfl
  · rw [State.eng_raise, heng, State.eng_modEng_same]
    rfl
  · rw [State.dep_raise]
    rfl
  · rw [State.eng_raise, heng, State.eng_modEng_ne _ _ _ (by omega), State.eng_modEng_ne _ _ _ (by omega)]
  · rw [State.cxWord_raise, hcx, State.cxWord_modEng, State.cxWord_modEng]

/-- The contexts of an engine that stop without a spare. -/
structure State.Unserved (r t : State) (u e : Nat) : Prop extends r.Outside t u where
  failed : (t.eng u e).st = 5
  event : t.evSet (tileSrc u 6) = true
  others : ∀ f, f ≠ e → t.eng u f = r.eng u f

theorem State.unserved (hu : u < 64) (e : Nat) : r.Unserved (r.unserve u e) u e := by
  have heq : r.unserve u e = (r.modEng u e Engine.failed).raise (tileSrc u 6) := rfl
  rw [heq]
  refine ⟨(r.outside_modEng u e Engine.failed).trans (State.outside_raise _ u (k := 6) (by decide)), ?_,
    State.evSet_raise_tile _ hu (by decide), fun f hf => ?_⟩
  · rw [State.eng_raise, State.eng_modEng_same]
    rfl
  · rw [State.eng_raise, State.eng_modEng_ne _ _ _ hf]

/-! ### The outcomes of a mismatch -/

section
variable {who : LockCopy} (hp : p < 4) (hb : s.bracket = true) (hrun : s.engRuns u (2 * p) = true)
include hp hb hrun

theorem State.pairMismatch_first (hv : (s.eng u (2 * p)).voting = false) (hm : (s.eng u (2 * p)).mismatched = false)
    (hwho : who ≠ .spare) : s.pairMismatch u p who = if (s.eng u 8).serving = 15 then
      ((s.restore u (2 * p)).modEng u (2 * p) (·.mismatch true)).modEng u 8 (·.servingOf (2 * p))
    else ((s.restore u (2 * p)).modEng u (2 * p) (·.mismatch false)).countRestart := by
  unfold State.pairMismatch
  simp only [State.pairRunner_even hp hb hrun, hb, hrun, hv, hm, hwho, Bool.not_true, Bool.or_self, Bool.false_eq_true, if_false,
    false_and, decide_eq_true_eq]
  split
  next h => rw [decide_eq_true h]; rfl
  next h => rw [decide_eq_false h]; rfl

theorem State.pairMismatch_second (hv : (s.eng u (2 * p)).voting = false) (hm : (s.eng u (2 * p)).mismatched = true) :
    s.pairMismatch u p .odd = if (s.eng u 8).serving = 15 then (s.restore u (2 * p)).replaceMember u p true
      else (s.restore u (2 * p)).unserve u (2 * p) := by
  unfold State.pairMismatch
  simp only [State.pairRunner_even hp hb hrun, hb, hrun, hv, hm, reduceCtorEq, Bool.not_true, Bool.or_self, Bool.false_eq_true,
    if_false, if_true, false_and, decide_eq_true_eq, decide_true]

theorem State.pairMismatch_voteOdd (hv : (s.eng u (2 * p)).voting = true) :
    s.pairMismatch u p .odd = (s.voteOff u (2 * p)).replaceMember u p true := by
  unfold State.pairMismatch
  simp only [State.pairRunner_even hp hb hrun, hb, hrun, hv, Bool.not_true, Bool.or_self, Bool.false_eq_true, if_false, if_true]

theorem State.pairMismatch_voteSpare (hv : (s.eng u (2 * p)).voting = true) :
    s.pairMismatch u p .spare = ((s.voteOff u (2 * p)).modEng u 8 (·.servingOf 15)).raise (tileSrc u 4) := by
  unfold State.pairMismatch
  simp only [State.pairRunner_even hp hb hrun, hb, hrun, hv, Bool.not_true, Bool.or_self, Bool.false_eq_true, if_false, if_true]
  rfl

end

theorem exec_lockstepMismatch {who : LockCopy} (hup : s.up = true) (hu : u < s.nTiles) (hp : p < 4) :
    exec (.lockstepMismatch u p who) s = .next (s.pairMismatch u p who) := by
  refine (if_pos hp).trans ?_
  rw [onTile_up s u _ hup hu]

/-- The pair after a rollback of its first mismatch, engine 8 in the vote where it is free. -/
theorem State.rolledBack (hp : p < 4) (vote : Bool) :
    s.Outside ((s.restore u (2 * p)).modEng u (2 * p) (·.mismatch vote)) u ∧
    s.Restored u (2 * p) (2 * p) ((s.restore u (2 * p)).modEng u (2 * p) (·.mismatch vote)) ∧
    ((s.restore u (2 * p)).modEng u (2 * p) (·.mismatch vote)).eng u 8 = s.eng u 8 ∧
    ((s.restore u (2 * p)).modEng u (2 * p) (·.mismatch vote)).dep = s.dep := by
  have hback := s.restoreDone (u := u) (e := 2 * p)
  refine ⟨hback.toOutside.trans (State.outside_modEng ..), hback.restored.after (fun a => State.cxWord_modEng ..) ?_, ?_,
    (State.dep_modEng ..).trans hback.dep⟩
  · rw [State.eng_modEng_same, Engine.mismatch_marks]
  · rw [State.eng_modEng_ne _ _ _ (by omega), hback.others 8 (by omega)]

end Sys2Proof.Machine
open Sys2Proof Sys2Proof.Machine

/-- Settles O36: a pair that runs stands on its even engine, and the vote and the first mismatch are kept there. -/
theorem lockstepPairs : Obligations.LockstepPairs := by
  intro s u p who hup hu hp hb hrun
  have hu64 := hu.trans_le s.nTiles_le
  have hexec : ∀ w, exec (.lockstepMismatch u p w) s = .next (s.pairMismatch u p w) := fun _ => exec_lockstepMismatch hup hu hp
  refine ⟨fun hv hm hwho => ?_, fun hv hm hwho => ?_, fun hv hwho => ?_, fun hv hwho => ?_⟩
  · refine ⟨_, hexec who, ?_⟩
    rw [State.pairMismatch_first hp hb hrun hv hm hwho]
    split
    next hfree =>
      obtain ⟨hout, hres, -, hdep⟩ := s.rolledBack (u := u) hp true
      replace hout := hout.trans (State.outside_modEng _ u 8 (·.servingOf (2 * p)))
      have heven := State.eng_modEng_ne ((s.restore u (2 * p)).modEng u (2 * p) (·.mismatch true)) u (·.servingOf (2 * p))
        (show 2 * p ≠ 8 by omega)
      refine ⟨hres.after (fun a => State.cxWord_modEng ..) (by rw [heven]), ?_,
        fun _ => ⟨?_, ?_, (State.dep_modEng ..).trans hdep⟩, fun h => absurd hfree h, hout.tiles, hout.tb, hout.regs, hout.msg⟩
      · rw [heven, State.eng_modEng_same]; rfl
      · rw [heven, State.eng_modEng_same]; rfl
      · rw [State.eng_modEng_same]; rfl
    next hbusy =>
      obtain ⟨hout, hres, h8, hdep⟩ := s.rolledBack (u := u) hp false
      replace hout := hout.trans (State.outside_countRestart _ u)
      refine ⟨hres.counted, ?_, fun h => absurd h hbusy, fun _ => ⟨?_, (State.eng_countRestart ..).trans h8, ?_⟩,
        hout.tiles, hout.tb, hout.regs, hout.msg⟩
      · rw [State.eng_countRestart, State.eng_modEng_same]; rfl
      · rw [State.eng_countRestart, State.eng_modEng_same]; rfl
      · rw [State.restarts_countRestart, hdep]
  · subst hwho
    have hback := s.restoreDone (u := u) (e := 2 * p)
    refine ⟨_, hexec .odd, ?_⟩
    rw [State.pairMismatch_second hp hb hrun hv hm]
    split
    next hfree =>
      have hodd := State.oddReplaced (r := s.restore u (2 * p)) hu64 hp
      have hout := hback.toOutside.trans hodd.toOutside
      refine ⟨fun _ => ⟨hodd.failed, hodd.serving, by rw [hodd.counted, hback.dep], hodd.event,
        hback.restored.after hodd.cxWord (by rw [hodd.even])⟩, fun h => absurd hfree h, hout.tiles, hout.tb, hout.regs, hout.msg⟩
    next hbusy =>
      have hstop := State.unserved (r := s.restore u (2 * p)) hu64 (2 * p)
      have hout := hback.toOutside.trans hstop.toOutside
      refine ⟨fun h => absurd h hbusy, fun _ => ⟨hstop.failed, hstop.event, ?_⟩, hout.tiles, hout.tb, hout.regs, hout.msg⟩
      rw [hstop.others 8 (by omega), hback.others 8 (by omega)]
  · subst hwho
    have hodd := State.oddReplaced (r := s.voteOff u (2 * p)) hu64 hp
    have hout := (s.outside_modEng u (2 * p) (fun y => { y with voting := false })).trans hodd.toOutside
    have heven : (s.voteOff u (2 * p)).eng u (2 * p) = { s.eng u (2 * p) with voting := false } := State.eng_modEng_same ..
    refine ⟨_, (hexec .odd).trans (congrArg Host.Outcome.next (State.pairMismatch_voteOdd hp hb hrun hv)), hodd.failed, hodd.serving,
      ?_, ?_, hodd.counted, hodd.event, hout.tiles, hout.tb, hout.regs, hout.msg⟩
    · rw [hodd.even, heven]
    · rw [hodd.even, heven]
  · subst hwho
    have hout := ((s.outside_modEng u (2 * p) (fun y => { y with voting := false })).trans
      (State.outside_modEng _ u 8 (·.servingOf 15))).trans (State.outside_raise _ u (k := 4) (by decide))
    have heven : (((s.voteOff u (2 * p)).modEng u 8 (·.servingOf 15)).raise (tileSrc u 4)).eng u (2 * p) =
        { s.eng u (2 * p) with voting := false } := by
      rw [State.eng_raise, State.eng_modEng_ne _ _ _ (by omega)]
      exact State.eng_modEng_same ..
    refine ⟨_, (hexec .spare).trans (congrArg Host.Outcome.next (State.pairMismatch_voteSpare hp hb hrun hv)), ?_, ?_, ?_,
      State.evSet_raise_tile _ hu64 (by decide), State.dep_raise .., hout.tiles, hout.tb, hout.regs, hout.msg⟩
    · rw [State.eng_raise, State.eng_modEng_same]; rfl
    · rw [heven]
    · rw [heven]
end

/-! ## O34: the host's control of an engine (R238, R240, R243, R440) -/
section
namespace Sys2Proof.Machine
open Sys2Proof

variable {s t : State} {u e : Nat}

/-! ### One slot passes -/

/-- A state one slot later. -/
def State.later (s : State) : State := { s with tb := s.tb.run 1 }

theorem State.advance_one (hup : s.up = true) : s.advance 1 = s.later := s.advance_up 1 hup

theorem State.later_age : s.later.tb.age = s.tb.age + 1 := Timebase.run_age ..

theorem State.later_pairRunner (e : Nat) : s.later.pairRunner u e = s.pairRunner u e := rfl

theorem State.later_engRuns : s.later.engRuns u e = s.engRuns u e := rfl

theorem State.later_tile (u : Nat) : s.later.tile u = s.tile u := rfl

theorem State.Restored.of_later {src dst : Nat} (h : s.later.Restored u src dst t) : s.Restored u src dst t := h

/-- A command that changes one engine, one slot on. -/
theorem State.later_modEng (f : Engine → Engine) : (s.later.modEng u e f).eng u e = f (s.eng u e) ∧
    (∀ k, k ≠ e → (s.later.modEng u e f).eng u k = s.eng u k) ∧
    { (s.later.modEng u e f).tile u with engs := (s.tile u).engs } = s.tile u ∧
    (s.later.modEng u e f).tb.age = s.tb.age + 1 ∧ (∀ v, v ≠ u → (s.later.modEng u e f).tile v = s.tile v) ∧
    { s.later.modEng u e f with tb := s.tb, tiles := s.tiles } = s := by
  refine ⟨s.later.eng_modEng_same .., fun k hk => s.later.eng_modEng_ne u f hk, ?_, State.later_age,
    fun v hv => s.later.tile_modTile_ne u _ hv, rfl⟩
  rw [State.modEng, State.tile_modTile_same, State.later_tile]
  rfl

/-! ### Marks of a restart on the streams (R500, R501) -/

/-- Nothing changed but the link's own state. -/
def State.LinkApart (s t : State) : Prop := { t with lk := s.lk } = s

theorem State.LinkApart.refl (s : State) : s.LinkApart s := rfl

theorem State.LinkApart.trans {w : State} (h : s.LinkApart t) (k : t.LinkApart w) : s.LinkApart w := by
  unfold State.LinkApart at h k ⊢
  rw [← h, ← k]

theorem State.linkApart_restartOn (s : State) (cls idx : Nat) (v : W64) : s.LinkApart (s.restartOn cls idx v) := rfl

theorem State.linkApart_restartAll (s : State) (cause tile eng : Nat) : s.LinkApart (s.restartAll cause tile eng) := by
  have hdata : ∀ (s : State) v, s.LinkApart (s.restartData v) := fun s v => (s.linkApart_restartOn 1 0 v).trans
    (forKeys_keeps State.LinkApart.refl State.LinkApart.trans (fun i s => s.linkApart_restartOn 2 i v) _ _)
  have htier : ∀ (s : State) v, s.LinkApart (s.restartTier1 v) := fun s v =>
    forKeys_keeps State.LinkApart.refl State.LinkApart.trans (fun c s => s.linkApart_restartOn c 0 v) _ s
  have hfirst : s.LinkApart (if s.lk.restartOwed.isNone then s.restartTier1 (s.restartWord cause tile eng) else s) := by
    split
    · exact htier ..
    · exact .refl s
  have hall : ∀ r : State, s.LinkApart r → s.LinkApart (if r.lk.lateRestart.isNone then r.restartData (s.restartWord cause tile eng)
      else r) := fun r h => by
    split
    · exact h.trans (hdata ..)
    · exact h
  exact hall _ hfirst

/-- What a restart of an engine by its host does. -/
structure State.Restarted (s t : State) (u e : Nat) : Prop extends s.Outside t u where
  restored : s.Restored u e e t
  counted : t.dep.restarts = min 65535 (s.dep.restarts + 1)
  cause : t.pw.cause = 6 ∧ t.pw.causeTile = u ∧ t.pw.causeEng = e
  others : ∀ f, f ≠ e → t.eng u f = s.eng u f

/-- A restart that is counted and recorded, ahead of its marks on the streams. -/
def State.restartNoted (s : State) (u e : Nat) : State := s.countRestart.noteReset 6 u e

theorem State.restarted_noted (h : s.RestoreDone t u e) : s.Restarted (t.restartNoted u e) u e where
  toOutside := h.toOutside.trans ⟨rfl, rfl, rfl, fun _ _ => rfl⟩
  restored := h.restored.counted
  counted := congrArg (fun d => min 65535 (d.restarts + 1)) h.dep
  cause := ⟨rfl, rfl, rfl⟩
  others := h.others

theorem State.Restarted.marked {w : State} (h : s.Restarted t u e) (hw : t.LinkApart w) : s.Restarted w u e := by
  have htiles : w.tiles = t.tiles := (congrArg State.tiles hw :)
  have htile : ∀ v, w.tile v = t.tile v := fun v => State.tile_congr htiles v
  have heng : ∀ f, w.eng u f = t.eng u f := fun f => congrArg (Tile.eng · f) (htile u)
  have hcx : ∀ a, w.cxWord u a = t.cxWord u a := fun a => congrArg (fun x : Tile => mapGet (fun _ => 0) x.cx a) (htile u)
  obtain ⟨hout, hres, hcount, hcause, hothers⟩ := h
  refine ⟨hout.trans ⟨(congrArg State.tb hw :), (congrArg State.regs hw :), (congrArg State.msg hw :), fun v _ => htile v⟩,
    hres.after hcx (by rw [heng]), ?_, ?_, fun f hf => (heng f).trans (hothers f hf)⟩
  · have hdep : w.dep = t.dep := (congrArg State.dep hw :)
    rw [hdep, hcount]
  · have hpw : w.pw = t.pw := (congrArg State.pw hw :)
    rw [hpw]
    exact hcause

theorem State.restarted_engRestart : s.Restarted (s.engRestart u e) u e :=
  (State.restarted_noted s.restoreDone).marked (State.linkApart_restartAll ..)

/-! ### ENG_CTRL (R243) -/

theorem findRow_engCtrl : ∀ e < 9, findRow tileRows (0x2020 + 64 * e) = some (⟨.engCtrl, 0x2020, 9, 64, 0, 0, 0, 7⟩, e) := by
  decide +kernel

section
variable (hup : s.up = true) (hu : u < s.nTiles) (he : e < 9) (hp : (s.tile u).powered = true)

include hu he in
theorem regAt_engCtrl : regAt (tileBase u + 0x2020 + 64 * e) = some ⟨⟨.engCtrl, 0x2020, 9, 64, 0, 0, 0, 7⟩, e, some u⟩ :=
  Nat.add_assoc .. ▸ regAt_tileRow (hu.trans_le s.nTiles_le) (by omega) (findRow_engCtrl e he)

include hu he hp in
theorem State.writeReason_engCtrl (w : Reg32) : s.later.writeReason .host (tileBase u + 0x2020 + 64 * e) w =
    if bit w.toNat 0 && decide ((s.eng u e).st = 5) then some 4 else none := by
  have ha := tileBase_aligned u
  exact State.writeReason_tileReg s.later w (by omega) (regAt_engCtrl hu he) rfl (by simp) hu hp

include hup hu he hp

/-- A write of ENG_CTRL that is not refused acts one slot on. -/
theorem hostEng_engCtrl {fs : List (Nat × Nat × Nat)} {n : Nat} (hn : packW fs = n) (hlt : n < 2 ^ 32)
    (hok : bit n 0 = false ∨ (s.eng u e).st ≠ 5) :
    hostEng u e s (fun s => s.hostSet (tileBase u + 0x2020 + 64 * e) fs) = .next (s.later.engWrite u e n) := by
  have hr := regAt_engCtrl hu he
  have hw : (BitVec.ofNat 32 (packW fs)).toNat = n := by rw [hn, BitVec.toNat_ofNat, Nat.mod_eq_of_lt hlt]
  have k : (s.advance 1).writeReason .host (tileBase u + 0x2020 + 64 * e) (BitVec.ofNat 32 (packW fs)) = none := by
    rw [State.advance_one hup, State.writeReason_engCtrl hu he hp, hw, if_neg]
    rintro h
    rw [Bool.and_eq_true, decide_eq_true_eq] at h
    rcases hok with hb | hst
    · exact absurd h.1 (by simp [hb])
    · exact hst h.2
  rw [hostEng, if_pos he, hostTile, if_pos (hu.trans_le s.nTiles_le), onChip_up s _ hup, State.hostSet, s.writeAt_applied k,
    State.applyWrite, msgOffset_of_regAt hr, hr, State.advance_one hup]
  exact congrArg (fun m => Host.Outcome.next (s.later.engWrite u e m)) hw

theorem exec_restart (hst : (s.eng u e).st ≠ 5) : exec (.restart u e) s = .next (s.later.restartAsk u e) :=
  hostEng_engCtrl hup hu he hp (n := 1) rfl (by decide) (.inr hst)

theorem exec_ckptNow : exec (.ckptNow u e) s = .next (s.later.ckptAsk u e) :=
  hostEng_engCtrl hup hu he hp (n := 2) rfl (by decide) (.inl rfl)

theorem exec_peakClr : exec (.peakClr u e) s = .next (s.later.modEng u e (fun y => { y with peak := y.load })) :=
  hostEng_engCtrl hup hu he hp (n := 4) rfl (by decide) (.inl rfl)

theorem exec_restart_failed (hst : (s.eng u e).st = 5) : exec (.restart u e) s =
    .next ((s.advance 1).refuse .host (tileBase u + 0x2020 + 64 * e) 4) := by
  have k : (s.advance 1).writeReason .host (tileBase u + 0x2020 + 64 * e) 1 = some 4 := by
    rw [State.advance_one hup, State.writeReason_engCtrl hu he hp, if_pos]
    rw [hst]
    rfl
  show execRestart u e s = _
  rw [execRestart, hostEng, if_pos he, hostTile, if_pos (hu.trans_le s.nTiles_le), onChip_up s _ hup]
  exact congrArg Host.Outcome.next (s.writeAt_tileReg_refused (regAt_engCtrl hu he) (by simp) k)

end

/-! ### DEP_ENG_RET (R440) -/

theorem regAt_depEngRet : regAt 0xA00C = some ⟨⟨.depEngRet, 0xA00C, 1, 4, 0, 0, 0, 0x7ff⟩, 0, none⟩ := by decide +kernel

/-- The word that asks for the return of an engine. -/
def returnWord (u e : Nat) : Reg32 := BitVec.ofNat 32 (packW [(0, 6, u), (6, 4, e), (10, 1, 1)])

section
variable (hup : s.up = true) (hu : u < s.nTiles) (he : e < 8) (hp : (s.tile u).powered = true)

theorem returnWord_fields (hu : u < 64) (he : e < 8) : bits (returnWord u e).toNat 5 0 = u ∧ bits (returnWord u e).toNat 9 6 = e ∧
    bit (returnWord u e).toNat 10 = true := by
  have hw : (returnWord u e).toNat = u + e * 64 + 1024 := by
    rw [returnWord, BitVec.toNat_ofNat]
    simp only [packW]
    omega
  rw [hw]
  refine ⟨?_, ?_, ?_⟩
  · simp only [bits]
    omega
  · simp only [bits]
    omega
  · simp only [bit, decide_eq_true_eq]
    omega

include hup hu he hp

theorem State.writeReason_depEngRet : (s.advance 1).writeReason .host 0xA00C (returnWord u e) =
    if (s.eng u e).st ≠ 5 ∨ (s.eng u e).test then some 4 else none := by
  obtain ⟨hfu, hfe, hfb⟩ := returnWord_fields (hu.trans_le s.nTiles_le) he
  have hon : s.tileOff u = false := by simp [State.tileOff, State.onPart, hu, hp]
  have hreason : s.later.writeReason .host 0xA00C (returnWord u e) = s.returnBad (returnWord u e).toNat :=
    State.writeReason_reg _ .host _ (by decide) regAt_depEngRet
  rw [State.advance_one hup, hreason, State.returnBad, hfu, hfe, hfb]
  simp only [Bool.not_true, Bool.false_eq_true, if_false, show ¬7 < e by omega, hon]

theorem exec_depEngRet (h5 : (s.eng u e).st = 5) (htest : (s.eng u e).test = false) : exec (.depEngRet u e) s =
    .next (s.later.testAsk u e) := by
  obtain ⟨hfu, hfe, hfb⟩ := returnWord_fields (hu.trans_le s.nTiles_le) he
  have k : (s.advance 1).writeReason .host 0xA00C (returnWord u e) = none := by
    rw [State.writeReason_depEngRet hup hu he hp, if_neg (by simp [h5, htest])]
  have hact : s.later.applyWrite .host 0xA00C (returnWord u e) none = s.later.testAsk u e := by
    rw [State.applyWrite, msgOffset_of_regAt regAt_depEngRet, regAt_depEngRet]
    refine (if_pos hfb).trans ?_
    rw [hfu, hfe]
    rfl
  show execDepEngRet u e s = _
  rw [execDepEngRet, hostEng, if_pos (by omega), hostTile, if_pos (hu.trans_le s.nTiles_le), onChip_up s _ hup, ← hact,
    ← State.advance_one hup, ← s.writeAt_applied k]
  rfl

theorem exec_depEngRet_refused (h5 : (s.eng u e).st ≠ 5) : exec (.depEngRet u e) s = .next ((s.advance 1).refuse .host 0xA00C 4) := by
  have k : (s.advance 1).writeReason .host 0xA00C (returnWord u e) = some 4 := by
    rw [State.writeReason_depEngRet hup hu he hp, if_pos (.inl h5)]
  have hreport : (s.advance 1).reportStart 0xA00C (returnWord u e).toNat = s.advance 1 := by
    refine State.reportStart_none _ (fun x hx => ?_) (.inr (by decide))
    rw [regAt_depEngRet] at hx
    cases hx
    exact ⟨by decide, by decide⟩
  show execDepEngRet u e s = _
  rw [execDepEngRet, hostEng, if_pos (by omega), hostTile, if_pos (hu.trans_le s.nTiles_le), onChip_up s _ hup]
  refine congrArg Host.Outcome.next ?_
  show s.writeAt .host 0xA00C (returnWord u e) none = _
  rw [State.writeAt, State.busWrite_refused _ k, hreport]

end

end Sys2Proof.Machine
open Sys2Proof Sys2Proof.Machine

/-- Settles O34: each command is one register write, applied one slot on as that register's action on the engine that runs the
work, or refused for an engine's state. -/
theorem engineControl : Obligations.EngineControl := by
  refine ⟨fun s u e r hup hu he hp hst hsoft hr hrun => ?_, fun s u e r hup hu he hp hr hrun => ?_, fun s u e hup hu he hp => ?_,
    fun s u e hup hu he hp h5 htest => ?_, fun s u e hup hu he hp h5 => exec_restart_failed hup hu he hp h5,
    fun s u e hup hu he hp h5 => exec_depEngRet_refused hup hu he hp h5⟩
  · have hask : s.later.restartAsk u e = s.later.engRestart u r := by
      have hrun' : (s.later.engRuns u r && !s.later.pw.soft) = true := by
        rw [State.later_engRuns, hrun]
        exact congrArg Bool.not hsoft
      rw [State.restartAsk, State.later_pairRunner, ← hr, if_pos hrun']
    obtain ⟨hout, hres, hcount, ⟨hcause, htile, heng⟩, hothers⟩ := State.restarted_engRestart (s := s.later) (u := u) (e := r)
    refine ⟨_, (exec_restart hup hu he hp hst).trans (congrArg Host.Outcome.next hask), hres.of_later, hcount, hcause, htile, heng,
      hothers, ?_, hout.tiles, hout.regs, hout.msg⟩
    rw [hout.tb, State.later_age]
  · have hask : s.later.ckptAsk u e = s.later.modEng u r (fun y => { y with ckptReq := true }) := by
      rw [State.ckptAsk, State.later_pairRunner, ← hr, if_pos (State.later_engRuns.trans hrun)]
    exact ⟨_, (exec_ckptNow hup hu he hp).trans (congrArg Host.Outcome.next hask), State.later_modEng _⟩
  · exact ⟨_, exec_peakClr hup hu he hp, State.later_modEng _⟩
  · exact ⟨_, exec_depEngRet hup hu he hp h5 htest, State.later_modEng _⟩
end

/-! ## O22: flush, clear, expiry, the stream reader and the flow-control outputs (R255, R258, R261, R264, R268, R272) -/
section
namespace Sys2Proof.Machine
open Sys2Proof

/-! ### What leaves the queues of a tile -/

/-- Every queue of tile `u` stands as it was, and so does what lies outside the tile. -/
structure State.QueuesKept (s t : State) (u : Nat) : Prop extends s.Outside t u where
  queues : ∀ p, t.queue u p = s.queue u p

/-- Queue `q` of tile `u` now is `x`, but for what its watermarks drive; no other queue of the tile changed. -/
structure State.QueueSet (s t : State) (u q : Nat) (x : Queue) : Prop extends s.Outside t u where
  others : ∀ p, p ≠ q → t.queue u p = s.queue u p
  queue : { t.queue u q with hi := x.hi, xup := x.xup, xdn := x.xdn } = x

section
variable {s t w : State} {u q : Nat} {x : Queue}

theorem State.QueuesKept.refl (s : State) (u : Nat) : s.QueuesKept s u := ⟨.refl s u, fun _ => rfl⟩

theorem State.QueuesKept.trans (h : s.QueuesKept t u) (k : t.QueuesKept w u) : s.QueuesKept w u :=
  ⟨h.toOutside.trans k.toOutside, fun p => (k.queues p).trans (h.queues p)⟩

theorem State.QueuesKept.ite {p : Prop} [Decidable p] (h : s.QueuesKept t u) (k : s.QueuesKept w u) :
    s.QueuesKept (if p then t else w) u := by
  split
  · exact h
  · exact k

theorem State.queuesKept_modTile (s : State) (u : Nat) {f : Tile → Tile} (hf : (f (s.tile u)).qs = (s.tile u).qs) :
    s.QueuesKept (s.modTile u f) u := by
  refine ⟨(s.tileOnly_modTile u f).outside, fun p => ?_⟩
  rw [State.queue, State.tile_modTile_same, Tile.queue, hf]
  rfl

theorem State.queuesKept_forKeys {f : Nat → State → State} (hf : ∀ (k : Nat) (s : State), s.QueuesKept (f k s) u)
    (ks : List Nat) (s : State) :
    s.QueuesKept (forKeys ks f s) u :=
  forKeys_keeps (R := fun s t => s.QueuesKept t u) (fun s => .refl s u) State.QueuesKept.trans hf ks s

theorem State.queuesKept_raise (s : State) (u : Nat) {k : Nat} (hk : k < 16) : s.QueuesKept (s.raise (tileSrc u k)) u :=
  ⟨s.outside_raise u hk, fun p => s.queue_raise _ u p⟩

theorem State.QueuesKept.set (h : s.QueuesKept t u) (f : Queue → Queue) :
    s.QueueSet (t.modQueue u q f) u q (f (s.queue u q)) where
  toOutside := h.toOutside.trans (t.queueApart_modQueue u q f).outside
  others p hp := ((t.queueApart_modQueue u q f).others p hp).trans (h.queues p)
  queue := by rw [State.queue_modQueue_same, h.queues]

theorem State.QueueSet.kept (h : s.QueueSet t u q x) (k : t.QueuesKept w u) : s.QueueSet w u q x where
  toOutside := h.toOutside.trans k.toOutside
  others p hp := (k.queues p).trans (h.others p hp)
  queue := by rw [k.queues, h.queue]

/-- The watermarks of a queue are evaluated. -/
theorem State.QueueSet.eval (h : s.QueueSet t u q x) : s.QueueSet (t.qEval u q) u q x where
  toOutside := h.toOutside.trans (t.levelsApart_qEval u q).outside
  others p hp := ((t.levelsApart_qEval u q).others p hp).trans (h.others p hp)
  queue := by rw [← h.queue, ← (t.levelsApart_qEval u q).queue]

theorem State.QueueSet.rp (h : s.QueueSet t u q x) : (t.queue u q).rp = x.rp := (congrArg Queue.rp h.queue :)

theorem State.QueueSet.wp (h : s.QueueSet t u q x) : (t.queue u q).wp = x.wp := (congrArg Queue.wp h.queue :)

theorem State.QueueSet.rmark (h : s.QueueSet t u q x) : (t.queue u q).rmark = x.rmark := (congrArg Queue.rmark h.queue :)

theorem State.QueueSet.flref (h : s.QueueSet t u q x) : (t.queue u q).flref = x.flref := (congrArg Queue.flref h.queue :)

theorem State.QueueSet.cFlush (h : s.QueueSet t u q x) : (t.queue u q).cFlush = x.cFlush := (congrArg Queue.cFlush h.queue :)

theorem State.QueueSet.cExp (h : s.QueueSet t u q x) : (t.queue u q).cExp = x.cExp := (congrArg Queue.cExp h.queue :)

/-! ### Flush (R268) -/

theorem ringDist_self (c a : Nat) : ringDist c a a = 0 := by
  have hdvd : 2 * c ∣ a + 2 * c - a % (2 * c) := by
    rw [Nat.add_comm, Nat.add_sub_assoc (Nat.mod_le ..)]
    exact (Nat.dvd_add_right (dvd_refl _)).2 (Nat.dvd_sub_mod a)
  rw [ringDist, Nat.mod_eq_zero_of_dvd hdvd, ite_self]

/-- A queue whose committed words, `n` of them, were flushed: its open packet is doomed. -/
def Queue.emptied (x : Queue) (n : Nat) : Queue :=
  { x with
    rp := x.rmark
    cFlush := satAdd (2 ^ 32 - 1) x.cFlush n
    flref := false
    flushed := x.flushed || (x.opened && !x.doomed)
    doomed := x.doomed || x.opened }

theorem State.queuesKept_lbGone (s : State) (u : Nat) : s.QueuesKept (s.lbGone u) u :=
  State.queuesKept_forKeys (fun _ s => s.queuesKept_modTile u rfl) _ s

theorem State.queueSet_qFlush (s : State) (u q : Nat) :
    s.QueueSet (s.qFlush u q) u q ((s.queue u q).emptied (s.qCommitted u q)) := by
  have hgone : s.QueuesKept (if q = s.lbq u then s.lbGone u else s) u := .ite (s.queuesKept_lbGone u) (.refl s u)
  have hset := hgone.set (q := q) (·.emptied (s.qCommitted u q))
  exact (hset.kept (State.queuesKept_forKeys (fun _ s => s.queuesKept_modTile u rfl) _ _)).eval

theorem State.QueueSet.qCommitted_emptied {y : Queue} {n : Nat} (h : s.QueueSet t u q (y.emptied n)) : t.qCommitted u q = 0 := by
  rw [State.qCommitted, h.rp, h.rmark]
  exact ringDist_self ..

/-- Whether a flush is refused depends on the read marks and the engines, the registers and the power state. -/
theorem State.flushRefused_congr (hr : t.regs = s.regs) (hp : t.pw = s.pw) (hm : (t.tile u).marks = (s.tile u).marks)
    (he : (t.tile u).engs = (s.tile u).engs) : t.flushRefused u q = s.flushRefused u q := by
  have heng : (t.tile u).eng = (s.tile u).eng := by
    unfold Tile.eng
    rw [he]
  have hrunner : (t.tile u).runner = (s.tile u).runner := by
    unfold Tile.runner
    rw [heng]
  have hrv : t.rv = s.rv := by
    unfold State.rv
    rw [hr]
  have hin : t.inqOf u q = s.inqOf u q := by
    unfold State.inqOf State.engCfg
    rw [hrunner, hrv]
  have hst : t.engState u = s.engState u := by
    unfold State.engState
    rw [heng, hp]
  rw [State.flushRefused, State.flushRefused, State.lbq, State.lbq, State.tfld, State.tfld, hrv, hin, hst, hm]

/-! ### TQ_STAT (R274) -/

theorem findRow_tqStat : ∀ q < 256,
    findRow tileRows (0x100C + 16 * q) = some (⟨.tqStat, 0x100C, 256, 16, 0, 0, 0x3c00000, 0xc000000⟩, q) := by
  decide +kernel

theorem regAt_tqStat (hu : u < 64) (hq : q < 256) : regAt (tileBase u + 0x100C + 16 * q) =
    some ⟨⟨.tqStat, 0x100C, 256, 16, 0, 0, 0x3c00000, 0xc000000⟩, q, some u⟩ :=
  Nat.add_assoc .. ▸ regAt_tileRow hu (by omega) (findRow_tqStat q hq)

/-- A state one slot later, after a write of TQ_STAT that clears no sticky bit. -/
def State.tqTouched (s : State) (u q : Nat) : State :=
  s.later.modQueue u q (fun x => { x with
    ovr := x.ovr && !false, xup := x.xup && !false, xdn := x.xdn && !false, psn := x.psn && !false })

theorem State.queue_tqTouched (p : Nat) : (s.tqTouched u q).queue u p = s.queue u p := by
  rw [State.tqTouched, State.queue_modQueue]
  simp only [Bool.not_false, Bool.and_true, true_and]
  split
  next h => rw [h]; rfl
  next => rfl

theorem State.queuesKept_tqTouched : s.later.QueuesKept (s.tqTouched u q) u :=
  ⟨(State.queueApart_modQueue _ u q _).outside, State.queue_tqTouched⟩

theorem State.qCommitted_tqTouched : (s.tqTouched u q).qCommitted u q = s.qCommitted u q := by
  rw [State.qCommitted, State.queue_tqTouched]
  rfl

theorem State.flushRefused_tqTouched : (s.tqTouched u q).flushRefused u q = s.flushRefused u q :=
  State.flushRefused_congr rfl rfl (s.later.tile_modTile_keeps u (·.marks) u _ (fun _ => rfl))
    (s.later.tile_modTile_keeps u (·.engs) u _ (fun _ => rfl))

section
variable (hup : s.up = true) (hu : u < s.nTiles) (hq : q < 256) (hp : (s.tile u).powered = true)
include hup hu hq hp

/-- A write of TQ_STAT acts one slot on. -/
theorem hostQueue_tqStat {fs : List (Nat × Nat × Nat)} {n : Nat} (hn : packW fs = n) (hlt : n < 2 ^ 32) :
    hostQueue u q s (fun s => s.hostSet (tileBase u + 0x100C + 16 * q) fs) = .next (s.later.tqWrite u q n) := by
  have hu64 := hu.trans_le s.nTiles_le
  have hr := regAt_tqStat hu64 hq
  have ha := tileBase_aligned u
  have hw : (BitVec.ofNat 32 (packW fs)).toNat = n := by rw [hn, BitVec.toNat_ofNat, Nat.mod_eq_of_lt hlt]
  have k : (s.advance 1).writeReason .host (tileBase u + 0x100C + 16 * q) (BitVec.ofNat 32 (packW fs)) = none := by
    rw [State.advance_one hup]
    exact s.later.writeReason_tileReg _ (by omega) hr rfl (by simp) hu hp
  rw [hostQueue, if_pos hq, hostTile, if_pos hu64, onChip_up s _ hup, State.hostSet, s.writeAt_applied k, State.applyWrite,
    msgOffset_of_regAt hr, hr, State.advance_one hup]
  exact congrArg (fun m => Host.Outcome.next (s.later.tqWrite u q m)) hw

theorem exec_flush : exec (.flush u q) s = .next ((s.tqTouched u q).flushCmd u q) :=
  hostQueue_tqStat hup hu hq hp (fs := [(26, 1, 1)]) (n := 0x4000000) rfl (by decide)

theorem exec_queueClr : exec (.queueClr u q) s = .next ((s.tqTouched u q).modQueue u q Queue.cleared) :=
  hostQueue_tqStat hup hu hq hp (fs := [(27, 1, 1)]) (n := 0x8000000) rfl (by decide)

theorem exec_flush_done (h : s.flushRefused u q = false) : exec (.flush u q) s = .next ((s.tqTouched u q).qFlush u q) := by
  rw [exec_flush hup hu hq hp, State.flushCmd, if_neg (by simp [State.flushRefused_tqTouched, h])]

theorem exec_flush_refused (h : s.flushRefused u q = true) :
    exec (.flush u q) s = .next ((s.tqTouched u q).modQueue u q (fun x => { x with flref := true })) := by
  rw [exec_flush hup hu hq hp, State.flushCmd, if_pos (State.flushRefused_tqTouched.trans h)]

end

/-- What a flush that is not refused does, one slot on. -/
theorem State.queueSet_flushed :
    s.later.QueueSet ((s.tqTouched u q).qFlush u q) u q ((s.queue u q).emptied (s.qCommitted u q)) := by
  have h := (s.tqTouched u q).queueSet_qFlush u q
  rw [State.queue_tqTouched, State.qCommitted_tqTouched] at h
  exact ⟨State.queuesKept_tqTouched.toOutside.trans h.toOutside,
    fun p hp => (h.others p hp).trans (State.queue_tqTouched p), h.queue⟩

/-! ### The latency buffer's expiry (R261) -/

/-- A queue whose record at RP, of a ring of capacity `c`, expired. -/
def Queue.expired (x : Queue) (c : Nat) : Queue := { x with rp := ringAdd c x.rp 1, cExp := (x.cExp + 1) % 2 ^ 32 }

theorem State.queueSet_lbExpire (s : State) (u : Nat) :
    s.QueueSet (s.lbExpire u) u (s.lbq u) ((s.queue u (s.lbq u)).expired (s.qCap u (s.lbq u))) := by
  have hexpire : ∀ (r : State) (q : Nat), s.QueuesKept r u →
      s.QueueSet ((r.modQueue u q (·.expired (r.qCap u q))).qEval u q) u q ((s.queue u q).expired (s.qCap u q)) := fun r q hr => by
    rw [State.qCap_congr hr.regs]
    exact (hr.set _).eval
  exact hexpire _ _ (.ite (s.queuesKept_modTile u rfl) (.refl s u))

/-! ### Reading packets (R258, R259, R265, R267) -/

/-- Queue `q` of tile `u` kept its pointers, and what lies outside the tile stands as it was. -/
structure State.PointersKept (s t : State) (u q : Nat) : Prop extends s.Outside t u where
  rp : (t.queue u q).rp = (s.queue u q).rp
  wp : (t.queue u q).wp = (s.queue u q).wp

theorem State.PointersKept.refl (s : State) (u q : Nat) : s.PointersKept s u q := ⟨.refl s u, rfl, rfl⟩

theorem State.PointersKept.trans (h : s.PointersKept t u q) (k : t.PointersKept w u q) : s.PointersKept w u q :=
  ⟨h.toOutside.trans k.toOutside, k.rp.trans h.rp, k.wp.trans h.wp⟩

theorem State.PointersKept.ite {p : Prop} [Decidable p] (h : s.PointersKept t u q) (k : s.PointersKept w u q) :
    s.PointersKept (if p then t else w) u q := by
  split
  · exact h
  · exact k

theorem State.QueuesKept.pointers (h : s.QueuesKept t u) (q : Nat) : s.PointersKept t u q :=
  ⟨h.toOutside, congrArg Queue.rp (h.queues q), congrArg Queue.wp (h.queues q)⟩

theorem State.pointersKept_modQueue (s : State) (u q : Nat) {f : Queue → Queue} (hr : (f (s.queue u q)).rp = (s.queue u q).rp)
    (hw : (f (s.queue u q)).wp = (s.queue u q).wp) : s.PointersKept (s.modQueue u q f) u q :=
  ⟨(s.queueApart_modQueue u q f).outside, by rw [State.queue_modQueue_same, hr], by rw [State.queue_modQueue_same, hw]⟩

theorem State.pointersKept_qPoison (s : State) (u q : Nat) : s.PointersKept (s.qPoison u q) u q := by
  have hcount : ∀ f : Queue → Queue, (f (s.queue u q)).rp = (s.queue u q).rp → (f (s.queue u q)).wp = (s.queue u q).wp →
      s.PointersKept (s.qSticky u q f) u q := fun f hr hw =>
    (s.pointersKept_modQueue u q hr hw).trans ((State.queuesKept_modTile _ u rfl).pointers q)
  have hsheets : ∀ (r : State) cs g, r.QueuesKept (forKeys cs (fun c r => r.modChan u c g) r) u := fun r cs _ =>
    State.queuesKept_forKeys (fun _ r => r.queuesKept_modTile u rfl) cs r
  exact (hcount _ rfl rfl).trans (((hsheets ..).trans (State.queuesKept_raise _ u (by decide))).pointers q)

theorem State.pointersKept_qRead (s : State) (u q pos : Nat) : s.PointersKept (s.qRead u q pos).2.2 u q := by
  have hbad : ∀ (r : State) (b : Bool), s.PointersKept r u q → s.PointersKept (if b then r.qPoison u q else r) u q :=
    fun r _ hr => .ite (hr.trans (r.pointersKept_qPoison u q)) hr
  exact hbad _ _ (.ite (((s.queuesKept_modTile u rfl).pointers q).trans (State.pointersKept_modQueue _ u q rfl rfl)) (.refl s u q))

theorem State.pointersKept_qReads (u q n : Nat) : ∀ (s : State) (pos : Nat), s.PointersKept (s.qReads u q pos n).2 u q := by
  induction n with
  | zero => exact fun s _ => .refl s u q
  | succ n ih => exact fun s pos => (s.pointersKept_qRead u q pos).trans (ih _ _)

/-- The `n` words at RP of queue `q` left it; outside its tile nothing but events and links changed. -/
structure State.Taken (s t : State) (u q n : Nat) : Prop extends s.Outside t u where
  rp : (t.queue u q).rp = ringAdd (s.qCap u q) (s.queue u q).rp n
  wp : (t.queue u q).wp = (s.queue u q).wp

theorem State.queueSet_qTake (s : State) (u q n : Nat) :
    s.QueueSet (s.qTake u q n) u q { s.queue u q with rp := ringAdd (s.qCap u q) (s.queue u q).rp n } :=
  ((State.QueuesKept.refl s u).set (fun x => { x with rp := ringAdd (s.qCap u q) x.rp n })).eval

theorem State.taken_claimPacket (s : State) (u q : Nat) : s.Taken (s.claimPacket u q).2.2 u q (s.packetLen u q) := by
  have hread := s.pointersKept_qReads u q (s.packetLen u q) (s.queue u q).rp
  have htake := State.queueSet_qTake (s.qReads u q (s.queue u q).rp (s.packetLen u q)).2 u q (s.packetLen u q)
  refine ⟨hread.toOutside.trans htake.toOutside, htake.rp.trans ?_, htake.wp.trans hread.wp⟩
  rw [State.qCap_congr hread.regs, hread.rp]

/-! ### The stream reader (R259, R337, R341) -/

theorem State.linkApart_closeFrame (s : State) (i : Nat) : s.LinkApart (s.closeFrame i) := (s.fciKept_closeFrame i).2

theorem State.LinkApart.setStream (h : s.LinkApart t) (c i : Nat) (y : Stream) : s.LinkApart (t.setStream c i y) := h.trans rfl

theorem State.linkApart_plainPacket (s : State) (i : Nat) (ws : List W64) : s.LinkApart (s.plainPacket i ws) := by
  refine State.LinkApart.setStream ?_ 2 i _
  split
  · split
    · exact s.linkApart_closeFrame i
    · exact .refl s
  · exact .refl s

/-- A packet that goes into a frame of its own, after the open frame. -/
theorem State.linkApart_ownFrame (s : State) (i : Nat) (ws : List W64) : s.LinkApart ((s.closeFrame i).sendOwn 2 i ws) :=
  (s.linkApart_closeFrame i).setStream ..

theorem State.linkApart_packItem (s : State) (i : Nat) (ws : List W64) (clean : Bool) : s.LinkApart (s.packItem i ws clean) := by
  simp only [State.packItem]
  split
  · split
    · exact s.linkApart_ownFrame ..
    · split
      · rfl
      · split
        · split
          · exact s.linkApart_ownFrame ..
          · split
            · rfl
            · exact (s.linkApart_closeFrame i).setStream ..
        · exact (s.linkApart_closeFrame i).setStream ..
  · exact s.linkApart_ownFrame ..

theorem State.Taken.linked {n : Nat} (h : s.Taken t u q n) (k : t.LinkApart w) : s.Taken w u q n := by
  have htile : ∀ v, w.tile v = t.tile v := State.tile_congr (congrArg State.tiles k :)
  have hqueue : w.queue u q = t.queue u q := congrArg (Tile.queue · q) (htile u)
  exact ⟨h.toOutside.trans ⟨(congrArg State.tb k :), (congrArg State.regs k :), (congrArg State.msg k :), fun v _ => htile v⟩,
    (congrArg Queue.rp hqueue).trans h.rp, (congrArg Queue.wp hqueue).trans h.wp⟩

/-- A packet of queue `q` put into the frame of the tile's plain stream, which asks the queue after it next. -/
def State.plainTaken (s : State) (u q : Nat) : State :=
  let r := (s.claimPacket u q).2.2.plainPacket u (s.claimPacket u q).1
  r.setStream 2 u { r.stream 2 u with round := (q + 1) % 256 }

theorem State.taken_plainTaken : s.Taken (s.plainTaken u q) u q (s.packetLen u q) :=
  (s.taken_claimPacket u q).linked ((State.linkApart_plainPacket ..).setStream ..)

theorem State.plainTaken_round : ((s.plainTaken u q).stream 2 u).round = (q + 1) % 256 := by
  rw [State.plainTaken, State.stream_setStream, if_pos rfl]

/-- A packet of queue `q` put into the tile's packed stream. -/
def State.packedTaken (s : State) (u q : Nat) : State :=
  (s.claimPacket u q).2.2.packItem (64 + u) (s.claimPacket u q).1 (s.claimPacket u q).2.1

theorem State.taken_packedTaken : s.Taken (s.packedTaken u q) u q (s.packetLen u q) :=
  (s.taken_claimPacket u q).linked (State.linkApart_packItem ..)

section
variable (hup : s.up = true) (hu : u < s.nTiles)
include hup hu

theorem exec_lbExpiry (hold : s.lbOld u = true) (hpin : s.pinned u = false) : exec (.lbExpiry u) s = .next (s.lbExpire u) := by
  show execLbExpiry u s = _
  rw [execLbExpiry, onTile_up s u _ hup hu, if_pos (by simp [hold, hpin])]

theorem exec_streamRead_plain (hp : (s.tile u).powered = true) (hq : s.nextDrain u = some q) (hl : s.takesResults u = true) :
    exec (.streamReadPacket u false) s = .next (s.plainTaken u q) := by
  show execStreamReadPacket u false s = _
  rw [execStreamReadPacket, onTile_up s u _ hup hu, if_neg (by simp [hp]), if_neg (by simp), hq]
  exact congrArg Host.Outcome.next (if_pos hl)

theorem exec_streamRead_packed (hp : (s.tile u).powered = true) (hon : s.packOn u = true) (hl : s.takesResults (64 + u) = true)
    (hc : s.qCommitted u (s.tfld u 0x80 7 0) ≠ 0) :
    exec (.streamReadPacket u true) s = .next (s.packedTaken u (s.tfld u 0x80 7 0)) := by
  show execStreamReadPacket u true s = _
  rw [execStreamReadPacket, onTile_up s u _ hup hu, if_neg (by simp [hp]), if_pos rfl]
  exact congrArg Host.Outcome.next (if_pos (by simp [hon, hl, hc]))

end

/-! ### Flow-control outputs (R272) -/

/-- Output `k` falls at slot age `a`. -/
def State.fcoFall (s : State) (k a : Nat) : State :=
  { s.advanceTo a with fco := mapSet (fun _ => {}) (s.advanceTo a).fco k {} }

theorem State.pinFco_fcoFall (k a j : Nat) : (s.fcoFall k a).pinFco j = if j = k then {} else s.pinFco j := by
  rw [State.pinFco, State.fcoFall, mapGet_set, State.advanceTo, State.advance_fco]
  rfl

theorem exec_fcoDeassert {k : Nat} (hup : s.up = true) (hk : k < 8) (hlevel : (s.pinFco k).level = true)
    (hwant : s.fcoWanted k = false) :
    exec (.fcoDeassert k) s = .next (s.fcoFall k (max ((s.pinFco k).since + 8) (s.pinFco k).back)) := by
  show execFcoDeassert k s = _
  rw [execFcoDeassert, onUnit_up s k 8 _ hk hup, if_pos (by simp [hlevel, hwant])]
  rfl

end

end Sys2Proof.Machine
open Sys2Proof Sys2Proof.Machine

/-- Settles O22: the two writes of TQ_STAT act one slot on; a flush, an expiry and a packet taken each set RP of one queue and
leave registers and message memory, and the pin's fall moves nothing but the clock and the pin. -/
theorem queueCommands : Obligations.QueueCommands := by
  refine ⟨⟨fun s u q hup hu hq hp h => ?_, fun s u q hup hu hq hp h => ?_, fun s u q hup hu hq hp => ?_⟩,
    fun s u hup hu hold hpin => ?_, fun s u q hup hu hp hq hl => ?_, fun s u hup hu hp hon hl hc => ?_,
    fun s k hup hk hlevel hwant => ?_⟩
  · have hset := State.queueSet_flushed (s := s) (u := u) (q := q)
    exact ⟨_, exec_flush_done hup hu hq hp h, hset.qCommitted_emptied, hset.rp, hset.cFlush, hset.flref, hset.others, hset.regs,
      hset.msg⟩
  · have hset := (State.queuesKept_tqTouched (s := s) (u := u) (q := q)).set (q := q) (fun x => { x with flref := true })
    exact ⟨_, exec_flush_refused hup hu hq hp h, hset.flref, hset.rp, hset.wp, hset.cFlush, hset.regs⟩
  · have hset := (State.queuesKept_tqTouched (s := s) (u := u) (q := q)).set (q := q) Queue.cleared
    refine ⟨_, exec_queueClr hup hu hq hp, ?_, hset.others, hset.tiles, rfl⟩
    rw [State.queue_modQueue_same, State.queue_tqTouched]
    rfl
  · have hset := s.queueSet_lbExpire u
    exact ⟨_, exec_lbExpiry hup hu hold hpin, hset.rp, hset.cExp, hset.wp, hset.tb, hset.regs, hset.msg⟩
  · have htaken := State.taken_plainTaken (s := s) (u := u) (q := q)
    exact ⟨_, exec_streamRead_plain hup hu hp hq hl, htaken.rp, htaken.wp, State.plainTaken_round, htaken.tb, htaken.regs,
      htaken.msg⟩
  · have htaken := State.taken_packedTaken (s := s) (u := u) (q := s.tfld u 0x80 7 0)
    exact ⟨_, exec_streamRead_packed hup hu hp hon hl hc, htaken.rp, htaken.tb, htaken.regs, htaken.msg⟩
  · refine ⟨_, exec_fcoDeassert hup hk hlevel hwant, ?_, s.advanceTo_age _ hup, fun j hj => ?_, ?_⟩
    · rw [State.pinFco_fcoFall, if_pos rfl]
    · rw [State.pinFco_fcoFall, if_neg hj]
    · rw [State.fcoFall, s.advanceTo_eq _ hup]
end

