-- ==== Sys2Proof/Proofs/Triggers.lean ====
section
/-! ## O37: a trigger's arrival (R277 to R292) -/

namespace Sys2Proof.Machine
open Sys2Proof

/-! ### The trigger time (R279, R280) -/

/-- TLOW at or below the nanoseconds of the arrival: the trigger time lies in the arrival's second. -/
theorem trigLatency_of_le {a low : Nat} (hlow : low < 2 ^ 24) (h : low ≤ a) :
    trigLatency a low ≤ a ∧ trigLatency a low < 2 ^ 24 ∧ (a - trigLatency a low) % 2 ^ 24 = low := by
  rw [trigLatency, if_pos h]
  omega

/-- TLOW above the nanoseconds of the arrival: the trigger time lies in the second before. -/
theorem trigLatency_of_lt {a low : Nat} (hlow : low < 2 ^ 24) (h : a < low) :
    a < trigLatency a low ∧ (a + 10 ^ 9 - trigLatency a low) % 2 ^ 24 = low ∧ trigLatency a low ≤ a + 2 ^ 24 := by
  rw [trigLatency, if_neg (by omega)]
  omega

section
variable {s : State}

/-! ### A trigger is refused (R286, R292) -/

/-- A refused trigger changes the counts and the last refusal, and sends its answer with the refused-trigger event. -/
theorem State.apart_tref (s : State) (id code reason epoch : Nat) :
    ({ s with eb := { s.eb with tref := (s.eb.tref + 1) % 2 ^ 32, lastReason := reason, lastId := id } } : State).EventsApart
      (s.tref id code reason epoch) :=
  State.EventsApart.trans ⟨rfl, fun _ => rfl⟩ (State.apart_raise ..)

theorem State.eb_tref (s : State) (id code reason epoch : Nat) : (s.tref id code reason epoch).eb =
    { s.eb with tref := (s.eb.tref + 1) % 2 ^ 32, lastReason := reason, lastId := id } :=
  (congrArg State.eb (s.apart_tref id code reason epoch).1 :)

theorem State.marks_tref (s : State) (id code reason epoch v : Nat) :
    ((s.tref id code reason epoch).tile v).marks = (s.tile v).marks :=
  (congrArg Tile.marks ((s.apart_tref id code reason epoch).2 v) :)

theorem State.evSet_tref (s : State) (id code reason epoch : Nat) : (s.tref id code reason epoch).evSet (chipSrc 14) = true :=
  State.evSet_raise _ _ (by decide)

theorem bits_flags (b : Nat) : bits (bits b 51 48) 3 2 = bits b 51 50 := by
  unfold bits
  omega

theorem State.arrivalReason_flags {p : Trig} (l : Nat) (h : bits p.flags 3 2 ≠ 0) : s.arrivalReason p l = some 1 := if_pos h

theorem State.arrivalReason_off {p : Trig} (l : Nat) (h : bits p.flags 3 2 = 0) (hen : bit (s.trgCap p.code) 16 = false) :
    s.arrivalReason p l = some 2 := by
  rw [State.arrivalReason, if_neg (not_not_intro h), if_pos (by rw [hen]; rfl)]

theorem State.arrivalReason_late {p : Trig} {l : Nat} (h : bits p.flags 3 2 = 0) (hen : bit (s.trgCap p.code) 16 = true)
    (hl : 65528 < l) : s.arrivalReason p l = some 3 := by
  rw [State.arrivalReason, if_neg (not_not_intro h), if_neg (by rw [hen]; decide), if_pos hl]

/-! ### Read marks (R283, R284) -/

/-- The window's place in a latency buffer follows from the tile and the registers. -/
theorem State.winSpan_congr {t : State} {v : Nat} (hr : t.regs = s.regs) (ht : t.tile v = s.tile v) (w0 w1 : Int) :
    t.winSpan v w0 w1 = s.winSpan v w0 w1 := by
  have hrv : ∀ a, t.rv a = s.rv a := fun a => by rw [State.rv, hr]; rfl
  have hq : t.lbq v = s.lbq v := by simp only [State.lbq, State.tfld, hrv]
  have hcap : t.qCap v (s.lbq v) = s.qCap v (s.lbq v) := State.qCap_congr hr
  have hring : t.ringOf v = s.ringOf v := by funext k; rw [State.ringOf, ht]; rfl
  unfold State.winSpan State.queue
  dsimp only
  rw [hq, hcap, hring, ht]

/-- A read mark of trigger `p` in tile `t`, at the first record of its window. -/
def State.placeMark (s : State) (p : Trig) (t : Nat) : State :=
  let n := if bit p.flags 1 then 0 else (s.sliceCtxs t p.code p.arrAge).length
  s.modTile t (fun x => { x with
    marks := x.marks ++ [{ owner := p.ord, pos := (s.winSpan t p.w0 p.w1).1, frag := p.topo.getLsbD t, slices := n }] })

/-- The read marks of trigger `p` in each of the tiles `ts`. -/
def State.placeMarks (s : State) (p : Trig) (ts : List Nat) : State := forKeys ts (fun t s => s.placeMark p t) s

theorem State.placeMarks_cons (p : Trig) (t : Nat) (ts : List Nat) :
    s.placeMarks p (t :: ts) = (s.placeMark p t).placeMarks p ts := rfl

theorem State.placeMarks_frame (s : State) (p : Trig) (ts : List Nat) : { s.placeMarks p ts with tiles := s.tiles } = s :=
  forKeys_keeps (R := fun s t : State => { t with tiles := s.tiles } = s) (fun _ => rfl)
    (fun {s _ _} h k => (congrArg (fun x : State => { x with tiles := s.tiles }) k).trans h) (f := fun t s => s.placeMark p t) (fun _ _ => rfl) ts s

theorem State.tile_placeMarks_ne (p : Trig) {ts : List Nat} {v : Nat} (h : v ∉ ts) : (s.placeMarks p ts).tile v = s.tile v := by
  induction ts generalizing s with
  | nil => rfl
  | cons t ts ih =>
    obtain ⟨hne, hrest⟩ := not_or.mp (fun hv => h (List.mem_cons.mpr hv))
    rw [State.placeMarks_cons, ih hrest]
    exact s.tile_modTile_ne t _ hne

theorem State.marks_placeMarks (p : Trig) {ts : List Nat} {v : Nat} (hnodup : ts.Nodup) (h : v ∈ ts) :
    ∃ m : Mark, ((s.placeMarks p ts).tile v).marks = (s.tile v).marks ++ [m] ∧ m.owner = p.ord ∧
      m.pos = (s.winSpan v p.w0 p.w1).1 := by
  induction ts generalizing s with
  | nil => exact absurd h List.not_mem_nil
  | cons t ts ih =>
    obtain ⟨ht, hts⟩ := List.nodup_cons.mp hnodup
    rw [State.placeMarks_cons]
    rcases List.mem_cons.mp h with rfl | hv
    · rw [State.tile_placeMarks_ne p ht, State.placeMark, State.tile_modTile_same]
      exact ⟨_, rfl, rfl, rfl⟩
    · have hkept : (s.placeMark p t).tile v = s.tile v := s.tile_modTile_ne t _ (fun hvt => ht (hvt ▸ hv))
      obtain ⟨m, hm, howner, hpos⟩ := ih (s := s.placeMark p t) hts hv
      exact ⟨m, by rw [hm, hkept], howner, by rw [hpos, State.winSpan_congr (s := s) (t := s.placeMark p t) rfl hkept]⟩

/-- The tiles where a trigger places read marks. -/
def State.markedTiles (s : State) (p : Trig) : List Nat := (s.markTiles p).map (·.1)

theorem State.mem_markedTiles {p : Trig} {v : Nat} : v ∈ s.markedTiles p ↔ ∃ n f, (v, n, f) ∈ s.markTiles p := by
  simp [State.markedTiles]

theorem State.markedTiles_nodup (s : State) (p : Trig) : (s.markedTiles p).Nodup := by
  rw [State.markedTiles, State.markTiles, List.map_filterMap]
  refine List.Nodup.filterMap (fun t v k ht hv => ?_) List.nodup_range
  simp only [Option.mem_def, Option.map_eq_some_iff, Option.ite_none_right_eq_some, Option.some.injEq] at ht hv
  obtain ⟨_, ⟨_, rfl⟩, rfl⟩ := ht
  obtain ⟨_, ⟨_, rfl⟩, rfl⟩ := hv
  rfl

/-! ### TRIGGER -/

/-- The trigger waits for its decision, with a read mark in each tile that it needs (R284, R287). -/
def State.trigWaits (s : State) (p : Trig) : State :=
  let t := s.placeMarks p (s.markedTiles p)
  { t with eb := { t.eb with pending := insPending p t.eb.pending, nextOrd := t.eb.nextOrd + 1 } }

section
variable {b : BitVec 56} (hup : s.up = true) (hl : s.lk.dn = .slot) (hb : bits b.toNat 55 52 < 12)
include hup hl hb

theorem exec_trigger_refused {r : Nat}
    (h : s.arrivalReason (s.trigOf b.toNat) (trigLatency s.now.ns (bits b.toNat 23 0)) = some r) :
    exec (.trigger b false) s =
      .next (s.tref (s.trigOf b.toNat).id (s.trigOf b.toNat).code r (s.trigOf b.toNat).epoch) := by
  show execTrigger b false s = _
  rw [execTrigger, onChip_up s _ hup, State.onSlot_good s _ hl, if_neg (by omega)]
  dsimp only
  rw [h]

theorem exec_trigger_waits (h : s.arrivalReason (s.trigOf b.toNat) (trigLatency s.now.ns (bits b.toNat 23 0)) = none) :
    exec (.trigger b false) s = .next (s.trigWaits (s.trigOf b.toNat)) := by
  show execTrigger b false s = _
  rw [execTrigger, onChip_up s _ hup, State.onSlot_good s _ hl, if_neg (by omega)]
  dsimp only
  rw [h]
  rfl

end

end

end Sys2Proof.Machine
open Sys2Proof Sys2Proof.Machine

/-- Settles O37: a refused trigger leaves its answer and its event, and the others leave one read mark in each tile of a list
that names no tile twice. -/
theorem triggersArrive : Obligations.TriggersArrive := by
  refine ⟨fun a low _ hlow => ⟨trigLatency_of_le hlow, trigLatency_of_lt hlow⟩, fun s b hup hl hb => ?_⟩
  intro p l
  refine ⟨⟨rfl, rfl, rfl⟩, fun h => ?_, fun h hen => ?_, fun h hen hlate => ?_, fun r hr => ?_, fun hr => ?_⟩
  · exact State.arrivalReason_flags _ ((bits_flags _).trans_ne h)
  · exact State.arrivalReason_off _ ((bits_flags _).trans h) hen
  · exact State.arrivalReason_late ((bits_flags _).trans h) hen hlate
  · have hapart := (s.apart_tref p.id p.code r p.epoch).1
    have heb := s.eb_tref p.id p.code r p.epoch
    refine ⟨_, exec_trigger_refused hup hl hb hr, ?_⟩
    exact ⟨congrArg EventBuilder.tref heb, congrArg EventBuilder.lastReason heb, congrArg EventBuilder.lastId heb, s.evSet_tref ..,
      (congrArg EventBuilder.pending heb :), (congrArg EventBuilder.events heb :), fun v => s.marks_tref _ _ _ _ v, (congrArg State.tb hapart :),
      (congrArg State.regs hapart :), (congrArg State.msg hapart :)⟩
  · have hframe := s.placeMarks_frame p (s.markedTiles p)
    have heb : (s.placeMarks p (s.markedTiles p)).eb = s.eb := (congrArg State.eb hframe :)
    refine ⟨_, exec_trigger_waits hup hl hb hr, ?_, ?_, (congrArg EventBuilder.events heb :), fun v hv => ?_, fun v hv => ?_, ?_⟩
    · exact (congrArg (fun x : EventBuilder => insPending p x.pending) heb :)
    · exact (congrArg (fun x : EventBuilder => x.nextOrd + 1) heb :)
    · exact State.marks_placeMarks p (s.markedTiles_nodup p) (State.mem_markedTiles.mpr hv)
    · exact State.tile_placeMarks_ne p (fun h => by
        obtain ⟨n, f, hm⟩ := State.mem_markedTiles.mp h
        exact hv n f hm)
    · exact (congrArg (fun x : State => { x with eb := s.eb }) hframe :)
end

