-- ==== Sys2Proof/Proofs/Decisions.lean ====
section
/-! ## O38: the decision of a pending trigger (R284 to R292) -/

namespace Sys2Proof.Machine
open Sys2Proof

/-! ### What changes tiles alone -/

/-- Nothing changed but the tiles. -/
def State.TilesOnly (s t : State) : Prop := { t with tiles := s.tiles } = s

section
variable {s t : State}

theorem State.TilesOnly.trans {w : State} (h : s.TilesOnly t) (k : t.TilesOnly w) : s.TilesOnly w :=
  Eq.trans (congrArg (fun x : State => { x with tiles := s.tiles }) k :) h

theorem State.TilesOnly.eb (h : s.TilesOnly t) : t.eb = s.eb := (congrArg State.eb h :)

/-- The timebase, the registers and message memory stand as they were. -/
structure State.CoreKept (s t : State) : Prop where
  tb : t.tb = s.tb
  regs : t.regs = s.regs
  msg : t.msg = s.msg

theorem State.CoreKept.trans {w : State} (h : s.CoreKept t) (k : t.CoreKept w) : s.CoreKept w :=
  ⟨k.tb.trans h.tb, k.regs.trans h.regs, k.msg.trans h.msg⟩

theorem State.TilesOnly.coreKept (h : s.TilesOnly t) : s.CoreKept t :=
  ⟨(congrArg State.tb h :), (congrArg State.regs h :), (congrArg State.msg h :)⟩

theorem State.EventsApart.coreKept (h : s.EventsApart t) : s.CoreKept t :=
  ⟨(congrArg State.tb h.1 :), (congrArg State.regs h.1 :), (congrArg State.msg h.1 :)⟩

theorem forKeys_tilesOnly {f : Nat → State → State} (h : ∀ k (s : State), s.TilesOnly (f k s)) (ks : List Nat) (s : State) :
    s.TilesOnly (forKeys ks f s) :=
  forKeys_keeps (R := State.TilesOnly) (fun _ => rfl) State.TilesOnly.trans h ks s

/-- The tiles of a list are changed, each once. -/
theorem State.tile_forKeys_modTile (f : Nat → Tile → Tile) {ks : List Nat} (hnodup : ks.Nodup) (v : Nat) :
    (forKeys ks (fun t s => s.modTile t (f t)) s).tile v = if v ∈ ks then f v (s.tile v) else s.tile v := by
  induction ks generalizing s with
  | nil => rfl
  | cons k ks ih =>
    obtain ⟨hk, hks⟩ := List.nodup_cons.mp hnodup
    rw [forKeys_cons, ih hks, State.tile_modTile]
    by_cases hv : v = k
    · rw [if_neg (hv ▸ hk), if_pos hv, if_pos (hv ▸ List.mem_cons_self), hv]
    · simp [hv]

/-! ### What a read of a latency buffer leaves (R265, R266) -/

/-- The event builder, the timebase, the registers, message memory, and the read marks of each tile. -/
structure TrigView where
  eb : EventBuilder
  tb : Timebase
  regs : Map Reg32
  msg : Memory
  marks : Nat → List Mark

/-- The read marks of each tile. -/
def marksOf (m : Map Tile) (v : Nat) : List Mark := (mapGet (fun _ => {}) m v : Tile).marks

/-- The view of a state. -/
def State.trigView (s : State) : TrigView := { eb := s.eb, tb := s.tb, regs := s.regs, msg := s.msg, marks := marksOf s.tiles }

theorem State.EventsApart.trigView {s t : State} (h : s.EventsApart t) : t.trigView = s.trigView := by
  have hmarks : marksOf t.tiles = marksOf s.tiles := funext fun v => (congrArg Tile.marks (h.2 v) :)
  rw [State.trigView, hmarks]
  exact (congrArg (fun x : State => { x.trigView with marks := marksOf s.tiles }) h.1 :)

theorem State.trigView_modTile (s : State) (u : Nat) {f : Tile → Tile} (h : ∀ x, (f x).marks = x.marks) :
    (s.modTile u f).trigView = s.trigView := by
  have hmarks : marksOf (s.modTile u f).tiles = marksOf s.tiles := funext fun v => s.tile_modTile_keeps v (·.marks) u f h
  rw [State.trigView, hmarks]
  rfl

theorem forKeys_trigView {f : Nat → State → State} (h : ∀ k s, (f k s).trigView = s.trigView) (ks : List Nat) (s : State) :
    (forKeys ks f s).trigView = s.trigView :=
  forKeys_keeps (R := fun s t => t.trigView = s.trigView) (fun _ => rfl) (fun h k => k.trans h) h ks s

variable (s)

@[simp] theorem State.trigView_ite {p : Prop} [Decidable p] (s t : State) :
    (if p then s else t).trigView = if p then s.trigView else t.trigView := apply_ite _ p s t
@[simp] theorem State.trigView_raise (k : Nat) : (s.raise k).trigView = s.trigView := (s.apart_raise k).trigView
@[simp] theorem State.trigView_modChan (u c : Nat) (f : Chan → Chan) : (s.modChan u c f).trigView = s.trigView :=
  s.trigView_modTile u fun _ => rfl
@[simp] theorem State.trigView_modQueue (u q : Nat) (f : Queue → Queue) : (s.modQueue u q f).trigView = s.trigView :=
  s.trigView_modTile u fun _ => rfl
@[simp] theorem State.trigView_setQWord (u q pos : Nat) (x : QWord) : (s.setQWord u q pos x).trigView = s.trigView :=
  s.trigView_modTile u fun _ => rfl
@[simp] theorem State.trigView_qSticky (u q : Nat) (f : Queue → Queue) : (s.qSticky u q f).trigView = s.trigView :=
  (State.trigView_modTile (f := fun x => { x with qLast := q }) _ u fun _ => rfl).trans (s.trigView_modQueue u q f)
@[simp] theorem State.trigView_qPoison (u q : Nat) : (s.qPoison u q).trigView = s.trigView := by
  simp -implicitDefEqProofs [State.qPoison, forKeys_trigView]
@[simp] theorem State.trigView_qRead (u q pos : Nat) : (s.qRead u q pos).2.2.trigView = s.trigView := by
  simp [State.qRead]
@[simp] theorem State.trigView_scanReads (u : Nat) (p : Trig) : (s.scanReads u p).trigView = s.trigView := by
  simp -implicitDefEqProofs [State.scanReads, forKeys_trigView]

variable {s}

/-! ### A trigger gives its marks up (R263, R291) -/

theorem State.tilesOnly_dropMarks (s : State) (ord : Nat) : s.TilesOnly (s.dropMarks ord) := by
  refine forKeys_tilesOnly (fun _ _ => ?_) _ s
  rfl

theorem State.marks_dropMarks (s : State) (ord : Nat) {v : Nat} (hv : v < 64) :
    ((s.dropMarks ord).tile v).marks = (s.tile v).marks.filter (fun m => m.owner ≠ ord) := by
  rw [State.dropMarks, State.tile_forKeys_modTile _ List.nodup_range, if_pos (List.mem_range.mpr hv)]

theorem State.owner_of_mem_dropMarks (s : State) (ord : Nat) {v : Nat} (hv : v < 64) :
    ∀ m ∈ ((s.dropMarks ord).tile v).marks, m.owner ≠ ord := by
  intro m hm
  rw [s.marks_dropMarks ord hv] at hm
  exact of_decide_eq_true (List.mem_filter.mp hm).2

/-! ### A trigger is accepted (R288 to R292) -/

theorem State.tilesOnly_openGates (s : State) (p : Trig) : s.TilesOnly (s.openGates p) := by
  rw [State.openGates]
  split
  · rfl
  · refine forKeys_tilesOnly (fun _ _ => .trans ?_ (forKeys_tilesOnly (fun _ _ => ?_) _ _)) _ s <;> rfl

theorem State.tilesOnly_fragless (s : State) (p : Trig) : s.TilesOnly (s.fragless p) := by
  rw [State.fragless]
  split
  · refine forKeys_tilesOnly (fun _ _ => ?_) _ s
    rfl
  · rfl

/-- The event builder once trigger `p` is accepted with the fragments `fs`. -/
def State.ebAccepted (s : State) (p : Trig) (fs : List Frag) : EventBuilder :=
  { s.eb with
    tacc := (s.eb.tacc + 1) % 2 ^ 32
    backlog := s.eb.backlog + linkWords (eventSize fs)
    events := s.eb.events ++ [({ trig := p, size := eventSize fs, frags := fs, tacc := s.tb.age } : Event)] }

/-- Acceptance reserves the event's words and answers TACC, and then opens gates and drops read marks. -/
theorem State.tilesOnly_tacc (s : State) (p : Trig) (fs : List Frag) : State.TilesOnly
    { s.send 7 0 [answerRecord true p.id p.code 0 p.epoch (eventSize fs)] with eb := s.ebAccepted p fs } (s.tacc p fs) :=
  .trans (State.tilesOnly_openGates _ p) (State.tilesOnly_fragless _ p)

theorem State.map_tile_newFrags (s : State) (p : Trig) :
    (s.newFrags p).map (·.tile) = if p.width = 0 then [] else topoTiles p.topo := by
  rw [State.newFrags]
  split
  · rfl
  · rw [List.map_map]
    exact List.map_id _

/-! ### TRIGGER_DECIDE (R284, R285, R287) -/

/-- The instant of the decision of trigger `p`. -/
def State.decideNs (s : State) (p : Trig) : Int := max (max s.eb.clock p.d) (s.tb.age * 8 : Nat)

/-- Trigger `p` is taken from the waiting ones at the instant of its decision. -/
def State.atDecision (s : State) (p : Trig) (rest : List Trig) : State :=
  let w := s.advanceTo ((s.decideNs p + 7) / 8).toNat
  { w with eb := { w.eb with pending := rest, clock := s.decideNs p + 250 } }

/-- The state in which trigger `p` is decided: `rest` goes on waiting, and the hit counts of its tiles are taken. -/
def State.scanned (s : State) (p : Trig) (rest : List Trig) : State :=
  forKeys (topoTiles p.topo) (fun v z => z.scanReads v p) (s.atDecision p rest)

theorem State.atDecision_eq (p : Trig) (rest : List Trig) : s.atDecision p rest =
    { s.advanceTo ((s.decideNs p + 7) / 8).toNat with eb := { s.eb with pending := rest, clock := s.decideNs p + 250 } } := by
  rw [State.atDecision, State.advanceTo, State.advance_eb]

theorem State.trigView_scanned (hup : s.up = true) (p : Trig) (rest : List Trig) : (s.scanned p rest).trigView =
    { s.trigView with
      eb := { s.eb with pending := rest, clock := s.decideNs p + 250 }
      tb := (s.advanceTo ((s.decideNs p + 7) / 8).toNat).tb } := by
  rw [State.scanned, forKeys_trigView (fun v z => z.trigView_scanReads v p), State.atDecision_eq, s.advanceTo_eq _ hup]
  rfl

/-- Trigger `p` is refused for the given reason, or accepted where there is none. -/
def State.decidedBy (s : State) (p : Trig) : Option Nat → State
  | some r => (s.dropMarks p.ord).tref p.id p.code r p.epoch
  | none => s.tacc p (s.newFrags p)

theorem exec_triggerDecide {p : Trig} {rest : List Trig} (hup : s.up = true) (hp : s.eb.pending = p :: rest) :
    exec .triggerDecide s = .next ((s.scanned p rest).decidedBy p
      ((s.scanned p rest).decideReason p (eventSize ((s.scanned p rest).newFrags p)))) := by
  show execTriggerDecide s = _
  rw [execTriggerDecide, onChip_up s _ hup, hp]
  rfl

theorem State.coreKept_tref (s : State) (id code reason epoch : Nat) : s.CoreKept (s.tref id code reason epoch) := by
  have h := (s.apart_tref id code reason epoch).coreKept
  exact ⟨h.tb, h.regs, h.msg⟩

theorem State.coreKept_tacc (s : State) (p : Trig) (fs : List Frag) : s.CoreKept (s.tacc p fs) := by
  have h := (s.tilesOnly_tacc p fs).coreKept
  exact ⟨h.tb, h.regs, h.msg⟩

theorem State.coreKept_decidedBy (s : State) (p : Trig) (o : Option Nat) : s.CoreKept (s.decidedBy p o) := by
  cases o with
  | none => exact s.coreKept_tacc p (s.newFrags p)
  | some r => exact (s.tilesOnly_dropMarks p.ord).coreKept.trans (State.coreKept_tref ..)

theorem State.eb_decidedBy_refused (s : State) (p : Trig) (r : Nat) : (s.decidedBy p (some r)).eb =
    { s.eb with tref := (s.eb.tref + 1) % 2 ^ 32, lastReason := r, lastId := p.id } := by
  rw [State.decidedBy, State.eb_tref, (s.tilesOnly_dropMarks p.ord).eb]

theorem State.eb_decidedBy_accepted (s : State) (p : Trig) : (s.decidedBy p none).eb = s.ebAccepted p (s.newFrags p) :=
  (s.tilesOnly_tacc p (s.newFrags p)).eb

/-- The triggers that go on waiting, and the instant of the last decision, do not depend on how a decision goes. -/
theorem State.waiting_decidedBy (s : State) (p : Trig) (o : Option Nat) :
    (s.decidedBy p o).eb.pending = s.eb.pending ∧ (s.decidedBy p o).eb.clock = s.eb.clock := by
  cases o with
  | none => rw [s.eb_decidedBy_accepted p]; exact ⟨rfl, rfl⟩
  | some r => rw [s.eb_decidedBy_refused p r]; exact ⟨rfl, rfl⟩

/-- A refused trigger has given its marks up (R291). -/
theorem State.owner_of_mem_decidedBy (s : State) (p : Trig) (r : Nat) {v : Nat} (hv : v < 64) :
    ∀ m ∈ ((s.decidedBy p (some r)).tile v).marks, m.owner ≠ p.ord := by
  intro m hm
  rw [State.decidedBy, State.marks_tref] at hm
  exact s.owner_of_mem_dropMarks p.ord hv m hm

end

end Sys2Proof.Machine
open Sys2Proof Sys2Proof.Machine

/-- Settles O38: the hit counts are taken without a change of the event builder or of a mark, and the decision then either
refuses the trigger or keeps its event. -/
theorem triggersAreDecided : Obligations.TriggersAreDecided := by
  intro s p rest hup hp
  refine ⟨_, exec_triggerDecide hup hp, ?_⟩
  have hz := s.atDecision_eq p rest
  have hview := State.trigView_scanned hup p rest
  rw [State.decideNs] at hz
  dsimp only
  rw [← hz, ← State.scanned]
  generalize s.scanned p rest = z at hview ⊢
  have heb : z.eb = { s.eb with pending := rest, clock := s.decideNs p + 250 } := congrArg TrigView.eb hview
  have htb : z.tb = (s.advanceTo ((s.decideNs p + 7) / 8).toNat).tb := congrArg TrigView.tb hview
  have hkept := z.coreKept_decidedBy p (z.decideReason p (eventSize (z.newFrags p)))
  obtain ⟨hpending, hclock⟩ := z.waiting_decidedBy p (z.decideReason p (eventSize (z.newFrags p)))
  refine ⟨hpending.trans (congrArg EventBuilder.pending heb :), hclock.trans (congrArg EventBuilder.clock heb :), ?_,
    fun r hr => ?_, fun hr => ?_, fun v => (congrFun (congrArg TrigView.marks hview) v :),
    hkept.regs.trans (congrArg TrigView.regs hview :), hkept.msg.trans (congrArg TrigView.msg hview :)⟩
  · rw [hkept.tb, htb, s.advanceTo_age _ hup]
    rfl
  · rw [hr, z.eb_decidedBy_refused p r, heb]
    exact ⟨rfl, rfl, State.evSet_tref .., rfl, rfl, fun v hv => z.owner_of_mem_decidedBy p r hv⟩
  · rw [hr] at hkept
    rw [hr, hkept.tb, z.eb_decidedBy_accepted p, State.ebAccepted, heb]
    exact ⟨rfl, rfl, rfl, z.map_tile_newFrags p⟩
end

