-- ==== Sys2Proof/Proofs/Events.lean ====
section
/-! ## O39: fragments are copied and events sent (R291 to R301) -/

namespace Sys2Proof.Machine
open Sys2Proof

/-! ### The first element of a list that a test picks -/

section
variable {α : Type} {p q : α → Bool} {a : α} {l : List α}

theorem find?_of_imp (h : l.find? p = some a) (ha : q a = true) (himp : ∀ x, q x = true → p x = true) :
    l.find? q = some a := by
  obtain ⟨-, l₁, l₂, rfl, hnone⟩ := List.find?_eq_some_iff_append.mp h
  refine List.find?_eq_some_iff_append.mpr ⟨ha, l₁, l₂, rfl, fun x hx => ?_⟩
  have hp := hnone x hx
  cases hq : q x
  · rfl
  · rw [himp x hq] at hp
    cases hp

/-- What is picked is still picked first after all that is picked has changed. -/
theorem find?_map_picked {f : α → α} (h : l.find? p = some a) (hf : p (f a) = true) :
    (l.map (fun x => if p x then f x else x)).find? p = some (f a) := by
  induction l with
  | nil => cases h
  | cons x l ih =>
    rw [List.map_cons]
    cases hx : p x
    · rw [List.find?_cons_of_neg (by simp [hx])] at h
      simp [hx, ih h]
    · rw [List.find?_cons_of_pos hx] at h
      cases h
      simp [hf]

theorem eq_of_filter_le_one (h : l.find? p = some a) (hone : (l.filter p).length ≤ 1) : ∀ x ∈ l, p x = true → x = a := by
  intro x hx hpx
  have hxf : x ∈ l.filter p := List.mem_filter.mpr ⟨hx, hpx⟩
  have haf : a ∈ l.filter p := List.mem_filter.mpr ⟨List.mem_of_find?_eq_some h, List.find?_some h⟩
  obtain ⟨b, hb⟩ := List.length_eq_one_iff.mp (Nat.le_antisymm hone (List.length_pos_of_mem haf))
  rw [hb, List.mem_singleton] at hxf haf
  exact hxf.trans haf.symm

end

/-! ### The fragment that a tile gathers (R294) -/

/-- The fragment is of tile `u`, and `sel` picks it. -/
def Frag.picked (u : Nat) (sel : Frag → Bool) (f : Frag) : Bool := decide (f.tile = u) && sel f

/-- An event whose fragments of tile `u` that `sel` picks have changed. -/
def Event.withFrags (e : Event) (u : Nat) (sel : Frag → Bool) (g : Frag → Frag) : Event :=
  { e with frags := e.frags.map (fun x => if x.tile = u ∧ sel x then g x else x) }

section
variable {u : Nat} {sel : Frag → Bool} {e : Event} {es : List Event} {f : Frag}

theorem findFrag_cons_some (h : e.frags.find? (Frag.picked u sel) = some f) : findFrag u sel (e :: es) = some (e, f) := by
  have hpick : e.frags.find? (fun x => decide (x.tile = u) && sel x) = some f := h
  rw [findFrag, List.findSome?_cons, hpick]
  rfl

theorem findFrag_cons_none (h : e.frags.find? (Frag.picked u sel) = none) : findFrag u sel (e :: es) = findFrag u sel es := by
  have hpick : e.frags.find? (fun x => decide (x.tile = u) && sel x) = none := h
  rw [findFrag, List.findSome?_cons, hpick]
  rfl

theorem updFrag_cons_some (g : Frag → Frag) (h : e.frags.find? (Frag.picked u sel) = some f) :
    updFrag u sel g (e :: es) = e.withFrags u sel g :: es := by
  have hf : Frag.picked u sel f = true := List.find?_some h
  exact if_pos (List.any_eq_true.mpr ⟨f, List.mem_of_find?_eq_some h, hf⟩)

theorem updFrag_cons_none (g : Frag → Frag) (h : e.frags.find? (Frag.picked u sel) = none) :
    updFrag u sel g (e :: es) = e :: updFrag u sel g es := by
  rw [updFrag, if_neg]
  rw [Bool.not_eq_true, List.any_eq_false]
  exact List.find?_eq_none.mp h

theorem find?_of_findFrag {y : Event} (h : findFrag u sel es = some (y, f)) : y.frags.find? (Frag.picked u sel) = some f := by
  induction es with
  | nil => cases h
  | cons e es ih =>
    cases he : e.frags.find? (Frag.picked u sel) with
    | none => exact ih (findFrag_cons_none he ▸ h)
    | some x =>
      rw [findFrag_cons_some he] at h
      cases h
      exact he

/-- A fragment that a narrower test picks too is the first that the narrower test picks. -/
theorem findFrag_of_imp {q : Frag → Bool} {y : Event} (h : findFrag u sel es = some (y, f)) (hf : q f = true)
    (himp : ∀ x, q x = true → sel x = true) : findFrag u q es = some (y, f) := by
  have hpick : ∀ x, Frag.picked u q x = true → Frag.picked u sel x = true := fun x hx => by
    rw [Frag.picked, Bool.and_eq_true] at hx ⊢
    exact ⟨hx.1, himp x hx.2⟩
  induction es with
  | nil => cases h
  | cons e es ih =>
    cases he : e.frags.find? (Frag.picked u sel) with
    | none =>
      have hnone : e.frags.find? (Frag.picked u q) = none :=
        List.find?_eq_none.mpr fun x hx hq => List.find?_eq_none.mp he x hx (hpick x hq)
      rw [findFrag_cons_none hnone]
      exact ih (findFrag_cons_none he ▸ h)
    | some x =>
      rw [findFrag_cons_some he] at h
      cases h
      have hpicked : Frag.picked u sel f = true := List.find?_some he
      have htile := (Bool.and_eq_true_iff.mp hpicked).1
      exact findFrag_cons_some (find?_of_imp he (Bool.and_eq_true_iff.mpr ⟨htile, hf⟩) hpick)

/-- The fragment that was changed is the first that is picked still. -/
theorem findFrag_updFrag {g : Frag → Frag} {y : Event} (h : findFrag u sel es = some (y, f))
    (hg : Frag.picked u sel (g f) = true) : findFrag u sel (updFrag u sel g es) = some (y.withFrags u sel g, g f) := by
  induction es with
  | nil => cases h
  | cons e es ih =>
    cases he : e.frags.find? (Frag.picked u sel) with
    | none =>
      rw [updFrag_cons_none g he, findFrag_cons_none he]
      exact ih (findFrag_cons_none he ▸ h)
    | some x =>
      rw [findFrag_cons_some he] at h
      cases h
      rw [updFrag_cons_some g he]
      have hmap := find?_map_picked he hg
      simp only [Frag.picked, Bool.and_eq_true, decide_eq_true_eq] at hmap
      exact findFrag_cons_some hmap

end

section
variable {s t : State}

/-! ### Events of the chip leave the tiles -/

theorem State.raise_tiles {k : Nat} (hk : 1024 ≤ k) : (s.raise k).tiles = s.tiles := by
  have h : (s.setSticky k).tiles = s.tiles := by rw [State.setSticky, if_neg (by omega)]
  unfold State.raise State.raiseAt
  split
  · rfl
  · split
    · exact h
    · exact (State.routes_tiles ..).trans h

theorem State.eb_raise (s : State) (k : Nat) : (s.raise k).eb = s.eb := (congrArg State.eb (s.apart_raise k).1 :)

theorem State.CoreKept.outside (h : s.CoreKept t) (ht : t.tiles = s.tiles) (u : Nat) : s.Outside t u :=
  ⟨h.tb, h.regs, h.msg, fun v _ => State.tile_congr ht v⟩

/-! ### A fragment that is whole, and one that is not (R295, R297) -/

theorem State.eb_fragMissing (s : State) (u : Nat) : (s.fragMissing u).eb =
    { s.eb with absent := min 65535 (s.eb.absent + 1), absentTile := u } := State.eb_raise ..

theorem State.tiles_fragMissing (s : State) (u : Nat) : (s.fragMissing u).tiles = s.tiles := State.raise_tiles (by decide)

theorem State.evSet_fragMissing (s : State) (u : Nat) : (s.fragMissing u).evSet (chipSrc 15) = true :=
  State.evSet_raise _ _ (by decide)

theorem State.coreKept_fragMissing (s : State) (u : Nat) : s.CoreKept (s.fragMissing u) := by
  have h := (State.apart_raise { s with eb := { s.eb with absent := satAdd 65535 s.eb.absent 1, absentTile := u } } (chipSrc 15)).coreKept
  exact ⟨h.tb, h.regs, h.msg⟩

theorem State.outside_fragMissing (s : State) (u v : Nat) : s.Outside (s.fragMissing u) v :=
  (s.coreKept_fragMissing u).outside (s.tiles_fragMissing u) v

/-- The fragment of tile `u` that still gathers is done, its copy counted and its read mark released. -/
def State.fragDone (s : State) (u ord : Nat) : State :=
  let r := { s with eb := { s.eb with
    events := updFrag u (fun f => !f.done) (fun f => { f with done := true, status := if f.poison = 0 then 0 else 1 }) s.eb.events } }
  (r.modTile u (fun x => { x with roCnt := (x.roCnt + 1) % 2 ^ 32 })).useMark u ord true

theorem State.fragWhole_cases (s : State) (u ord : Nat) :
    s.fragWhole u ord = s.fragDone u ord ∨ s.fragWhole u ord = (s.fragDone u ord).fragMissing u := by
  unfold State.fragWhole
  exact (ite_eq_or_eq _ _ _).symm

theorem State.outside_fragDone (s : State) (u ord : Nat) : s.Outside (s.fragDone u ord) u := by
  refine ⟨rfl, rfl, rfl, fun v hv => ?_⟩
  exact (State.tile_modTile_ne _ u _ hv).trans (State.tile_modTile_ne _ u _ hv)

theorem State.roCnt_fragDone (s : State) (u ord : Nat) :
    ((s.fragDone u ord).tile u).roCnt = ((s.tile u).roCnt + 1) % 2 ^ 32 := by
  rw [State.fragDone, State.useMark, State.tile_modTile_same, State.tile_modTile_same]
  rfl

theorem State.fragWhole_spec (s : State) (u ord : Nat) : s.Outside (s.fragWhole u ord) u ∧
    ((s.fragWhole u ord).tile u).roCnt = ((s.tile u).roCnt + 1) % 2 ^ 32 ∧
    (s.fragWhole u ord).eb.events = updFrag u (fun f => !f.done)
      (fun f => { f with done := true, status := if f.poison = 0 then 0 else 1 }) s.eb.events := by
  rcases s.fragWhole_cases u ord with h | h
  · rw [h]
    exact ⟨s.outside_fragDone u ord, s.roCnt_fragDone u ord, rfl⟩
  · rw [h, State.tile_congr (State.tiles_fragMissing _ u) u, State.eb_fragMissing]
    exact ⟨(s.outside_fragDone u ord).trans (State.outside_fragMissing _ u u), s.roCnt_fragDone u ord, rfl⟩

/-! ### One buffer position of a fragment (R265, R294) -/

/-- A fragment once the word `w` at its position is read, `bad` where it was poisoned. -/
def Frag.copied (f : Frag) (next : Nat) (take bad : Bool) (w : W64) : Frag :=
  { f with
    pos := next
    words := if take && !bad then f.words ++ [w] else f.words
    poison := if bad then f.poison + 1 else f.poison }

/-- Fragment `g` once the word at the position of fragment `f` is read for the window of event `e`. -/
def State.copyWord (s : State) (u : Nat) (e : Event) (f g : Frag) : Frag :=
  let x := s.qRead u (s.lbq u) f.pos
  g.copied (ringAdd (s.qCap u (s.lbq u)) f.pos 1) (inWindow e.trig.w0 e.trig.w1 (s.qWord u (s.lbq u) f.pos).age x.1) x.2.1 x.1

/-- The read of the buffer position of fragment `f` of event `e`, with its outcome in each fragment of tile `u` that still
gathers. -/
def State.fragRead (s : State) (u : Nat) (e : Event) (f : Frag) : State :=
  let r := (s.qRead u (s.lbq u) f.pos).2.2
  { r with eb := { r.eb with events := updFrag u (fun f => !f.done) (s.copyWord u e f) r.eb.events } }

/-- A word whose parity is right is copied as it stands. -/
theorem State.copyWord_good (s : State) (u : Nat) (e : Event) (f : Frag)
    (h : parity (s.qWord u (s.lbq u) f.pos).w = (s.qWord u (s.lbq u) f.pos).par) : s.copyWord u e f f = { f with
      pos := ringAdd (s.qCap u (s.lbq u)) f.pos 1
      words := if inWindow e.trig.w0 e.trig.w1 (s.qWord u (s.lbq u) f.pos).age (s.qWord u (s.lbq u) f.pos).w then
        f.words ++ [(s.qWord u (s.lbq u) f.pos).w] else f.words } := by
  have hread : (s.qWord u (s.lbq u) f.pos).read s.bracket = ((s.qWord u (s.lbq u) f.pos).w, false, false) := if_pos h
  simp [State.copyWord, State.qRead, hread, Frag.copied]

theorem State.outside_fragRead (s : State) (u : Nat) (e : Event) (f : Frag) : s.Outside (s.fragRead u e f) u := by
  have h := (s.pointersKept_qRead u (s.lbq u) f.pos).toOutside
  exact ⟨h.tb, h.regs, h.msg, h.tiles⟩

section
variable {u : Nat} {e : Event} {f : Frag} (hf : findFrag u (fun f => !f.done) s.eb.events = some (e, f))
include hf

theorem State.fragStep_full (hfull : f.full = true) : s.fragStep u = s.fragWhole u e.trig.ord := by
  rw [State.fragStep, hf]
  exact if_pos hfull

theorem State.fragStep_read_cases (hfull : f.full = false) :
    s.fragStep u = s.fragRead u e f ∨ s.fragStep u = (s.fragRead u e f).fragWhole u e.trig.ord := by
  rw [State.fragStep, hf]
  dsimp only
  rw [if_neg (by rw [hfull]; decide)]
  split
  · exact (ite_eq_or_eq _ _ _).symm
  · exact .inl rfl

/-- A fragment that has words left to copy goes on gathering. -/
theorem State.fragStep_gathers (hfull : f.full = false) {y : Event} {g : Frag}
    (hg : findFrag u (fun f => !f.done) (s.fragRead u e f).eb.events = some (y, g)) (hgfull : g.full = false) :
    s.fragStep u = s.fragRead u e f := by
  rw [State.fragStep, hf]
  dsimp only
  rw [if_neg (by rw [hfull]; decide)]
  split
  next x h =>
    cases h.symm.trans hg
    exact if_neg (by rw [hgfull]; decide)
  next => rfl

theorem State.outside_fragStep (hfull : f.full = false) : s.Outside (s.fragStep u) u := by
  have hread := s.outside_fragRead u e f
  rcases s.fragStep_read_cases hf hfull with h | h
  · exact h ▸ hread
  · exact h ▸ hread.trans (State.fragWhole_spec ..).1

/-- The fragment that was read is found with the event it belongs to. -/
theorem State.findFrag_fragRead : findFrag u (fun f => !f.done) (s.fragRead u e f).eb.events =
    some (e.withFrags u (fun f => !f.done) (s.copyWord u e f), s.copyWord u e f f) := by
  have heb : (s.qRead u (s.lbq u) f.pos).2.2.eb = s.eb := congrArg TrigView.eb (s.trigView_qRead u (s.lbq u) f.pos)
  have hpicked : Frag.picked u (fun f => !f.done) f = true := List.find?_some (find?_of_findFrag hf)
  rw [State.fragRead, heb]
  exact findFrag_updFrag hf hpicked

/-- Where one fragment of the event gathers in the tile, it is the one that a copy changes. -/
theorem Event.withFrags_single (g : Frag → Frag) (hone : (e.frags.filter (Frag.picked u (fun f => !f.done))).length ≤ 1) :
    e.withFrags u (fun f => !f.done) g = { e with frags := e.frags.map (fun x => if x.tile = u ∧ !x.done then g f else x) } := by
  refine congrArg (fun l => { e with frags := l }) (List.map_congr_left fun x hx => ?_)
  split
  next h =>
    have hx : x = f := eq_of_filter_le_one (find?_of_findFrag hf) hone x hx (by simpa [Frag.picked] using h)
    rw [hx]
  next => rfl

end

/-! ### FRAGMENT_COPY, FRAGMENT_DEADLINE (R294 to R297) -/

section
variable {u : Nat} {e : Event} {f : Frag} (hup : s.up = true) (hu : u < s.nTiles)
include hup hu

theorem exec_fragmentCopy (hp : (s.tile u).powered = true) (hr : (s.tile u).inReset = false) (hdone : f.done = false)
    (hall : findFrag u (fun f => (f.done && decide (2 ≤ f.status) && !f.late) || !f.done) s.eb.events = some (e, f))
    (hf : findFrag u (fun f => !f.done) s.eb.events = some (e, f)) :
    exec (.fragmentCopy u 1) s = .next (s.fragStep u) := by
  show execFragmentCopy u 1 s = _
  rw [execFragmentCopy, onTile_up s u _ hup hu, if_neg (by simp [hp, hr])]
  dsimp only
  rw [hall]
  dsimp only
  have hrange : List.range (max 1 (min 1 1024)) = [0] := rfl
  rw [if_neg (by simp [hdone]), hrange]
  simp only [forKeys, List.foldl_cons, List.foldl_nil, hf, Option.map_some, Option.getD_some, if_true]

/-- The fragment of tile `u` that still gathers is closed at its deadline, and its read mark released. -/
def State.fragClosed (s : State) (u : Nat) (e : Event) (f : Frag) : State :=
  let r := s.advanceTo (e.tacc + 1000)
  let st := if (r.tile u).inReset then 4 else if f.words.isEmpty then 3 else 2
  ({ r with eb := { r.eb with
    events := updFrag u (fun f => !f.done) (fun g => { g with done := true, status := st }) r.eb.events } }).useMark u e.trig.ord true

theorem exec_fragmentDeadline (hf : findFrag u (fun f => !f.done) s.eb.events = some (e, f)) :
    exec (.fragmentDeadline u) s = .next ((s.fragClosed u e f).fragMissing u) := by
  show execFragmentDeadline u s = _
  rw [execFragmentDeadline, onTile_up s u _ hup hu, hf]
  rfl

end

theorem State.fragClosed_eb (s : State) (u : Nat) (e : Event) (f : Frag) : (s.fragClosed u e f).eb = { s.eb with
    events := updFrag u (fun f => !f.done) (fun g => { g with
      done := true, status := if (s.tile u).inReset then 4 else if f.words.isEmpty then 3 else 2 }) s.eb.events } := by
  have heb : (s.advanceTo (e.tacc + 1000)).eb = s.eb := s.advance_eb _
  have htile : (s.advanceTo (e.tacc + 1000)).tile u = s.tile u := s.advance_tile _ u
  rw [State.fragClosed, heb, htile]
  rfl

theorem State.fragClosed_outside (s : State) (u : Nat) (e : Event) (f : Frag) :
    (s.advanceTo (e.tacc + 1000)).Outside (s.fragClosed u e f) u :=
  ⟨rfl, rfl, rfl, fun _ hv => State.tile_modTile_ne _ u _ hv⟩

/-! ### Frames of an event (R298) -/

theorem chunks_flatten {n : Nat} (hn : 0 < n) : ∀ (k : Nat) (ws : List W64), ws.length ≤ k → (chunks n k ws).flatten = ws
  | 0, ws, h => (List.length_eq_zero_iff.mp (Nat.le_zero.mp h)) ▸ rfl
  | _ + 1, [], _ => rfl
  | k + 1, w :: ws, h => by
    rw [chunks, List.flatten_cons, chunks_flatten hn k _ (by rw [List.length_drop]; omega), List.take_append_drop]
    exact List.cons_ne_nil w ws

theorem length_le_of_mem_chunks {n : Nat} : ∀ (k : Nat) (ws : List W64), ∀ c ∈ chunks n k ws, c.length ≤ n
  | 0, _, _, h => absurd h List.not_mem_nil
  | _ + 1, [], _, h => absurd h List.not_mem_nil
  | k + 1, w :: ws, c, h => by
    rw [chunks] at h
    · rcases List.mem_cons.mp h with rfl | h
      · exact List.length_take_le _ _
      · exact length_le_of_mem_chunks k _ c h
    · exact List.cons_ne_nil w ws

/-! ### EVENT_SEND (R293, R298, R442) -/

/-- The frames of an event. -/
def eventFrames (e : Event) : List (List W64) := chunks 1024 ((eventWords e).length + 1) (eventWords e)

/-- The event stands in the event stream, and is marked as handed over. -/
def State.handedOver (s : State) (e : Event) : State :=
  let r := s.setStream 1 0 { s.stream 1 0 with
    wait := (s.stream 1 0).wait ++ (eventFrames e).map (fun w => { words := w, ev := e.trig.ord }) }
  { r with eb := { r.eb with events := r.eb.events.map (fun y =>
    if y.trig.ord = e.trig.ord then { y with sent := true, unacked := (eventFrames e).length } else y) } }

theorem exec_eventSend {e : Event} (hup : s.up = true) (he : s.eb.events.find? (fun e => !e.sent) = some e)
    (hdone : ∀ f ∈ e.frags, f.done = true) (hgood : ∀ k, s.bad2 .event k 1 = false) :
    exec .eventSend s = .next (s.handedOver e) := by
  have hall : e.frags.all (·.done) = true := List.all_eq_true.mpr hdone
  have hbad : (List.range (eventWords e).length).filter (fun i => s.bad2 .event i 1) = [] := by simp [hgood]
  have hws : (List.range (eventWords e).length).map (fun i => (eventWords e).getD i 0) = eventWords e := by
    refine List.ext_getElem (by simp) fun i hi hj => ?_
    simp [hj]
  show execEventSend s = _
  rw [execEventSend, onChip_up s _ hup, he]
  dsimp only
  rw [if_pos hall, hbad]
  simp only [List.contains_nil, Bool.false_eq_true, if_false, hws]
  rfl

end

end Sys2Proof.Machine
open Sys2Proof Sys2Proof.Machine

/-- Settles O39: a copy changes the one fragment that gathers in the tile, a deadline closes it, and the frames of an event
put together are its words. -/
theorem eventsAreBuilt : Obligations.EventsAreBuilt := by
  refine ⟨fun s u e f hup hu hp hr hdone hall => ?_, fun s u e f hup hu hf => ?_, fun s e hup he hdone hgood => ?_⟩
  · have hf := findFrag_of_imp (q := fun f => !f.done) hall (by simp [hdone]) (fun x hx => by simp [hx])
    refine ⟨_, exec_fragmentCopy hup hu hp hr hdone hall hf, ?_⟩
    dsimp only
    have hout : s.Outside (s.fragStep u) u := by
      cases hfull : f.full with
      | true => exact State.fragStep_full hf hfull ▸ (s.fragWhole_spec u e.trig.ord).1
      | false => exact State.outside_fragStep hf hfull
    refine ⟨fun hfull => ?_, fun hfull hpar hgfull => ?_, hout.tiles, hout.tb, hout.regs, hout.msg⟩
    · obtain ⟨-, hcnt, hevents⟩ := s.fragWhole_spec u e.trig.ord
      rw [State.fragStep_full hf hfull]
      exact ⟨hevents, hcnt⟩
    · by_cases hmany : 1 < (e.frags.filter (fun h => decide (h.tile = u) && !h.done)).length
      · exact .inr hmany
      · have hfound := State.findFrag_fragRead hf
        rw [Event.withFrags_single hf _ (Nat.not_lt.mp hmany), s.copyWord_good u e f hpar] at hfound
        rw [State.fragStep_gathers hf hfull hfound hgfull]
        exact .inl hfound
  · refine ⟨_, exec_fragmentDeadline hup hu hf, ?_⟩
    have hout := (s.fragClosed_outside u e f).trans (State.outside_fragMissing _ u u)
    dsimp only
    rw [State.eb_fragMissing, State.fragClosed_eb]
    refine ⟨hout.tb ▸ s.advanceTo_age _ hup, rfl, rfl, rfl, State.evSet_fragMissing .., fun v hv => ?_, ?_, ?_⟩
    · exact (hout.tiles v hv).trans (s.advance_tile _ v)
    · exact hout.regs.trans (s.advance_regs _)
    · exact hout.msg.trans (s.advance_msg _)
  · refine ⟨_, exec_eventSend hup he hdone hgood, eventFrames e, chunks_flatten (by decide) _ _ (Nat.le_succ _),
      length_le_of_mem_chunks _ _, ?_, rfl, rfl, rfl, rfl, rfl⟩
    show ((State.setStream s 1 0 _).stream 1 0).wait = _
    rw [State.stream_setStream, if_pos rfl]
end

