-- ==== Sys2Proof/Proofs/PromptOutputs.lean ====
section
/-! ## O40: the words of the prompt outputs (R303 to R309) -/

namespace Sys2Proof.Machine
open Sys2Proof

/-! ### A word put together from its bits -/

/-- The bits `m 0` to `m (k - 1)` as a number. -/
def bitSum (m : Nat → Bool) (k : Nat) : Nat := (List.range k).foldl (fun n b => n + b2n (m b) * 2 ^ b) 0

theorem bitSum_succ (m : Nat → Bool) (k : Nat) : bitSum m (k + 1) = bitSum m k + b2n (m k) * 2 ^ k := by
  rw [bitSum, List.range_succ, List.foldl_append]
  rfl

theorem bitSum_lt (m : Nat → Bool) (k : Nat) : bitSum m k < 2 ^ k := by
  induction k with
  | zero => exact Nat.one_pos
  | succ k ih =>
    rw [bitSum_succ, Nat.pow_succ]
    cases m k <;> simp [b2n] <;> omega

theorem testBit_bitSum (m : Nat → Bool) {j k : Nat} (h : j < k) : (bitSum m k).testBit j = m j := by
  induction k with
  | zero => exact absurd h (Nat.not_lt_zero j)
  | succ k ih =>
    rw [bitSum_succ, Nat.add_comm]
    rcases Nat.lt_succ_iff_lt_or_eq.mp h with hlt | rfl
    · cases m k
      · simpa [b2n] using ih hlt
      · simpa [b2n, Nat.testBit_two_pow_add_gt hlt] using ih hlt
    · cases m j
      · simpa [b2n] using Nat.testBit_lt_two_pow (bitSum_lt m j)
      · simpa [b2n, Nat.testBit_two_pow_add_eq] using Nat.testBit_lt_two_pow (bitSum_lt m j)

section
variable {s t : State}

/-! ### The vote of the copies (R309) -/

/-- Bit `b` of the voted word of pair `p`. -/
def State.prMajority (s : State) (p a b : Nat) : Bool :=
  majority (s.prBit .one p b a) (s.prBit .two p b a) (s.prBit .three p b a)

theorem State.prVoted_word (s : State) (p a : Nat) : (s.prVoted p a).1 = BitVec.ofNat 16 (bitSum (s.prMajority p a) 16) := by
  refine congrArg (BitVec.ofNat 16) (List.foldl_ext _ _ _ fun n b hb => ?_)
  simp [List.getElem?_map, List.getElem?_range (List.mem_range.mp hb), State.prMajority]

theorem State.getLsbD_prVoted (s : State) (p a : Nat) {b : Nat} (hb : b < 16) :
    (s.prVoted p a).1.getLsbD b = s.prMajority p a b := by
  rw [State.prVoted_word, BitVec.getLsbD_ofNat, testBit_bitSum _ hb, decide_eq_true hb, Bool.true_and]

/-! ### The word of a pair (R306 to R308) -/

theorem State.prOut_word (s : State) (p a : Nat) : (s.prOut p a).1 =
    if s.prDark = true ∨ bit (s.rv 0x6400) p = false then 0
    else if bit (s.rv 0x6400) 16 then 0xFF00
    else (s.prVoted p a).1 := by
  rw [State.prOut]
  by_cases h : s.prDark = true ∨ bit (s.rv 0x6400) p = false
  · rw [if_pos h, if_pos (by simpa using h)]
  · rw [if_neg h, if_neg (by simpa using h)]
    split <;> rfl

theorem State.prOut_vote (s : State) (p a : Nat) : (s.prOut p a).2 = (s.prVoted p a).2 := by
  rw [State.prOut]
  split
  · rfl
  · split <;> rfl

/-- A table that leaves the zeros out reads as the function it was made from. -/
theorem mapGet_sparse (g : Nat → BitVec 16) {ks : List Nat} {p : Nat} (hp : p ∈ ks) :
    mapGet (fun _ => 0) (ks.filterMap (fun k => if g k = 0 then none else some (k, g k))) p = g p := by
  have hread : ∀ ks : List Nat, mapGet (fun _ => 0) (ks.filterMap (fun k => if g k = 0 then none else some (k, g k))) p =
      if p ∈ ks then g p else 0 := by
    intro ks
    induction ks with
    | nil => rfl
    | cons k ks ih =>
      by_cases hk : g k = 0
      · rw [List.filterMap_cons_none (by simp [hk]), ih]
        by_cases hpk : p = k
        · subst hpk; simp [hk]
        · simp [hpk]
      · rw [List.filterMap_cons, if_neg hk, mapGet, ih]
        by_cases hpk : p = k
        · subst hpk; simp
        · simp [hpk, Ne.symm hpk]
  rw [hread, if_pos hp]

/-! ### PROMPT_WORD -/

/-- The words of the present slot on the pairs. -/
def State.prWords (s : State) : State :=
  { s with pr := { s.pr with words := (List.range 16).filterMap (fun p =>
    if (s.prOut p s.tb.age).1 = 0 then none else some (p, (s.prOut p s.tb.age).1)) } }

/-- The pairs whose copies disagree in the present slot. -/
def State.prSplit (s : State) : List Nat := (List.range 16).filter (fun p => (s.prVoted p s.tb.age).2)

theorem State.prSlot_eq (s : State) : s.prSlot = forKeys s.prSplit (fun p t => t.prVote p) s.prWords := by
  rw [State.prSlot, State.prSplit, State.prWords]
  simp only [List.filterMap_map, List.filter_map, List.map_map, ← State.prOut_vote, Function.comp_def, List.map_id']

/-- Nothing changed but the prompt outputs, and what setting event sources changes. -/
def State.PromptOnly (s t : State) : Prop := ({ s with pr := t.pr } : State).EventsApart t

theorem State.PromptOnly.trans {w : State} (h : s.PromptOnly t) (k : t.PromptOnly w) : s.PromptOnly w :=
  State.EventsApart.trans (t := { t with pr := w.pr }) ⟨(congrArg (fun x : State => { x with pr := w.pr }) h.1 :), h.2⟩ k

theorem State.PromptOnly.coreKept (h : s.PromptOnly t) : s.CoreKept t := by
  have k := State.EventsApart.coreKept h
  exact ⟨k.tb, k.regs, k.msg⟩

theorem State.PromptOnly.eb (h : s.PromptOnly t) : t.eb = s.eb := (congrArg State.eb h.1 :)

theorem State.PromptOnly.up (h : s.PromptOnly t) : t.up = s.up := (congrArg State.up h.1 :)

theorem State.pr_prVote (s : State) (p : Nat) : (s.prVote p).pr = { s.pr with votes := min 65535 (s.pr.votes + 1), lastPair := p } :=
  (congrArg State.pr (State.apart_raise { s with pr := { s.pr with votes := satAdd 65535 s.pr.votes 1, lastPair := p } } (chipSrc 16)).1 :)

theorem State.promptOnly_prVote (s : State) (p : Nat) : s.PromptOnly (s.prVote p) := by
  rw [State.PromptOnly, State.pr_prVote]
  exact State.apart_raise ..

/-- The votes of the pairs `ps` are counted. -/
def State.prVotes (s : State) (ps : List Nat) : State := forKeys ps (fun p t => t.prVote p) s

theorem State.promptOnly_prVotes (s : State) (ps : List Nat) : s.PromptOnly (s.prVotes ps) :=
  forKeys_keeps (R := State.PromptOnly) State.EventsApart.refl State.PromptOnly.trans (fun p t => t.promptOnly_prVote p) ps s

theorem State.words_prVotes (s : State) (ps : List Nat) : (s.prVotes ps).pr.words = s.pr.words :=
  forKeys_keeps (R := fun s t => t.pr.words = s.pr.words) (fun _ => rfl) (fun h k => k.trans h)
    (fun p t => (congrArg Prompt.words (t.pr_prVote p) :)) ps s

theorem State.votes_prVotes (s : State) (ps : List Nat) : (s.prVotes ps).pr.votes =
    if ps.length = 0 then s.pr.votes else min 65535 (s.pr.votes + ps.length) := by
  induction ps generalizing s with
  | nil => rfl
  | cons p ps ih =>
    have hcons : s.prVotes (p :: ps) = (s.prVote p).prVotes ps := rfl
    rw [hcons, ih, State.pr_prVote, List.length_cons]
    split <;> simp <;> omega

/-- The state after PROMPT_WORD, one slot on. -/
def State.promptSent (s : State) : State := ((s.prWords.prVotes s.prSplit).advance 1).prForget

theorem exec_promptWord (hup : s.up = true) : exec .promptWord s = .next s.promptSent := by
  show execPromptWord s = _
  rw [execPromptWord, onChip_up s _ hup, State.prSlot_eq]
  rfl

theorem State.tilesOnly_prForget (s : State) : s.TilesOnly s.prForget := by
  refine forKeys_tilesOnly (fun _ _ => forKeys_tilesOnly (fun _ _ => ?_) _ _) _ s
  rfl

/-! ### PR_CTRL (R308) -/

theorem regAt_prCtrl : regAt 0x6400 = some ⟨⟨.prCtrl, 0x6400, 1, 4, 0x1ffff, 0, 0, 0⟩, 0, none⟩ := by decide +kernel

theorem State.setField_prCtrl (s : State) (v : Reg32) : s.setField 0x6400 v = s.setReg 0x6400 v := by
  rw [State.setField, regAt_prCtrl]

theorem State.writeReason_prCtrl (s : State) (w : Reg32) : s.writeReason .host 0x6400 w = none := by
  rw [s.writeReason_reg .host w (by decide) regAt_prCtrl]
  simp [Reg.valueBad, srcBarred, State.stateReason]

theorem exec_prCtrlWrite (w : BitVec 32) (hup : s.up = true) : exec (.prCtrlWrite w) s =
    .next ((s.advance 1).setReg 0x6400 (BitVec.ofNat 32 (w.toNat % 2 ^ 17))) := by
  show execPrCtrlWrite w s = _
  rw [execPrCtrlWrite, onChip_up s _ hup, s.writeAt_applied (State.writeReason_prCtrl _ _),
    State.applyWrite_field _ .host w none regAt_prCtrl rfl rfl (by decide), State.setField_prCtrl, ← land_mask]
  rfl

end

end Sys2Proof.Machine
open Sys2Proof Sys2Proof.Machine

/-- Settles O40: the words of a slot are the pairs' words with the zeros left out, and each pair that is split is counted once. -/
theorem promptOutputs : Obligations.PromptOutputs := by
  refine ⟨fun s hup => ⟨_, exec_promptWord hup, ?_⟩, fun s p a b _ hb => s.getLsbD_prVoted p a hb, fun s w hup => ?_⟩
  · have hvotes := s.prWords.promptOnly_prVotes s.prSplit
    have hforget := (s.prWords.prVotes s.prSplit).advance 1 |>.tilesOnly_prForget
    have hpr : s.promptSent.pr = (s.prWords.prVotes s.prSplit).pr := (congrArg State.pr hforget :).trans (State.advance_pr ..)
    refine ⟨fun p hp => ?_, fun n hn => ?_, ?_, ?_, ?_, ?_⟩
    · rw [hpr, State.words_prVotes, ← State.prOut_word]
      exact mapGet_sparse (fun p => (s.prOut p s.tb.age).1) (List.mem_range.mpr hp)
    · rw [hpr, State.votes_prVotes, hn]
      rfl
    · have hage := State.advance_age (s.prWords.prVotes s.prSplit) 1 (hvotes.up.trans hup)
      rw [hvotes.coreKept.tb] at hage
      exact (congrArg Timebase.age hforget.coreKept.tb).trans hage
    · exact (hforget.coreKept.regs.trans (State.advance_regs ..)).trans hvotes.coreKept.regs
    · exact (hforget.coreKept.msg.trans (State.advance_msg ..)).trans hvotes.coreKept.msg
    · exact (hforget.eb.trans (State.advance_eb ..)).trans hvotes.eb
  · refine ⟨_, exec_prCtrlWrite w hup, ?_, fun a ha => ?_, s.advance_age 1 hup, ?_⟩
    · rw [State.rv_setReg, if_pos rfl]
      exact Nat.mod_eq_of_lt (by omega)
    · rw [State.rv_setReg, if_neg ha, State.advance_rv]
    · rw [s.advance_up 1 hup]
      rfl
end

