-- ==== Sys2Proof/Proofs/PowerView.lean ====
section
/-! ## O58: what queues, engines and level monitors leave of the power states (R487 to R493) -/

namespace Sys2Proof.Machine
open Sys2Proof

/-- The part of a state that the power states are about: the power controller, the registers, message memory, the links'
rate, the supervisor's sleep, and for each tile whether it is powered and whether it was woken. -/
structure PowerView where
  part : Part
  pw : Power
  regs : Map Reg32
  msg : Memory
  darkRate : Bool
  asleep : Bool
  flags : Nat → Bool × Bool

/-- Of each tile, whether it is powered and whether it was woken in Dark state. -/
def wakeFlags (m : Map Tile) (u : Nat) : Bool × Bool :=
  let x : Tile := mapGet (fun _ => {}) m u
  (x.powered, x.awake)

/-- The power view of a state. -/
def State.powerView (s : State) : PowerView :=
  { part := s.part, pw := s.pw, regs := s.regs, msg := s.msg, darkRate := s.lk.darkRate, asleep := s.sup.asleep
    flags := wakeFlags s.tiles }

variable (s : State)

@[simp] theorem State.powerView_mk (a1 a2 a3 a4 a5 a6 a7 a8 a9 a10 a11 a12 a13 a14 a15 a16 a17 a18 a19 a20 a21 a22 a23 a24 a25 a26) :
    (State.mk a1 a2 a3 a4 a5 a6 a7 a8 a9 a10 a11 a12 a13 a14 a15 a16 a17 a18 a19 a20 a21 a22 a23 a24 a25 a26).powerView =
      { part := a1, pw := a20, regs := a5, msg := a25, darkRate := a13.darkRate, asleep := a15.asleep, flags := wakeFlags a23 } := rfl

@[simp] theorem State.powerView_eta :
    PowerView.mk s.part s.pw s.regs s.msg s.lk.darkRate s.sup.asleep (wakeFlags s.tiles) = s.powerView := rfl

@[simp] theorem State.powerView_ite {p : Prop} [Decidable p] (s t : State) :
    (if p then s else t).powerView = if p then s.powerView else t.powerView := apply_ite _ p s t

theorem State.wakeFlags_eq (u : Nat) : wakeFlags s.tiles u = ((s.tile u).powered, (s.tile u).awake) := rfl

theorem State.powered_of_powerView {t : State} {x : PowerView} (h : t.powerView = x) (u : Nat) :
    (t.tile u).powered = (x.flags u).1 := (congrArg (fun x : PowerView => (x.flags u).1) h :)

theorem State.awake_of_powerView {t : State} {x : PowerView} (h : t.powerView = x) (u : Nat) :
    (t.tile u).awake = (x.flags u).2 := (congrArg (fun x : PowerView => (x.flags u).2) h :)

theorem forKeys_powerView {f : Nat → State → State} (h : ∀ k s, (f k s).powerView = s.powerView) (ks : List Nat) (s : State) :
    (forKeys ks f s).powerView = s.powerView :=
  forKeys_keeps (R := fun s t => t.powerView = s.powerView) (fun _ => rfl) (fun h k => k.trans h) h ks s

/-- A change of one tile changes the flags of that tile alone. -/
theorem State.flags_powerView (t : Nat) (f : Tile → Tile) : (s.modTile t f).powerView = { s.powerView with
    flags := fun u => if u = t then ((f (s.tile t)).powered, (f (s.tile t)).awake) else s.powerView.flags u } := by
  refine congrArg (fun f => { s.powerView with flags := f }) (funext fun u => ?_)
  rw [State.wakeFlags_eq, State.tile_modTile]
  split <;> rfl

@[simp] theorem State.powerView_modTile (t : Nat) (f : Tile → Tile) (hp : (f (s.tile t)).powered = (s.tile t).powered)
    (ha : (f (s.tile t)).awake = (s.tile t).awake) : (s.modTile t f).powerView = s.powerView := by
  rw [State.flags_powerView]
  refine congrArg (fun f => { s.powerView with flags := f }) (funext fun u => ?_)
  split
  next h => rw [h, hp, ha]; rfl
  next => rfl

/-! ### Events, tiles and lanes -/

@[simp] theorem State.raise_powerView (k : Nat) : (s.raise k).powerView = s.powerView := by
  obtain ⟨hs, ht⟩ := s.apart_raise k
  have hflags : wakeFlags (s.raise k).tiles = wakeFlags s.tiles := funext fun u =>
    (congrArg (fun x : Tile => (x.powered, x.awake)) (ht u) :)
  exact (congrArg (fun w : State => { w.powerView with flags := wakeFlags (s.raise k).tiles }) hs :).trans
    (congrArg (fun f => { s.powerView with flags := f }) hflags)

@[simp] theorem State.modChan_powerView (t c : Nat) (f : Chan → Chan) : (s.modChan t c f).powerView = s.powerView :=
  s.powerView_modTile t _ rfl rfl
@[simp] theorem State.modQueue_powerView (t q : Nat) (f : Queue → Queue) : (s.modQueue t q f).powerView = s.powerView :=
  s.powerView_modTile t _ rfl rfl
@[simp] theorem State.modEng_powerView (t e : Nat) (f : Engine → Engine) : (s.modEng t e f).powerView = s.powerView :=
  s.powerView_modTile t _ rfl rfl
@[simp] theorem State.modLane_powerView (l : Nat) (f : Lane → Lane) : (s.modLane l f).powerView = s.powerView := rfl
@[simp] theorem State.draw_powerView : s.draw.2.powerView = s.powerView := rfl

/-! ### Queues -/

@[simp] theorem State.setQWord_powerView (t q pos : Nat) (w : QWord) : (s.setQWord t q pos w).powerView = s.powerView :=
  s.powerView_modTile t _ rfl rfl
@[simp] theorem State.qSticky_powerView (t q : Nat) (f : Queue → Queue) : (s.qSticky t q f).powerView = s.powerView := by
  simp [State.qSticky]
@[simp] theorem State.qRefuse_powerView (t q n : Nat) : (s.qRefuse t q n).powerView = s.powerView := by simp [State.qRefuse]
@[simp] theorem State.fcoRise_powerView (k : Nat) : (s.fcoRise k).powerView = s.powerView := by simp [State.fcoRise]
@[simp] theorem State.fcoReturn_powerView (k : Nat) : (s.fcoReturn k).powerView = s.powerView := by simp [State.fcoReturn]
@[simp] theorem State.qEval_powerView (t q : Nat) : (s.qEval t q).powerView = s.powerView := by simp [State.qEval]
@[simp] theorem State.putWords_powerView (t q pos age : Nat) (ws : List (W64 × Option SliceTag)) :
    (s.putWords t q pos age ws).powerView = s.powerView := by
  induction ws generalizing s pos with
  | nil => rfl
  | cons x xs ih => simp [State.putWords, ih]
@[simp] theorem State.qPut_powerView (t q age : Nat) (ws : List (W64 × Option SliceTag)) :
    (s.qPut t q age ws).powerView = s.powerView := by simp [State.qPut]
@[simp] theorem State.qOffer_powerView (t q age : Nat) (ws : List W64) : (s.qOffer t q age ws).2.powerView = s.powerView := by
  unfold State.qOffer
  split <;> simp
@[simp] theorem State.lbExpire_powerView (t : Nat) : (s.lbExpire t).powerView = s.powerView := by simp [State.lbExpire]
@[simp] theorem State.lbOffer_powerView (t age : Nat) (w : W64) : (s.lbOffer t age w).2.powerView = s.powerView := by
  simp only [State.lbOffer]
  split <;> simp
@[simp] theorem State.capOffer_powerView (t q age : Nat) (w : W64) : (s.capOffer t q age w).2.powerView = s.powerView := by
  unfold State.capOffer
  split <;> simp
@[simp] theorem State.dropWords_powerView (t q : Nat) : (s.dropWords t q).powerView = s.powerView := by
  simp -implicitDefEqProofs [State.dropWords, forKeys_powerView]

/-! ### Capture and the level monitors -/

@[simp] theorem State.flushHeld_powerView (t q : Nat) (limit : Option Nat) (ms : List HeldMark) :
    (s.flushHeld t q limit ms).1.powerView = s.powerView := by
  induction ms generalizing s with
  | nil => rfl
  | cons m ms ih => cases limit <;> simp [State.flushHeld, apply_ite Prod.fst, ih]
@[simp] theorem State.settleHeld_powerView (t q : Nat) (limit : Option Nat) :
    (s.settleHeld t q limit).powerView = s.powerView := by simp [State.settleHeld]
@[simp] theorem State.giveMarks_powerView (t q : Nat) (ms : List HeldMark) :
    (s.giveMarks t q ms).powerView = s.powerView := by simp [State.giveMarks]
@[simp] theorem State.markTile_powerView (t barrier : Nat) (ws : List W64) :
    (s.markTile t barrier ws).powerView = s.powerView := by simp -implicitDefEqProofs [State.markTile, forKeys_powerView]
@[simp] theorem State.ringCount_powerView (t slot pos : Nat) : (s.ringCount t slot pos).powerView = s.powerView :=
  s.powerView_modTile t _ rfl rfl
@[simp] theorem State.refuseHit_powerView (t c : Nat) (d : Dest) (late : Bool) :
    (s.refuseHit t c d late).powerView = s.powerView := s.modChan_powerView t c _
@[simp] theorem Tile.setCommitBuf_powered (x : Tile) (d : Dest) (b : CommitBuf) : (x.setCommitBuf d b).powered = x.powered := by
  cases d <;> rfl
@[simp] theorem Tile.setCommitBuf_awake (x : Tile) (d : Dest) (b : CommitBuf) : (x.setCommitBuf d b).awake = x.awake := by
  cases d <;> rfl
@[simp] theorem State.commitPush_powerView (t : Nat) (d : Dest) : (s.commitPush t d).powerView = s.powerView := by
  simp [State.commitPush]
@[simp] theorem State.commitHit_powerView (t c : Nat) (d : Dest) (h : Hit) :
    (s.commitHit t c d h).powerView = s.powerView := by simp [State.commitHit]
@[simp] theorem State.commitWaiting_powerView (t c : Nat) : (s.commitWaiting t c).powerView = s.powerView := by
  refine forKeys_powerView (fun k s => ?_) _ s
  split <;> simp
@[simp] theorem State.lmRecord_powerView (t k prev new : Nat) (at_ : Kept) :
    (s.lmRecord t k prev new at_).powerView = s.powerView := by
  unfold State.lmRecord
  split <;> simp
@[simp] theorem State.lmWake_powerView (t : Nat) : (s.lmWake t).powerView = s.powerView := by
  unfold State.lmWake
  split
  · rw [State.giveMarks_powerView]
    refine forKeys_powerView (fun k s => ?_) _ s
    dsimp only
    split
    · split <;> simp
    · rfl
  · rfl

/-! ### Engines -/

@[simp] theorem State.setCxWord_powerView (t a : Nat) (w : W64) : (s.setCxWord t a w).powerView = s.powerView :=
  s.powerView_modTile t _ rfl rfl
@[simp] theorem State.setCxWords_powerView (t a : Nat) (ws : List W64) : (s.setCxWords t a ws).powerView = s.powerView := by
  induction ws generalizing s a with
  | nil => rfl
  | cons x xs ih => simp [State.setCxWords, ih]
@[simp] theorem State.saveRegs_powerView (t e : Nat) : (s.saveRegs t e).powerView = s.powerView := by simp [State.saveRegs]
@[simp] theorem State.copyBlocks_powerView (t e src dst : Nat) : (s.copyBlocks t e src dst).powerView = s.powerView := by
  simp -implicitDefEqProofs [State.copyBlocks, forKeys_powerView]
@[simp] theorem State.ckptStore_powerView (t e : Nat) : (s.ckptStore t e).powerView = s.powerView := by simp [State.ckptStore]
@[simp] theorem State.checkpoint_powerView (t e : Nat) : (s.checkpoint t e).powerView = s.powerView := by simp [State.checkpoint]
@[simp] theorem State.inject_powerView (t e : Nat) (d : DItem) : (s.inject t e d).powerView = s.powerView :=
  s.modEng_powerView t e _
@[simp] theorem State.injectAll_powerView (kind cls : Nat) (word : W64) : (s.injectAll kind cls word).powerView = s.powerView := by
  simp -implicitDefEqProofs [State.injectAll, forKeys_powerView]

/-! ### Trims -/

@[simp] theorem State.loadTrims_powerView (t c : Nat) : (s.loadTrims t c).powerView = s.powerView := s.modChan_powerView t c _
@[simp] theorem State.loadTile_powerView (t : Nat) : (s.loadTile t).powerView = s.powerView := by
  simp -implicitDefEqProofs [State.loadTile, forKeys_powerView]

/-! ### The receiver, the reference and the lanes -/

@[simp] theorem State.updQuality_powerView : s.updQuality.powerView = s.powerView := by simp [State.updQuality]
@[simp] theorem State.suspectFrom_powerView (lo : Nat) : (s.suspectFrom lo).powerView = s.powerView := by
  refine forKeys_powerView (fun t s => ?_) _ s
  refine (forKeys_powerView (fun q s => forKeys_powerView (fun i s => ?_) _ s) _ _).trans (s.powerView_modTile t _ rfl rfl)
  dsimp only
  split <;> simp
@[simp] theorem State.unlock_powerView (lead : Nat) : (s.unlock lead).powerView = s.powerView := by
  unfold State.unlock
  split <;> simp
@[simp] theorem State.refSwitch_powerView (old : Bool) : (s.refSwitch old).powerView = s.powerView := by simp [State.refSwitch]
@[simp] theorem State.setDn_powerView (d : DnState) : (s.setDn d).powerView = s.powerView := by simp [State.setDn]
@[simp] theorem State.levelPairs_powerView : s.levelPairs.powerView = s.powerView := by
  simp -implicitDefEqProofs [State.levelPairs, forKeys_powerView]
@[simp] theorem State.putLane_powerView (l : Nat) (st : LaneState) : (s.putLane l st).powerView = s.powerView := rfl
@[simp] theorem State.noteDown_powerView : s.noteDown.powerView = s.powerView := by simp [State.noteDown]
@[simp] theorem State.trainAll_powerView : s.trainAll.powerView = s.powerView := by
  simp -implicitDefEqProofs [State.trainAll, forKeys_powerView]

/-- A change of rate leaves all but the rate (R356). -/
theorem State.switchRate_powerView (dark : Bool) : (s.switchRate dark).powerView = { s.powerView with darkRate := dark } := by
  rw [State.switchRate, State.trainAll_powerView]
  exact congrArg (fun x : PowerView => { x with darkRate := dark }) ((State.setDn_powerView ..).trans s.levelPairs_powerView)

end Sys2Proof.Machine
end

