-- ==== Sys2Proof/Proofs/PowerRequests.lean ====
section
/-! ## O58: the requests of PW_CTRL (R487 to R490, R504) -/

namespace Sys2Proof.Machine
open Sys2Proof

variable (s : State)

/-! ### The register -/

theorem regAt_pwCtrl : regAt 0x9000 = some ⟨⟨.pwCtrl, 0x9000, 1, 4, 0, 0, 0, 0xf⟩, 0, none⟩ := by decide +kernel

theorem State.writeReason_pwCtrl (w : Reg32) : s.writeReason .host 0x9000 w = none := by
  rw [s.writeReason_reg .host w (by decide) regAt_pwCtrl]
  rfl

theorem State.writeAt_pwCtrl (w : Reg32) (h : Option CtlHead) :
    s.writeAt .host 0x9000 w h = (s.advance 1).pwCommands w.toNat h := by
  rw [s.writeAt_applied (State.writeReason_pwCtrl _ w), State.applyWrite, msgOffset_of_regAt regAt_pwCtrl, regAt_pwCtrl]
  rfl

/-- The state after request `n`, which takes effect one slot on. -/
def State.requested (n : Nat) : State := (s.advance 1).askPower n ((s.advance 1).now.addNs (-8))

variable {s}

theorem exec_reqRun (hup : s.up = true) : exec .reqRun s = .next (s.requested 1) := by
  show execReqRun s = _
  rw [execReqRun, onChip_up s _ hup, s.writeAt_pwCtrl]
  rfl

theorem exec_reqSafelight (hup : s.up = true) : exec .reqSafelight s = .next (s.requested 2) := by
  show execReqSafelight s = _
  rw [execReqSafelight, onChip_up s _ hup, s.writeAt_pwCtrl]
  rfl

theorem exec_reqDark (hup : s.up = true) : exec .reqDark s = .next (s.requested 3) := by
  show execReqDark s = _
  rw [execReqDark, onChip_up s _ hup, s.writeAt_pwCtrl]
  rfl

theorem exec_pwCancel (hup : s.up = true) : exec .pwCancel s = .next (s.advance 1).powerCancel := by
  show execPwCancel s = _
  rw [execPwCancel, onChip_up s _ hup, s.writeAt_pwCtrl]
  rfl

/-! ### What a request does -/

section
variable {a : Time}

theorem State.askPower_run (hs : s.pw.st = .safelight) : s.askPower 1 a =
    if s.cfg.noImage then s.powerRefused 1 else if s.pw.busy then s.powerRefused 8
    else { s with pw := { s.pw with toRun := some s.tb.age } } := by
  unfold State.askPower
  rw [hs]
  rfl

theorem State.askPower_run_elsewhere (hs : s.pw.st ≠ .safelight) : s.askPower 1 a = s.powerRefused 2 := by
  unfold State.askPower
  cases h : s.pw.st with
  | safelight => exact absurd h hs
  | run | dark => rfl

theorem State.askPower_safelight_run (hs : s.pw.st = .run) : s.askPower 2 a =
    if s.pw.busy then s.powerRefused 8 else { s with pw := { s.pw with toSafe := some s.tb.age } } := by
  unfold State.askPower
  rw [hs]
  rfl

theorem State.askPower_safelight_dark (hs : s.pw.st = .dark) : s.askPower 2 a = s.askDark false a := by
  unfold State.askPower
  rw [hs]
  rfl

theorem State.askPower_safelight_safelight (hs : s.pw.st = .safelight) : s.askPower 2 a = s.powerRefused 2 := by
  unfold State.askPower
  rw [hs]
  rfl

theorem State.askPower_dark (hs : s.pw.st = .safelight) (hp : s.phase = .running) : s.askPower 3 a = s.askDark true a := by
  unfold State.askPower
  rw [hs]
  exact if_pos hp

theorem State.askPower_dark_elsewhere (hs : s.pw.st ≠ .safelight) : s.askPower 3 a = s.powerRefused 2 := by
  unfold State.askPower
  cases h : s.pw.st with
  | safelight => exact absurd h hs
  | run | dark => rfl

theorem State.askDark_early (entry : Bool) (h : s.switchOk a = false) : s.askDark entry a = s.powerRefused 3 := by
  rw [State.askDark, h]
  rfl

theorem State.askDark_busy (entry : Bool) (h : s.switchOk a = true) (hb : s.pw.busy = true) :
    s.askDark entry a = s.powerRefused 8 := by
  rw [State.askDark, h, if_neg (by decide), if_pos hb]

/-- A Dark change that is taken waits for X; no proof run is there for an entry to stop. -/
theorem State.askDark_taken (entry : Bool) (h : s.switchOk a = true) (hb : s.pw.busy = false)
    (hc : entry = true → s.cal.run = none) :
    s.askDark entry a =
      { s with pw := { s.pw with dark := some ⟨entry, s.switchTime, s.tb.age + s.slotsTo s.switchTime, false⟩ } } := by
  have hstop : (if entry then s.proofStop false else s) = s := by
    cases entry with
    | false => rfl
    | true => rw [if_pos rfl, State.proofStop, hc rfl]
  rw [State.askDark, h, if_neg (by decide), if_neg (by simp [hb])]
  dsimp only
  rw [hstop]

end

theorem State.powerCancel_some {d : DarkReq} (h : s.pw.dark = some d) : s.powerCancel =
    { s with pw := { s.pw with dark := if d.decided = true then some d else none } } := by
  unfold State.powerCancel
  rw [h]
  dsimp only
  by_cases hd : d.decided = true
  · rw [if_pos hd, if_pos hd, ← h]
  · rw [if_neg hd, if_neg hd]

theorem State.powerCancel_none (h : s.pw.dark = none) : s.powerCancel = s := by
  unfold State.powerCancel
  rw [h]

/-! ### A slot on -/

/-- A request refused with reason `n`: the reason stands, the power event is raised, and no more changes. -/
def State.PowerRefusal (s : State) (n : Nat) (t : State) : Prop :=
  t.pw = { s.pw with reason := n } ∧ t.evSet (chipSrc 30) = true ∧ t.tb.age = s.tb.age + 1 ∧
    ({ s with tb := t.tb, pw := t.pw } : State).EventsApart t

theorem State.powerRefusal_next (hup : s.up = true) (n : Nat) : s.PowerRefusal n ((s.advance 1).powerRefused n) := by
  have hage := s.advance_age 1 hup
  rw [s.advance_up 1 hup] at hage ⊢
  have hapart := State.apart_raise { s with tb := s.tb.run 1, pw := { s.pw with reason := n } } (chipSrc 30)
  exact ⟨(congrArg State.pw hapart.1 :), State.evSet_raise _ _ (by decide),
    (congrArg (fun w : State => w.tb.age) hapart.1 :).trans hage, hapart.repowered⟩

theorem State.switchTime_advance (n : Nat) : (s.advance n).switchTime = s.switchTime := by
  simp only [State.switchTime, State.fld, State.advance_rv]

/-- A request refused answers so. -/
theorem answers_powerRefused {c : Instr} {m n : Nat} (hup : s.up = true) (hx : exec c s = .next (s.requested m))
    (h : s.requested m = (s.advance 1).powerRefused n) : Answers c s (s.PowerRefusal n) :=
  ⟨_, hx.trans (congrArg _ h), s.powerRefusal_next hup n⟩

theorem State.requested_run (hup : s.up = true) (hs : s.pw.st = .safelight) : s.requested 1 =
    if s.cfg.noImage then (s.advance 1).powerRefused 1 else if s.pw.busy then (s.advance 1).powerRefused 8
    else { s.advance 1 with pw := { s.pw with toRun := some (s.tb.age + 1) } } := by
  have himage : (s.advance 1).cfg.noImage = s.cfg.noImage := by rw [s.advance_cfg 1]
  rw [State.requested, State.askPower_run (by rw [s.advance_pw 1, hs]), s.advance_pw 1, himage, s.advance_age 1 hup]

theorem State.requested_run_elsewhere (hs : s.pw.st ≠ .safelight) : s.requested 1 = (s.advance 1).powerRefused 2 :=
  State.askPower_run_elsewhere (by rwa [s.advance_pw 1])

theorem State.requested_safelight_run (hup : s.up = true) (hs : s.pw.st = .run) : s.requested 2 =
    if s.pw.busy then (s.advance 1).powerRefused 8
    else { s.advance 1 with pw := { s.pw with toSafe := some (s.tb.age + 1) } } := by
  rw [State.requested, State.askPower_safelight_run (by rw [s.advance_pw 1, hs]), s.advance_pw 1, s.advance_age 1 hup]

theorem State.requested_safelight_safelight (hs : s.pw.st = .safelight) : s.requested 2 = (s.advance 1).powerRefused 2 :=
  State.askPower_safelight_safelight (by rw [s.advance_pw 1, hs])

theorem State.requested_safelight_dark (hs : s.pw.st = .dark) :
    s.requested 2 = (s.advance 1).askDark false ((s.advance 1).now.addNs (-8)) :=
  State.askPower_safelight_dark (by rw [s.advance_pw 1, hs])

theorem State.requested_dark (hs : s.pw.st = .safelight) (hp : s.phase = .running) :
    s.requested 3 = (s.advance 1).askDark true ((s.advance 1).now.addNs (-8)) :=
  State.askPower_dark (by rw [s.advance_pw 1, hs]) (by rw [s.advance_phase 1, hp])

theorem State.requested_dark_elsewhere (hs : s.pw.st ≠ .safelight) : s.requested 3 = (s.advance 1).powerRefused 2 :=
  State.askPower_dark_elsewhere (by rwa [s.advance_pw 1])

theorem State.askDark_next (hup : s.up = true) (entry : Bool) {a : Time} (h : (s.advance 1).switchOk a = true)
    (hb : s.pw.busy = false) (hc : entry = true → s.cal.run = none) : (s.advance 1).askDark entry a = { s.advance 1 with
      pw := { s.pw with dark := some ⟨entry, s.switchTime, s.tb.age + 1 + (s.advance 1).slotsTo s.switchTime, false⟩ } } := by
  rw [State.askDark_taken entry h (by rwa [s.advance_pw 1]) (by rwa [s.advance_cal 1]), s.advance_pw 1, s.advance_age 1 hup,
    s.switchTime_advance]

end Sys2Proof.Machine
end

