-- ==== Sys2Proof/Proofs/PowerTiles.lean ====
section
/-! ## O58: tiles that are gated and powered again, the rate of the links, the supervisor's sleep (R356, R491 to R493) -/

namespace Sys2Proof.Machine
open Sys2Proof

/-! ### Flags of several tiles -/

/-- The tiles of `ks` with flags `b`. -/
def PowerView.put (ks : List Nat) (b : Bool × Bool) (x : PowerView) : PowerView :=
  { x with flags := fun u => if u ∈ ks then b else x.flags u }

/-- A view without the registers. -/
def PowerView.bare (x : PowerView) : PowerView := { x with regs := [] }

theorem PowerView.put_put (ks ls : List Nat) (b : Bool × Bool) (x : PowerView) : (x.put ks b).put ls b = x.put (ks ++ ls) b := by
  refine congrArg (fun f => { x with flags := f }) (funext fun u => ?_)
  by_cases hk : u ∈ ks <;> by_cases hl : u ∈ ls <;> simp [PowerView.put, hk, hl]

theorem PowerView.put_nil (b : Bool × Bool) (x : PowerView) : x.put [] b = x :=
  congrArg (fun f => { x with flags := f }) (funext fun _ => if_neg List.not_mem_nil)

theorem PowerView.bare_put (ks : List Nat) (b : Bool × Bool) (x : PowerView) : (x.put ks b).bare = x.bare.put ks b := rfl

/-- What each tile of a run does to a view of the state, the run does for all of them. -/
theorem forKeys_put {v : State → PowerView} {b : Bool × Bool} {f : Nat → State → State}
    (h : ∀ t s, v (f t s) = (v s).put [t] b) (ks : List Nat) (s : State) : v (forKeys ks f s) = (v s).put ks b := by
  induction ks generalizing s with
  | nil => exact ((v s).put_nil b).symm
  | cons t ks ih => rw [forKeys_cons, ih, h, PowerView.put_put, List.singleton_append]

section
variable (s : State)

theorem State.put_powerView (t : Nat) (f : Tile → Tile) (b : Bool × Bool)
    (h : ((f (s.tile t)).powered, (f (s.tile t)).awake) = b) : (s.modTile t f).powerView = s.powerView.put [t] b := by
  rw [s.flags_powerView, h]
  refine congrArg (fun f => { s.powerView with flags := f }) (funext fun u => ?_)
  exact if_congr List.mem_singleton.symm rfl rfl

/-! ### Gating (R491, R492, R552) -/

/-- The registers of the waiting thresholds change, the rest of the view stays (R116). -/
theorem State.gateChan_bare (t c : Nat) : (s.gateChan t c).powerView.bare = s.powerView.bare := by
  unfold State.gateChan
  refine (congrArg PowerView.bare (State.modChan_powerView _ t c _)).trans ?_
  split <;> rfl

theorem State.gateTile_bare (t : Nat) : (s.gateTile t).powerView.bare = s.powerView.bare.put [t] (false, false) := by
  unfold State.gateTile
  dsimp only
  rw [State.put_powerView _ t _ (false, false) rfl, PowerView.bare_put]
  refine congrArg (PowerView.put [t] (false, false)) ?_
  refine (forKeys_keeps (R := fun s t => t.powerView.bare = s.powerView.bare) (fun _ => rfl) (fun h k => k.trans h)
    (fun c s => s.gateChan_bare t c) _ _).trans ?_
  simp -implicitDefEqProofs [forKeys_powerView]

theorem State.gateTiles_bare (ks : List Nat) :
    (forKeys ks (fun t s => s.gateTile t) s).powerView.bare = s.powerView.bare.put ks (false, false) :=
  forKeys_put (v := fun s => s.powerView.bare) (fun t s => s.gateTile_bare t) ks s

/-! ### Power (R75, R141, R492, R493) -/

/-- A tile that is powered and told whether it counts as woken. -/
theorem State.lightTile_awake (t : Nat) (b : Bool) :
    ((s.lightTile t).modTile t (fun x => { x with awake := b })).powerView = s.powerView.put [t] (true, b) := by
  have hp : ((s.lightTile t).tile t).powered = true := by rw [State.lightTile, State.tile_modTile_same]
  rw [State.put_powerView _ t _ (true, b) (by rw [hp]), State.lightTile, s.flags_powerView]
  refine congrArg (fun f => { s.powerView with flags := f }) (funext fun u => ?_)
  by_cases hu : u = t <;> simp [hu]

theorem State.wakeTile_powerView (t : Nat) : (s.wakeTile t).powerView = s.powerView.put [t] (true, true) := by
  unfold State.wakeTile
  rw [State.raise_powerView, ← s.lightTile_awake t true]
  split
  · exact State.lmWake_powerView ..
  · rw [State.loadTile_powerView, State.lmWake_powerView]

theorem State.exitTile_powerView (t : Nat) (ws : List W64) : (s.exitTile t ws).powerView = s.powerView.put [t] (true, false) := by
  unfold State.exitTile
  dsimp only
  rw [← s.lightTile_awake t false, forKeys_powerView fun e s => ?_, forKeys_powerView fun c s => s.modChan_powerView t c _]
  · split <;> simp
  · split <;> simp

/-! ### The links and the supervisor (R356, R460) -/

theorem State.switchRate_age (dark : Bool) : (s.switchRate dark).tb.age = s.tb.age := by
  obtain ⟨hage, -⟩ := s.levelPairs.setDn_spine .noSignal
  rw [State.switchRate, State.trainAll_tb]
  exact (show ((s.levelPairs).setDn .noSignal).tb.age = s.levelPairs.tb.age from hage).trans
    (congrArg Timebase.age s.levelPairs_tb)

theorem State.wakeSup_powerView : s.wakeSup.powerView = { s.powerView with asleep := false } := by
  unfold State.wakeSup
  rw [State.raise_powerView, forKeys_powerView fun t s => s.loadTile_powerView t]
  rfl

/-! ### The supervisor's wake request stays (R460, R471) -/

theorem State.wakeAsk_log (kind source detail : Nat) : (s.log kind source detail).sup.wakeAsk = s.sup.wakeAsk := by
  unfold State.log
  split
  · rfl
  · split <;> rfl

variable {s} (h : s.sup.wakeAsk = true)
include h

theorem State.wakeAsk_setSticky (k : Nat) : (s.setSticky k).sup.wakeAsk = true := by
  unfold State.setSticky
  split <;> exact h

theorem State.wakeAsk_routeAlert (k : Nat) (at_ : Time) (unmask : Bool) : (s.routeAlert k at_ unmask).sup.wakeAsk = true := by
  have hsend : (if bit (s.evRoute k) 0 then s.send 3 0 [alertRecord k s.tb.epoch unmask, alertTime at_]
      else s).sup.wakeAsk = true := by
    split <;> exact h
  unfold State.routeAlert
  dsimp only
  split
  · rw [State.wakeAsk_log, hsend, Bool.true_or]
  · exact hsend

theorem State.wakeAsk_raiseQuiet (k : Nat) : (s.raiseQuiet k).sup.wakeAsk = true := by
  have hset := State.wakeAsk_setSticky h k
  unfold State.raiseQuiet
  split
  · exact h
  · dsimp only
    split
    · exact hset
    · exact State.wakeAsk_routeAlert hset ..

theorem State.wakeAsk_routeBox (k : Nat) : (s.routeBox k).sup.wakeAsk = true := by
  unfold State.routeBox
  split
  · split
    · split
      · exact h
      · exact State.wakeAsk_raiseQuiet (s := { s with ev := { s.ev with lost := satAdd (2 ^ 32 - 1) s.ev.lost 1 } }) h _
    · exact h
  · exact h

theorem State.wakeAsk_raise (k : Nat) : (s.raise k).sup.wakeAsk = true := by
  have hset := State.wakeAsk_setSticky h k
  unfold State.raise State.raiseAt
  split
  · exact h
  · split
    · exact hset
    · exact State.wakeAsk_routeBox (State.wakeAsk_routeAlert hset ..) k

end

/-- A sleeping supervisor is asked to wake by a tile that wakes (R492). -/
theorem State.wakeAsk_wakeTile (s : State) (t : Nat) (h : s.sup.asleep = true) : (s.wakeTile t).sup.wakeAsk = true := by
  have hview : (((s.lightTile t).modTile t (fun x => { x with awake := true })).lmWake t).sup.asleep = true :=
    (congrArg PowerView.asleep ((State.lmWake_powerView ..).trans (s.lightTile_awake t true)) :).trans h
  unfold State.wakeTile
  dsimp only
  rw [if_pos hview]
  exact State.wakeAsk_raise rfl _

end Sys2Proof.Machine
end

