-- ==== Sys2Proof/Proofs/PowerStates.lean ====
section
/-! ## O58: the changes of the power states (R162, R302, R487 to R493) -/

namespace Sys2Proof.Machine
open Sys2Proof

/-! ### A run over keys reaches what one of its keys brings about -/

theorem forKeys_reaches {P : State → Prop} {f : Nat → State → State} (hkeep : ∀ k s, P s → P (f k s)) {ks : List Nat}
    {k : Nat} (hk : k ∈ ks) (hset : ∀ s, P (f k s)) (s : State) : P (forKeys ks f s) := by
  induction ks generalizing s with
  | nil => exact absurd hk List.not_mem_nil
  | cons j ks ih =>
    rw [forKeys_cons]
    rcases List.mem_cons.mp hk with rfl | hk
    · exact forKeys_keeps (R := fun s t => P s → P t) (fun _ => id) (fun h k => k ∘ h) hkeep ks _ (hset s)
    · exact ih hk _

section
variable {s t : State}

theorem State.TilesOnly.evSet_chip (h : s.TilesOnly t) (k : Nat) : t.evSet (chipSrc k) = s.evSet (chipSrc k) := by
  have hev : t.ev = s.ev := (congrArg State.ev h : )
  rw [State.evSet, State.evSet, if_neg (by simp [chipSrc]), if_neg (by simp [chipSrc]), hev]

theorem State.tilesOnly_injectAll (s : State) (kind cls : Nat) (word : W64) : s.TilesOnly (s.injectAll kind cls word) := by
  refine forKeys_tilesOnly (fun _ _ => forKeys_tilesOnly (fun _ w => ?_) _ _) _ s
  split <;> rfl

@[simp] theorem State.injectAll_trigView (s : State) (kind cls : Nat) (word : W64) :
    (s.injectAll kind cls word).trigView = s.trigView := by
  have hinj : ∀ (s : State) (t e : Nat) (d : DItem), (s.inject t e d).trigView = s.trigView :=
    fun s t e d => s.trigView_modTile t fun _ => rfl
  simp -implicitDefEqProofs [State.injectAll, forKeys_trigView, hinj]

theorem State.powerView_advanceTo (a : Nat) (hup : s.up = true) : (s.advanceTo a).powerView = s.powerView := by
  rw [s.advanceTo_eq a hup]
  rfl

/-! ### Run (R162, R182, R205) -/

/-- A channel whose next record for its engine's input queue carries IU and not LG (R162). -/
def State.CaptureFresh (s : State) (u c : Nat) : Prop := (s.chan u c).neq = { lg := false, iu := true } ∧ (s.chan u c).eq = {}

theorem State.captureFresh_congr {u c : Nat} (h : t.chan u c = s.chan u c) (hf : s.CaptureFresh u c) : t.CaptureFresh u c := by
  rw [State.CaptureFresh, h]
  exact hf

theorem State.captureFresh_modChan (s : State) (u c : Nat) : (s.modChan u c Chan.freshEq).CaptureFresh u c := by
  rw [State.CaptureFresh, State.chan_modChan_same]
  exact ⟨rfl, rfl⟩

theorem State.CaptureFresh.modChan {u c : Nat} (h : s.CaptureFresh u c) (v k : Nat) :
    (s.modChan v k Chan.freshEq).CaptureFresh u c := by
  by_cases hvk : v = u ∧ k = c
  · obtain ⟨rfl, rfl⟩ := hvk
    exact s.captureFresh_modChan _ _
  · exact State.captureFresh_congr (by rw [State.chan_modChan, if_neg fun hn => hvk ⟨hn.1.symm, hn.2.symm⟩]) h

theorem State.chan_injectAll (s : State) (kind cls : Nat) (word : W64) (u c : Nat) :
    (s.injectAll kind cls word).chan u c = s.chan u c := by
  refine forKeys_keeps (R := fun s t => t.chan u c = s.chan u c) (fun _ => rfl) (fun h k => k.trans h) (fun t s =>
    forKeys_keeps (R := fun s t => t.chan u c = s.chan u c) (fun _ => rfl) (fun h k => k.trans h) (fun e s => ?_) _ s) _ s
  split
  · rfl
  · exact s.tile_modTile_keeps u (fun x : Tile => x.chan c) t _ fun _ => rfl

theorem State.captureFresh_goRun (s : State) {u c : Nat} (hu : u < s.nTiles) (hc : c < 17) : s.goRun.CaptureFresh u c := by
  unfold State.goRun
  refine State.captureFresh_congr (State.chan_congr _ (State.raise_tiles (by decide)) u c) ?_
  refine State.captureFresh_congr (State.chan_injectAll ..) ?_
  have hrow : ∀ t (s : State), s.CaptureFresh u c →
      (forKeys (List.range 17) (fun c s => s.modChan t c Chan.freshEq) s).CaptureFresh u c := fun t =>
    forKeys_keeps (R := fun s t => s.CaptureFresh u c → t.CaptureFresh u c) (fun _ => id) (fun h k => k ∘ h)
      (fun k s h => h.modChan t k) _
  refine forKeys_reaches (P := fun s => s.CaptureFresh u c) hrow (List.mem_range.mpr hu) (fun s => ?_) _
  exact forKeys_reaches (P := fun s => s.CaptureFresh u c) (fun k s h => h.modChan u k) (List.mem_range.mpr hc)
    (fun s => s.captureFresh_modChan u c) s

theorem State.goRun_powerView (s : State) :
    s.goRun.powerView = { s.powerView with pw := { s.pw with st := .run, toRun := none } } := by
  unfold State.goRun
  rw [State.raise_powerView, State.injectAll_powerView,
    forKeys_powerView fun t s => forKeys_powerView (fun c s => s.modChan_powerView t c _) _ s]
  rfl

/-! ### Safelight from Run (R29, R302) -/

@[simp] theorem State.dropMarks_powerView (s : State) (ord : Nat) : (s.dropMarks ord).powerView = s.powerView := by
  simp -implicitDefEqProofs [State.dropMarks, forKeys_powerView]

@[simp] theorem State.tref_powerView (s : State) (id code reason epoch : Nat) :
    (s.tref id code reason epoch).powerView = s.powerView :=
  State.raise_powerView _ _

/-- One pending trigger is refused as the device leaves Run. -/
def State.refuseOne (s : State) (p : Trig) : State := (s.dropMarks p.ord).tref p.id p.code (p.doom.getD 6) p.epoch

theorem State.refuseAll_eq (s : State) :
    s.refuseAll = s.eb.pending.foldl State.refuseOne { s with eb := { s.eb with pending := [] } } := rfl

theorem State.refuseAll_powerView (s : State) : s.refuseAll.powerView = s.powerView := by
  rw [State.refuseAll_eq]
  exact List.foldlRecOn (motive := fun w : State => w.powerView = s.powerView) s.eb.pending State.refuseOne rfl
    fun w hw p _ => ((State.tref_powerView ..).trans (w.dropMarks_powerView p.ord)).trans hw

theorem State.mem_marks_refuseOne (s : State) (p : Trig) {u : Nat} (hu : u < 64) {m : Mark}
    (hm : m ∈ ((s.refuseOne p).tile u).marks) :
    m ∈ (s.tile u).marks ∧ m.owner ≠ p.ord := by
  rw [State.refuseOne, State.marks_tref] at hm
  refine ⟨?_, s.owner_of_mem_dropMarks p.ord hu m hm⟩
  rw [s.marks_dropMarks p.ord hu] at hm
  exact (List.mem_filter.mp hm).1

/-- The marks that are left are of no trigger that was refused. -/
theorem State.mem_marks_foldl_refuseOne {u : Nat} (hu : u < 64) (l : List Trig) (s : State) {m : Mark}
    (hm : m ∈ ((l.foldl State.refuseOne s).tile u).marks) : m ∈ (s.tile u).marks ∧ ∀ p ∈ l, m.owner ≠ p.ord := by
  induction l generalizing s with
  | nil => exact ⟨hm, fun _ h => absurd h List.not_mem_nil⟩
  | cons p l ih =>
    obtain ⟨hone, hrest⟩ := ih (s.refuseOne p) hm
    obtain ⟨hmem, hne⟩ := s.mem_marks_refuseOne p hu hone
    exact ⟨hmem, List.forall_mem_cons.mpr ⟨hne, hrest⟩⟩

/-- The last trigger refused leaves its reason and the refused-trigger event. -/
theorem State.refuseAll_last (s : State) (hne : s.eb.pending ≠ []) (hdoom : s.eb.pending.all (fun p => p.doom.isNone) = true) :
    s.refuseAll.eb.lastReason = 6 ∧ s.refuseAll.evSet (chipSrc 14) = true := by
  have hlast : (s.eb.pending.getLast hne).doom = none :=
    Option.isNone_iff_eq_none.mp (List.all_eq_true.mp hdoom _ (List.getLast_mem hne))
  rw [State.refuseAll_eq, ← List.dropLast_append_getLast hne, List.foldl_append, List.foldl_cons, List.foldl_nil]
  rw [State.refuseOne, State.eb_tref, hlast]
  exact ⟨rfl, State.evSet_tref ..⟩

/-- What follows the refusals at the entry of Safelight from Run leaves triggers, marks and sticky bits. -/
theorem State.goSafelight_after (s : State) : ∃ w : State, w.eb = s.eb ∧
    w.powerView = { s.powerView with pw := { s.pw with st := .safelight, toSafe := none } } ∧
    s.goSafelight.trigView = w.refuseAll.trigView ∧ s.goSafelight.powerView = w.refuseAll.powerView ∧
    ∀ k, w.refuseAll.evSet (chipSrc k) = true → s.goSafelight.evSet (chipSrc k) = true := by
  refine ⟨forKeys (s.tiles.map (·.1)) (fun t s => forKeys ((s.tile t).chans.map (·.1)) (fun c s => s.modChan t c Chan.stopEq) s)
    { s with pw := { s.pw with st := .safelight, toSafe := none } }, ?_, ?_, ?_, ?_, fun k hk => ?_⟩
  · exact (congrArg TrigView.eb (forKeys_trigView (fun t s => forKeys_trigView (fun c s => s.trigView_modChan t c _) _ s) _ _) :)
  · exact forKeys_powerView (fun t s => forKeys_powerView (fun c s => s.modChan_powerView t c _) _ s) _ _
  · exact (State.trigView_raise ..).trans (State.injectAll_trigView ..)
  · exact (State.raise_powerView ..).trans (State.injectAll_powerView ..)
  · exact State.evSet_raise_mono _ _ _ (((State.tilesOnly_injectAll ..).evSet_chip k).trans hk)

theorem State.goSafelight_powerView (s : State) :
    s.goSafelight.powerView = { s.powerView with pw := { s.pw with st := .safelight, toSafe := none } } := by
  obtain ⟨w, -, hview, -, hpower, -⟩ := s.goSafelight_after
  exact hpower.trans (w.refuseAll_powerView.trans hview)

theorem State.tref_goSafelight (s : State) (hne : s.eb.pending ≠ []) :
    s.goSafelight.eb.tref = (s.eb.tref + s.eb.pending.length) % 2 ^ 32 :=
  (congrArg Spine.tref s.goSafelight_spine :).trans (foldl_count _ hne _)

/-- No mark of a trigger that was pending is left. -/
theorem State.owner_ne_of_mem_goSafelight (s : State) {u : Nat} (hu : u < 64) {p : Trig} (hp : p ∈ s.eb.pending) {m : Mark}
    (hm : m ∈ (s.goSafelight.tile u).marks) : m.owner ≠ p.ord := by
  obtain ⟨w, heb, -, htrig, -, -⟩ := s.goSafelight_after
  have hmarks : (s.goSafelight.tile u).marks = (w.refuseAll.tile u).marks :=
    (congrArg (fun x : TrigView => x.marks u) htrig :)
  rw [hmarks] at hm
  exact (State.mem_marks_foldl_refuseOne hu _ _ hm).2 p (heb ▸ hp)

theorem State.goSafelight_last (s : State) (hne : s.eb.pending ≠ []) (hdoom : s.eb.pending.all (fun p => p.doom.isNone) = true) :
    s.goSafelight.eb.lastReason = 6 ∧ s.goSafelight.evSet (chipSrc 14) = true := by
  obtain ⟨w, heb, -, htrig, -, hev⟩ := s.goSafelight_after
  obtain ⟨hreason, hset⟩ := w.refuseAll_last (heb ▸ hne) (heb ▸ hdoom)
  exact ⟨(congrArg (fun x : TrigView => x.eb.lastReason) htrig :).trans hreason, hev 14 hset⟩

/-! ### Dark state (R490 to R493) -/

theorem State.dropDark_raised {d : DarkReq} (h : s.pw.dark = some d) (n : Nat) :
    (s.dropDark n).powerView = { s.powerView with pw := { s.pw with dark := none, reason := n } } ∧
      (s.dropDark n).evSet (chipSrc 30) = true := by
  have hd : s.pw.dark.isSome = true := by rw [h]; rfl
  rw [State.dropDark, if_pos hd]
  exact ⟨State.raise_powerView _ _, State.evSet_raise _ _ (by decide)⟩

/-- The tiles that lose their power at the Dark entry. -/
def State.poweredTiles (s : State) : List Nat := (List.range s.nTiles).filter (fun t => (s.tile t).powered)

/-- A view at the Dark entry: the state is Dark from epoch `e` on, the supervisor sleeps. -/
def PowerView.darkened (x : PowerView) (e : Nat) : PowerView :=
  { x with pw := { x.pw with st := .dark, dark := none, wentDark := some e, darkCauses := 0 }, asleep := true }

theorem State.goDark_bare (s : State) : s.goDark.powerView.bare =
    ({ s.powerView.bare.put s.poweredTiles (false, false) with darkRate := true } : PowerView).darkened s.tb.epoch := by
  have hgate := s.gateTiles_bare s.poweredTiles
  have htb := forKeys_tb (fun t s => s.gateTile_tb t) s.poweredTiles s
  unfold State.goDark
  rw [← State.poweredTiles]
  generalize forKeys _ _ s = w at *
  have hrate := congrArg PowerView.bare (w.switchRate_powerView true)
  dsimp only
  have hepoch := (w.switchRate_epoch true).trans (congrArg Timebase.epoch htb)
  generalize w.switchRate true = v at *
  calc
    _ = v.powerView.bare.darkened v.tb.epoch :=
      congrArg (fun x : PowerView => ({ x with asleep := true } : PowerView).bare) (State.raise_powerView
        { v with pw := { v.pw with st := .dark, dark := none, wentDark := some v.tb.epoch, darkCauses := 0 } } (chipSrc 30))
    _ = ({ w.powerView.bare with darkRate := true } : PowerView).darkened s.tb.epoch := by rw [hrate, hepoch]; rfl
    _ = _ := by rw [hgate]

theorem State.powered_goDark (s : State) {u : Nat} (hu : u < s.nTiles) : (s.goDark.tile u).powered = false := by
  have hflag : (s.goDark.tile u).powered =
      (if u ∈ s.poweredTiles then (false, false) else ((s.tile u).powered, (s.tile u).awake)).1 :=
    (congrArg (fun x : PowerView => (x.flags u).1) s.goDark_bare :)
  rw [hflag]
  by_cases hm : u ∈ s.poweredTiles
  · rw [if_pos hm]
  · rw [if_neg hm]
    exact Bool.eq_false_iff.mpr fun hp => hm (List.mem_filter.mpr ⟨List.mem_range.mpr hu, hp⟩)

theorem State.goDark_age (s : State) : s.goDark.tb.age = s.tb.age := by
  unfold State.goDark
  refine (congrArg Timebase.age (State.raise_tb ..)).trans ((State.switchRate_age ..).trans ?_)
  exact congrArg Timebase.age (forKeys_tb (fun t s => s.gateTile_tb t) _ s)

/-- The supervisor is awake. -/
theorem State.wakeSup_if_powerView (s : State) :
    (if s.sup.asleep then s.wakeSup else s).powerView = { s.powerView with asleep := false } := by
  split
  next => exact s.wakeSup_powerView
  next h => exact congrArg (fun b => { s.powerView with asleep := b }) (Bool.eq_false_iff.mpr h)

/-- At the Dark exit (R493). -/
theorem State.leaveDark_powerView (s : State) : s.leaveDark.powerView = { s.powerView.put (List.range s.nTiles) (true, false) with
    pw := { s.pw with dark := none, exiting := true, wentDark := none }, darkRate := false, asleep := false } := by
  unfold State.leaveDark
  refine (State.wakeSup_if_powerView _).trans ?_
  rw [State.switchRate_powerView, forKeys_put (v := State.powerView) fun t s => s.exitTile_powerView t _]
  rfl

theorem State.leaveDark_age (s : State) : s.leaveDark.tb.age = s.tb.age := by
  have hwake : ∀ w : State, (if w.sup.asleep then w.wakeSup else w).tb = w.tb := fun w => by
    split
    · exact w.wakeSup_tb
    · rfl
  unfold State.leaveDark
  refine (congrArg Timebase.age (hwake _)).trans ((State.switchRate_age ..).trans ?_)
  exact congrArg Timebase.age (forKeys_tb (fun t s => s.exitTile_tb t _) _ _)

theorem State.darkOver_powerView (s : State) :
    s.darkOver.powerView = { s.powerView with pw := { s.pw with st := .safelight, exiting := false } } := by
  have hload := forKeys_powerView (fun t s => s.loadTile_powerView t) (List.range s.nTiles) s
  have hpw := (congrArg PowerView.pw hload :)
  unfold State.darkOver
  generalize forKeys _ _ s = w at *
  rw [State.raise_powerView, ← hload]
  exact congrArg (fun p : Power => { w.powerView with pw := { p with st := .safelight, exiting := false } }) hpw

/-! ### The commands -/

section
variable (hup : s.up = true)
include hup

theorem exec_pwRegate (m : BitVec 64) : exec (.pwRegate m) s = .next ((s.advance 1).regateAsk m) :=
  show execPwRegate m s = _ from onChip_up s _ hup

theorem exec_enterRun {a : Nat} (h : s.pw.toRun = some a) : exec .enterRun s = .next (s.advanceTo a).goRun := by
  show execEnterRun s = _
  rw [execEnterRun, onChip_up s _ hup, h]

theorem exec_enterSafelight {a : Nat} (h : s.pw.toSafe = some a) : exec .enterSafelight s = .next (s.advanceTo a).goSafelight := by
  show execEnterSafelight s = _
  rw [execEnterSafelight, onChip_up s _ hup, h]

theorem exec_darkDecide_refused {d : DarkReq} {n : Nat} (h : s.pw.dark = some d) (he : d.entry = true) (hd : d.decided = false)
    (hn : (s.advanceTo (d.age - 1000)).darkReason = some n) :
    exec .darkDecide s = .next ((s.advanceTo (d.age - 1000)).dropDark n) := by
  show execDarkDecide s = _
  rw [execDarkDecide, onChip_up s _ hup, h]
  dsimp only
  rw [if_pos (by rw [he, hd]; rfl), hn]

theorem exec_darkDecide_decided {d : DarkReq} (h : s.pw.dark = some d) (he : d.entry = true) (hd : d.decided = false)
    (hn : (s.advanceTo (d.age - 1000)).darkReason = none) : exec .darkDecide s = .next { s.advanceTo (d.age - 1000) with
      pw := { (s.advanceTo (d.age - 1000)).pw with dark := some { d with decided := true } } } := by
  show execDarkDecide s = _
  rw [execDarkDecide, onChip_up s _ hup, h]
  dsimp only
  rw [if_pos (by rw [he, hd]; rfl), hn]

theorem exec_darkEntry {d : DarkReq} (h : s.pw.dark = some d) :
    exec .darkEntry s = .next (if d.entry && d.decided then (s.advanceTo d.age).goDark else s) := by
  show execDarkEntry s = _
  rw [execDarkEntry, onChip_up s _ hup, h]

theorem exec_darkExit {d : DarkReq} (h : s.pw.dark = some d) :
    exec .darkExit s = .next (if d.entry then s else (s.advanceTo d.age).leaveDark) := by
  show execDarkExit s = _
  rw [execDarkExit, onChip_up s _ hup, h]

theorem exec_darkExitComplete (h : s.pw.exiting = true) : exec .darkExitComplete s = .next s.darkOver := by
  show execDarkExitComplete s = _
  rw [execDarkExitComplete, onChip_up s _ hup, if_pos h]

theorem exec_tileWake {u : Nat} (hu : u < s.nTiles) (hst : s.pw.st = .dark) (hp : (s.tile u).powered = false)
    (hc : s.tileCalled u = true) : exec (.tileWake u) s = .next (s.wakeTile u) := by
  show execTileWake u s = _
  rw [execTileWake, onTile_up s u _ hup hu, if_pos ⟨hst, by rw [hp]; rfl, hc⟩]

theorem exec_supervisorWake : exec .supervisorWake s = .next (if s.sup.asleep && s.supCalled then s.wakeSup else s) :=
  show execSupervisorWake s = _ from onChip_up s _ hup

/-- PW_REGATE gates the tiles it names that had been woken (R492). -/
theorem State.regateAsk_bare (m : BitVec 64) : ((s.advance 1).regateAsk m).powerView.bare =
    s.powerView.bare.put ((List.range s.nTiles).filter (fun t => m.getLsbD t && (s.tile t).awake)) (false, false) := by
  rw [s.advance_up 1 hup]
  exact State.gateTiles_bare ..

theorem State.regateAsk_flags (m : BitVec 64) {u : Nat} (hu : u < s.nTiles) :
    (((s.advance 1).regateAsk m).tile u).powered = ((s.tile u).powered && !(m.getLsbD u && (s.tile u).awake)) ∧
      (((s.advance 1).regateAsk m).tile u).awake = ((s.tile u).awake && !m.getLsbD u) := by
  have hflags : ((((s.advance 1).regateAsk m).tile u).powered, (((s.advance 1).regateAsk m).tile u).awake) =
      if u ∈ (List.range s.nTiles).filter (fun t => m.getLsbD t && (s.tile t).awake) then (false, false)
      else ((s.tile u).powered, (s.tile u).awake) := (congrArg (fun x : PowerView => x.flags u) (State.regateAsk_bare hup m) :)
  have hmem : u ∈ (List.range s.nTiles).filter (fun t => m.getLsbD t && (s.tile t).awake) ↔
      (m.getLsbD u && (s.tile u).awake) = true := by
    rw [List.mem_filter, List.mem_range]
    exact and_iff_right hu
  by_cases hw : (m.getLsbD u && (s.tile u).awake) = true
  · obtain ⟨hp, ha⟩ := Prod.mk.inj (hflags.trans (if_pos (hmem.mpr hw)))
    obtain ⟨hm, hawake⟩ : m.getLsbD u = true ∧ (s.tile u).awake = true := by simpa using hw
    rw [hp, ha, hm, hawake]
    simp
  · obtain ⟨hp, ha⟩ := Prod.mk.inj (hflags.trans (if_neg fun h => hw (hmem.mp h)))
    rw [hp, ha]
    revert hw
    cases m.getLsbD u <;> cases (s.tile u).awake <;> simp

end

end

end Sys2Proof.Machine
open Sys2Proof Sys2Proof.Machine

/-- Settles O58: the requests by the branches of PW_CTRL's action one slot on, the changes by what each leaves of the power
view. -/
theorem powerStates : Obligations.PowerStates := by
  refine ⟨fun s hup r hr ok hok => ?_, fun s hup => ?_⟩
  · subst hr hok
    refine ⟨fun hs hi => ?runNoImage, fun hs hi hb => ?runBusy, fun hs hi hb => ?runTaken, fun hs => ?runElsewhere,
      fun hs hb => ?safelightBusy, fun hs hb => ?safelightTaken, fun hs => ?safelightAgain, fun hs hok => ?exitEarly,
      fun hs hok hb => ?exitBusy, fun hs hok hb => ?exitTaken, fun hs => ?entryElsewhere, fun hs hp hok => ?entryEarly,
      fun hs hp hok hb => ?entryBusy, fun hs hp hok hb hc => ?entryTaken, fun d hd => ?cancel, fun hd => ?cancelNone,
      fun m => ?regate⟩
    case runNoImage =>
      exact answers_powerRefused hup (exec_reqRun hup) (by rw [State.requested_run hup hs, if_pos hi])
    case runBusy =>
      exact answers_powerRefused hup (exec_reqRun hup) (by rw [State.requested_run hup hs, if_neg (by simp [hi]), if_pos hb])
    case runTaken =>
      rw [exec_reqRun hup, State.requested_run hup hs, if_neg (by simp [hi]), if_neg (by simp [hb])]
    case runElsewhere =>
      exact answers_powerRefused hup (exec_reqRun hup) (State.requested_run_elsewhere hs)
    case safelightBusy =>
      exact answers_powerRefused hup (exec_reqSafelight hup) (by rw [State.requested_safelight_run hup hs, if_pos hb])
    case safelightTaken =>
      rw [exec_reqSafelight hup, State.requested_safelight_run hup hs, if_neg (by simp [hb])]
    case safelightAgain =>
      exact answers_powerRefused hup (exec_reqSafelight hup) (State.requested_safelight_safelight hs)
    case exitEarly =>
      exact answers_powerRefused hup (exec_reqSafelight hup)
        (by rw [State.requested_safelight_dark hs, State.askDark_early _ hok])
    case exitBusy =>
      exact answers_powerRefused hup (exec_reqSafelight hup)
        (by rw [State.requested_safelight_dark hs, State.askDark_busy _ hok (by rwa [s.advance_pw 1])])
    case exitTaken =>
      rw [exec_reqSafelight hup, State.requested_safelight_dark hs,
        State.askDark_next hup false hok hb fun h => absurd h (by decide)]
    case entryElsewhere =>
      exact answers_powerRefused hup (exec_reqDark hup) (State.requested_dark_elsewhere hs)
    case entryEarly =>
      exact answers_powerRefused hup (exec_reqDark hup) (by rw [State.requested_dark hs hp, State.askDark_early _ hok])
    case entryBusy =>
      exact answers_powerRefused hup (exec_reqDark hup)
        (by rw [State.requested_dark hs hp, State.askDark_busy _ hok (by rwa [s.advance_pw 1])])
    case entryTaken =>
      rw [exec_reqDark hup, State.requested_dark hs hp, State.askDark_next hup true hok hb fun _ => hc]
    case cancel =>
      rw [exec_pwCancel hup, State.powerCancel_some (d := d) (by rwa [s.advance_pw 1]), s.advance_pw 1]
    case cancelNone =>
      rw [exec_pwCancel hup, State.powerCancel_none (by rwa [s.advance_pw 1])]
    case regate =>
      have hview := State.regateAsk_bare hup m
      refine ⟨_, exec_pwRegate hup m, ?_, (congrArg PowerView.pw hview :), fun u hu => State.regateAsk_flags hup m hu⟩
      rw [State.regateAsk_tb]
      exact s.advance_age 1 hup
  · refine ⟨fun a ha => ?enterRun, fun a ha => ?enterSafelight, fun d hd he hn => ?decide, fun d hd he hn => ?darkEntry,
      fun d hd he hn => ?undecided, fun d hd he => ?darkExit, fun hx => ?exitComplete, fun u hu hst hp hc => ?tileWake,
      fun hs hc => ?supWake, fun h => ?supStays⟩
    case enterRun =>
      have hview := (s.advanceTo a).goRun_powerView
      rw [State.powerView_advanceTo a hup, show (s.advanceTo a).pw = s.pw from s.advance_pw _] at hview
      have hage := (congrArg Timebase.age (s.advanceTo a).goRun_tb).trans (s.advanceTo_age a hup)
      refine ⟨_, exec_enterRun hup ha, (congrArg PowerView.pw hview :), hage, State.evSet_raise _ _ (by decide),
        (congrArg PowerView.regs hview :), (congrArg PowerView.msg hview :), fun u c hu hc => ?_⟩
      exact State.captureFresh_goRun _ (by rwa [s.advanceTo_eq a hup]) hc
    case enterSafelight =>
      have hspine := (s.advanceTo a).goSafelight_spine
      have heb : (s.advanceTo a).eb = s.eb := s.advance_eb _
      have hview := (s.advanceTo a).goSafelight_powerView
      rw [State.powerView_advanceTo a hup, show (s.advanceTo a).pw = s.pw from s.advance_pw _] at hview
      refine ⟨_, exec_enterSafelight hup ha, (congrArg PowerView.pw hview :),
        (congrArg (fun x : Spine => x.tb.age) hspine :).trans (s.advanceTo_age a hup), State.evSet_raise _ _ (by decide),
        (congrArg PowerView.regs hview :), (congrArg PowerView.msg hview :), (congrArg Spine.trigs hspine :), fun hne => ?_,
        fun u p hu hp m hm => State.owner_ne_of_mem_goSafelight _ hu (heb ▸ hp) hm,
        fun hne hdoom => State.goSafelight_last _ (heb ▸ hne) (heb ▸ hdoom)⟩
      rw [State.tref_goSafelight _ (heb ▸ hne), heb]
    case decide =>
      have hage := s.advanceTo_age (d.age - 1000) hup
      have hpw : (s.advanceTo (d.age - 1000)).pw = s.pw := s.advance_pw _
      cases hr : (s.advanceTo (d.age - 1000)).darkReason with
      | none =>
        refine ⟨_, exec_darkDecide_decided hup hd he hn hr, hage, fun _ => ?_, fun _ h => nomatch h⟩
        exact congrArg (fun p : Power => { p with dark := some { d with decided := true } }) hpw
      | some n =>
        obtain ⟨hview, hev⟩ := State.dropDark_raised (hpw ▸ hd) n
        refine ⟨_, exec_darkDecide_refused hup hd he hn hr, ?_, fun h => (nomatch h), fun k hk => ?_⟩
        · rw [State.dropDark_tb]
          exact hage
        · cases hk
          exact ⟨(congrArg PowerView.pw hview :).trans
            (congrArg (fun p : Power => { p with dark := none, reason := n }) hpw), hev⟩
    case darkEntry =>
      have hview := (s.advanceTo d.age).goDark_bare
      rw [State.powerView_advanceTo d.age hup] at hview
      refine ⟨_, (exec_darkEntry hup hd).trans (by rw [he, hn]; rfl), (congrArg (fun x : PowerView => x.pw.st) hview :),
        (congrArg (fun x : PowerView => x.pw.dark) hview :), (State.goDark_age _).trans (s.advanceTo_age d.age hup),
        (congrArg PowerView.darkRate hview :), (congrArg PowerView.asleep hview :), State.evSet_raise _ _ (by decide),
        fun u hu => State.powered_goDark _ (by rwa [s.advanceTo_eq d.age hup]), (congrArg PowerView.msg hview :)⟩
    case undecided =>
      constructor
      · rw [exec_darkEntry hup hd, if_neg (by rw [hn]; simp)]
      · rw [exec_darkExit hup hd, if_pos he]
    case darkExit =>
      have hview := (s.advanceTo d.age).leaveDark_powerView
      rw [State.powerView_advanceTo d.age hup, show (s.advanceTo d.age).pw = s.pw from s.advance_pw _,
        show (s.advanceTo d.age).nTiles = s.nTiles from s.advance_nTiles _] at hview
      refine ⟨_, (exec_darkExit hup hd).trans (by rw [he]; rfl), (congrArg (fun x : PowerView => x.pw.exiting) hview :),
        (congrArg (fun x : PowerView => x.pw.dark) hview :), (congrArg (fun x : PowerView => x.pw.st) hview :),
        (State.leaveDark_age _).trans (s.advanceTo_age d.age hup), (congrArg PowerView.darkRate hview :),
        (congrArg PowerView.asleep hview :), fun u hu => ?_, (congrArg PowerView.regs hview :),
        (congrArg PowerView.msg hview :)⟩
      exact Prod.mk.inj ((congrArg (fun x : PowerView => x.flags u) hview :).trans (if_pos (List.mem_range.mpr hu)))
    case exitComplete =>
      have hview := s.darkOver_powerView
      exact ⟨_, exec_darkExitComplete hup hx, (congrArg PowerView.pw hview :), State.evSet_raise _ _ (by decide), s.darkOver_tb,
        (congrArg PowerView.regs hview :), (congrArg PowerView.msg hview :)⟩
    case tileWake =>
      have hview := s.wakeTile_powerView u
      obtain ⟨hlit, hawake⟩ := Prod.mk.inj
        ((congrArg (fun x : PowerView => x.flags u) hview :).trans (if_pos (List.mem_singleton.mpr rfl)))
      refine ⟨_, exec_tileWake hup hu hst hp hc, hlit, hawake, ?_, s.wakeAsk_wakeTile u, fun v hv => ?_,
        (congrArg PowerView.regs hview :), s.wakeTile_tb u⟩
      · exact State.evSet_raise_tile _ (lt_of_lt_of_le hu s.nTiles_le) (by decide)
      · exact (congrArg (fun x : PowerView => (x.flags v).1) hview :).trans
          (congrArg Prod.fst (if_neg (fun h => hv (List.mem_singleton.mp h))))
    case supWake =>
      have hview := s.wakeSup_powerView
      refine ⟨_, (exec_supervisorWake hup).trans (by rw [hs, hc]; rfl), (congrArg PowerView.asleep hview :),
        State.evSet_raise _ _ (by decide), (congrArg PowerView.regs hview :), s.wakeSup_tb, (congrArg PowerView.msg hview :),
        (congrArg PowerView.pw hview :)⟩
    case supStays =>
      rw [exec_supervisorWake hup, if_neg (by rcases h with h | h <;> simp [h])]
end

