-- ==== Sys2Proof/Proofs/Receiver.lean ====
section
/-! ## O41: the receiver, discarded slots and refused fast commands (R53, R314 to R318, R325) -/

namespace Sys2Proof.Machine
open Sys2Proof

/-! ### The reference follows slot lock (R53, R314) -/

/-- REFSRC depends on TB_REF and the receiver alone. -/
theorem State.refClk_congr {s t : State} (hr : t.regs = s.regs) (hd : t.lk.dn = s.lk.dn) : t.refClk = s.refClk := by
  simp only [State.refClk, State.fld, State.rv, hr, hd]

/-- In automatic selection the reference clock stands in for a receiver without slot lock. -/
theorem State.refClk_auto {s : State} (h : s.fld 0x1000 1 0 = 0) : s.refClk = !decide (s.lk.dn = .slot) := by
  simp only [State.refClk, h]

/-- A fixed selection does not look at the receiver. -/
theorem State.refClk_fixed {s : State} (l : Links) (h : s.fld 0x1000 1 0 ≠ 0) :
    ({ s with lk := l } : State).refClk = s.refClk := by
  have h' : ({ s with lk := l } : State).fld 0x1000 1 0 ≠ 0 := h
  unfold State.refClk
  split
  · contradiction
  all_goals simp_all [State.fld, State.rv]

/-- The loss of the reference does not change the selection. -/
theorem State.refClk_unlock (s : State) (lead : Nat) : (s.unlock lead).refClk = s.refClk := by
  obtain ⟨-, hspine⟩ := s.unlock_spine lead
  exact State.refClk_congr (congrArg PowerView.regs (s.unlock_powerView lead) :) (congrArg Spine.dn hspine :)

theorem State.evSet_updQuality_mono (s : State) (j : Nat) (h : s.evSet j = true) : s.updQuality.evSet j = true := by
  unfold State.updQuality
  split
  · exact h
  · exact State.evSet_raise_mono _ _ _ ((State.evSet_congr rfl rfl j).trans h)

/-- The reference is lost to a change of the selection, which is now `act`: a timebase that was LOCKED is in HOLDOVER, with
its event (R53, R60). -/
def State.RefSwitched (s t : State) (act : Bool) : Prop :=
  t.tb.refOk = false ∧ t.tb.refAct = act ∧ (s.tb.st = .locked → t.tb.st = .holdover ∧ t.evSet (chipSrc 0) = true)

/-- Unlock takes LOCKED to HOLDOVER with its event (R60). -/
theorem State.unlock_locked (s : State) (lead : Nat) (h : s.tb.st = .locked) :
    (s.unlock lead).tb.st = .holdover ∧ (s.unlock lead).evSet (chipSrc 0) = true := by
  simp only [State.unlock, h]
  exact ⟨by rw [State.updQuality_tb, State.raise_tb],
    State.evSet_updQuality_mono _ _ (State.evSet_raise _ _ (by decide))⟩

theorem State.refSwitched_refSwitch {s : State} {old : Bool} (h : s.refClk ≠ old) :
    s.RefSwitched (s.refSwitch old) s.refClk := by
  rw [State.refSwitch, if_neg h]
  refine ⟨rfl, s.refClk_unlock 1, fun hst => ?_⟩
  obtain ⟨hhold, hev⟩ := s.unlock_locked 1 hst
  exact ⟨hhold, (State.evSet_congr rfl rfl _).trans hev⟩

theorem State.RefSwitched.raise {s t : State} {act : Bool} (h : s.RefSwitched t act) (k : Nat) :
    s.RefSwitched (t.raise k) act := by
  obtain ⟨hok, hact, hst⟩ := h
  rw [State.RefSwitched, State.raise_tb]
  exact ⟨hok, hact, fun hl => ⟨(hst hl).1, t.evSet_raise_mono k _ (hst hl).2⟩⟩

theorem State.setDn_dn (s : State) (d : DnState) : (s.setDn d).lk.dn = d := by
  obtain ⟨-, hspine⟩ := s.setDn_spine d
  exact (congrArg Spine.dn hspine :)

/-- Where slot lock does not change, or the selection is fixed, only the receiver's state changes. -/
theorem State.setDn_kept {s : State} {d : DnState} (h : s.fld 0x1000 1 0 ≠ 0 ∨ (d = .slot ↔ s.lk.dn = .slot)) :
    s.setDn d = { s with lk := { s.lk with dn := d } } := by
  refine if_pos ?_
  by_cases hf : s.fld 0x1000 1 0 = 0
  · rw [State.refClk_auto hf, State.refClk_auto (s := { s with lk := { s.lk with dn := d } }) hf]
    exact congrArg not (decide_eq_decide.mpr (h.resolve_left (not_not_intro hf)))
  · exact State.refClk_fixed _ hf

/-- In automatic selection the reference follows slot lock: its change acts as the loss of the reference. -/
theorem State.setDn_switched {s : State} {d : DnState} (hf : s.fld 0x1000 1 0 = 0)
    (h : decide (d = .slot) ≠ decide (s.lk.dn = .slot)) : s.RefSwitched (s.setDn d) (!decide (d = .slot)) := by
  have hnew := State.refClk_auto (s := { s with lk := { s.lk with dn := d } }) hf
  have hsw := State.refSwitched_refSwitch (s := { s with lk := { s.lk with dn := d } }) (old := s.refClk) (by
    rw [State.refClk_auto hf, hnew]
    exact fun he => h (Bool.not_inj he))
  rwa [hnew] at hsw

/-! ### The receiver's commands (R314) -/

section
variable {s : State} (hup : s.up = true)
include hup

theorem exec_dnClockRecovered (h : s.lk.dn = .noSignal) : exec .dnClockRecovered s = .next (s.setDn .cdr) := by
  show execDnClockRecovered s = _
  rw [execDnClockRecovered, onChip_up s _ hup, if_pos h]

theorem exec_dnCommaLock (h : s.lk.dn = .cdr) : exec .dnCommaLock s = .next (s.setDn .char) := by
  show execDnCommaLock s = _
  rw [execDnCommaLock, onChip_up s _ hup, if_pos h]

theorem exec_dnSlotLock (h : s.lk.dn = .char) : exec .dnSlotLock s = .next (s.setDn .slot) := by
  show execDnSlotLock s = _
  rw [execDnSlotLock, onChip_up s _ hup, if_pos h]

theorem exec_dnSlotLost (h : s.lk.dn = .slot) : exec .dnSlotLost s = .next ((s.setDn .char).raise (chipSrc 10)) := by
  show execDnSlotLost s = _
  rw [execDnSlotLost, onChip_up s _ hup, if_pos h]

theorem exec_dnSignalLost : exec .dnSignalLost s =
    .next (if s.lk.dn = .slot then (s.setDn .noSignal).raise (chipSrc 10) else s.setDn .noSignal) := by
  show execDnSignalLost s = _
  rw [execDnSignalLost, onChip_up s _ hup]

end

/-- SLOT is left with slot-lost; what else changes goes by the selection of the reference (R53, R314, R481). -/
theorem State.slotLost {s : State} {d : DnState} (hl : s.lk.dn = .slot) (hd : d ≠ .slot) {t : State}
    (ht : t = (s.setDn d).raise (chipSrc 10)) :
    t.lk.dn = d ∧ t.evSet (chipSrc 10) = true ∧
      (s.fld 0x1000 1 0 ≠ 0 → ({ s with lk := { s.lk with dn := d } } : State).EventsApart t) ∧
      (s.fld 0x1000 1 0 = 0 → s.RefSwitched t true) := by
  subst ht
  have hdn : ((s.setDn d).raise (chipSrc 10)).lk.dn = (s.setDn d).lk.dn :=
    (congrArg Spine.dn ((s.setDn d).raise_spine (chipSrc 10)) :)
  refine ⟨hdn.trans (s.setDn_dn d), State.evSet_raise _ _ (by decide), fun hf => ?_, fun hf => ?_⟩
  · rw [State.setDn_kept (.inl hf)]
    exact State.apart_raise ..
  · have h := (State.setDn_switched hf (d := d) (by simp [hl, hd])).raise (chipSrc 10)
    rwa [decide_eq_false hd] at h

/-! ### Refused fast commands (R318) -/

section
variable {s : State} (hup : s.up = true) (hl : s.lk.dn = .slot)
include hup hl

/-- What an intact slot does. -/
theorem onChip_onSlot (f : State → State) : onChip s (fun s => s.onSlot false f) = .next (f s) := by
  rw [onChip_up s _ hup, s.onSlot_good f hl]

/-- A slot that arrives damaged is discarded and counted (R317). -/
theorem onChip_onSlot_bad (f : State → State) : onChip s (fun s => s.onSlot true f) =
    .next { s with lk := { s.lk with dnDisc := min 65535 (s.lk.dnDisc + 1) } } := by
  rw [onChip_up s _ hup, s.onSlot_bad f hl]

/-- A LINK operation with a reserved bit set, for a lane not in use, or for the odd lane of a pair is refused. -/
theorem onLane_refused {b : BitVec 48} {m : Nat} (f : Nat → State → State)
    (h : Nat.land b.toNat m ≠ 0 ∨ s.usedLane (bits b.toNat 47 45) = false ∨
      s.leadOf (bits b.toNat 47 45) ≠ bits b.toNat 47 45) :
    onChip s (fun s => s.onSlot false (fun s => s.onLane b m f)) = .next s.refuseFast := by
  rw [onChip_onSlot hup hl]
  exact congrArg _ (if_pos (by simpa using h))

theorem exec_pause_refused {b : BitVec 48} (h : s.issued (bits b.toNat 47 40) (bits b.toNat 39 32) = false) :
    exec (.pause b false) s = .next s.refuseFast := by
  refine (onChip_onSlot hup hl _).trans (congrArg _ (if_pos ?_))
  simp [h]

theorem exec_resume_refused {b : BitVec 48} (h : s.issued (bits b.toNat 47 40) (bits b.toNat 39 32) = false) :
    exec (.resume b false) s = .next s.refuseFast := by
  refine (onChip_onSlot hup hl _).trans (congrArg _ (if_pos ?_))
  simp [h]

end

end Sys2Proof.Machine
open Sys2Proof Sys2Proof.Machine

/-- Settles O41: the receiver's state moves alone unless the reference follows it, and then the reference is lost; each slot
that is refused or discarded ends in its counter. -/
theorem receiverAndRefusals : Obligations.ReceiverAndRefusals := by
  refine ⟨⟨fun s hup => ⟨fun h => ?clock, fun h => ?comma, fun h hf => ?fixed, fun h hf => ?followed, fun h => ?lost, ?signal⟩,
    fun s b op c hup hl => ⟨?idle, ?damaged, ?orphan, fun h => ?unknown⟩⟩, fun s hup hl => ?refused⟩
  case clock => rw [exec_dnClockRecovered hup h, State.setDn_kept (.inr (by simp [h]))]
  case comma => rw [exec_dnCommaLock hup h, State.setDn_kept (.inr (by simp [h]))]
  case fixed => rw [exec_dnSlotLock hup h, State.setDn_kept (.inl hf)]
  case followed => exact ⟨_, exec_dnSlotLock hup h, s.setDn_dn _, State.setDn_switched hf (by simp [h])⟩
  case lost => exact ⟨_, exec_dnSlotLost hup h, State.slotLost h (by decide) rfl⟩
  case signal =>
    refine ⟨_, exec_dnSignalLost hup, ?_⟩
    by_cases h : s.lk.dn = .slot
    · rw [if_pos h]
      obtain ⟨hdn, hev, hfixed, hauto⟩ := State.slotLost (d := .noSignal) h (by decide) rfl
      exact ⟨hdn, fun _ => hev, fun k => hfixed (k.resolve_left (not_not_intro h)), fun _ => hauto⟩
    · rw [if_neg h, State.setDn_kept (.inr (by simp [h]))]
      exact ⟨rfl, fun k => absurd k h, fun _ => .refl _, fun k => absurd k h⟩
  case idle => exact onChip_onSlot hup hl id
  case damaged => exact onChip_onSlot_bad hup hl id
  case orphan => exact onChip_onSlot hup hl _
  case unknown => exact (onChip_onSlot hup hl _).trans (congrArg _ (if_pos h))
  case refused =>
    refine ⟨fun b h => ⟨?_, ?_⟩, fun b h => ?_, fun b h => ⟨onLane_refused hup hl _ h, onLane_refused hup hl _ h⟩,
      fun b h => ⟨onLane_refused hup hl _ h, onLane_refused hup hl _ h⟩,
      fun b h => ⟨exec_pause_refused hup hl h, exec_resume_refused hup hl h⟩⟩
    · exact (onChip_onSlot hup hl _).trans (congrArg _ (if_pos h))
    · exact (onChip_onSlot hup hl _).trans (congrArg _ (if_pos h))
    · exact (onChip_onSlot hup hl _).trans (congrArg _ (if_neg h))
end

