-- ==== Sys2Proof/Proofs/FastCommands.lean ====
section
/-! ## O42: fast commands and LINK operations (R318, R319, R328, R329, R338, R340, R344 to R347, R350) -/

namespace Sys2Proof.Machine
open Sys2Proof

/-! ### What changes streams alone -/

/-- Nothing changed but the streams. -/
def State.StreamsOnly (s t : State) : Prop := { t with lk := { t.lk with streams := s.lk.streams } } = s

theorem State.StreamsOnly.refl (s : State) : s.StreamsOnly s := rfl

theorem State.StreamsOnly.trans {s t u : State} (h : s.StreamsOnly t) (k : t.StreamsOnly u) : s.StreamsOnly u :=
  Eq.trans (congrArg (fun x : State => { x with lk := { x.lk with streams := s.lk.streams } }) k :) h

theorem State.LinkApart.rest {s t : State} (h : s.LinkApart t) :
    t.eb = s.eb ∧ t.tb = s.tb ∧ t.tiles = s.tiles ∧ t.regs = s.regs ∧ t.msg = s.msg :=
  ⟨(congrArg State.eb h :), (congrArg State.tb h :), (congrArg State.tiles h :), (congrArg State.regs h :),
    (congrArg State.msg h :)⟩

theorem State.StreamsOnly.resultIndices {s t : State} (h : s.StreamsOnly t) : t.resultIndices = s.resultIndices :=
  (congrArg State.resultIndices h :)

theorem State.StreamsOnly.linkApart {s t : State} (h : s.StreamsOnly t) : s.LinkApart t :=
  (congrArg (fun x : State => { x with lk := s.lk }) h :)

theorem State.streamsOnly_closeFrame (s : State) (i : Nat) : s.StreamsOnly (s.closeFrame i) := by
  simp only [State.closeFrame]
  split
  · rfl
  · exact .refl s

theorem State.streamsOnly_sendOwn (s : State) (c i : Nat) (ws : List W64) : s.StreamsOnly (s.sendOwn c i ws) := rfl

theorem State.streamsOnly_forKeys {f : Nat → State → State} (hf : ∀ k s, State.StreamsOnly s (f k s)) (ks : List Nat)
    (s : State) : s.StreamsOnly (forKeys ks f s) :=
  forKeys_keeps State.StreamsOnly.refl State.StreamsOnly.trans hf ks s

theorem State.stream_closeFrame_ne (s : State) {i d k : Nat} (h : streamKey d k ≠ streamKey 2 i) :
    (s.closeFrame i).stream d k = s.stream d k := by
  simp only [State.closeFrame]
  split
  · rw [State.stream_setStream, if_neg h]
  · rfl

theorem State.opened_sendOwn (s : State) (c i d j : Nat) (ws : List W64) :
    ((s.sendOwn c i ws).stream d j).opened = (s.stream d j).opened := by
  rw [State.sendOwn, State.sendWait, State.stream_setStream]
  split
  next h => rw [State.stream, State.stream, h]
  next => rfl

/-! ### BLOCK_CLOSE (R340) -/

/-- Each result stream of `is` ends with one payload more. -/
def State.sendEach (s : State) (is : List Nat) (ws : List W64) : State := forKeys is (fun i s => s.sendOwn 2 i ws) s

theorem State.opened_sendEach (s : State) (is : List Nat) (ws : List W64) (j : Nat) :
    ((s.sendEach is ws).stream 2 j).opened = (s.stream 2 j).opened :=
  forKeys_keeps (R := fun s t => (t.stream 2 j).opened = (s.stream 2 j).opened) (fun _ => rfl) (fun h k => k.trans h)
    (fun i s => s.opened_sendOwn 2 i 2 j ws) is s

theorem State.getLast_sendEach (s : State) {is : List Nat} {ws : List W64} {j : Nat}
    (h : j ∈ is ∨ (s.stream 2 j).wait.getLast? = some { words := ws }) :
    ((s.sendEach is ws).stream 2 j).wait.getLast? = some { words := ws } := by
  induction is generalizing s with
  | nil => exact h.resolve_left List.not_mem_nil
  | cons i is ih =>
    rw [State.sendEach, forKeys_cons]
    refine ih _ ?_
    by_cases hj : j = i
    · exact .inr (by rw [hj, State.stream_sendOwn_same, List.getLast?_concat])
    · rw [s.stream_sendOwn_ne (mt streamKey_two_inj.mp hj)]
      exact h.imp_left (fun hm => (List.mem_cons.mp hm).resolve_left hj)

/-- The result frames of a block close, and its record ends each result stream in use. -/
def State.blockClosed (s : State) (blk : Nat) : State :=
  (forKeys (List.range 128) (fun i s => s.closeFrame i) s).sendEach s.resultIndices [blockCloseRecord blk]

theorem State.streamsOnly_closeFrames (s : State) (is : List Nat) :
    s.StreamsOnly (forKeys is (fun i s => s.closeFrame i) s) :=
  State.streamsOnly_forKeys (fun i s => s.streamsOnly_closeFrame i) is s

theorem State.streamsOnly_blockClosed (s : State) (blk : Nat) : s.StreamsOnly (s.blockClosed blk) :=
  (s.streamsOnly_closeFrames _).trans (State.streamsOnly_forKeys (fun i s => s.streamsOnly_sendOwn 2 i _) _ _)

theorem State.opened_blockClosed (s : State) (blk : Nat) {j : Nat} (hj : j < 128) :
    ((s.blockClosed blk).stream 2 j).opened = none := by
  rw [State.blockClosed, State.opened_sendEach]
  exact s.closeFrames_opened (.inl (List.mem_range.mpr hj))

theorem State.getLast_blockClosed (s : State) (blk : Nat) {j : Nat} (hj : j ∈ s.resultIndices) :
    ((s.blockClosed blk).stream 2 j).wait.getLast? = some { words := [blockCloseRecord blk] } :=
  State.getLast_sendEach _ (.inl hj)

/-! ### Lanes -/

theorem State.lane_modLane (s : State) (l k : Nat) (f : Lane → Lane) :
    (s.modLane l f).lane k = if k = l then f (s.lane l) else s.lane k := mapGet_set _ s.lk.lanes l k _

theorem State.lane_modLane_same (s : State) (l : Nat) (f : Lane → Lane) : (s.modLane l f).lane l = f (s.lane l) :=
  (s.lane_modLane l l f).trans (if_pos rfl)

theorem State.lane_modLane_ne (s : State) {l k : Nat} (f : Lane → Lane) (h : k ≠ l) : (s.modLane l f).lane k = s.lane k :=
  (s.lane_modLane l k f).trans (if_neg h)

/-- Nothing changed but the lanes. -/
def State.LanesOnly (s t : State) : Prop := { t with lk := { t.lk with lanes := s.lk.lanes } } = s

theorem State.LanesOnly.refl (s : State) : s.LanesOnly s := rfl

theorem State.LanesOnly.trans {s t u : State} (h : s.LanesOnly t) (k : t.LanesOnly u) : s.LanesOnly u :=
  Eq.trans (congrArg (fun x : State => { x with lk := { x.lk with lanes := s.lk.lanes } }) k :) h

theorem State.lanesOnly_modLane (s : State) (l : Nat) (f : Lane → Lane) : s.LanesOnly (s.modLane l f) := rfl

theorem State.lanesOnly_putLane (s : State) (l : Nat) (st : LaneState) : s.LanesOnly (s.putLane l st) := rfl

theorem State.LanesOnly.usedLane {s t : State} (h : s.LanesOnly t) (k : Nat) : t.usedLane k = s.usedLane k :=
  (congrArg (fun x : State => x.usedLane k) h :)

theorem State.LanesOnly.up {s t : State} (h : s.LanesOnly t) : t.up = s.up := (congrArg State.up h :)

theorem State.LanesOnly.pairs {s t : State} (h : s.LanesOnly t) : t.pairs = s.pairs := (congrArg State.pairs h :)

theorem State.LanesOnly.nakCnt {s t : State} (h : s.LanesOnly t) : t.lk.nakCnt = s.lk.nakCnt :=
  (congrArg (fun x : State => x.lk.nakCnt) h :)

theorem State.LanesOnly.linkApart {s t : State} (h : s.LanesOnly t) : s.LinkApart t :=
  (congrArg (fun x : State => { x with lk := s.lk }) h :)

/-- Out of the resets a lane in use is in its own state, the others are in electrical idle (R329). -/
theorem State.laneSt_eq {s : State} (hup : s.up = true) (k : Nat) :
    s.laneSt k = if s.usedLane k = true then (s.lane k).st else .idleElec := by
  have hheld : (decide (s.phase = .porHeld) || decide (s.phase = .rstHeld)) = false := by
    simp only [State.up, Bool.not_eq_true', Bool.or_eq_false_iff] at hup
    exact Bool.or_eq_false_iff.mpr hup.1.1
  rw [State.laneSt, hheld]
  simp

/-- The lanes `ks` take a state. -/
def State.putLanes (s : State) (ks : List Nat) (st : LaneState) : State := forKeys ks (fun l s => s.putLane l st) s

theorem State.lanesOnly_putLanes (s : State) (ks : List Nat) (st : LaneState) : s.LanesOnly (s.putLanes ks st) :=
  forKeys_keeps State.LanesOnly.refl State.LanesOnly.trans (fun l s => s.lanesOnly_putLane l st) ks s

theorem State.lane_putLanes (s : State) (ks : List Nat) (st : LaneState) (k : Nat) :
    (s.putLanes ks st).lane k = if k ∈ ks then { s.lane k with st := st } else s.lane k := by
  induction ks generalizing s with
  | nil => rfl
  | cons l ls ih =>
    rw [State.putLanes, forKeys_cons]
    refine (ih _).trans ?_
    rw [State.putLane, State.lane_modLane]
    by_cases hk : k = l <;> by_cases hm : k ∈ ls <;> simp [hk, hm]

theorem State.mem_members_self (s : State) (l : Nat) : l ∈ s.members l := by
  rw [State.members]
  split <;> simp

/-- The lane, or its pair, is UP where one of its members is. -/
theorem State.leadUp_of_member {s : State} {l k : Nat} (hk : k ∈ s.members l) (h : s.laneSt k = .up) : s.leadUp l = true := by
  rw [State.members] at hk
  rw [State.leadUp, Bool.or_eq_true, Bool.and_eq_true]
  split at hk
  next hp =>
    simp only [List.mem_cons, List.not_mem_nil, or_false] at hk
    rcases hk with rfl | rfl
    · exact .inl (decide_eq_true h)
    · exact .inr ⟨hp, decide_eq_true h⟩
  next =>
    rw [List.mem_singleton.mp hk] at h
    exact .inl (decide_eq_true h)

theorem State.mem_leads {s : State} {l : Nat} (hused : s.usedLane l = true) (hlead : s.leadOf l = l) : l ∈ s.leads := by
  have hl : l < s.nLanes := by
    rw [State.usedLane, Bool.and_eq_true] at hused
    exact of_decide_eq_true hused.1
  have hn : s.nLanes ≤ 8 := by
    unfold State.nLanes
    split <;> omega
  simp only [State.leads, List.mem_filter, List.mem_range]
  exact ⟨by omega, by simp [hused, hlead]⟩

/-! ### ACK and NAK (R344 to R346) -/

/-- A LINK operation whose reserved bits are 0, on a lane in use that holds frames, acts. -/
theorem State.onLane_taken {s : State} {b : BitVec 48} {m l : Nat} (f : Nat → State → State) (hl : l = bits b.toNat 47 45)
    (hb : Nat.land b.toNat m = 0) (hused : s.usedLane l = true) (hlead : s.leadOf l = l) : s.onLane b m f = f l s := by
  subst hl
  refine if_neg (fun h => ?_)
  rcases h with h | h | h
  · exact h hb
  · rw [hused] at h
    cases h
  · exact h hlead

/-- Nothing changed but the event builder. -/
def State.BuilderOnly (s t : State) : Prop := { t with eb := s.eb } = s

theorem State.BuilderOnly.trans {s t u : State} (h : s.BuilderOnly t) (k : t.BuilderOnly u) : s.BuilderOnly u :=
  Eq.trans (congrArg (fun x : State => { x with eb := s.eb }) k :) h

theorem State.BuilderOnly.lane {s t : State} (h : s.BuilderOnly t) (k : Nat) : t.lane k = s.lane k :=
  (congrArg (fun x : State => x.lane k) h :)

theorem State.BuilderOnly.rest {s t : State} (h : s.BuilderOnly t) :
    t.tb = s.tb ∧ t.tiles = s.tiles ∧ t.regs = s.regs ∧ t.msg = s.msg :=
  ⟨(congrArg State.tb h :), (congrArg State.tiles h :), (congrArg State.regs h :), (congrArg State.msg h :)⟩

theorem State.builderOnly_frameDone (s : State) (f : Frame) : s.BuilderOnly (s.frameDone f) := by
  unfold State.frameDone
  split <;> rfl

/-- Acknowledged frames change the event builder alone. -/
theorem State.builderOnly_framesDone (s : State) (us : List Unacked) :
    s.BuilderOnly (us.foldl (fun s u => s.frameDone u.frame) s) :=
  List.foldlRecOn (motive := fun w : State => s.BuilderOnly w) us _ rfl fun w hw u _ => hw.trans (w.builderOnly_frameDone u.frame)

/-- The lane whose frames up to `q` are acknowledged. -/
def Lane.acked (x : Lane) (q : Nat) : Lane :=
  { x with ack := q, unack := x.unack.filter (fun u => !decide (lseqDiff u.lseq q ≤ 0)) }

theorem State.builderOnly_ackLane {s : State} {l q : Nat} (h : s.awaits l q = true) :
    (s.modLane l (fun x => x.acked q)).BuilderOnly (s.ackLane l q) := by
  rw [State.ackLane, if_pos h]
  exact State.builderOnly_framesDone (s.modLane l (fun x => x.acked q)) _

theorem State.lane_ackLane {s : State} {l q : Nat} (h : s.awaits l q = true) (k : Nat) :
    (s.ackLane l q).lane k = if k = l then (s.lane l).acked q else s.lane k := by
  rw [(State.builderOnly_ackLane h).lane, State.lane_modLane]

/-- A NAK is counted. -/
def State.nakCounted (s : State) : State := { s with lk := { s.lk with nakCnt := min 65535 (s.lk.nakCnt + 1) } }

theorem State.nakLane_eq {s : State} {l q : Nat} (h : s.awaits l q = true) :
    s.nakLane l q = s.nakCounted.modLane l (fun x => x.resendFrom (fun k => decide (0 ≤ lseqDiff k q))) := if_pos h

theorem State.lane_nakLane {s : State} {l q : Nat} (h : s.awaits l q = true) (k : Nat) : (s.nakLane l q).lane k =
    if k = l then (s.lane l).resendFrom (fun k => decide (0 ≤ lseqDiff k q)) else s.lane k := by
  rw [State.nakLane_eq h]
  exact s.nakCounted.lane_modLane l k _

theorem State.lanesOnly_nakLane {s : State} {l q : Nat} (h : s.awaits l q = true) : s.nakCounted.LanesOnly (s.nakLane l q) := by
  rw [State.nakLane_eq h]
  exact State.lanesOnly_modLane ..

/-! ### LANE_UP and RETRAIN (R329, R347) -/

/-- Nothing changed but what the host's return changes: streams, mailbox slots, and the marks of the way back. -/
def State.HostBack (s t : State) : Prop :=
  { t with
    lk := { t.lk with streams := s.lk.streams, linkDown := s.lk.linkDown, restartOwed := s.lk.restartOwed, hostReset := s.lk.hostReset }
    sup := { t.sup with slots := s.sup.slots } } = s

theorem State.HostBack.refl (s : State) : s.HostBack s := rfl

theorem State.HostBack.trans {s t u : State} (h : s.HostBack t) (k : t.HostBack u) : s.HostBack u :=
  Eq.trans (congrArg (fun x : State => { x with
    lk := { x.lk with streams := s.lk.streams, linkDown := s.lk.linkDown, restartOwed := s.lk.restartOwed, hostReset := s.lk.hostReset }
    sup := { x.sup with slots := s.sup.slots } }) k :) h

theorem State.hostBack_forKeys {f : Nat → State → State} (hf : ∀ k s, State.HostBack s (f k s)) (ks : List Nat) (s : State) :
    s.HostBack (forKeys ks f s) := forKeys_keeps State.HostBack.refl State.HostBack.trans hf ks s

theorem State.hostBack_restartTier1 (s : State) (v : W64) : s.HostBack (s.restartTier1 v) :=
  State.hostBack_forKeys (fun c (s : State) => (rfl : s.HostBack (s.restartOn c 0 v))) _ s

/-- The empty notices held for the host are delivered (R465). -/
def State.noticesGiven (s : State) : State :=
  if s.lk.hostReset then
    forKeys ((List.range 96).filter (fun ch => hostSends ch && (s.slot ch).held)) (fun ch s =>
      (s.notice ch true).setSlot ch { s.slot ch with held := false }) s
  else s

theorem State.hostBack_noticesGiven (s : State) : s.HostBack s.noticesGiven := by
  unfold State.noticesGiven
  split
  · exact State.hostBack_forKeys (fun ch (s : State) =>
      (rfl : s.HostBack ((s.notice ch true).setSlot ch { s.slot ch with held := false }))) _ s
  · exact .refl s

theorem State.hostBack_linkUp (s : State) : s.HostBack s.linkUp := by
  have hrestart : s.HostBack (match s.lk.restartOwed with
      | some c => s.restartTier1 (s.restartWord c 0 0)
      | none => s) := by
    split
    · exact State.hostBack_restartTier1 ..
    · exact .refl s
  unfold State.linkUp
  split
  · exact .refl s
  · exact hrestart.trans (State.hostBack_noticesGiven _)

/-- With a lane UP the host is reachable (R311, R465). -/
theorem State.linkUp_reached {s : State} (h : s.anyUp = true) : s.linkUp.lk.linkDown = false ∧ s.linkUp.lk.hostReset = false := by
  rw [State.linkUp, h]
  exact ⟨rfl, rfl⟩

theorem State.HostBack.lane {s t : State} (h : s.HostBack t) (k : Nat) : t.lane k = s.lane k :=
  (congrArg (fun x : State => x.lane k) h :)

theorem State.HostBack.laneSt {s t : State} (h : s.HostBack t) (k : Nat) : t.laneSt k = s.laneSt k :=
  (congrArg (fun x : State => x.laneSt k) h :)

/-- The lanes of a lead lane that train go UP. -/
def State.trained (s : State) (l : Nat) : State := s.putLanes ((s.members l).filter (fun k => decide (s.laneSt k = .train))) .up

/-- A lane that was not UP owes an IDLE block and resends every unacknowledged frame once it is UP (R347). -/
def State.upWithFrames (s : State) (l : Nat) : State :=
  if !s.leadUp l && (s.trained l).leadUp l then (s.trained l).modLane l (fun x => { x.resendAll with idle := true }) else s.trained l

theorem State.upLane_eq (s : State) (l : Nat) : s.upLane l = (s.upWithFrames l).linkUp := rfl

theorem State.lanesOnly_trained (s : State) (l : Nat) : s.LanesOnly (s.trained l) := s.lanesOnly_putLanes _ _

theorem State.lanesOnly_upWithFrames (s : State) (l : Nat) : s.LanesOnly (s.upWithFrames l) := by
  unfold State.upWithFrames
  split
  · exact (s.lanesOnly_trained l).trans (State.lanesOnly_modLane ..)
  · exact s.lanesOnly_trained l

/-- The state of a lane is that of the training step: a resend does not change it. -/
theorem State.st_upWithFrames (s : State) (l k : Nat) : ((s.upWithFrames l).lane k).st = ((s.trained l).lane k).st := by
  unfold State.upWithFrames
  split
  · rw [State.lane_modLane]
    split
    next hk => rw [hk]; rfl
    next => rfl
  · rfl

theorem State.lane_upWithFrames_ne (s : State) {l k : Nat} (hk : k ∉ s.members l) : (s.upWithFrames l).lane k = s.lane k := by
  have htrained : (s.trained l).lane k = s.lane k :=
    (s.lane_putLanes _ _ k).trans (if_neg (fun h => hk (List.mem_filter.mp h).1))
  unfold State.upWithFrames
  split
  · have hne : k ≠ l := fun h => hk (h.symm ▸ s.mem_members_self l)
    rw [State.lane_modLane_ne _ _ hne, htrained]
  · exact htrained

section
variable {s : State} (hup : s.up = true)
include hup

/-- Two states that differ in the lanes have a lane in the same state where its own state agrees. -/
theorem State.LanesOnly.laneSt {t : State} (h : s.LanesOnly t) (k : Nat) :
    t.laneSt k = if s.usedLane k = true then (t.lane k).st else .idleElec := by
  rw [State.laneSt_eq (h.up.trans hup), h.usedLane]

theorem State.laneSt_trained {l k : Nat} (hk : k ∈ s.members l) (h : s.laneSt k = .train) : (s.trained l).laneSt k = .up := by
  have hused : s.usedLane k = true := by
    by_contra hu
    rw [State.laneSt_eq hup, if_neg hu] at h
    cases h
  rw [(s.lanesOnly_trained l).laneSt hup, if_pos hused, State.trained, State.lane_putLanes,
    if_pos (List.mem_filter.mpr ⟨hk, decide_eq_true h⟩)]

theorem State.laneSt_upWithFrames (l k : Nat) : (s.upWithFrames l).laneSt k = (s.trained l).laneSt k := by
  rw [(s.lanesOnly_upWithFrames l).laneSt hup, (s.lanesOnly_trained l).laneSt hup, s.st_upWithFrames]

theorem State.leadUp_trained {l : Nat} (h : ∃ k ∈ s.members l, s.laneSt k = .train) : (s.trained l).leadUp l = true := by
  obtain ⟨k, hk, hst⟩ := h
  refine State.leadUp_of_member (k := k) ?_ (State.laneSt_trained hup hk hst)
  rw [State.members, (s.lanesOnly_trained l).pairs]
  exact hk

theorem State.anyUp_upWithFrames {l : Nat} (hused : s.usedLane l = true) (hlead : s.leadOf l = l)
    (h : ∃ k ∈ s.members l, s.laneSt k = .train) : (s.upWithFrames l).anyUp = true := by
  have hframe := s.lanesOnly_upWithFrames l
  have hleads : (s.upWithFrames l).leads = s.leads := (congrArg State.leads hframe :)
  refine List.any_eq_true.mpr ⟨l, hleads ▸ State.mem_leads hused hlead, ?_⟩
  have hlast := State.leadUp_trained hup h
  rwa [State.leadUp, (s.lanesOnly_trained l).pairs, ← State.laneSt_upWithFrames hup, ← State.laneSt_upWithFrames hup,
    ← hframe.pairs] at hlast

/-- A lane that was not UP resends all that it holds, behind one IDLE block. -/
theorem State.lane_upWithFrames {l : Nat} (h : ∃ k ∈ s.members l, s.laneSt k = .train) (hdown : s.leadUp l = false) :
    (s.upWithFrames l).lane l = { ((s.trained l).lane l).resendAll with idle := true } := by
  rw [State.upWithFrames, if_pos (by rw [hdown, State.leadUp_trained hup h]; rfl)]
  exact State.lane_modLane_same ..

end

/-- What LANE_UP leaves alone. -/
theorem State.upLane_frame (s : State) (l : Nat) : { s.upLane l with lk := s.lk, sup := s.sup } = s :=
  Eq.trans (congrArg (fun x : State => { x with lk := s.lk, sup := s.sup }) (s.upWithFrames l).hostBack_linkUp :)
    (congrArg (fun x : State => { x with lk := s.lk, sup := s.sup }) (s.lanesOnly_upWithFrames l) :)

theorem State.noteDown_frame (s : State) : { s.noteDown with lk := { s.noteDown.lk with linkDown := s.lk.linkDown } } = s := by
  unfold State.noteDown
  split <;> rfl

theorem State.lane_noteDown (s : State) (k : Nat) : s.noteDown.lane k = s.lane k :=
  (congrArg (fun x : State => x.lane k) s.noteDown_frame :)

theorem State.linkApart_noteDown (s : State) : s.LinkApart s.noteDown :=
  (congrArg (fun x : State => { x with lk := s.lk }) s.noteDown_frame :)

theorem State.retrainLane_eq {s : State} (l : Nat) (h : s.lk.pllLock = true) :
    s.retrainLane l = (s.putLanes (s.members l) .train).noteDown := if_pos h

/-! ### PAUSE and RESUME (R349, R350) -/

/-- The stream is paused until slot age `v`, or no longer. -/
def State.setPause (s : State) (c j : Nat) (v : Option Nat) : State :=
  { s with lk := { s.lk with paused := mapSet (fun _ => none) s.lk.paused (streamKey c j) v } }

theorem State.pauseOf_setPause (s : State) (c j d k : Nat) (v : Option Nat) :
    (s.setPause c j v).pauseOf d k = if streamKey d k = streamKey c j then v else s.pauseOf d k :=
  mapGet_set _ s.lk.paused (streamKey c j) (streamKey d k) v

/-- A pause closes the open frame of a result stream. -/
def State.pausedStream (s : State) (c j : Nat) (v : Option Nat) : State :=
  if c = 2 then (s.setPause c j v).closeFrame j else s.setPause c j v

theorem State.streamsOnly_pausedStream (s : State) (c j : Nat) (v : Option Nat) :
    (s.setPause c j v).StreamsOnly (s.pausedStream c j v) := by
  unfold State.pausedStream
  split
  · exact State.streamsOnly_closeFrame _ j
  · exact .refl _

theorem State.pauseOf_pausedStream (s : State) (c j d k : Nat) (v : Option Nat) :
    (s.pausedStream c j v).pauseOf d k = if streamKey d k = streamKey c j then v else s.pauseOf d k :=
  Eq.trans (congrArg (fun x : State => x.pauseOf d k) (s.streamsOnly_pausedStream c j v) :) (s.pauseOf_setPause c j d k v)

theorem State.stream_pausedStream_ne (s : State) {c j d k : Nat} (v : Option Nat) (h : streamKey d k ≠ streamKey c j) :
    (s.pausedStream c j v).stream d k = s.stream d k := by
  unfold State.pausedStream
  split
  next hc => exact (State.stream_closeFrame_ne _ (hc ▸ h)).trans rfl
  next => rfl

/-! ### The commands -/

section
variable {s : State} (hup : s.up = true) (hl : s.lk.dn = .slot)
include hup hl

theorem exec_blockClose {b : BitVec 52} (hb : Nat.land b.toNat 0xF000000FFFFFF = 0) :
    exec (.blockClose b false) s = .next (s.blockClosed (bits b.toNat 47 24)) := by
  have hres := (s.streamsOnly_closeFrames (List.range 128)).resultIndices
  show execBlockClose b false s = _
  rw [execBlockClose, onChip_onSlot hup hl, if_neg (not_not_intro hb), State.blockClosed, State.sendEach, ← hres]

theorem exec_sync {b : BitVec 52} (hb : Nat.land b.toNat 0xF000000FFFFFF = 0) :
    exec (.sync b false) s = .next (s.sendOwn 4 0 [syncRecord (bits b.toNat 47 24)]) :=
  (onChip_onSlot hup hl _).trans (congrArg _ (if_neg (not_not_intro hb)))

/-- A LINK operation on a lane, taken. -/
theorem onLane_acts {b : BitVec 48} {m l : Nat} (f : Nat → State → State) (hlane : l = bits b.toNat 47 45)
    (hb : Nat.land b.toNat m = 0) (hused : s.usedLane l = true) (hlead : s.leadOf l = l) :
    onChip s (fun s => s.onSlot false (fun s => s.onLane b m f)) = .next (f l s) := by
  rw [onChip_onSlot hup hl, State.onLane_taken f hlane hb hused hlead]

section
variable {b : BitVec 48} {l q : Nat} (hlane : l = bits b.toNat 47 45) (hq : q = bits b.toNat 39 16)
  (hb : Nat.land b.toNat 0x1F000000FFFF = 0) (hused : s.usedLane l = true) (hlead : s.leadOf l = l)
include hlane hq hb hused hlead

theorem exec_ack : exec (.ack b false) s = .next (s.ackLane l q) := by
  subst hq
  exact onLane_acts hup hl (fun l s => s.ackLane l (bits b.toNat 39 16)) hlane hb hused hlead

theorem exec_nak : exec (.nak b false) s = .next (s.nakLane l q) := by
  subst hq
  exact onLane_acts hup hl (fun l s => s.nakLane l (bits b.toNat 39 16)) hlane hb hused hlead

end

theorem exec_pause {b : BitVec 48} {c j : Nat} (hc : c = bits b.toNat 47 40) (hj : j = bits b.toNat 39 32)
    (hi : s.issued c j = true) (hr : bits b.toNat 15 0 = 0) (hd : bits b.toNat 31 16 ≠ 0) :
    exec (.pause b false) s = .next (s.pausedStream c j (some (s.tb.age + bits b.toNat 31 16 * 125))) := by
  subst hc hj
  exact (onChip_onSlot hup hl _).trans (congrArg _ (if_neg (by simp [hr, hd, hi])))

theorem exec_resume {b : BitVec 48} {c j : Nat} (hc : c = bits b.toNat 47 40) (hj : j = bits b.toNat 39 32)
    (hi : s.issued c j = true) (hr : bits b.toNat 31 0 = 0) :
    exec (.resume b false) s = .next (s.setPause c j none) := by
  subst hc hj
  exact (onChip_onSlot hup hl _).trans (congrArg _ (if_neg (by simp [hr, hi])))

end

end Sys2Proof.Machine
open Sys2Proof Sys2Proof.Machine

/-- Settles O42: each operation of an intact slot is one change of streams, of the frames that a lane holds, of the states of
lanes, or of a pause, and that change says which of them stay as they are. -/
theorem fastCommands : Obligations.FastCommands := by
  refine ⟨fun s b hup hl hb => ⟨?blockClose, ?sync⟩, fun s b l q hup hl hlane hq hb hused hlead hawaits => ⟨?ack, ?nak⟩,
    fun s b l hup hl hlane hb hused hlead => ⟨fun htrain => ?laneUp, fun hpll => ?retrain⟩,
    fun s b c j hup hl hc hj hi => ⟨fun hr hd => ?pause, fun hr => ?resume⟩⟩
  case blockClose =>
    exact ⟨_, exec_blockClose hup hl hb, fun j hj => s.opened_blockClosed _ hj, fun j hj => s.getLast_blockClosed _ hj,
      s.streamsOnly_blockClosed _⟩
  case sync => exact ⟨_, exec_sync hup hl hb, State.stream_sendOwn_same .., rfl⟩
  case ack =>
    have hmine := (State.lane_ackLane hawaits l).trans (if_pos rfl)
    refine ⟨_, exec_ack hup hl hlane hq hb hused hlead, (congrArg Lane.ack hmine :), (congrArg Lane.unack hmine :).trans ?_,
      fun k hk => (State.lane_ackLane hawaits k).trans (if_neg hk), (State.builderOnly_ackLane hawaits).rest⟩
    simp only [Lane.acked, ← decide_not, not_le]
  case nak =>
    have hmine := (State.lane_nakLane hawaits l).trans (if_pos rfl)
    have hframe := State.lanesOnly_nakLane hawaits
    refine ⟨_, exec_nak hup hl hlane hq hb hused hlead, hframe.nakCnt, (congrArg Lane.ack hmine :),
      (congrArg Lane.unack hmine :).trans ?_, (congrArg Lane.idle hmine :),
      fun k hk => (State.lane_nakLane hawaits k).trans (if_neg hk), hframe.linkApart.rest⟩
    simp only [Lane.resendFrom, decide_eq_true_eq]
  case laneUp =>
    have hexec : exec (.laneUp b false) s = .next (s.upLane l) :=
      onLane_acts hup hl (fun l s => s.upLane l) hlane hb hused hlead
    have hback := (s.upWithFrames l).hostBack_linkUp
    have hframe := s.upLane_frame l
    obtain ⟨hdown, hreset⟩ := State.linkUp_reached (State.anyUp_upWithFrames hup hused hlead htrain)
    refine ⟨_, hexec, fun k hk hst => ?_, hdown, hreset, fun hwas => ?_, fun k hk => ?_, (congrArg State.tb hframe :),
      (congrArg State.tiles hframe :), (congrArg State.regs hframe :), (congrArg State.msg hframe :)⟩
    · exact (hback.laneSt k).trans ((State.laneSt_upWithFrames hup l k).trans (State.laneSt_trained hup hk hst))
    · rw [State.upLane_eq, hback.lane, State.lane_upWithFrames hup htrain hwas]
      refine ⟨rfl, fun u hu => ?_⟩
      obtain ⟨v, -, rfl⟩ := List.mem_map.mp hu
      exact ⟨rfl, rfl⟩
    · exact (hback.lane k).trans (s.lane_upWithFrames_ne hk)
  case retrain =>
    have hexec : exec (.retrain b false) s = .next (s.retrainLane l) :=
      onLane_acts hup hl (fun l s => s.retrainLane l) hlane hb hused hlead
    rw [State.retrainLane_eq l hpll] at hexec
    have hlanes : ∀ k, (s.putLanes (s.members l) .train).noteDown.lane k = _ :=
      fun k => (State.lane_noteDown _ k).trans (s.lane_putLanes _ _ k)
    refine ⟨_, hexec, fun k hk => ?_, fun k hk => (hlanes k).trans (if_neg hk),
      (s.lanesOnly_putLanes _ _).linkApart.trans (State.linkApart_noteDown _)⟩
    rw [hlanes k, if_pos hk]
  case pause =>
    refine ⟨_, exec_pause hup hl hc hj hi hr hd, (State.pauseOf_pausedStream ..).trans (if_pos rfl), fun h2 => ?_,
      fun d k hk => ⟨(State.pauseOf_pausedStream ..).trans (if_neg hk), s.stream_pausedStream_ne _ hk⟩, ?_⟩
    · rw [State.pausedStream, if_pos h2, State.closeFrame_opened, if_pos rfl]
    · exact (congrArg (fun x : State => { x with lk := s.lk }) (s.streamsOnly_pausedStream c j _) :)
  case resume =>
    exact ⟨_, exec_resume hup hl hc hj hi hr, (s.pauseOf_setPause ..).trans (if_pos rfl),
      fun d k hk => (s.pauseOf_setPause ..).trans (if_neg hk), rfl⟩
end

