-- ==== Sys2Proof/Proofs/Frames.lean ====
section
/-! ## O43: how a lane sends a frame (R328, R330, R331, R334, R335, R344, R346) -/

namespace Sys2Proof.Machine
open Sys2Proof

/-! ### Time passes within an epoch -/

/-- Nothing changed but the timebase, and the epoch goes on. -/
def State.TimePassed (s t : State) : Prop := { t with tb := s.tb } = s ∧ t.tb.epoch = s.tb.epoch

theorem State.timePassed_advanceTo {s : State} (a : Nat) (hup : s.up = true) : s.TimePassed (s.advanceTo a) := by
  refine ⟨?_, s.advanceTo_epoch a⟩
  rw [s.advanceTo_eq a hup]

section
variable {s t : State} (h : s.TimePassed t)
include h

theorem State.TimePassed.lk : t.lk = s.lk := (congrArg State.lk h.1 :)

theorem State.TimePassed.lane (k : Nat) : t.lane k = s.lane k := (congrArg (fun x : State => x.lane k) h.1 :)

theorem State.TimePassed.stream (c i : Nat) : t.stream c i = s.stream c i := (congrArg (fun x : State => x.stream c i) h.1 :)

theorem State.TimePassed.txSlots (n : Nat) : t.txSlots n = s.txSlots n := (congrArg (fun x : State => x.txSlots n) h.1 :)

theorem State.TimePassed.stranded (l : Nat) : t.stranded l = s.stranded l := (congrArg (fun x : State => x.stranded l) h.1 :)

theorem State.TimePassed.bad2 (m : MemId) (lo n : Nat) : t.bad2 m lo n = s.bad2 m lo n :=
  (congrArg (fun x : State => x.bad2 m lo n) h.1 :)

theorem State.TimePassed.isPaused (c i : Nat) : t.isPaused c i = s.isPaused c i :=
  (congrArg (fun x : State => x.isPaused c i) h.1 :)

theorem State.TimePassed.rest : t.eb = s.eb ∧ t.tiles = s.tiles ∧ t.regs = s.regs ∧ t.msg = s.msg :=
  ⟨(congrArg State.eb h.1 :), (congrArg State.tiles h.1 :), (congrArg State.regs h.1 :), (congrArg State.msg h.1 :)⟩

/-- A restart marker states the epoch in which it is sent (R501). -/
theorem State.TimePassed.atSending : t.atSending = s.atSending := by
  funext w
  simp only [State.atSending, h.2]

theorem State.TimePassed.nextFrame (c i : Nat) : t.nextFrame c i = s.nextFrame c i := by
  simp only [State.nextFrame, h.stream, h.atSending]

theorem State.TimePassed.canSend (l c i : Nat) : t.canSend l c i = s.canSend l c i := by
  unfold State.canSend
  rw [h.nextFrame]
  split
  · have hused : t.replayUsed = s.replayUsed := (congrArg State.replayUsed h.1 :)
    rw [h.isPaused, hused, h.lk]
  · rfl

end

/-! ### A frame that goes out (R330, R331, R344) -/

/-- The lane after a frame that it sends for the first time, the last word of which leaves at slot age `a`. -/
def Lane.sentNew (x : Lane) (f : Frame) (a : Nat) : Lane :=
  { x with next := (x.next + 1) % 2 ^ 24, unack := x.unack ++ [{ lseq := x.next, frame := f, sent := a }], idle := false }

theorem State.linkApart_noteTier1 (s : State) (f : Frame) : s.LinkApart (s.noteTier1 f) := by
  unfold State.noteTier1
  split <;> rfl

theorem State.lane_noteTier1 (s : State) (f : Frame) (k : Nat) : (s.noteTier1 f).lane k = s.lane k := by
  unfold State.noteTier1
  split <;> rfl

theorem State.lane_sendFrame (s : State) (l k : Nat) (f : Frame) : (s.sendFrame l f).lane k =
    if k = l then (s.lane l).sentNew f (s.tb.age + s.txSlots ((s.lane l).blockCount f.words.length)) else s.lane k := by
  rw [State.sendFrame, State.lane_modLane, s.lane_noteTier1, s.lane_noteTier1]
  rfl

theorem State.linkApart_sendFrame (s : State) (l : Nat) (f : Frame) : s.LinkApart (s.sendFrame l f) :=
  (s.linkApart_noteTier1 f).trans (State.lanesOnly_modLane ..).linkApart

theorem State.nextFrame_seq {s : State} {c i : Nat} {f : Frame} {rest : List Wait} (h : s.nextFrame c i = some (f, rest)) :
    f.seq = (s.stream c i).seq := by
  simp only [State.nextFrame] at h
  split at h
  · cases h
  · cases h
    rfl

/-- The next frame of a stream, sent: the lane holds it, and the stream goes on behind it. -/
def State.frameOut (s : State) (l c i : Nat) (f : Frame) (rest : List Wait) : State :=
  (s.sendFrame l f).setStream c i { s.stream c i with seq := ((s.stream c i).seq + 1) % 2 ^ 32, wait := rest }

theorem State.builderOnly_setBuilder (s : State) (e : EventBuilder) : s.BuilderOnly { s with eb := e } := rfl

theorem State.lane_setStream (s : State) (c i k : Nat) (x : Stream) : (s.setStream c i x).lane k = s.lane k := rfl

/-- The event builder after a frame of a stream: the words of an event's frame leave its backlog. -/
def EventBuilder.frameOut (e : EventBuilder) (c : Nat) (f : Frame) : EventBuilder :=
  if c = 1 ∧ f.ev ≠ 0 then { e with backlog := e.backlog - (f.words.length + 2) } else e

section
variable {s : State} {c i : Nat} {f : Frame} {rest : List Wait}

variable (h : s.nextFrame c i = some (f, rest))
include h

theorem State.sendNext_eq (l : Nat) : s.sendNext l c i = { s.frameOut l c i f rest with eb := s.eb.frameOut c f } := by
  obtain ⟨heb, -⟩ := (s.linkApart_sendFrame l f).rest
  rw [State.sendNext, h]
  simp only [State.sendFrame_stream, EventBuilder.frameOut]
  rw [← heb]
  split <;> rfl

theorem State.stream_sendNext (l d k : Nat) : (s.sendNext l c i).stream d k =
    if streamKey d k = streamKey c i then { s.stream c i with seq := ((s.stream c i).seq + 1) % 2 ^ 32, wait := rest }
    else s.stream d k := by
  rw [State.sendNext_eq h, ← s.sendFrame_stream l d k f]
  exact State.stream_setStream ..

theorem State.lane_sendNext (l k : Nat) : (s.sendNext l c i).lane k =
    if k = l then (s.lane l).sentNew f (s.tb.age + s.txSlots ((s.lane l).blockCount f.words.length)) else s.lane k := by
  rw [State.sendNext_eq h, (State.builderOnly_setBuilder _ _).lane, State.frameOut, State.lane_setStream, State.lane_sendFrame]

theorem State.eb_sendNext (l : Nat) : (s.sendNext l c i).eb = s.eb.frameOut c f := by
  rw [State.sendNext_eq h]

end

theorem State.sendNext_rest (s : State) (l c i : Nat) : (s.sendNext l c i).tiles = s.tiles ∧
    (s.sendNext l c i).regs = s.regs ∧ (s.sendNext l c i).msg = s.msg := by
  have h := s.sendNext_frame l c i
  generalize s.sendNext l c i = t at h
  exact ⟨(congrArg State.tiles h :), (congrArg State.regs h :), (congrArg State.msg h :)⟩

/-! ### A frame that is resent (R346) -/

/-- The lane after its held frame `n` is resent, the last word of which leaves at slot age `a`. -/
def Lane.resent (x : Lane) (n a : Nat) : Lane :=
  { x with
    unack := x.unack.map (fun v => if v.lseq = n then { v with waiting := false, exempt := false, sent := a } else v)
    idle := false }

/-- A frame whose words are intact, resent. -/
def State.resent (s : State) (l : Nat) (u : Unacked) : State :=
  (s.noteTier1 u.frame).modLane l
    (fun x => x.resent u.lseq (s.tb.age + s.txSlots ((s.lane l).blockCount u.frame.words.length)))

theorem State.resend_eq {s : State} (l : Nat) (u : Unacked) (h : ∀ a, s.bad2 .replay a 1 = false) :
    s.resend l u = s.resent l u := by
  refine if_neg ?_
  rw [h]
  simp

theorem State.lane_resent (s : State) (l : Nat) (u : Unacked) : (s.resent l u).lane l =
    (s.lane l).resent u.lseq (s.tb.age + s.txSlots ((s.lane l).blockCount u.frame.words.length)) := by
  rw [State.resent, State.lane_modLane_same, s.lane_noteTier1]

theorem State.linkApart_resent (s : State) (l : Nat) (u : Unacked) : s.LinkApart (s.resent l u) :=
  (s.linkApart_noteTier1 u.frame).trans (State.lanesOnly_modLane ..).linkApart

theorem State.streams_resent (s : State) (l : Nat) (u : Unacked) : (s.resent l u).lk.streams = s.lk.streams := by
  rw [State.resent, State.noteTier1]
  split <;> rfl

/-! ### The choice of the frame (R334, R335) -/

theorem State.sendNew_tier1 {s : State} {l c : Nat}
    (h : [3, 4, 5, 6, 7].find? (fun c => s.canSend l c 0 && s.tier1Goes l c) = some c) : s.sendNew l = s.sendNext l c 0 := by
  rw [State.sendNew, h]

/-- Every result stream has its turn among the 128 indices. -/
theorem State.lt_of_mem_resultTurns {s : State} {j : Nat} (h : j ∈ s.resultTurns) : j < 128 := by
  simp only [State.resultTurns, List.mem_append, List.mem_filter, List.mem_range] at h
  exact h.elim (·.1) (·.1)

/-- With nothing of the first tier to send and no result frame ready, an event frame goes. -/
theorem State.sendNew_event {s : State} {l : Nat}
    (h1 : ∀ c ∈ [3, 4, 5, 6, 7], s.canSend l c 0 = false ∨ s.tier1Goes l c = false) (he : s.canSend l 1 0 = true)
    (hr : ∀ j, j < 128 → s.canSend l 2 j = false) :
    s.sendNew l = { s.sendNext l 1 0 with lk := { (s.sendNext l 1 0).lk with evSent := 0, allSent := 0 } } := by
  have hfirst : [3, 4, 5, 6, 7].find? (fun c => s.canSend l c 0 && s.tier1Goes l c) = none := by
    refine List.find?_eq_none.mpr fun c hc => ?_
    rcases h1 c hc with h | h <;> simp [h]
  have hres : s.resultTurns.find? (fun i => s.canSend l 2 i) = none :=
    List.find?_eq_none.mpr fun j hj => ne_true_of_eq_false (hr j (State.lt_of_mem_resultTurns hj))
  simp only [State.sendNew, hfirst, he, hres]

theorem State.sendFresh_new {s : State} {l : Nat} (h : s.stranded l = none) : s.sendFresh l = s.sendNew l := by
  rw [State.sendFresh, h]

section
variable {s : State} {l : Nat} (hup : s.up = true) (hl : l < 8) (hlead : s.leads.contains l = true) (hlu : s.leadUp l = true)
include hup hl hlead hlu

theorem exec_frameTransmit_resend {u : Unacked} (hu : s.resendNext l = some u) :
    exec (.frameTransmit l) s = .next ((s.advanceTo (s.lane l).free).resend l u) := by
  show execFrameTransmit l s = _
  rw [execFrameTransmit, onUnit_up s l 8 _ hl hup, State.transmit, hlead, hlu]
  simp [hu]

theorem exec_frameTransmit_fresh (hu : s.resendNext l = none) (hn : s.nextLane = some l) :
    exec (.frameTransmit l) s = .next ((s.advanceTo (s.lane l).free).sendFresh l) := by
  show execFrameTransmit l s = _
  rw [execFrameTransmit, onUnit_up s l 8 _ hl hup, State.transmit, hlead, hlu]
  simp [hu, hn]

/-- Where another lane is the next one, none but lane 0 starts a new frame, and that of class 0x05 only (R335). -/
theorem exec_frameTransmit_yields {k : Nat} (hu : s.resendNext l = none) (hn : s.nextLane = some k) (hk : k ≠ l)
    (h : l ≠ 0 ∨ s.canSend 0 5 0 = false) : exec (.frameTransmit l) s = .next s := by
  show execFrameTransmit l s = _
  rw [execFrameTransmit, onUnit_up s l 8 _ hl hup, State.transmit, hlead, hlu]
  rcases h with h | h <;> simp [hu, hn, hk, h]

end

end Sys2Proof.Machine
open Sys2Proof Sys2Proof.Machine

/-- Settles O43: the frame chosen goes out when the transmitter is free, which is a passing of time within the epoch, and it
changes its lane and its stream. -/
theorem framesAreSent : Obligations.FramesAreSent := by
  intro s z l hup hl hlead hlu hz
  have hpast : s.TimePassed z := hz ▸ State.timePassed_advanceTo _ hup
  have hage : z.tb.age = max s.tb.age (s.lane l).free := hz ▸ s.age_advanceTo _ hup
  obtain ⟨heb, htiles, hregs, hmsg⟩ := hpast.rest
  refine ⟨fun u hu hbad => ?resent, fun c f rest hu hn hs hc hf => ?tier1, fun f rest hu hn hs hnone he hres hf => ?event,
    fun k hu hn hk h => exec_frameTransmit_yields hup hl hlead hlu hu hn hk h⟩
  case resent =>
    have hexec := exec_frameTransmit_resend hup hl hlead hlu hu
    rw [← hz, State.resend_eq l u (fun a => (hpast.bad2 .replay a 1).trans (hbad a))] at hexec
    have hlane := z.lane_resent l u
    rw [hpast.lane, hpast.txSlots] at hlane
    obtain ⟨-, htb, kt, kr, km⟩ := (z.linkApart_resent l u).rest
    refine ⟨_, hexec, (congrArg Timebase.age htb).trans hage, ?_, (congrArg Lane.idle hlane :), (congrArg Lane.next hlane :),
      (z.streams_resent l u).trans (congrArg Links.streams hpast.lk), kt.trans htiles, kr.trans hregs, km.trans hmsg⟩
    rw [htb]
    exact (congrArg Lane.unack hlane :)
  case tier1 =>
    have hexec := exec_frameTransmit_fresh hup hl hlead hlu hu hn
    have hfz := (hpast.nextFrame c 0).trans hf
    have hc1 : c ≠ 1 := fun h => absurd (List.mem_of_find?_eq_some hc) (by simp [h])
    rw [← hz, State.sendFresh_new ((hpast.stranded l).trans hs), State.sendNew_tier1 hc] at hexec
    have hlane := State.lane_sendNext hfz l
    have hstream := State.stream_sendNext hfz l
    have hbuilder := (State.eb_sendNext hfz l).trans (if_neg (fun h => hc1 h.1))
    have htb := z.sendNext_tb l c 0
    obtain ⟨kt, kr, km⟩ := z.sendNext_rest l c 0
    simp only [hpast.lane, hpast.txSlots] at hlane
    simp only [hpast.stream] at hstream
    have hmine := (hlane l).trans (if_pos rfl)
    have hown := (hstream c 0).trans (if_pos rfl)
    generalize z.sendNext l c 0 = t at *
    refine ⟨t, hexec, (congrArg Timebase.age htb).trans hage, (congrArg Lane.next hmine :), ?_, State.nextFrame_seq hf,
      (congrArg Stream.seq hown :), (congrArg Stream.wait hown :), fun d k hk => (hstream d k).trans (if_neg hk),
      fun k hk => (hlane k).trans (if_neg hk), hbuilder.trans heb, kt.trans htiles, kr.trans hregs, km.trans hmsg⟩
    rw [htb]
    exact (congrArg Lane.unack hmine :)
  case event =>
    have hexec := exec_frameTransmit_fresh hup hl hlead hlu hu hn
    have hfz := (hpast.nextFrame 1 0).trans hf
    have hnew : z.sendNew l = _ := State.sendNew_event (fun c hc => hnone c hc) ((hpast.canSend l 1 0).trans he)
      (fun j hj => (hpast.canSend l 2 j).trans (hres j hj))
    rw [← hz, State.sendFresh_new ((hpast.stranded l).trans hs), hnew] at hexec
    have hstream := (State.stream_sendNext hfz l 1 0).trans (if_pos rfl)
    have hbuilder := State.eb_sendNext hfz l
    obtain ⟨kt, kr, km⟩ := z.sendNext_rest l 1 0
    rw [hpast.stream] at hstream
    rw [heb, EventBuilder.frameOut] at hbuilder
    generalize z.sendNext l 1 0 = t at *
    refine ⟨_, hexec, (congrArg Stream.wait hstream :), (congrArg Stream.seq hstream :), ?_, kt.trans htiles, kr.trans hregs,
      km.trans hmsg⟩
    show t.eb.backlog = _
    rw [hbuilder]
    by_cases h0 : f.ev = 0 <;> simp [h0]
end

