-- ==== Sys2Proof/Proofs/Uplink.lean ====
section
/-! ## O44: the uplink changes (R329, R336 to R338, R354, R355, R359) -/

namespace Sys2Proof.Machine
open Sys2Proof

/-! ### RESULT_FRAME_CLOSE (R338) -/

theorem State.stream_closeFrame {s : State} {i : Nat} {f : OpenFrame} (h : (s.stream 2 i).opened = some f) :
    (s.closeFrame i).stream 2 i = { s.stream 2 i with opened := none, wait := (s.stream 2 i).wait ++ [{ words := f.payload }] } := by
  simp only [State.closeFrame, h]
  exact (s.stream_setStream 2 i 2 i _).trans (if_pos rfl)

/-- A full frame closes now, any other one FCLOSE microseconds after its opening. -/
def State.closeDue (s : State) (f : OpenFrame) : State :=
  if f.payload.length < 1024 then s.advanceTo (f.since + s.fld 0x3008 4 0 * 125) else s

theorem exec_resultFrameClose {s : State} {j : Nat} {f : OpenFrame} (hup : s.up = true) (hj : j < 128)
    (h : (s.stream 2 j).opened = some f) : exec (.resultFrameClose j) s = .next ((s.closeDue f).closeFrame j) := by
  show execResultFrameClose j s = _
  rw [execResultFrameClose, onUnit_up s j 128 _ hj hup]
  simp only [h]
  rfl

theorem State.timePassed_closeDue {s : State} (f : OpenFrame) (hup : s.up = true) : s.TimePassed (s.closeDue f) := by
  unfold State.closeDue
  split
  · exact State.timePassed_advanceTo _ hup
  · exact ⟨rfl, rfl⟩

theorem State.age_closeDue {s : State} (f : OpenFrame) (hup : s.up = true) : (s.closeDue f).tb.age =
    if f.payload.length < 1024 then max s.tb.age (f.since + s.fld 0x3008 4 0 * 125) else s.tb.age := by
  unfold State.closeDue
  split
  · exact s.age_advanceTo _ hup
  · rfl

/-! ### What a source that is set leaves of the links -/

section
variable {s t : State} (h : s.EventsApart t)
include h

theorem State.EventsApart.links : { t.lk with streams := s.lk.streams } = s.lk :=
  (congrArg (fun x : State => { x.lk with streams := s.lk.streams }) h.1 :)

theorem State.EventsApart.lane (k : Nat) : t.lane k = s.lane k := (congrArg (fun x : State => x.lane k) h.1 :)

theorem State.EventsApart.laneSt (k : Nat) : t.laneSt k = s.laneSt k := (congrArg (fun x : State => x.laneSt k) h.1 :)

/-- The links may have moved before the source was set. -/
theorem State.EventsApart.linksMoved {r : State} (hr : r.LinkApart s) : ({ r with lk := t.lk } : State).EventsApart t := by
  have hlk := congrArg (fun l : Links => { l with streams := [] }) h.links
  have hs : s = { r with lk := s.lk } := (congrArg (fun x : State => { x with lk := s.lk }) hr :)
  refine ⟨h.1.trans ?_, fun u => (h.2 u).trans ?_⟩
  · rw [hs, State.sansEvents, State.sansEvents]
    exact congrArg (fun l : Links => { ({ r with lk := l } : State).sansEvents with lk := l }) hlk.symm
  · rw [hs]
    rfl

end

/-! ### The link PLL and a lane that degrades (R336, R354) -/

/-- Lanes of the part that stand in DOWN. -/
def State.downLanes (s : State) : List Nat := (List.range 8).filter (fun l => s.usedLane l && decide ((s.lane l).st = .down))

/-- Lanes of the part in use. -/
def State.usedLanes (s : State) : List Nat := (List.range 8).filter s.usedLane

theorem State.mem_downLanes {s : State} {l : Nat} : l ∈ s.downLanes ↔ l < 8 ∧ s.usedLane l = true ∧ (s.lane l).st = .down := by
  simp [State.downLanes]

theorem State.mem_usedLanes {s : State} {l : Nat} : l ∈ s.usedLanes ↔ l < 8 ∧ s.usedLane l = true := by
  simp [State.usedLanes]

/-- The link PLL is locked, or it is not. -/
def State.setPll (s : State) (b : Bool) : State := { s with lk := { s.lk with pllLock := b } }

/-- The link PLL loses its lock: every used lane goes DOWN. -/
def State.pllLost (s : State) : State :=
  ({ s with lk := { s.lk with pllLock := false, linkDown := true } } : State).putLanes s.usedLanes .down

theorem State.linkApart_pllLost (s : State) : s.LinkApart s.pllLost :=
  State.LinkApart.trans (t := { s with lk := { s.lk with pllLock := false, linkDown := true } }) rfl
    (State.lanesOnly_putLanes _ _ _).linkApart

theorem State.lane_pllLost (s : State) (k : Nat) :
    s.pllLost.lane k = if k ∈ s.usedLanes then { s.lane k with st := .down } else s.lane k :=
  State.lane_putLanes _ _ _ k

theorem State.flags_pllLost (s : State) : s.pllLost.lk.pllLock = false ∧ s.pllLost.lk.linkDown = true := by
  have h := State.lanesOnly_putLanes { s with lk := { s.lk with pllLock := false, linkDown := true } } s.usedLanes .down
  change State.LanesOnly _ s.pllLost at h
  generalize s.pllLost = t at h ⊢
  exact ⟨(congrArg (fun x : State => x.lk.pllLock) h :), (congrArg (fun x : State => x.lk.linkDown) h :)⟩

section
variable {s : State} (hup : s.up = true)
include hup

theorem exec_linkPllLock : exec .linkPllLock s = .next ((s.setPll true).putLanes s.downLanes .train) :=
  show execLinkPllLock s = _ from onChip_up s _ hup

theorem exec_linkPllLoss (h : s.lk.pllLock = true) : exec .linkPllLoss s = .next (s.pllLost.raise (chipSrc 11)) := by
  show execLinkPllLoss s = _
  rw [execLinkPllLoss, onChip_up s _ hup, if_pos h]
  rfl

theorem exec_laneDegraded {l m : Nat} (hl : l < 8) (hm : m = if l % 2 = 0 then l + 1 else l - 1) (hp : s.pairs = true)
    (hlu : s.laneSt l = .up) (hmu : s.laneSt m = .up) :
    exec (.laneDegraded l) s = .next ((s.putLane l .down).raise (chipSrc 12)) := by
  subst hm
  show execLaneDegraded l s = _
  rw [execLaneDegraded, onUnit_up s l 8 _ hl hup]
  exact congrArg _ (if_pos (by rw [hp, hlu, hmu]; rfl))

end

/-! ### LK_CTRL (R355, R359) -/

theorem regAt_lkCtrl : regAt 0x3000 = some ⟨⟨.lkCtrl, 0x3000, 1, 4, 0, 0, 0, 3⟩, 0, none⟩ := by decide +kernel

theorem State.writeReason_lkCtrl (s : State) (w : Reg32) : s.writeReason .host 0x3000 w = none := by
  rw [s.writeReason_reg .host w (by decide) regAt_lkCtrl]
  rfl

theorem State.writeAt_lkCtrl (s : State) (w : Reg32) (h : Option CtlHead) :
    s.writeAt .host 0x3000 w h = (s.advance 1).lkCommands w.toNat h := by
  rw [s.writeAt_applied (State.writeReason_lkCtrl _ w), State.applyWrite, msgOffset_of_regAt regAt_lkCtrl, regAt_lkCtrl]
  rfl

theorem exec_lreset {s : State} (h : Option CtlHead) (hup : s.up = true) :
    exec (.lreset h) s = .next (s.later.linkAsk h) := by
  show execLreset h s = _
  rw [execLreset, onChip_up s _ hup, s.writeAt_lkCtrl, s.advance_one hup]
  rfl

theorem exec_lkRetrain {s : State} (hup : s.up = true) : exec .lkRetrain s = .next s.later.trainAll := by
  show execLkRetrain s = _
  rw [execLkRetrain, onChip_up s _ hup, s.writeAt_lkCtrl, s.advance_one hup]
  rfl

/-! ### Every used lane trains (R329) -/

/-- The state that a used lane takes when the uplink starts anew. -/
def State.freshLane (s : State) : LaneState := if s.lk.pllLock then .train else .down

theorem State.trainAll_eq (s : State) : s.trainAll = (s.putLanes s.usedLanes s.freshLane).noteDown := by
  have h : ∀ (ks : List Nat) (s : State),
      forKeys ks (fun l s => s.putLane l (if s.lk.pllLock then .train else .down)) s = s.putLanes ks s.freshLane := by
    intro ks
    induction ks with
    | nil => exact fun _ => rfl
    | cons l ls ih => exact fun s => (ih _).trans rfl
  rw [State.trainAll, h]
  rfl

theorem State.st_trainAll {s : State} {l : Nat} (hl : l < 8) (hused : s.usedLane l = true) :
    (s.trainAll.lane l).st = s.freshLane := by
  rw [State.trainAll_eq, State.lane_noteDown, State.lane_putLanes, if_pos (State.mem_usedLanes.mpr ⟨hl, hused⟩)]

theorem State.linkApart_trainAll (s : State) : s.LinkApart s.trainAll := by
  rw [State.trainAll_eq]
  exact (s.lanesOnly_putLanes _ _).linkApart.trans (State.linkApart_noteDown _)

/-! ### What a link reset keeps (R355) -/

/-- The part of a state that is left to the lanes and the session in a link reset: the event builder, the registers, message
memory, the lanes with the link PLL and the rate, and the counter of the secure session. -/
structure LinkView where
  part : Part
  eb : EventBuilder
  regs : Map Reg32
  msg : Memory
  lanes : Map Lane
  pllLock : Bool
  darkRate : Bool
  secCnt : Nat

/-- The link view of a state. -/
def State.linkView (s : State) : LinkView :=
  { part := s.part, eb := s.eb, regs := s.regs, msg := s.msg, lanes := s.lk.lanes, pllLock := s.lk.pllLock
    darkRate := s.lk.darkRate, secCnt := s.sup.secCnt }

theorem forKeys_linkView {f : Nat → State → State} (h : ∀ k s, (f k s).linkView = s.linkView) (ks : List Nat) (s : State) :
    (forKeys ks f s).linkView = s.linkView :=
  forKeys_keeps (R := fun s t => t.linkView = s.linkView) (fun _ => rfl) (fun h k => k.trans h) h ks s

section
variable (s : State)

theorem State.linkView_raise (k : Nat) : (s.raise k).linkView = s.linkView :=
  (congrArg State.linkView (s.apart_raise k).1 :)

theorem State.linkView_updQuality : s.updQuality.linkView = s.linkView := by
  unfold State.updQuality
  split
  · rfl
  · exact (State.linkView_raise _ _).trans rfl

theorem State.linkView_suspectFrom (lo : Nat) : (s.suspectFrom lo).linkView = s.linkView := by
  refine forKeys_linkView (fun t s => ?_) _ s
  refine (forKeys_linkView (fun q s => forKeys_linkView (fun i s => ?_) _ s) _ _).trans rfl
  dsimp only
  split <;> rfl

theorem State.linkView_unlock (lead : Nat) : (s.unlock lead).linkView = s.linkView := by
  unfold State.unlock
  dsimp only
  split
  iterate 3 exact (State.linkView_updQuality _).trans ((State.linkView_raise _ _).trans (s.linkView_suspectFrom _))
  · exact (State.linkView_updQuality _).trans rfl
  iterate 2 rfl

theorem State.linkView_setDn (d : DnState) : (s.setDn d).linkView = s.linkView := by
  unfold State.setDn State.refSwitch
  dsimp only
  split
  · rfl
  · exact State.linkView_unlock { s with lk := { s.lk with dn := d } } 1

theorem State.linkView_cutFrame (h : Option CtlHead) : (s.cutFrame h).linkView = s.linkView := by
  cases h with
  | none => rfl
  | some h => rfl

theorem State.linkView_noteReset (cause tile eng : Nat) : (s.noteReset cause tile eng).linkView = s.linkView := rfl

theorem State.linkView_dropDark (r : Nat) : (s.dropDark r).linkView = s.linkView := by
  unfold State.dropDark
  split
  · exact (State.linkView_raise _ _).trans rfl
  · rfl

theorem State.streamsOnly_restartOn (c i : Nat) (v : W64) : s.StreamsOnly (s.restartOn c i v) := rfl

theorem State.streamsOnly_restartTier1 (v : W64) : s.StreamsOnly (s.restartTier1 v) :=
  State.streamsOnly_forKeys (fun c s => s.streamsOnly_restartOn c 0 v) _ s

theorem State.streamsOnly_restartData (v : W64) : s.StreamsOnly (s.restartData v) :=
  (s.streamsOnly_restartOn 1 0 v).trans (State.streamsOnly_forKeys (fun i s => s.streamsOnly_restartOn 2 i v) _ _)

/-- Restart frames change the streams alone (R500). -/
theorem State.streamsOnly_restartAll (cause tile eng : Nat) : s.StreamsOnly (s.restartAll cause tile eng) := by
  have hfirst : ∀ v, s.StreamsOnly (if s.lk.restartOwed.isNone then s.restartTier1 v else s) := fun v => by
    split
    · exact s.streamsOnly_restartTier1 v
    · exact .refl s
  have hthen : ∀ (r : State) v, r.StreamsOnly (if r.lk.lateRestart.isNone then r.restartData v else r) := fun r v => by
    split
    · exact r.streamsOnly_restartData v
    · exact .refl r
  exact (hfirst _).trans (hthen _ _)

variable {s} in
theorem State.StreamsOnly.linkView {t : State} (h : s.StreamsOnly t) : t.linkView = s.linkView := (congrArg State.linkView h :)

variable {s} in
theorem State.StreamsOnly.ev {t : State} (h : s.StreamsOnly t) : t.ev = s.ev := (congrArg State.ev h :)

end

/-! ### The sticky bits of chip sources stay -/

/-- Every sticky bit of a chip source that is set stays set. -/
def State.KeepsChip (s t : State) : Prop := ∀ k, s.evSet (chipSrc k) = true → t.evSet (chipSrc k) = true

theorem State.KeepsChip.refl (s : State) : s.KeepsChip s := fun _ h => h

theorem State.KeepsChip.trans {s t u : State} (h : s.KeepsChip t) (k : t.KeepsChip u) : s.KeepsChip u :=
  fun n hn => k n (h n hn)

theorem State.keepsChip_of_ev {s t : State} (h : t.ev = s.ev) : s.KeepsChip t := fun k hk => by
  have hchip : ¬ chipSrc k < 1024 := Nat.not_lt.mpr (Nat.le_add_right 1024 k)
  rw [State.evSet, if_neg hchip] at hk ⊢
  rwa [h]

theorem State.keepsChip_raise (s : State) (k : Nat) : s.KeepsChip (s.raise k) := fun _ => s.evSet_raise_mono k _

theorem forKeys_ev {f : Nat → State → State} (h : ∀ k s, (f k s).ev = s.ev) (ks : List Nat) (s : State) :
    (forKeys ks f s).ev = s.ev :=
  forKeys_keeps (R := fun s t => t.ev = s.ev) (fun _ => rfl) (fun h k => k.trans h) h ks s

section
variable (s : State)

theorem State.ev_suspectFrom (lo : Nat) : (s.suspectFrom lo).ev = s.ev := by
  refine forKeys_ev (fun t s => ?_) _ s
  refine (forKeys_ev (fun q s => forKeys_ev (fun i s => ?_) _ s) _ _).trans rfl
  dsimp only
  split <;> rfl

theorem State.keepsChip_updQuality : s.KeepsChip s.updQuality := fun _ => s.evSet_updQuality_mono _

theorem State.keepsChip_unlock (lead : Nat) : s.KeepsChip (s.unlock lead) := by
  unfold State.unlock
  dsimp only
  split
  iterate 3
    refine State.KeepsChip.trans (State.KeepsChip.trans ?_ (State.keepsChip_raise _ _)) (State.keepsChip_updQuality _)
    exact State.keepsChip_of_ev (s.ev_suspectFrom _)
  · refine State.KeepsChip.trans ?_ (State.keepsChip_updQuality _)
    exact State.keepsChip_of_ev rfl
  iterate 2 exact .refl s

theorem State.keepsChip_refSwitch (old : Bool) : s.KeepsChip (s.refSwitch old) := by
  unfold State.refSwitch
  split
  · exact .refl s
  · refine (s.keepsChip_unlock 1).trans ?_
    exact State.keepsChip_of_ev rfl

theorem State.keepsChip_setDn (d : DnState) : s.KeepsChip (s.setDn d) := by
  refine State.KeepsChip.trans ?_ (State.keepsChip_refSwitch _ s.refClk)
  exact State.keepsChip_of_ev rfl

theorem State.keepsChip_noteReset (cause tile eng : Nat) : s.KeepsChip (s.noteReset cause tile eng) :=
  State.keepsChip_of_ev rfl

theorem State.keepsChip_dropDark (r : Nat) : s.KeepsChip (s.dropDark r) := by
  unfold State.dropDark
  split
  · refine State.KeepsChip.trans ?_ (State.keepsChip_raise _ _)
    exact State.keepsChip_of_ev rfl
  · exact .refl s

end

/-! ### The link reset (R314, R355, R463, R473) -/

/-- The receiver of a link reset: the frame in progress is cut, slot lock is lost with its event, no signal, and the host's
generation rises. -/
def State.receiverReset (s : State) (h : Option CtlHead) : State :=
  let u := if (s.cutFrame h).lk.dn = .slot then (s.cutFrame h).raise (chipSrc 10) else s.cutFrame h
  let v := u.setDn .noSignal
  { v with lk := { v.lk with hostReset := true }, sup := { v.sup with hostGen := genNext v.sup.hostGen } }

/-- The host is told of the messages that it has not taken (R459). -/
def State.tellHost (s : State) : State :=
  forKeys ((List.range 96).filter (fun ch => hostReceives ch && (s.slot ch).full)) (fun ch s => s.notice ch false) s

theorem State.linkReset_eq (s : State) (h : Option CtlHead) : s.linkReset h = (s.receiverReset h).trainAll.newChal.tellHost := rfl

section
variable (s : State) (h : Option CtlHead)

theorem State.linkView_receiverReset : (s.receiverReset h).linkView = s.linkView := by
  refine Eq.trans (State.linkView_setDn _ .noSignal) ?_
  split
  · exact (State.linkView_raise _ _).trans (s.linkView_cutFrame h)
  · exact s.linkView_cutFrame h

theorem State.ev_trainAll : s.trainAll.ev = s.ev := (congrArg State.ev s.linkApart_trainAll :)

theorem State.ev_newChal : s.newChal.ev = s.ev := rfl

theorem State.linkView_newChal : s.newChal.linkView = { s.linkView with secCnt := 0 } := rfl

theorem State.linkView_tellHost : s.tellHost.linkView = s.linkView :=
  forKeys_linkView (fun ch s => (rfl : (s.notice ch false).linkView = s.linkView)) _ s

theorem State.ev_tellHost : s.tellHost.ev = s.ev := forKeys_ev (fun ch s => (rfl : (s.notice ch false).ev = s.ev)) _ s

/-- Slot lock that a link reset takes away raises slot-lost (R481). -/
theorem State.slotLost_receiverReset (hd : s.lk.dn = .slot) : (s.receiverReset h).evSet (chipSrc 10) = true := by
  have hcut : (s.cutFrame h).lk.dn = .slot := (congrArg Spine.dn (s.cutFrame_spine h) :).trans hd
  refine State.keepsChip_of_ev rfl 10 (State.keepsChip_setDn _ .noSignal 10 ?_)
  rw [if_pos hcut]
  exact State.evSet_raise _ _ (by decide)

variable {s}

theorem State.linkAsk_eq (hsoft : s.pw.soft = false) :
    s.linkAsk h = (((s.linkReset h).dropDark 8).noteReset 3 0 0).restartAll 3 0 0 := if_neg (ne_true_of_eq_false hsoft)

/-- A link reset, its lanes and session after those of the receiver. -/
theorem State.linkAsk_view (hsoft : s.pw.soft = false) : (s.linkAsk h).linkView =
    { (s.receiverReset h).trainAll.linkView with secCnt := 0 } := by
  rw [State.linkAsk_eq h hsoft, (State.streamsOnly_restartAll _ 3 0 0).linkView, State.linkView_noteReset,
    State.linkView_dropDark, State.linkReset_eq, State.linkView_tellHost, State.linkView_newChal]

theorem State.slotLost_linkAsk (hsoft : s.pw.soft = false) (hd : s.lk.dn = .slot) :
    (s.linkAsk h).evSet (chipSrc 10) = true := by
  have hreset : (s.linkReset h).evSet (chipSrc 10) = true := by
    rw [State.linkReset_eq]
    refine State.keepsChip_of_ev ?_ 10 (s.slotLost_receiverReset h hd)
    rw [State.ev_tellHost, State.ev_newChal, State.ev_trainAll]
  rw [State.linkAsk_eq h hsoft]
  exact State.keepsChip_of_ev (State.streamsOnly_restartAll _ 3 0 0).ev 10
    (State.keepsChip_noteReset _ 3 0 0 10 (State.keepsChip_dropDark _ 8 10 hreset))

/-- The spine after a link reset (R314, R355, R463, R503). -/
theorem State.linkAsk_spine (hsoft : s.pw.soft = false) : (s.linkAsk h).lk.dn = .noSignal ∧ (s.linkAsk h).lk.hostReset = true ∧
    (s.linkAsk h).sup.hostGen = genNext s.sup.hostGen ∧ (s.linkAsk h).pw.cause = 3 ∧ (s.linkAsk h).tb.age = s.tb.age := by
  obtain ⟨hage, hreset⟩ := s.linkReset_spine h
  obtain ⟨n, hdark⟩ := (s.linkReset h).dropDark_spine 8
  have hspine : (s.linkAsk h).spine = { ((s.linkReset h).dropDark 8).spine with
      pw := { ((s.linkReset h).dropDark 8).spine.pw with cause := 3, causeTile := 0, causeEng := 0 } } := by
    rw [State.linkAsk_eq h hsoft, State.restartAll_spine, State.noteReset_spine]
  rw [hdark, hreset] at hspine
  exact ⟨(congrArg Spine.dn hspine :), (congrArg Spine.hostReset hspine :), (congrArg Spine.hostGen hspine :),
    (congrArg (fun x : Spine => x.pw.cause) hspine :), (congrArg (fun x : Spine => x.tb.age) hspine :).trans hage⟩

end

theorem State.lane_congr {s t : State} (h : t.lk.lanes = s.lk.lanes) (k : Nat) : t.lane k = s.lane k := by
  rw [State.lane, State.lane, h]

theorem State.usedLane_of_view {s t : State} (h : s.linkView = t.linkView) (k : Nat) : s.usedLane k = t.usedLane k := by
  rw [State.usedLane, State.usedLane, State.nLanes, State.nLanes, show s.part = t.part from congrArg LinkView.part h,
    show s.lk.darkRate = t.lk.darkRate from congrArg LinkView.darkRate h]

theorem State.freshLane_of_view {s t : State} (h : s.linkView = t.linkView) : s.freshLane = t.freshLane := by
  rw [State.freshLane, State.freshLane, show s.lk.pllLock = t.lk.pllLock from congrArg LinkView.pllLock h]

end Sys2Proof.Machine
open Sys2Proof Sys2Proof.Machine

/-- Settles O44: a frame closes at its instant, the lanes take their new states together, and of a link reset the receiver's
part, the lanes and the records of the reset are told apart by what each of them leaves. -/
theorem uplinkChanges : Obligations.UplinkChanges := by
  refine ⟨fun s j f hup hj hopen => ?close, fun s hup => ?lock, fun s hup hpll => ?loss,
    fun s l m hup hl hm hp hlu hmu => ?degraded, fun s h hup hsoft => ?reset, fun s hup => ?retrain⟩
  case close =>
    have hpast := State.timePassed_closeDue f hup
    have hage := State.age_closeDue f hup
    have hexec := exec_resultFrameClose hup hj hopen
    generalize s.closeDue f = z at *
    have hmine := State.stream_closeFrame (s := z) (by rw [hpast.stream]; exact hopen)
    have hother := fun d k hk => z.stream_closeFrame_ne (i := j) (d := d) (k := k) hk
    have hframe := z.streamsOnly_closeFrame j
    have htb := z.closeFrame_tb j
    generalize z.closeFrame j = t at *
    rw [hpast.stream] at hmine
    refine ⟨t, hexec, (congrArg Stream.opened hmine :), (congrArg Stream.wait hmine :), (congrArg Stream.seq hmine :),
      (congrArg Timebase.age htb).trans hage, fun d k hk => (hother d k hk).trans (hpast.stream d k), ?_⟩
    rw [← hpast.lk]
    exact Eq.trans (congrArg (fun x : State => { x with tb := s.tb }) hframe :) hpast.1
  case lock =>
    have hlane := (s.setPll true).lane_putLanes s.downLanes .train
    have hframe := (s.setPll true).lanesOnly_putLanes s.downLanes .train
    have hexec := exec_linkPllLock hup
    generalize (s.setPll true).putLanes s.downLanes .train = t at *
    refine ⟨t, hexec, (congrArg (fun x : State => x.lk.pllLock) hframe :), fun l hl hused hst => ?_, fun l hst => ?_,
      (congrArg (fun x : State => { x with lk := s.lk }) hframe :)⟩
    · rw [hlane l, if_pos (State.mem_downLanes.mpr ⟨hl, hused, hst⟩)]
    · exact (hlane l).trans (if_neg (fun h => hst (State.mem_downLanes.mp h).2.2))
  case loss =>
    have hapart := s.pllLost.apart_raise (chipSrc 11)
    obtain ⟨hpll', hdown⟩ := s.flags_pllLost
    refine ⟨_, exec_linkPllLoss hup hpll, (congrArg Links.pllLock hapart.links :).trans hpll',
      (congrArg Links.linkDown hapart.links :).trans hdown, fun l hl hused => ?_, State.evSet_raise _ _ (by decide),
      hapart.linksMoved s.linkApart_pllLost⟩
    rw [hapart.lane, s.lane_pllLost, if_pos (State.mem_usedLanes.mpr ⟨hl, hused⟩)]
  case degraded =>
    have hne : m ≠ l := by
      split at hm <;> omega
    have hapart := (s.putLane l .down).apart_raise (chipSrc 12)
    have hlane : ∀ k, (s.putLane l .down).lane k = _ := fun k => s.lane_modLane l k (fun x => { x with st := .down })
    have hframe := s.lanesOnly_putLane l .down
    have hexec := exec_laneDegraded hup hl hm hp hlu hmu
    have hmine := (hlane l).trans (if_pos rfl)
    refine ⟨_, hexec, ?_, ?_, ?_, State.evSet_raise _ _ (by decide), fun k hk => (hapart.lane k).trans ((hlane k).trans (if_neg hk)),
      hapart.linksMoved hframe.linkApart⟩
    · rw [hapart.lane, hmine]
    · rw [hapart.laneSt, hframe.laneSt hup, hlane m, if_neg hne, ← State.laneSt_eq hup, hmu]
    · rw [hapart.lane, hmine]
  case reset =>
    have hview := State.linkAsk_view (s := s.later) h hsoft
    have hrecv : (s.later.receiverReset h).linkView = s.linkView := (s.later.linkView_receiverReset h).trans rfl
    obtain ⟨hdn, hreset, hgen, hcause, hage⟩ := State.linkAsk_spine (s := s.later) h hsoft
    have hlost := State.slotLost_linkAsk (s := s.later) h hsoft
    have hexec := exec_lreset h hup
    generalize s.later.linkAsk h = t at *
    generalize s.later.receiverReset h = w at *
    have hst := fun l hl hused => State.st_trainAll (s := w) (l := l) hl hused
    obtain ⟨kb, -, -, kr, km⟩ := w.linkApart_trainAll.rest
    generalize w.trainAll = v at *
    refine ⟨t, hexec, hdn, hreset, hgen, (congrArg LinkView.secCnt hview :), hcause, fun l hl hused => ?_, hlost,
      hage.trans State.later_age, (congrArg LinkView.eb hview :).trans (kb.trans (congrArg LinkView.eb hrecv :)),
      (congrArg LinkView.regs hview :).trans (kr.trans (congrArg LinkView.regs hrecv :)),
      (congrArg LinkView.msg hview :).trans (km.trans (congrArg LinkView.msg hrecv :))⟩
    rw [State.lane_congr (s := v) (congrArg LinkView.lanes hview :)]
    exact (hst l hl ((State.usedLane_of_view hrecv l).trans hused)).trans (State.freshLane_of_view hrecv)
  case retrain =>
    refine ⟨_, exec_lkRetrain hup, fun l hl hused => State.st_trainAll (s := s.later) hl hused,
      (congrArg Timebase.age s.later.trainAll_tb).trans State.later_age, ?_⟩
    exact (congrArg (fun x : State => { x with tb := s.tb, lk := s.lk }) s.later.linkApart_trainAll :)
end

