-- ==== Sys2Proof/Proofs/ControlSlots.lean ====
section
/-! ## O51: the slots of a control frame spell it (R320, R321) -/

namespace Sys2Proof.Machine
open Sys2Proof

/-- A field of a number that a word holds. -/
theorem extractLsb'_ofNat_of_lt {m n : Nat} (lo w : Nat) (h : n < 2 ^ m) :
    (BitVec.ofNat m n).extractLsb' lo w = BitVec.ofNat w (n / 2 ^ lo) := by
  apply BitVec.eq_of_toNat_eq
  rw [BitVec.extractLsb'_toNat, BitVec.toNat_ofNat, BitVec.toNat_ofNat, Nat.mod_eq_of_lt h, Nat.shiftRight_eq_div_pow]

theorem ofNat_eq_of_mod {w n : Nat} {x : BitVec w} (h : n % 2 ^ w = x.toNat) : BitVec.ofNat w n = x :=
  BitVec.eq_of_toNat_eq (by rw [BitVec.toNat_ofNat, h])

/-! ### HEAD -/

/-- The fields of HEAD lie apart, and each reads back. -/
theorem headFields {n op tag len sec rsv addr : Nat} (h1 : op < 16) (h2 : tag < 256) (h3 : len < 1024) (h4 : sec < 2)
    (h5 : rsv < 32) (h6 : addr < 2 ^ 24)
    (hn : n = 2 ^ 52 + (op * 2 ^ 48 + (tag * 2 ^ 40 + (len * 2 ^ 30 + (sec * 2 ^ 29 + (rsv * 2 ^ 24 + addr)))))) :
    n < 2 ^ 56 ∧ n / 2 ^ 52 = 1 ∧ n / 2 ^ 48 % 16 = op ∧ n / 2 ^ 40 % 256 = tag ∧ n / 2 ^ 30 % 1024 = len ∧
      n / 2 ^ 29 % 2 = sec ∧ n / 2 ^ 24 % 32 = rsv ∧ n % 2 ^ 24 = addr := by
  refine ⟨?_, ?_, ?_, ?_, ?_, ?_, ?_, ?_⟩ <;> omega

theorem b2n_lt (b : Bool) : b2n b < 2 := by cases b <;> decide

theorem ctlBits_eq (op : BitVec 4) (f : CtlFrame) : ctlBits op.toNat f = 2 ^ 52 + (op.toNat * 2 ^ 48 + (f.tag.toNat * 2 ^ 40 +
    (f.len.toNat * 2 ^ 30 + (b2n f.sec * 2 ^ 29 + (f.rsv.toNat * 2 ^ 24 + f.addr.toNat))))) := by
  rw [ctlBits]
  simp only [packW]
  rw [Nat.mod_eq_of_lt op.isLt, Nat.mod_eq_of_lt f.tag.isLt, Nat.mod_eq_of_lt f.len.isLt, Nat.mod_eq_of_lt f.rsv.isLt,
    Nat.mod_eq_of_lt f.addr.isLt, Nat.mod_eq_of_lt (show b2n f.sec < 2 ^ 1 from b2n_lt f.sec)]
  omega

/-- A frame with nothing but its HEAD. -/
def headOnly (op : BitVec 4) (f : CtlFrame) : OpenCtl :=
  { op := op, frame := { f with data := [], crc := 0, discarded := 0, broken := false } }

/-- HEAD opens the frame whose fields it holds. -/
theorem controlSlot_head (op : BitVec 4) (f : CtlFrame) :
    controlSlot none (BitVec.ofNat 56 (ctlBits op.toNat f)) false = (none, some (headOnly op f)) := by
  obtain ⟨hlt, hkind, hop, htag, hlen, hsec, hrsv, haddr⟩ := headFields op.isLt f.tag.isLt f.len.isLt (b2n_lt f.sec) f.rsv.isLt
    f.addr.isLt (ctlBits_eq op f)
  have hbit : (BitVec.ofNat 56 (ctlBits op.toNat f)).getLsbD 29 = f.sec := by
    rw [BitVec.getLsbD_ofNat, Nat.testBit_eq_decide_div_mod_eq, hsec]
    cases f.sec <;> rfl
  have hhead : headSlot (BitVec.ofNat 56 (ctlBits op.toNat f)) = headOnly op f := by
    rw [headSlot, hbit]
    simp only [extractLsb'_ofNat_of_lt _ _ hlt]
    rw [ofNat_eq_of_mod hop, ofNat_eq_of_mod htag, ofNat_eq_of_mod hlen, ofNat_eq_of_mod hrsv,
      ofNat_eq_of_mod (x := f.addr) (by rw [Nat.pow_zero, Nat.div_one, haddr])]
    rfl
  rw [controlSlot, hhead, extractLsb'_ofNat_of_lt _ _ hlt, hkind]
  rfl

/-! ### DATA and END -/

/-- A DATA slot. -/
def dataSlot (d : Reg32) : BitVec 56 := BitVec.ofNat 56 (2 * 2 ^ 52 + d.toNat)

/-- An END slot. -/
def endSlot (crc : Reg32) : BitVec 56 := BitVec.ofNat 56 (3 * 2 ^ 52 + crc.toNat)

/-- A slot of KIND `k` with a word of 32 bits reads back. -/
theorem slotFields {k : Nat} (hk : k < 16) (d : Reg32) :
    ((BitVec.ofNat 56 (k * 2 ^ 52 + d.toNat)).extractLsb' 52 4).toNat = k ∧
      (BitVec.ofNat 56 (k * 2 ^ 52 + d.toNat)).extractLsb' 0 32 = d := by
  have hd := d.isLt
  have hlt : k * 2 ^ 52 + d.toNat < 2 ^ 56 := by omega
  rw [extractLsb'_ofNat_of_lt _ _ hlt, extractLsb'_ofNat_of_lt _ _ hlt]
  exact ⟨by rw [BitVec.toNat_ofNat]; omega, ofNat_eq_of_mod (by omega)⟩

theorem controlSlot_data (o : OpenCtl) (d : Reg32) : controlSlot (some o) (dataSlot d) false =
    (none, some { o with frame := { o.frame with data := o.frame.data ++ [d] } }) := by
  obtain ⟨hkind, hword⟩ := slotFields (k := 2) (by decide) d
  rw [dataSlot, controlSlot, hkind, hword]
  rfl

theorem controlSlot_end (o : OpenCtl) (crc : Reg32) : controlSlot (some o) (endSlot crc) false =
    (some ({ o with frame := { o.frame with crc := crc } } : OpenCtl).command, none) := by
  obtain ⟨hkind, hword⟩ := slotFields (k := 3) (by decide) crc
  rw [endSlot, controlSlot, hkind, hword]
  rfl

/-- DATA slots add their words in order, and END gives the command. -/
theorem controlSlots_data (ds : List Reg32) (crc : Reg32) (o : OpenCtl) :
    controlSlots (some o) (ds.map dataSlot ++ [endSlot crc]) =
      ([({ o with frame := { o.frame with data := o.frame.data ++ ds, crc := crc } } : OpenCtl).command], none) := by
  induction ds generalizing o with
  | nil => simp [controlSlots, controlSlot_end]
  | cons d ds ih => simp [controlSlots, controlSlot_data, ih]

/-- The slots of a frame that arrives whole give its command. -/
theorem controlSlots_frame (op : BitVec 4) (f : CtlFrame) (hd : f.discarded = 0) (hb : f.broken = false) :
    controlSlots none (BitVec.ofNat 56 (ctlBits op.toNat f) :: (f.data.map dataSlot ++ [endSlot f.crc])) =
      ([({ op := op, frame := f } : OpenCtl).command], none) := by
  rw [controlSlots, controlSlot_head, controlSlots_data]
  obtain ⟨tag, len, sec, rsv, addr, data, crc, discarded, broken⟩ := f
  subst hd hb
  rfl

end Sys2Proof.Machine
end

