-- ==== Sys2Proof/Proofs/ControlFrames.lean ====
section
/-! ## O51: what a control frame does and how it is answered (R320 to R326, R410, R472) -/

namespace Sys2Proof.Machine
open Sys2Proof

/-! ### What a source that is set leaves of the streams -/

/-- Event sources speak on the streams 3 0 (alerts) and 6 0 (notices). -/
def quietStream (c i : Nat) : Prop := streamKey c i ≠ streamKey 3 0 ∧ streamKey c i ≠ streamKey 6 0

section
variable (s : State) {c i : Nat} (h : quietStream c i) (k : Nat)

theorem State.stream_send_ne {d j : Nat} (h : streamKey c i ≠ streamKey d j) (ws : List W64) :
    (s.send d j ws).stream c i = s.stream c i :=
  (s.stream_setStream d j c i _).trans (if_neg h)

theorem State.stream_setSticky : (s.setSticky k).stream c i = s.stream c i := by
  unfold State.setSticky
  split <;> rfl

theorem State.stream_log (src d : Nat) : (s.log k src d).stream c i = s.stream c i := by
  unfold State.log
  split
  · rfl
  · split <;> rfl

include h

theorem State.stream_routeAlert (at_ : Time) (b : Bool) : (s.routeAlert k at_ b).stream c i = s.stream c i := by
  have hsend : (if bit (s.evRoute k) 0 then s.send 3 0 [alertRecord k s.tb.epoch b, alertTime at_] else s).stream c i =
      s.stream c i := by
    split
    · exact s.stream_send_ne h.1 _
    · rfl
  simp only [State.routeAlert]
  split
  · exact (State.stream_log _ 0 k 0).trans hsend
  · exact hsend

theorem State.stream_raiseQuiet : (s.raiseQuiet k).stream c i = s.stream c i := by
  simp only [State.raiseQuiet]
  split
  · rfl
  · split
    · exact s.stream_setSticky k
    · exact (State.stream_routeAlert _ h ..).trans (s.stream_setSticky k)

theorem State.stream_routeBox : (s.routeBox k).stream c i = s.stream c i := by
  unfold State.routeBox
  split
  · split
    · split
      · rfl
      · exact State.stream_raiseQuiet _ h _
    · exact State.stream_send_ne (s.setSlot _ _) h.2 _
  · rfl

theorem State.stream_raise : (s.raise k).stream c i = s.stream c i := by
  unfold State.raise State.raiseAt
  split
  · rfl
  · split
    · exact s.stream_setSticky k
    · exact (State.stream_routeBox _ h k).trans ((State.stream_routeAlert _ h ..).trans (s.stream_setSticky k))

end

/-! ### The answer (R324, R326, R358) -/

/-- No answer was given: the stream of responses and LK_CF_STAT are as they were. -/
def State.Unanswered (s t : State) : Prop :=
  (t.stream 4 0).wait = (s.stream 4 0).wait ∧ t.lk.cfCnt = s.lk.cfCnt ∧ t.lk.cfStatus = s.lk.cfStatus ∧ t.lk.cfTag = s.lk.cfTag

section
variable (s : State) (h : CtlHead) (status first : Nat) (data : List W64)

theorem State.unanswered_refl : s.Unanswered s := ⟨rfl, rfl, rfl, rfl⟩

theorem State.linkApart_respond : s.LinkApart (s.respond h status first data) := by
  simp only [State.respond]
  split <;> rfl

theorem State.responded_respond : s.Responded (s.respond h status first data) h status first data := by
  have hwait := s.stream_sendOwn_same 4 0 (responseRecord h.tag.toNat h.op.toNat status h.len.toNat first :: data)
  simp only [State.respond]
  split
  next hst => exact ⟨hwait, by rw [if_pos hst]; exact ⟨rfl, rfl, rfl⟩⟩
  next hst => exact ⟨hwait, by rw [if_neg hst]; exact ⟨rfl, rfl, rfl⟩⟩

variable {s h status first data}

/-- An answer given after what answers nothing. -/
theorem State.Unanswered.responded {w : State} (hw : s.Unanswered w) :
    s.Responded (w.respond h status first data) h status first data := by
  obtain ⟨hwait, hcnt, hstatus, htag⟩ := hw
  have hresp := w.responded_respond h status first data
  rw [State.Responded, hwait, hcnt, hstatus, htag] at hresp
  exact hresp

/-- An answer, and what it leaves of a state that had not answered. -/
theorem State.respond_answers {w : State} (hw : s.Unanswered w) {Q : State → Prop}
    (hq : ∀ t, w.LinkApart t → Q t) {c : Instr} (hc : exec c s = .next (w.respond h status first data)) :
    Answers c s (fun t => s.Responded t h status first data ∧ Q t) :=
  ⟨_, hc, hw.responded, hq _ (w.linkApart_respond ..)⟩

end

/-! ### The commands -/

section
variable {s : State} (hup : s.up = true) (hl : s.lk.dn = .slot) (f : CtlFrame)
include hup hl

theorem exec_write : exec (.write f) s = .next (s.ctlFrame 1 f) := onChip_onSlot hup hl _
theorem exec_read : exec (.read f) s = .next (s.ctlFrame 2 f) := onChip_onSlot hup hl _
theorem exec_image : exec (.image f) s = .next (s.ctlFrame 4 f) := onChip_onSlot hup hl _

theorem exec_ctlRow {op : Nat} (hop : op ∈ [1, 2, 4]) : exec (ctlRow op f) s = .next (s.ctlFrame op f) := by
  simp only [List.mem_cons, List.not_mem_nil, or_false] at hop
  obtain rfl | rfl | rfl := hop
  · exact exec_write hup hl f
  · exact exec_read hup hl f
  · exact exec_image hup hl f

theorem exec_unknownOp {op : BitVec 4} (h1 : op ≠ 1) (h2 : op ≠ 2) (h4 : op ≠ 4) :
    exec (.unknownOpControlFrame op f) s = .next (s.ctlFrame op.toNat f) :=
  (onChip_onSlot hup hl _).trans (congrArg _ (if_neg (not_or.mpr ⟨h1, not_or.mpr ⟨h2, h4⟩⟩)))

end

/-! ### The checks of R324 in order -/

/-- The head of a frame. -/
def headOf (op : Nat) (f : CtlFrame) : CtlHead := ⟨BitVec.ofNat 4 op, f.tag, f.len⟩

theorem headOf_toNat (op : BitVec 4) (f : CtlFrame) : headOf op.toNat f = ⟨op, f.tag, f.len⟩ := by
  rw [headOf, BitVec.ofNat_toNat, BitVec.setWidth_eq]

section
variable (s : State) {op : Nat} {f : CtlFrame}

/-- The frame's discarded slots are counted (R317). -/
def State.discardsCounted (s : State) (f : CtlFrame) : State :=
  if f.discarded = 0 then s else { s with lk := { s.lk with dnDisc := satAdd 65535 s.lk.dnDisc f.discarded } }

theorem State.linkApart_discardsCounted : s.LinkApart (s.discardsCounted f) := by
  unfold State.discardsCounted
  split <;> rfl

theorem State.unanswered_discardsCounted : s.Unanswered (s.discardsCounted f) := by
  unfold State.discardsCounted
  split <;> exact ⟨rfl, rfl, rfl, rfl⟩

theorem State.ctlFrame_unframed (h : ctlFramed op f = false) :
    s.ctlFrame op f = (s.discardsCounted f).respond (headOf op f) 2 1023 [] := if_pos (by rw [h]; rfl)

theorem State.ctlFrame_damaged (h : ctlFramed op f = true) (hi : ctlIntact op f = false) :
    s.ctlFrame op f = (s.discardsCounted f).respond (headOf op f) 1 1023 [] :=
  (if_neg (by rw [h]; exact Bool.false_ne_true)).trans (if_pos (by rw [hi]; rfl))

theorem State.ctlFrame_intact (h : ctlFramed op f = true) (hi : ctlIntact op f = true) : s.ctlFrame op f =
    if f.sec then (if s.tagRight op f then s.authPass.ctlChecked op f (headOf op f) else s.authFail.respond (headOf op f) 5 1023 [])
    else s.ctlChecked op f (headOf op f) := by
  have hd : f.discarded = 0 := by
    simp only [ctlIntact, Bool.and_eq_true, decide_eq_true_eq] at hi
    exact hi.1
  simp only [State.ctlFrame, h, hi, hd, if_true, Bool.not_true, Bool.false_eq_true, if_false]
  rfl

theorem State.ctlFrame_plain (h : ctlFramed op f = true) (hi : ctlIntact op f = true) (hsec : f.sec = false) :
    s.ctlFrame op f = s.ctlChecked op f (headOf op f) := by
  rw [s.ctlFrame_intact h hi, hsec]
  rfl

theorem State.ctlFrame_denied (h : ctlFramed op f = true) (hi : ctlIntact op f = true) (hsec : f.sec = true)
    (ht : s.tagRight op f = false) : s.ctlFrame op f = s.authFail.respond (headOf op f) 5 1023 [] := by
  rw [s.ctlFrame_intact h hi, hsec, ht]
  rfl

theorem State.ctlFrame_authentic (h : ctlFramed op f = true) (hi : ctlIntact op f = true) (hsec : f.sec = true)
    (ht : s.tagRight op f = true) : s.ctlFrame op f = s.authPass.ctlChecked op f (headOf op f) := by
  rw [s.ctlFrame_intact h hi, hsec, ht]
  rfl

/-- A WRITE that is not carried out is recorded as refused (R515). -/
def State.writeBarred (s : State) (op a reason : Nat) : State := if op = 1 then s.refuse .host a reason else s

theorem State.unanswered_writeBarred (a reason : Nat) : s.Unanswered (s.writeBarred op a reason) := by
  unfold State.writeBarred
  split <;> exact ⟨rfl, rfl, rfl, rfl⟩

theorem State.writeBarred_rest (a reason : Nat) : (s.writeBarred op a reason).regs = s.regs ∧
    (s.writeBarred op a reason).msg = s.msg ∧ (s.writeBarred op a reason).tb = s.tb := by
  unfold State.writeBarred
  split <;> exact ⟨rfl, rfl, rfl⟩

/-- A secure target needs authentication. -/
theorem State.ctlChecked_secure (hsec : f.sec = false) (ha : ∃ a ∈ ctlTargets op f, secureAddr a = true) (h : CtlHead) :
    ∃ a, s.ctlChecked op f h = (s.writeBarred op a 6).respond h 5 1023 [] := by
  obtain ⟨a, hfind⟩ := Option.isSome_iff_exists.mp (List.find?_isSome.mpr ha)
  refine ⟨a, ?_⟩
  rw [State.ctlChecked, hsec]
  simp only [Bool.false_eq_true, if_false, hfind]
  rfl

/-- Authentication passed or is not asked. -/
theorem State.ctlChecked_open (ha : f.sec = true ∨ ∀ a ∈ ctlTargets op f, secureAddr a = false) (h : CtlHead) :
    s.ctlChecked op f h = if f.len = 0 then s.respond h 0 1023 []
      else if !(op = 1 || op = 2 || op = 4) || (decide (op = 2) && decide (256 < f.len.toNat)) then s.respond h 4 1023 []
      else s.ctlOperate op f h := by
  have hnone : (if f.sec then none else (ctlTargets op f).find? secureAddr) = none := by
    obtain hsec | ha := ha
    · rw [if_pos hsec]
    · rw [List.find?_eq_none.mpr (fun a hm => by simp [ha a hm]), ite_self]
  rw [State.ctlChecked, hnone]

/-- An OP that is neither WRITE nor READ names no target. -/
theorem no_secureTarget (h1 : op ≠ 1) (h2 : op ≠ 2) : ∀ a ∈ ctlTargets op f, secureAddr a = false := by
  rw [ctlTargets, if_neg (not_or.mpr ⟨h1, h2⟩)]
  exact fun a ha => absurd ha List.not_mem_nil

theorem State.ctlChecked_empty (ha : f.sec = true ∨ ∀ a ∈ ctlTargets op f, secureAddr a = false) (hlen : f.len = 0)
    (h : CtlHead) : s.ctlChecked op f h = s.respond h 0 1023 [] := by
  rw [s.ctlChecked_open ha, if_pos hlen]

/-- An OP that is not listed, or a READ of too many registers. -/
theorem State.ctlChecked_unlisted (ha : ∀ a ∈ ctlTargets op f, secureAddr a = false) (hlen : f.len ≠ 0)
    (hop : (op ≠ 1 ∧ op ≠ 2 ∧ op ≠ 4) ∨ (op = 2 ∧ 256 < f.len.toNat)) (h : CtlHead) :
    s.ctlChecked op f h = s.respond h 4 1023 [] := by
  rw [s.ctlChecked_open (.inr ha), if_neg hlen, if_pos]
  obtain ⟨h1, h2, h4⟩ | ⟨rfl, hlong⟩ := hop
  · simp [h1, h2, h4]
  · simp [hlong]

/-- A listed OP with words that are not too many for it is carried out. -/
theorem State.ctlFrame_operates (h : ctlFramed op f = true) (hi : ctlIntact op f = true) (hsec : f.sec = false)
    (ha : ∀ a ∈ ctlTargets op f, secureAddr a = false) (hlen : f.len ≠ 0) (hop : op = 1 ∨ op = 2 ∨ op = 4)
    (hread : op = 2 → f.len.toNat ≤ 256) : s.ctlFrame op f = s.ctlOperate op f (headOf op f) := by
  rw [s.ctlFrame_plain h hi hsec, s.ctlChecked_open (.inr ha), if_neg hlen, if_neg]
  obtain rfl | rfl | rfl := hop
  · simp
  · simpa using hread rfl
  · simp

/-! ### Authentication (R472, R473) -/

theorem State.unanswered_authPass : s.Unanswered s.authPass := by
  unfold State.authPass
  split <;> exact ⟨rfl, rfl, rfl, rfl⟩

theorem State.authPass_rest : s.authPass.sup.secCnt = (if s.sup.secCnt + 1 = 2 ^ 32 then 0 else s.sup.secCnt + 1) ∧
    s.authPass.regs = s.regs ∧ s.authPass.msg = s.msg := by
  unfold State.authPass
  split
  · exact ⟨rfl, rfl, rfl⟩
  · exact ⟨rfl, rfl, rfl⟩

/-- A failed authentication is counted. -/
def State.failCounted (s : State) : State := { s with sup := { s.sup with secFail := satAdd (2 ^ 32 - 1) s.sup.secFail 1 } }

theorem State.authFail_eq : s.authFail = (s.failCounted.raise (chipSrc 29)).newChal := rfl

theorem State.unanswered_authFail : s.Unanswered s.authFail := by
  have hstream := s.failCounted.stream_raise (c := 4) (i := 0) (by unfold quietStream; decide) (chipSrc 29)
  have hlinks := (s.failCounted.apart_raise (chipSrc 29)).links
  rw [State.authFail_eq]
  generalize s.failCounted.raise (chipSrc 29) = z at *
  exact ⟨congrArg Stream.wait hstream, (congrArg Links.cfCnt hlinks :), (congrArg Links.cfStatus hlinks :),
    (congrArg Links.cfTag hlinks :)⟩

theorem State.authFail_rest : s.authFail.sup.secFail = min (2 ^ 32 - 1) (s.sup.secFail + 1) ∧ s.authFail.sup.secCnt = 0 ∧
    s.authFail.sup.chal = Config.random s.fresh ∧ s.authFail.evSet (chipSrc 29) = true ∧ s.authFail.regs = s.regs ∧
    s.authFail.msg = s.msg ∧ s.authFail.cfg = s.cfg := by
  have hset : (s.failCounted.raise (chipSrc 29)).evSet (chipSrc 29) = true := State.evSet_raise _ _ (by decide)
  have hrest := (s.failCounted.apart_raise (chipSrc 29)).1
  rw [State.authFail_eq]
  generalize s.failCounted.raise (chipSrc 29) = z at *
  exact ⟨(congrArg (fun x : State => x.sup.secFail) hrest :), rfl, congrArg Config.random (congrArg State.fresh hrest :),
    hset, (congrArg State.regs hrest :), (congrArg State.msg hrest :), (congrArg State.cfg hrest :)⟩

end

/-! ### The operation (R322, R410) -/

section
variable (s : State) {f : CtlFrame} (h : CtlHead)

theorem ctlWords_plain (hsec : f.sec = false) : ctlWords f = f.data := by
  rw [ctlWords, hsec]
  rfl

theorem State.ctlOperate_misaligned {op : Nat} (hop : op ≠ 4) (ha : f.addr.toNat % 4 ≠ 0) : s.ctlOperate op f h =
    (s.writeBarred op f.addr.toNat 2).respond h 3 0 [] := by
  simp only [State.ctlOperate]
  rw [if_neg hop, if_pos ha]
  rfl

theorem State.ctlOperate_write (ha : f.addr.toNat % 4 = 0) (hsec : f.sec = false) : s.ctlOperate 1 f h =
    ((s.advance 1).ctlWrite f.addr.toNat 0 f.data).2.respond h
      (if ((s.advance 1).ctlWrite f.addr.toNat 0 f.data).1 = 1023 then 0 else 3)
      ((s.advance 1).ctlWrite f.addr.toNat 0 f.data).1 [] := by
  simp only [State.ctlOperate, ctlWords_plain hsec]
  rw [if_neg (by decide), if_neg (not_not.mpr ha), if_pos trivial]

theorem State.ctlOperate_image (hsec : f.sec = false) : s.ctlOperate 4 f h =
    (s.imageWords f.addr.toNat f.data).2.respond h (if (s.imageWords f.addr.toNat f.data).1 = 0 then 0 else 6) 1023 [] := by
  simp only [State.ctlOperate, ctlWords_plain hsec]
  rw [if_pos trivial]

variable {s}

/-- Without an uncorrectable word a read has no effect. -/
theorem State.busRead_clean (hecc : s.dep.ecc2 = []) (a : Nat) : (s.busRead a).2 = s := by
  have hgood : ∀ o, s.bad2 .message (o / 8) 1 = false := fun o => by rw [State.bad2, hecc]; rfl
  simp only [State.busRead, State.msgRead, hgood]
  split
  · rfl
  · split <;> rfl

theorem State.ctlRead_clean (hecc : s.dep.ecc2 = []) (as : List Nat) :
    s.ctlRead as = (as.map (fun a => (s.busRead a).1), s) := by
  induction as with
  | nil => rfl
  | cons a as ih => simp only [State.ctlRead, s.busRead_clean hecc a, ih, List.map_cons]

theorem State.ctlOperate_read (ha : f.addr.toNat % 4 = 0) (hecc : s.dep.ecc2 = []) : s.ctlOperate 2 f h =
    s.respond h 0 1023 (pairWords ((ctlTargets 2 f).map (fun a => (s.busRead a).1))) := by
  simp only [State.ctlOperate, s.ctlRead_clean hecc]
  rw [if_neg (by decide), if_neg (not_not.mpr ha), if_neg (by decide)]

/-! ### IMAGE words (R410) -/

theorem length_ctlBytes (ws : List Reg32) : (ctlBytes ws).length = 4 * ws.length := by
  induction ws with
  | nil => rfl
  | cons w ws ih =>
    rw [ctlBytes, List.flatMap_cons, List.length_append, length_leBytes, ← ctlBytes, ih, List.length_cons]
    omega

/-- The words of a frame written to a memory are read back. -/
theorem readBytes_ctlBytes (m : Memory) (a : Nat) (ws : List Reg32) :
    readBytes (writeBytes m a (ctlBytes ws)) a (4 * ws.length) = ctlBytes ws := by
  rw [← length_ctlBytes, readBytes_writeBytes]

/-- Bytes of an IMAGE frame to the memory that CFG_CTRL.DEST names. -/
def State.imageDest (s : State) (off : Nat) (b : List Byte) : Nat × State :=
  match s.cfgDest with
  | 0 => s.imageSlot off b
  | 1 => s.imageStaged off b
  | _ => s.imageBoot off b

section
variable {off : Nat} {b : List Byte}

/-- The first bytes after a slot's close spoil it. -/
theorem State.imageSlot_written (hfit : off + b.length ≤ slotMax) (hroom : s.cfg.stagedTop + b.length ≤ 65536) :
    ∃ m, s.imageSlot off b = (0, { s with
      nv := writeBytes m (slotBase (s.cfg.slotTo.getD s.slotTarget) + 64 + off) b
      cfg := { s.cfg with slotTo := some (s.cfg.slotTo.getD s.slotTarget) } }) := by
  rw [State.imageSlot, if_neg (Nat.not_lt.mpr hfit), if_neg (Nat.not_lt.mpr hroom)]
  by_cases hnone : s.cfg.slotTo.isNone
  · simp only [hnone, if_true]
    exact ⟨_, rfl⟩
  · simp only [hnone]
    exact ⟨_, rfl⟩

theorem State.imageStaged_written (hh : s.luHeld = false) (hfit : off + b.length ≤ 65536) :
    ∃ m top, s.imageStaged off b = (0, { s with cfg := { s.cfg with
      luState := 1, staged := writeBytes m off b, stagedTop := max top (off + b.length) } }) := by
  rw [State.imageStaged, hh, if_neg Bool.false_ne_true, if_neg (Nat.not_lt.mpr hfit)]
  exact ⟨_, _, rfl⟩

theorem State.imageBoot_written (hr : s.cfg.noImage = true ∨ s.reloadReady = true) (hfit : off + b.length ≤ 2097152) :
    s.imageBoot off b = (0, { s with cfg := { s.cfg with
      boot := writeBytes s.cfg.boot off b, bootTop := max s.cfg.bootTop (off + b.length) } }) := by
  have hready : ¬ (!s.cfg.noImage && !s.reloadReady) = true := by
    obtain h | h := hr <;> simp [h]
  rw [State.imageBoot, if_neg hready, if_neg (Nat.not_lt.mpr hfit)]

theorem State.imageDest_slot (hd : s.cfgDest = 0) : s.imageDest off b = s.imageSlot off b := by simp only [State.imageDest, hd]

theorem State.imageDest_staged (hd : s.cfgDest = 1) : s.imageDest off b = s.imageStaged off b := by
  simp only [State.imageDest, hd]

theorem State.imageDest_boot (hd : 2 ≤ s.cfgDest) : s.imageDest off b = s.imageBoot off b := by
  obtain ⟨d, hd⟩ : ∃ d, s.cfgDest = d + 2 := ⟨_, (Nat.sub_add_cancel hd).symm⟩
  simp only [State.imageDest, hd]

end

section
variable {off : Nat} {ws : List Reg32} {t : State}

theorem State.imageWords_busy (hb : s.cfgBusy = true) : s.imageWords off ws = (14, s.cfgRefuse 14) := by
  rw [State.imageWords]
  simp only [hb, if_true]
  rfl

theorem State.imageWords_idle (hb : s.cfgBusy = false) : s.imageWords off ws =
    if (s.imageDest (4 * off) (ctlBytes ws)).1 = 0 then s.imageDest (4 * off) (ctlBytes ws)
    else ((s.imageDest (4 * off) (ctlBytes ws)).1, s.cfgRefuse (s.imageDest (4 * off) (ctlBytes ws)).1) := by
  simp only [State.imageWords, hb, Bool.false_eq_true, if_false]
  rfl

/-- DEST 1 while a latent update is prepared or armed. -/
theorem State.imageWords_held (hb : s.cfgBusy = false) (hd : s.cfgDest = 1) (hh : s.luHeld = true) :
    s.imageWords off ws = (14, s.cfgRefuse 14) := by
  rw [State.imageWords_idle hb, State.imageDest_staged hd, State.imageStaged, if_pos hh]
  rfl

theorem State.imageWords_written (hb : s.cfgBusy = false) (h : s.imageDest (4 * off) (ctlBytes ws) = (0, t)) :
    s.imageWords off ws = (0, t) := by
  rw [State.imageWords_idle hb, h, if_pos rfl]

end

end

theorem State.LinkApart.stores {s t : State} (h : s.LinkApart t) : t.cfg = s.cfg ∧ t.nv = s.nv ∧ t.regs = s.regs :=
  ⟨(congrArg State.cfg h :), (congrArg State.nv h :), (congrArg State.regs h :)⟩

/-- The answer of an IMAGE frame, by what its words came to. -/
theorem image_answers {s : State} {f : CtlFrame} (hup : s.up = true) (hl : s.lk.dn = .slot) (hsec : f.sec = false)
    (hlen : f.len ≠ 0) (hf : ctlFramed 4 f = true) (hi : ctlIntact 4 f = true) {r : Nat} {w : State}
    (hw : s.imageWords f.addr.toNat f.data = (r, w)) (hu : s.Unanswered w) {Q : State → Prop}
    (hq : ∀ t, t.cfg = w.cfg → t.nv = w.nv → t.regs = w.regs → Q t) :
    Answers (.image f) s (fun t => s.Responded t ⟨4, f.tag, f.len⟩ (if r = 0 then 0 else 6) 1023 [] ∧ Q t) := by
  have hexec := exec_image hup hl f
  rw [s.ctlFrame_operates hf hi hsec (no_secureTarget (by decide) (by decide)) hlen (by decide) (fun h => absurd h (by decide)),
    s.ctlOperate_image _ hsec, hw] at hexec
  refine State.respond_answers hu (fun t ht => ?_) hexec
  obtain ⟨hcfg, hnv, hregs⟩ := ht.stores
  exact hq t hcfg hnv hregs

end Sys2Proof.Machine
open Sys2Proof Sys2Proof.Machine

/-- Settles O51: the checks of a frame in the order of R324, then what WRITE, READ and IMAGE do; each way ends in one answer,
given in a state that had not answered. -/
theorem controlFrames : Obligations.ControlFrames := by
  refine ⟨controlSlots_frame, ⟨fun s op f h hop hh hup hl => ?checks, fun s op f h1 h2 h4 hup hl hf hi hsec => ?unknown,
    fun s h hup => ?timeout⟩, fun s f hup hl hsec hlen => ⟨fun hf hi ha hal => ?write, fun hf hi ha hal hfit hecc => ?read,
      fun hf hi => ?image⟩⟩
  case checks =>
    subst hh
    have hexec := exec_ctlRow hup hl f hop
    refine ⟨fun hf => ?unframed, fun hf hi => ?damaged, fun hf hi hsec ht => ?denied, fun hf hi hsec ht hlen => ?authentic,
      fun hf hi hsec ha => ?secure, fun hf hi hsec ha => ⟨fun hlen => ?empty, fun h2 hlong => ?long,
        fun hrw hlen hfit hal => ?misaligned⟩⟩
    case unframed =>
      rw [s.ctlFrame_unframed hf] at hexec
      exact State.respond_answers s.unanswered_discardsCounted (fun t => s.linkApart_discardsCounted.trans) hexec
    case damaged =>
      rw [s.ctlFrame_damaged hf hi] at hexec
      exact State.respond_answers s.unanswered_discardsCounted (fun t => s.linkApart_discardsCounted.trans) hexec
    case denied =>
      rw [s.ctlFrame_denied hf hi hsec ht] at hexec
      refine State.respond_answers s.unanswered_authFail (fun t hlink => ?_) hexec
      obtain ⟨hfail, hcnt, hchal, hev, hregs, hmsg, hcfg⟩ := s.authFail_rest
      generalize s.authFail = w at *
      obtain ⟨-, -, htiles, tregs, tmsg⟩ := hlink.rest
      obtain ⟨tcfg, -, -⟩ := hlink.stores
      have hsup : t.sup = w.sup := (congrArg State.sup hlink :)
      have htev : t.ev = w.ev := (congrArg State.ev hlink :)
      exact ⟨by rw [hsup, hfail], by rw [hsup, hcnt], by rw [hsup, hchal],
        (State.evSet_congr htiles (congrArg _ htev) _).trans hev, tregs.trans hregs, tmsg.trans hmsg, tcfg.trans hcfg⟩
    case authentic =>
      rw [s.ctlFrame_authentic hf hi hsec ht, State.ctlChecked_empty _ (.inl hsec) hlen] at hexec
      refine State.respond_answers s.unanswered_authPass (fun t hlink => ?_) hexec
      obtain ⟨hcnt, hregs, hmsg⟩ := s.authPass_rest
      obtain ⟨-, -, -, tregs, tmsg⟩ := hlink.rest
      exact ⟨(congrArg (fun x : State => x.sup.secCnt) hlink).trans hcnt, tregs.trans hregs, tmsg.trans hmsg⟩
    case secure =>
      obtain ⟨a, hchecked⟩ := s.ctlChecked_secure hsec ha (headOf op f)
      rw [s.ctlFrame_plain hf hi hsec, hchecked] at hexec
      refine State.respond_answers (s.unanswered_writeBarred a 6) (fun t hlink => ?_) hexec
      obtain ⟨hregs, hmsg, htb⟩ := s.writeBarred_rest (op := op) a 6
      obtain ⟨-, ttb, -, tregs, tmsg⟩ := hlink.rest
      exact ⟨tregs.trans hregs, tmsg.trans hmsg, ttb.trans htb⟩
    case empty =>
      rw [s.ctlFrame_plain hf hi hsec, s.ctlChecked_empty (.inr ha) hlen] at hexec
      exact State.respond_answers s.unanswered_refl (fun t ht => ht) hexec
    case long =>
      have hlen : f.len ≠ 0 := by
        rintro h0
        rw [h0] at hlong
        exact absurd hlong (by decide)
      rw [s.ctlFrame_plain hf hi hsec, s.ctlChecked_unlisted ha hlen (.inr ⟨h2, hlong⟩)] at hexec
      exact State.respond_answers s.unanswered_refl (fun t ht => ht) hexec
    case misaligned =>
      have h4 : op ≠ 4 := by omega
      rw [s.ctlFrame_operates hf hi hsec ha hlen (hrw.imp_right .inl) (fun _ => hfit), s.ctlOperate_misaligned _ h4 hal] at hexec
      refine State.respond_answers (s.unanswered_writeBarred _ 2) (fun t hlink => ?_) hexec
      obtain ⟨hregs, hmsg, -⟩ := s.writeBarred_rest (op := op) f.addr.toNat 2
      obtain ⟨-, -, -, tregs, tmsg⟩ := hlink.rest
      exact ⟨tregs.trans hregs, tmsg.trans hmsg⟩
  case unknown =>
    have hexec := exec_unknownOp hup hl f h1 h2 h4
    have hno : op.toNat ≠ 1 ∧ op.toNat ≠ 2 ∧ op.toNat ≠ 4 :=
      ⟨fun h => h1 (BitVec.eq_of_toNat_eq h), fun h => h2 (BitVec.eq_of_toNat_eq h), fun h => h4 (BitVec.eq_of_toNat_eq h)⟩
    have hnone := no_secureTarget (f := f) hno.1 hno.2.1
    rw [s.ctlFrame_plain hf hi hsec, headOf_toNat] at hexec
    by_cases hlen : f.len = 0
    · rw [s.ctlChecked_empty (.inr hnone) hlen] at hexec
      rw [if_pos hlen]
      exact State.respond_answers s.unanswered_refl (fun t ht => ht) hexec
    · rw [s.ctlChecked_unlisted hnone hlen (.inl hno)] at hexec
      rw [if_neg hlen]
      exact State.respond_answers s.unanswered_refl (fun t ht => ht) hexec
  case timeout =>
    exact State.respond_answers s.unanswered_refl (fun t ht => ht)
      (onChip_up s (fun s => s.respond h 2 1023 []) hup)
  case write =>
    have hexec := exec_write hup hl f
    rw [s.ctlFrame_operates hf hi hsec ha hlen (by decide) (fun h => absurd h (by decide)),
      s.ctlOperate_write _ hal hsec] at hexec
    exact ⟨_, hexec, State.responded_respond .., State.linkApart_respond ..⟩
  case read =>
    have hexec := exec_read hup hl f
    rw [s.ctlFrame_operates hf hi hsec ha hlen (by decide) (fun _ => hfit), s.ctlOperate_read _ hal hecc] at hexec
    exact State.respond_answers s.unanswered_refl (fun t ht => ht) hexec
  case image =>
    refine ⟨fun hb => ?busy, fun hb hd hh => ?held, fun hb hd hh hfit => ?staged, fun hb hd hfit hroom => ?slot,
      fun hb hd hr hfit => ?boot⟩
    case busy =>
      refine image_answers hup hl hsec hlen hf hi (State.imageWords_busy hb) ⟨rfl, rfl, rfl, rfl⟩
        (fun t hcfg hnv _ => ?_)
      rw [hcfg, hnv]
      exact ⟨rfl, rfl, rfl, rfl⟩
    case held =>
      refine image_answers hup hl hsec hlen hf hi (State.imageWords_held hb hd hh) ⟨rfl, rfl, rfl, rfl⟩
        (fun t hcfg hnv _ => ?_)
      rw [hcfg, hnv]
      exact ⟨rfl, rfl, rfl⟩
    case staged =>
      rw [← length_ctlBytes] at hfit
      obtain ⟨m, top, hw⟩ := State.imageStaged_written hh hfit
      rw [← State.imageDest_staged hd] at hw
      refine image_answers hup hl hsec hlen hf hi (State.imageWords_written hb hw) ⟨rfl, rfl, rfl, rfl⟩
        (fun t hcfg hnv hregs => ?_)
      rw [hcfg, hnv, hregs]
      exact ⟨rfl, readBytes_ctlBytes .., by rw [← length_ctlBytes]; exact Nat.le_max_right .., rfl, rfl, rfl⟩
    case slot =>
      rw [← length_ctlBytes] at hfit hroom
      obtain ⟨m, hw⟩ := State.imageSlot_written hfit hroom
      rw [← State.imageDest_slot hd] at hw
      refine image_answers hup hl hsec hlen hf hi (State.imageWords_written hb hw) ⟨rfl, rfl, rfl, rfl⟩
        (fun t hcfg hnv hregs => ?_)
      rw [hcfg, hnv, hregs]
      exact ⟨rfl, readBytes_ctlBytes .., rfl, rfl⟩
    case boot =>
      rw [← length_ctlBytes] at hfit
      have hw := State.imageBoot_written hr hfit
      rw [← State.imageDest_boot hd] at hw
      refine image_answers hup hl hsec hlen hf hi (State.imageWords_written hb hw) ⟨rfl, rfl, rfl, rfl⟩
        (fun t hcfg hnv hregs => ?_)
      rw [hcfg, hnv, hregs]
      exact ⟨readBytes_ctlBytes .., rfl, rfl⟩
end
